-- ==== Sys2Proof/Word.lean ====
section
/-! DEFINITION. The word types of the device: bits as the manual counts them (R12: bit 0 is the least
significant bit of every field, register, word and record). -/
namespace Sys2Proof

abbrev Byte := BitVec 8
abbrev W16 := BitVec 16
abbrev W32 := BitVec 32
abbrev W64 := BitVec 64

/-- Partition number, Table 1-5: bit 4 is the die. -/
abbrev PartId := BitVec 5
/-- Cluster number, Table 1-5: [6] die, [5:2] partition within die, [1:0] cluster within partition. -/
abbrev ClusterId := BitVec 7
/-- Physical core, Table 1-5: [10] die, [9:6] partition within die, [5:4] cluster, [3:0] core. -/
abbrev CoreId := BitVec 11
/-- Logical core, Table 1-5. -/
abbrev LogicalId := BitVec 11
/-- Queue number, Table 1-5: [12] die, [11:6] cluster within die, [5:0] queue within cluster. -/
abbrev QueueId := BitVec 13
/-- Network number 0 to 31 (Table 8-7). -/
abbrev NetId := BitVec 5
/-- Stage number 0 to 2,047 (R59). -/
abbrev StageId := BitVec 11
/-- Segment identifier, Table 7-3. -/
abbrev SegId := BitVec 24
/-- Device address (11, Device addresses: 40 bits). -/
abbrev DevAddr := BitVec 40
/-- Packet endpoint, Table 7-7. -/
abbrev Endpoint := BitVec 12

/-- The partition that holds a physical core (Table 1-5). -/
def partOfCore (c : CoreId) : PartId := c.extractLsb' 6 5
/-- The cluster that holds a physical core (Table 1-5). -/
def clusterOfCore (c : CoreId) : ClusterId := c.extractLsb' 4 7
/-- The partition that holds a cluster (Table 1-5). -/
def partOfCluster (c : ClusterId) : PartId := c.extractLsb' 2 5
/-- The cluster that owns a queue (Table 1-5: the die bit and the cluster field are adjacent). -/
def clusterOfQueue (q : QueueId) : ClusterId := q.extractLsb' 6 7
/-- The partition whose cluster owns a queue. -/
def partOfQueue (q : QueueId) : PartId := partOfCluster (clusterOfQueue q)
/-- The die of a partition: bit 4 of its number. -/
def dieOfPart (p : PartId) : Nat := if p.getLsbD 4 then 1 else 0
/-- The die of a physical core: bit 10. -/
def dieOfCore (c : CoreId) : Nat := dieOfPart (partOfCore c)
/-- The core's place within its cluster. -/
def slotOfCore (c : CoreId) : Nat := c.toNat % 16

end Sys2Proof
end

