-- ==== Sys2Proof/Machine/Float.lean ====
section
/-! DEFINITION. The number formats of chapter 05 and the X19 multiplier format of chapter 03: exact dyadic
values, the roundings (nearest even into X19 and FP32, toward zero in every narrowing), and the FP32
arithmetic of the MAC array and the finishing unit. -/
namespace Sys2Proof

/-- The eight formats of Table 5-1, in the order of the IFMT codes of Table 4-2. -/
inductive Fmt where
  | a4 | a8 | e4m3 | e5m2 | bf16 | fp16 | fp32 | u16
  deriving DecidableEq, Repr

/-- IFMT of Table 4-2. -/
def fmtOfCode (n : Nat) : Fmt :=
  match n with
  | 0 => .a4 | 1 => .a8 | 2 => .e4m3 | 3 => .e5m2 | 4 => .bf16 | 5 => .fp16 | 6 => .fp32 | _ => .u16

/-- Bits of one value (Table 5-1). -/
def fmtBits (f : Fmt) : Nat :=
  match f with
  | .a4 => 4
  | .a8 | .e4m3 | .e5m2 => 8
  | .bf16 | .fp16 | .u16 => 16
  | .fp32 => 32

/-- Largest code Q of an integer format (R168). -/
def fmtQ (f : Fmt) : Nat := match f with | .a4 => 15 | _ => 255

/-- A4 and A8 rows carry a row header (R142). -/
def fmtHasHeader (f : Fmt) : Bool := match f with | .a4 | .a8 => true | _ => false

/-- An exact value: (−1)^neg × m × 2^e. -/
structure Dy where
  neg : Bool
  m : Nat
  e : Int
  deriving DecidableEq, Repr

/-- A value of a float format: a NaN, an infinity of a sign, or an exact finite value (zeros keep their sign). -/
inductive Num where
  | nan
  | inf (neg : Bool)
  | fin (d : Dy)
  deriving DecidableEq, Repr

/-- Number of significant bits of a natural number. -/
def bitLen (m : Nat) : Nat := if m = 0 then 0 else Nat.log2 m + 1

/-- Shift left by a possibly negative amount, dropping the bits shifted out. -/
def shiftInt (m : Nat) (k : Int) : Nat := if 0 ≤ k then m * 2 ^ k.toNat else m / 2 ^ (-k).toNat

/-- Keep `p` significant bits of `m`, to nearest even: the rounded significand and its exponent shift. -/
def roundEven (p m : Nat) : Nat × Nat :=
  let n := bitLen m
  if n ≤ p then (m * 2 ^ (p - n), 0)
  else
    let k := n - p
    let q := m / 2 ^ k
    let r := m % 2 ^ k
    let h := 2 ^ (k - 1)
    if r > h || (r == h && q % 2 == 1) then (q + 1, k) else (q, k)

/-- Round m × 2^e to nearest even in a binary format with `fb` fraction bits and an 8-bit exponent of bias
127, flushing a result below 2^−126 to zero (R111, R117): sign, exponent field and fraction packed. -/
def packEven (fb : Nat) (neg : Bool) (m : Nat) (e : Int) : Nat :=
  let sgn := if neg then 2 ^ (fb + 8) else 0
  if m = 0 then sgn
  else
    let n := bitLen m
    let q := (roundEven (fb + 1) m).1
    let carry := q = 2 ^ (fb + 1)
    let q' := if carry then q / 2 else q
    let ex : Int := e + (n : Int) - 1 + (if carry then 1 else 0)
    if ex > 127 then sgn + 255 * 2 ^ fb
    else if ex < -126 then sgn
    else sgn + (ex + 127).toNat * 2 ^ fb + (q' - 2 ^ fb)

/-- The canonical quiet NaN of FP32 (Table 5-2). -/
def nan32 : W32 := 0x7FC00000#32

/-- FP32 of a value, to nearest even, results below 2^−126 flushed (R117, R121). -/
def to32 (v : Num) : W32 :=
  match v with
  | .nan => nan32
  | .inf neg => if neg then 0xFF800000#32 else 0x7F800000#32
  | .fin d => BitVec.ofNat 32 (packEven 23 d.neg d.m d.e)

/-- Read a binary float code: exponent width `eb`, fraction width `fb`, bias 2^(eb−1)−1; `special` says
whether the all-ones exponent holds infinity and NaN (IEEE formats; E4M3 keeps only S.1111.111 as NaN). -/
def readFloat (eb fb : Nat) (special : Bool) (c : Nat) : Num :=
  let neg := c / 2 ^ (eb + fb) % 2 == 1
  let ex := c / 2 ^ fb % 2 ^ eb
  let f := c % 2 ^ fb
  let bias : Int := 2 ^ (eb - 1) - 1
  if special && ex == 2 ^ eb - 1 then (if f == 0 then .inf neg else .nan)
  else if !special && ex == 2 ^ eb - 1 && f == 2 ^ fb - 1 then .nan
  else if ex == 0 then .fin ⟨neg, f, 1 - bias - fb⟩
  else .fin ⟨neg, 2 ^ fb + f, (ex : Int) - bias - fb⟩

/-- The value of an FP32 code. -/
def of32 (w : W32) : Num := readFloat 8 23 true w.toNat

/-- The value of a code of a float format (R165). U16 is its unsigned value; integer codes are read by
their scale and zero point elsewhere. -/
def ofCode (f : Fmt) (c : Nat) : Num :=
  match f with
  | .e4m3 => readFloat 4 3 false c
  | .e5m2 => readFloat 5 2 true c
  | .bf16 => readFloat 8 7 true c
  | .fp16 => readFloat 5 10 true c
  | .fp32 => readFloat 8 23 true c
  | .u16 | .a4 | .a8 => .fin ⟨false, c, 0⟩

/-- A magnitude below 2^−126, subnormal in FP32 and BF16. -/
def Dy.tiny (d : Dy) : Bool := d.m == 0 || decide (d.e + (bitLen d.m : Int) - 1 < -126)

/-- FP32 and BF16 values below 2^−126 are read as zeros of their sign (R112, Table 5-4). -/
def flush (v : Num) : Num :=
  match v with
  | .fin d => if d.tiny then .fin ⟨d.neg, 0, 0⟩ else .fin d
  | w => w

/-- The signed integer times a power of two. -/
def dyInt (i : Int) (e : Int) : Dy := ⟨decide (i < 0), i.natAbs, e⟩

/-- The signed significand of a value at exponent `e`, which is at most its own. -/
def Dy.at (d : Dy) (e : Int) : Int :=
  let v : Int := (d.m * 2 ^ (d.e - e).toNat : Nat)
  if d.neg then -v else v

/-- Exact product. -/
def dyMul (a b : Dy) : Dy := ⟨a.neg != b.neg, a.m * b.m, a.e + b.e⟩

/-- Exact sum; an exact zero sum is +0 unless both terms are −0. -/
def dyAdd (a b : Dy) : Dy :=
  let e := min a.e b.e
  let s := a.at e + b.at e
  if s = 0 then ⟨a.neg && b.neg, 0, 0⟩ else dyInt s e

/-- Exact comparison a < b. -/
def dyLt (a b : Dy) : Bool :=
  let e := min a.e b.e
  decide (a.at e < b.at e)

/-- Exact comparison of values as reals (zeros of both signs are equal, R175). -/
def dyLe (a b : Dy) : Bool := !dyLt b a

/-- The negative of a value. -/
def Dy.negate (d : Dy) : Dy := { d with neg := !d.neg }

/-- Exact product in the extended reals: infinity times zero is NaN (R116). -/
def numMul (a b : Num) : Num :=
  match a, b with
  | .nan, _ => .nan
  | _, .nan => .nan
  | .inf s, .inf t => .inf (s != t)
  | .inf s, .fin d => if d.m = 0 then .nan else .inf (s != d.neg)
  | .fin d, .inf s => if d.m = 0 then .nan else .inf (s != d.neg)
  | .fin d, .fin g => .fin (dyMul d g)

/-- Exact sum in the extended reals: opposite infinities give NaN (R117). -/
def numAdd (a b : Num) : Num :=
  match a, b with
  | .nan, _ => .nan
  | _, .nan => .nan
  | .inf s, .inf t => if s = t then .inf s else .nan
  | .inf s, .fin _ => .inf s
  | .fin _, .inf s => .inf s
  | .fin d, .fin g => .fin (dyAdd d g)

/-- FP32 addition, to nearest even, flushing (R117). -/
def add32 (a b : W32) : W32 := to32 (numAdd (of32 a) (of32 b))
/-- FP32 multiplication, to nearest even, flushing. -/
def mul32 (a b : W32) : W32 := to32 (numMul (of32 a) (of32 b))
/-- a × b + c, rounded once (R123). -/
def fma32 (a b c : W32) : W32 := to32 (numAdd (numMul (of32 a) (of32 b)) (of32 c))
/-- The negative of an FP32 value. -/
def neg32 (a : W32) : W32 := a ^^^ 0x80000000#32
/-- FP32 subtraction. -/
def sub32 (a b : W32) : W32 := add32 a (neg32 b)

/-- FP32 quotient, to nearest even. Division by zero of a non-zero value is an infinity, 0/0 a NaN. -/
def div32 (a b : W32) : W32 :=
  match of32 a, of32 b with
  | .nan, _ => nan32
  | _, .nan => nan32
  | .inf _, .inf _ => nan32
  | .inf s, .fin d => to32 (.inf (s != d.neg))
  | .fin d, .inf s => to32 (.fin ⟨d.neg != s, 0, 0⟩)
  | .fin d, .fin g =>
    if g.m = 0 then (if d.m = 0 then nan32 else to32 (.inf (d.neg != g.neg)))
    else
      let q := d.m * 2 ^ 64 / g.m
      let st := if d.m * 2 ^ 64 % g.m = 0 then 0 else 1
      to32 (.fin ⟨d.neg != g.neg, 2 * q + st, d.e - g.e - 65⟩)

/-- Integer square root from the top bit down, `k` bits still to decide. -/
def isqrtGo : Nat → Nat → Nat → Nat
  | 0, _, r => r
  | k + 1, n, r => if (r + 2 ^ k) * (r + 2 ^ k) ≤ n then isqrtGo k n (r + 2 ^ k) else isqrtGo k n r

/-- FP32 square root, to nearest even; of a negative value a NaN, of −0 the same −0. -/
def sqrt32 (a : W32) : W32 :=
  match of32 a with
  | .nan => nan32
  | .inf s => if s then nan32 else to32 (.inf false)
  | .fin d =>
    if d.m = 0 then a
    else if d.neg then nan32
    else
      let odd := d.e % 2 = 1
      let m := (if odd then d.m * 2 else d.m) * 2 ^ 64
      let e := (if odd then d.e - 1 else d.e) - 64
      let r := isqrtGo 48 m 0
      let st := if r * r = m then 0 else 1
      to32 (.fin ⟨false, 2 * r + st, e / 2 - 1⟩)

/-- An FP32 code holds a NaN. -/
def isNan32 (a : W32) : Bool := match of32 a with | .nan => true | _ => false
/-- An FP32 code holds a finite value. -/
def isFin32 (a : W32) : Bool := match of32 a with | .fin _ => true | _ => false
/-- A positive normal FP32 value (R168). -/
def isPosNormal32 (a : W32) : Bool :=
  match of32 a with | .fin d => !d.neg && !d.tiny | _ => false
/-- Ordered less-than; false when either is a NaN. -/
def lt32 (a b : W32) : Bool :=
  match of32 a, of32 b with
  | .nan, _ => false
  | _, .nan => false
  | .inf s, .inf t => s && !t
  | .inf s, .fin _ => s
  | .fin _, .inf s => !s
  | .fin d, .fin g => dyLt d g

/-! ## X19 (Table 3-6) -/

/-- The multiplier input format: sign, 8-bit exponent of bias 127, 10-bit fraction, no subnormals. -/
abbrev X19 := BitVec 19

/-- Round a value to X19, nearest even (R111, R112). -/
def toX19 (v : Num) : X19 :=
  match v with
  | .nan => 0x3FE00#19
  | .inf neg => if neg then 0x7FC00#19 else 0x3FC00#19
  | .fin d => BitVec.ofNat 19 (packEven 10 d.neg d.m d.e)

/-- The value of an X19 code. -/
def ofX19 (x : X19) : Num := readFloat 8 10 true x.toNat

/-- The product of two X19 values in FP32 (R116): exact apart from its range. -/
def mulX19 (a b : X19) : W32 := to32 (numMul (ofX19 a) (ofX19 b))

/-- Add neighbours: one level of the adder tree. -/
def addPairs : List W32 → List W32
  | a :: b :: t => add32 a b :: addPairs t
  | l => l

/-- The fixed tree of 15 FP32 adders over 16 products (R117). -/
def addTree (l : List W32) : W32 := (addPairs (addPairs (addPairs (addPairs l)))).headD 0#32

/-! ## Integer codes and row scales (R168, R173, R174) -/

/-- c − z as an exact value. -/
def codeDiff (c z : Nat) : Int := (c : Int) - (z : Int)

/-- The fractional steps T[j] of R174, in FP32. -/
def stepT (j : Nat) : W32 :=
  match j with
  | 0 => 0x3f800000#32 | 1 => 0x3f85aac3#32 | 2 => 0x3f8b95c2#32 | 3 => 0x3f91c3d3#32
  | 4 => 0x3f9837f0#32 | 5 => 0x3f9ef532#32 | 6 => 0x3fa5fed7#32 | 7 => 0x3fad583f#32
  | 8 => 0x3fb504f3#32 | 9 => 0x3fbd08a4#32 | 10 => 0x3fc5672a#32 | 11 => 0x3fce248c#32
  | 12 => 0x3fd744fd#32 | 13 => 0x3fe0ccdf#32 | 14 => 0x3feac0c7#32 | _ => 0x3ff5257d#32

/-- The exact row scale of SCODE k, for any integer k (R174, R177): RNE32(S2 × T[j]) × 2^e. -/
def rowScale (s2 : W32) (k : Int) : Dy :=
  let j := ((k - 128) % 16).toNat
  let e := (k - 128) / 16
  match of32 (mul32 s2 (stepT j)) with
  | .fin d => { d with e := d.e + e }
  | _ => ⟨false, 0, 0⟩

/-- A4 or A8 activation to X19 (R112): (c − z) times the row scale rounded to X19, rounded once. -/
def expandInt (scale : X19) (z c : Nat) : X19 :=
  toX19 (numMul (ofX19 scale) (.fin (dyInt (codeDiff c z) 0)))

/-- U16 pixel to X19: p − z rounded (R112). -/
def expandU16 (z p : Nat) : X19 := toX19 (.fin (dyInt (codeDiff p z) 0))

/-- Float code to X19 (R112): infinities and NaN keep their kind, FP32 and BF16 subnormals become zeros. -/
def expandFloat (f : Fmt) (c : Nat) : X19 := toX19 (flush (ofCode f c))

/-- A weight code to X19 (R114): (c − z) × s for A4 and A8, else the value, rounded. -/
def expandWeight (f : Fmt) (s : W32) (z c : Nat) : X19 :=
  match f with
  | .a4 | .a8 => toX19 (numMul (of32 s) (.fin (dyInt (codeDiff c z) 0)))
  | g => expandFloat g c

/-! ## Narrowing (R169 to R172) -/

/-- What a narrowing counted: a saturation, a NaN, or nothing (Table 5-4). -/
inductive Count where | none | sat | nan
  deriving DecidableEq, Repr

/-- Truncate a finite magnitude to a float format with `eb` exponent and `fb` fraction bits, subnormals included. -/
def truncFloat (eb fb : Nat) (d : Dy) : Nat :=
  let bias : Int := 2 ^ (eb - 1) - 1
  let emin := 1 - bias
  if d.m = 0 then 0
  else
    let ex := d.e + (bitLen d.m : Int) - 1
    if ex < emin then shiftInt d.m (d.e - (emin - fb))
    else (ex - emin + 1).toNat * 2 ^ fb + (shiftInt d.m (d.e - (ex - fb)) - 2 ^ fb)

/-- The magnitude code of the largest finite value of a narrow float format. -/
def fmtMax (f : Fmt) : Nat :=
  match f with
  | .e4m3 => 0x7E | .e5m2 => 0x7B | .bf16 => 0x7F7F | .fp16 => 0x7BFF | _ => 0x7F7FFFFF

/-- The exponent of two at and above which a finite magnitude saturates; E4M3's bound is 480 = 15 × 2^5. -/
def atBound (f : Fmt) (d : Dy) : Bool :=
  match f with
  | .e4m3 => dyLe ⟨false, 15, 5⟩ ⟨false, d.m, d.e⟩
  | .e5m2 | .fp16 => dyLe ⟨false, 1, 16⟩ ⟨false, d.m, d.e⟩
  | .bf16 => dyLe ⟨false, 1, 128⟩ ⟨false, d.m, d.e⟩
  | _ => false

/-- Exponent and fraction widths of a float format. -/
def fmtEF (f : Fmt) : Nat × Nat :=
  match f with
  | .e4m3 => (4, 3) | .e5m2 => (5, 2) | .bf16 => (8, 7) | .fp16 => (5, 10) | _ => (8, 23)

/-- Canonical NaN of a float format (Table 5-2). -/
def fmtNan (f : Fmt) : Nat :=
  match f with
  | .e4m3 => 0x7F | .e5m2 => 0x7E | .bf16 => 0x7FC0 | .fp16 => 0x7E00 | _ => 0x7FC00000

/-- Infinity of E5M2, BF16 and FP16. -/
def fmtInf (f : Fmt) : Nat :=
  match f with
  | .e5m2 => 0x7C | .bf16 => 0x7F80 | _ => 0x7C00

/-- Narrow an FP32 value to a float output format (R169, Table 5-4, R172). -/
def narrowFloat (f : Fmt) (infsel : Bool) (w : W32) : Nat × Count :=
  let sgn (neg : Bool) (c : Nat) : Nat := if neg then c + 2 ^ (fmtBits f - 1) else c
  let infOn := infsel && (f == .e5m2 || f == .bf16 || f == .fp16)
  match f with
  | .fp32 =>
    match flush (of32 w) with
    | .nan => (0x7FC00000, .nan)
    | v => ((to32 v).toNat, .none)
  | _ =>
    match flush (of32 w) with
    | .nan => (fmtNan f, .nan)
    | .inf s => (sgn s (if infOn then fmtInf f else fmtMax f), .sat)
    | .fin d =>
      if atBound f d then (sgn d.neg (if infOn then fmtInf f else fmtMax f), .sat)
      else (sgn d.neg (truncFloat (fmtEF f).1 (fmtEF f).2 d), .none)

/-- trunc(v / s), exactly (R170). -/
def truncDiv (v s : Dy) : Int :=
  if s.m = 0 then 0
  else
    let k := v.e - s.e
    let q := if 0 ≤ k then v.m * 2 ^ k.toNat / s.m else v.m / (s.m * 2 ^ (-k).toNat)
    if v.neg != s.neg then -(q : Int) else q

/-- Integer code of a value with row scale `s` and zero point `z` (R170, R171). -/
def narrowInt (f : Fmt) (s : Dy) (z : Nat) (w : W32) : Nat × Count :=
  let q := fmtQ f
  match flush (of32 w) with
  | .nan => (z, .nan)
  | .inf neg => (if neg then 0 else q, .sat)
  | .fin d =>
    let c := (z : Int) + truncDiv d s
    if c > q then (q, .sat) else if c < 0 then (0, .sat) else (c.toNat, .none)

/-- The BF16 code of an FP32 value when BF16 holds it exactly. -/
def exactBf16 (w : W32) : Bool := w.extractLsb' 0 16 == 0#16

/-! ## Finding the row scale (R175 to R177) -/

/-- What pass 1 keeps of a quantisation row (R175). -/
structure RowRange where
  mn : W32 := 0x7F800000#32
  mx : W32 := 0xFF800000#32
  nfin : Nat := 0
  deriving DecidableEq, Repr

/-- Pass 1 over one value (R175). -/
def RowRange.add (r : RowRange) (w : W32) : RowRange :=
  if isFin32 w then
    { mn := if lt32 w r.mn then w else r.mn, mx := if lt32 r.mx w then w else r.mx, nfin := r.nfin + 1 }
  else r

/-- The finite value of an FP32 code, zero where it is not finite. -/
def finOr0 (w : W32) : Dy := match of32 w with | .fin d => d | _ => ⟨false, 0, 0⟩

/-- Binary search for the smallest k in (lo, lo + 2^n] for which the scaled Q reaches the range. -/
def searchK (s2 : W32) (q : Nat) (range : Dy) : Nat → Int → Int
  | 0, lo => lo + 1
  | n + 1, lo =>
    let mid := lo + 2 ^ n
    if dyLe range (dyMul (rowScale s2 mid) ⟨false, q, 0⟩) then searchK s2 q range n lo
    else searchK s2 q range n mid

/-- The scale choice of a row: the constant of a constant row, or KNEED, SCODE and ZP (R176, R177). -/
inductive RowScale where
  | const (bf16 : BitVec 16)
  | scaled (kneed : Int) (scode : Nat) (zp : Nat)
  deriving DecidableEq, Repr

/-- floor(−lo / s) for lo ≤ 0. -/
def floorNegDiv (lo s : Dy) : Nat := (truncDiv lo.negate s).toNat

/-- The row scale rule of R176 and R177. Assumption 144 (DESIGN CHOICE): unsafe. -/
def chooseScale (f : Fmt) (s2 : W32) (r : RowRange) : RowScale :=
  if r.nfin = 0 then .const 0#16
  else
    let a := finOr0 r.mn
    let b := finOr0 r.mx
    if dyLe b a && exactBf16 r.mn then
      .const (if a.m = 0 then 0#16 else r.mn.extractLsb' 16 16)
    else
      let zero : Dy := ⟨false, 0, 0⟩
      let lo := if dyLt a zero then a else zero
      let hi := if dyLt zero b then b else zero
      let range := dyAdd hi lo.negate
      let q := fmtQ f
      let beyond := match of32 (to32 (.fin range)) with | .inf _ => true | _ => false
      let kneed : Int := if beyond then 32767 else searchK s2 q range 14 (-8192)
      if kneed ≤ 1 then .scaled kneed 1 (floorNegDiv lo (rowScale s2 1))
      else if kneed ≤ 255 then .scaled kneed kneed.toNat (floorNegDiv lo (rowScale s2 kneed))
      else
        .scaled kneed 255 (truncDiv (dyMul lo.negate ⟨false, q, 0⟩) range).toNat

/-- The 32-bit row header of Table 5-5. -/
def rowHeader (r : RowScale) : W32 :=
  match r with
  | .const c => 0#16 ++ c
  | .scaled _ k z => BitVec.ofNat 8 k ++ BitVec.ofNat 8 z ++ 0#16

/-- The payload of a row-header word (Table 5-5). -/
def rowHeaderWord (s2 : W32) (r : RowScale) : W64 := s2 ++ rowHeader r

/-- Smallest SCODE for a gradient row: s_k × 57,344 at least the largest magnitude, 255 when none (R372). -/
def gradScode (s2 : W32) (mag : Dy) : Nat → Nat → Nat
  | 0, _ => 255
  | n + 1, k => if dyLe mag (dyMul (rowScale s2 k) ⟨false, 57344, 0⟩) then k else gradScode s2 mag n (k + 1)

/-- Multiply an FP32 value by 2^d, clamped to 2^−64 to 2^+64 (R184). -/
def scaleClamp (s : W32) (d : Int) : W32 :=
  match of32 s with
  | .fin v =>
    let w : Dy := { v with e := v.e + d }
    if dyLt w ⟨false, 1, -64⟩ then to32 (.fin ⟨false, 1, -64⟩)
    else if dyLt ⟨false, 1, 64⟩ w then to32 (.fin ⟨false, 1, 64⟩)
    else to32 (.fin w)
  | _ => s

end Sys2Proof
end

