-- ==== Sys2Proof/Syntax.lean ====
section
/-! DEFINITION. The commands of the block: one constructor of `Instr` for every row of spec/opcode_table.json,
with the operands the spec's rules need, and the data those operands carry (queue words, casting images, packets,
network traffic). Quantities that the device measures or that the world decides (an upset found, a voltage
sample, a test result, a received packet) are operands. -/
namespace Sys2Proof

/-! ## Queue words (Table 6-2, Table 6-3) -/

/-- KIND of a queue word. -/
inductive Kind where
  | data | header | marker | void
  deriving DecidableEq, Repr

/-- A queue word as stored; V is 1 in storage (Table 6-2). -/
structure QWord where
  payload : W64 := 0#64
  kind : Kind := .data
  eor : Bool := false
  eof : Bool := false
  epoch : BitVec 3 := 0#3
  deriving DecidableEq, Repr

/-! ## Findings of the world -/

/-- What SECDED or the scrubber finds in a word it reads (Table 1-4). -/
inductive Finding where
  | clean | single | double
  deriving DecidableEq, Repr

/-- A local-store word that is found wrong by one bit or by two. -/
structure Upset where
  addr : BitVec 13
  double : Bool
  deriving DecidableEq, Repr

/-! ## Casting images. The spec gives most sections of a casting set no byte layout, so their content is
structured data with the fields the rules name. -/

/-- Packet mode of a queue (Table 6-1). -/
inductive PMode where
  | plain | lengthPrefix | commit
  deriving DecidableEq, Repr

/-- A receiver of a queue as the casting image fixes it (Table 6-1). `part` none: outside the partitions (R242). -/
structure RcvImg where
  detach : Bool := false
  laglim : Nat := 0
  windowed : Bool := false
  part : Option PartId := none
  deriving DecidableEq, Repr

/-- Slots of an output edge of a stage of several cores (R159). -/
structure SlotImg where
  /-- stored rows per frame -/
  rows : Nat
  /-- words of one slot: a row, or one channel group of a row -/
  words : Nat
  /-- positions of the rotation -/
  ncore : Nat
  /-- output rows per block -/
  rb : Nat
  /-- members interleaved on the edge -/
  members : Nat
  /-- the cores hold channel groups -/
  grouped : Bool
  /-- frame index at which this rotation starts: 0, or that of a switch frame (R521) -/
  base : Nat := 0
  deriving DecidableEq, Repr

/-- Queue configuration (Table 6-1). -/
structure QueueImg where
  q : QueueId
  floor : Nat := 0
  cap : Nat := 0
  pmode : PMode := .plain
  pktmax : Nat := 0
  nprod : Nat := 1
  rcvs : List RcvImg := []
  /-- bursts of the spill ring, 0 when the queue is not elastic -/
  elastic : Nat := 0
  spillBase : DevAddr := 0#40
  slot : Option SlotImg := none
  deriving DecidableEq, Repr

/-- The kinds of stage of Table 2-1. -/
inductive StageKind where
  | admission | compute | streamed | comparison | companion | output
  deriving DecidableEq, Repr

/-- An input port bound to a receiver of a queue. -/
structure PortIn where
  q : QueueId
  rcv : BitVec 10
  deriving DecidableEq, Repr

/-- An output port bound to a producer end of a queue. -/
structure PortOut where
  q : QueueId
  port : BitVec 10
  deriving DecidableEq, Repr

/-- One entry of the block-entry table of R515. -/
structure BlockEntry where
  addr : BitVec 11
  /-- active levels with their counters, outermost first -/
  levels : List (BitVec 3 × Nat)
  deriving DecidableEq, Repr

/-- The configuration a core's image carries (R310): stage program from 0x100, address-generator
descriptors (16 of four words each for AG0 to AG3), finishing descriptors, activation table. -/
structure Prog where
  words : List W64 := []
  ag0 : List (List W64) := []
  ag1 : List (List W64) := []
  ag2 : List (List W64) := []
  ag3 : List (List W64) := []
  fin : List W64 := []
  act : List W64 := []
  /-- ROWMAX of R108 -/
  rowmax : Nat := 0
  blocks : List BlockEntry := []
  deriving DecidableEq, Repr

/-- A core of a stage as the core assignment table names it (section kind 0x03). -/
structure CoreImg where
  logical : LogicalId
  cluster : ClusterId
  cidx : Nat := 0
  ins : List (Option PortIn) := []
  outs : List (Option PortOut) := []
  finq : Option QueueId := none
  groups : List (BitVec 12) := []
  deriving DecidableEq, Repr

/-- A stage of a casting image. -/
structure StageImg where
  num : StageId
  kind : StageKind := .compute
  cores : List CoreImg := []
  prog : Prog := {}
  degraded : Option Prog := none
  alt : Option Prog := none
  lstore : List W64 := []
  wfmt : Fmt := .a8
  /-- zero point of U16 input, from the stream context (R112) -/
  zp16 : Nat := 0
  shadow : DevAddr := 0#40
  streamed : Bool := false
  channelGroups : Bool := false
  outChannels : Nat := 0
  deriving DecidableEq, Repr

/-- An edge with its fixed rates at both ends (R60, R61). -/
structure EdgeImg where
  src : StageId
  dst : StageId
  q : QueueId
  prodRows : Nat
  prodWords : Nat
  consRows : Nat
  consWords : Nat
  deriving DecidableEq, Repr

/-- A tensor with its initial second-level scale (R180, R184, R187). -/
structure TensorImg where
  num : BitVec 12
  stage : StageId
  s2 : W32
  kt : BitVec 8 := 224#8
  driftTh : W32 := 0#32
  integer : Bool := true
  deriving DecidableEq, Repr

/-- A region descriptor of the partition configuration (Table 11-5). -/
structure RegionImg where
  base : BitVec 31
  lenM1 : BitVec 25
  rd : Bool
  wr : Bool
  dma : Bool
  deriving DecidableEq, Repr

/-- A record output (R62, R473, R566). -/
structure RecordImg where
  rout : BitVec 6
  stage : StageId
  q : QueueId
  rcv : BitVec 10
  ringBase : DevAddr
  ringBytes : Nat
  cap : Nat
  width : Nat
  rtype : Byte
  /-- candidate entries per frame and the bit of a produced one (R566) -/
  ncand : Nat := 0
  pbit : Nat := 0
  /-- the input carries rows, not candidate entries -/
  rows : Bool := false
  deriving DecidableEq, Repr

/-- An admission group (R70, R71, R435). -/
structure GroupImg where
  grp : BitVec 4
  members : Nat
  lscan : Bool
  width : Nat
  /-- lines per frame LPF, or the height -/
  lines : Nat
  pixfmt : BitVec 4
  zp : W16
  aquota : Nat
  ar : Nat
  /-- destination queue of each member -/
  dests : List QueueId
  /-- place and words of the group's maquette frames, in stored-row order (section 0x09) -/
  maqAddr : DevAddr := 0#40
  maqFrames : List (List W64) := []
  deriving DecidableEq, Repr

/-- A segment that a lane uses, with its one driver (R261). -/
structure SegImg where
  id : SegId
  drv : BitVec 2
  /-- the stage affected when the lane is forced (R265) -/
  stage : StageId
  /-- the queue whose lane crosses it -/
  q : QueueId
  /-- the receiver whose reads the lane carries; none for a lane that carries the words of an edge -/
  rcv : Option (BitVec 10) := none
  /-- the producer port whose words it carries; none when the edge's one lane carries them all -/
  port : Option (BitVec 10) := none
  /-- a pre-routed alternate lane of the stage from one cluster to another, enabled when it is used (R30, R512) -/
  alt : Option (ClusterId × ClusterId) := none
  deriving DecidableEq, Repr

/-- A logic block's tables, snoop and patch (R282, R283, R286, R287). -/
structure LogicImg where
  /-- the core of the block by its logical ID (R39) -/
  core : LogicalId
  luts : List W16
  tshift : Nat
  snoopQ : Option QueueId
  snoopKinds : BitVec 4
  snoopIdx : Nat
  snoopHigh : Bool
  patchQ : Option QueueId
  patchIdx : Nat
  patchHigh : Bool
  deriving DecidableEq, Repr

/-- A reference group (Table 9-2). -/
structure RefGroupImg where
  g : BitVec 2
  tsize : Nat
  tpb : Nat
  u : Nat
  nbin : Nat
  tmode : Bool
  dt : Nat
  offset : Int
  route : List QueueId
  grp : BitVec 4
  /-- candidate edges of the group's comparison stages (R352) -/
  cands : List QueueId := []
  deriving DecidableEq, Repr

/-- One chain of adapted head stages (Table 10-6). -/
structure ChainImg where
  rbase : W32
  slotb : W16
  lbloff : W16
  lblw : W16
  teacher : Bool
  /-- the chain's first companion queue, and the queue on which its tap sits (R366, R371) -/
  first : QueueId
  tap : QueueId := 0#13
  deriving DecidableEq, Repr

/-- One adapted head stage (R362, R385). -/
structure AdStageImg where
  stage : StageId
  part : PartId
  chain : BitVec 2
  imgWords : BitVec 13
  base : W32
  /-- the queue through which its cores load their image (R364) -/
  q : QueueId := 0#13
  /-- index in the chain of the stage's first weight; for each weight its output channel and its place in the image, word and
  bit; then one bias for each channel, and the place of the parameter block (R377, R564) -/
  first : Nat := 0
  places : List (Nat × Nat × Nat) := []
  chans : Nat := 0
  lsparam : Nat := 0
  /-- its weight-gradient companion, and the values of its batch accumulator (R374) -/
  gradStage : StageId := 0#11
  values : Nat := 0
  deriving DecidableEq, Repr

/-- Adaptation data of a network (section 0x0A, R385, R386). -/
structure AdaptImg where
  en : Bool
  ncommit : Byte
  ntrial : BitVec 4
  xmask : Byte
  batch : W16
  replayM1 : BitVec 10
  lr : W32
  b1 : W32
  b2 : W32
  eps : W32
  clip : W32
  chains : List ChainImg
  stages : List AdStageImg
  weights : List (BitVec 16)
  /-- device address of the master weights, in units of 512 bytes (Table 10-2) -/
  wbase : W32 := 0#32
  deriving DecidableEq, Repr

/-- A chain-link channel (R445, R449). -/
structure ChanImg where
  chan : BitVec 5
  peer : BitVec 4
  east : Bool
  sends : Bool
  q : QueueId
  frameWords : Nat
  /-- the receiver that a channel sent here reads its queue by -/
  rcv : BitVec 10 := 0#10
  deriving DecidableEq, Repr

/-- A streamed-weight section (R134). -/
structure StreamImg where
  stage : StageId
  addr : DevAddr
  words : Nat
  q : QueueId
  data : List W64 := []
  deriving DecidableEq, Repr

/-- An absolute and a relative bound, FP32 codes (R89). -/
structure Bound where
  a : W32
  r : W32
  deriving DecidableEq, Repr

/-- The reference of an element: y_D as an FP32 code, its bounds, those of the stage's degraded variant (R90), and those of the
adaptation envelope for a trial (R379). -/
structure ElemRef where
  y : W32
  env : Bound
  deg : Bound
  trial : Option Bound := none
  deriving DecidableEq, Repr

/-- A field of a record's entries: where it stands, its format, and the scale and zero point of an integer code. -/
structure FieldImg where
  lsb : Nat
  fmt : Fmt
  scale : W32 := 0x3F800000#32
  zp : Nat := 0
  deriving DecidableEq, Repr

/-- An entry of a reference record, or one whose deciding value is so near the threshold that it may appear (R91). -/
structure EntryRef where
  present : Bool
  fields : List ElemRef
  deriving DecidableEq, Repr

/-- The references of an output for each maquette frame (sections 0x08 and 0x09): the fields of its entries, the deciding field
with its threshold, the sort key. An output of rows has one entry, whose fields are its values in order. -/
structure OutRef where
  rout : BitVec 6
  tensor : BitVec 12
  rows : Bool := false
  fields : List FieldImg
  decides : Option (Nat × W32) := none
  key : Option Nat := none
  frames : List (List EntryRef)
  deriving DecidableEq, Repr

/-- The reference statistics of a block of a stage output tensor in a maquette frame (R528). -/
structure BlockRef where
  frame : Nat
  stage : StageId
  tensor : BitVec 12
  block : Nat
  count : W32
  sumv : W32
  sumvB : Bound
  ssv : W32
  ssvB : Bound
  deriving DecidableEq, Repr

/-- A network of a casting set. -/
structure NetImg where
  num : NetId
  parts : List PartId
  companions : List PartId := []
  interval : Nat
  maqInterval : Nat := 10
  modes : BitVec 10 := 0x0C0#10
  drainTo : Nat := 50
  groups : List GroupImg := []
  stages : List StageImg := []
  queues : List QueueImg := []
  edges : List EdgeImg := []
  tensors : List TensorImg := []
  regions : List (PartId × List RegionImg) := []
  records : List RecordImg := []
  segs : List SegImg := []
  logic : List LogicImg := []
  refs : List RefGroupImg := []
  adapt : Option AdaptImg := none
  chans : List ChanImg := []
  streams : List StreamImg := []
  /-- the envelope table and the reference outputs and statistics of the maquette frames (R89, R527, R528) -/
  outRefs : List OutRef := []
  blockRefs : List BlockRef := []
  deriving DecidableEq, Repr

/-- A manifest entry (Table 8-7, Table 8-8); the digest is abstract: whether it matches. -/
structure SectionImg where
  kind : BitVec 16
  net : NetId
  /-- stage or cluster, and partition, of TARGET -/
  stage : StageId := 0#11
  part : PartId := 0#5
  offset : Nat
  length : Nat
  digestOk : Bool
  deriving DecidableEq, Repr

/-- A casting set (Table 8-6). `signer` names the public key under which its signature verifies, 0 none. -/
structure SetImg where
  setver : W32
  ownser : W32
  signer : Nat
  digest : BitVec 512
  length : Nat
  lanemask : W32
  coresreq : Nat
  clkreq : Nat
  sections : List SectionImg
  nets : List NetImg
  deriving DecidableEq, Repr

/-- A firmware image: its version, the key that signs it, its manifest digest and its common core microcode. -/
structure FwImg where
  version : BitVec 24
  signer : Nat
  digest : BitVec 512
  common : List W64
  deriving DecidableEq, Repr

/-- A defaults entry (Table 8-5). -/
structure DefEntry where
  addr : W32
  mask : W32
  value : W32
  deriving DecidableEq, Repr

/-- A user-defaults block (R302). -/
structure UdImg where
  udver : W32
  ownser : W32
  signer : Nat
  digest : BitVec 512
  bootset : Byte
  bootnet : W32
  entries : List DefEntry
  deriving DecidableEq, Repr

/-- An owner record (Table 8-4). `ownkey` 0 means no owner. -/
structure OwnerImg where
  ownser : W32
  signer : Nat
  binding : BitVec 512
  ownkey : Nat
  digest : BitVec 512
  deriving DecidableEq, Repr

/-! ## Packets and reports -/

/-- An assignment record (Table 8-11), with the frame state of a takeover (R515). -/
structure AssignRec where
  logical : LogicalId
  spare : Bool
  cidx : BitVec 10
  net : NetId
  stage : StageId
  alt : Bool
  groups : List (BitVec 12)
  expect : BitVec 81
  rowmax : BitVec 28
  bentry : BitVec 19
  deriving DecidableEq, Repr

/-- A caliper report of one slot for one frame, which names its network and its stage (R59, R188, R191). -/
structure CalReport where
  net : NetId
  stage : StageId
  tensor : BitVec 12
  /-- rotation position of the reporting core -/
  pos : BitVec 10
  frame : W32
  maquette : Bool
  sse : W32
  ssv : W32
  sumv : W32
  count : W32
  sat : W32
  nan : W32
  const : W32
  kmaxn : Int
  kmin : Byte
  kmax : Byte
  deriving DecidableEq, Repr

/-- A block report of a maquette frame (R528). -/
structure BlockRep where
  stage : StageId
  cidx : BitVec 10
  block : Nat
  tensor : BitVec 12
  count : W32
  sumv : W32
  ssv : W32
  deriving DecidableEq, Repr

/-- What a chase reports: the unit and whether its CRCs equal the controller's (R319). -/
inductive ChaseUnit where
  | core (c : CoreId) | partition (p : PartId) | queueManager (c : ClusterId)
  deriving DecidableEq, Repr

/-! ## Ingest -/

/-- A GVSP leader (R423, R424, R429). `pixfmt` 9 to 15 stand for unsupported formats. -/
structure Leader where
  block : BitVec 64
  pixfmt : BitVec 4
  width : Nat
  height : Nat
  supported : Bool
  tstamp : W64
  deriving DecidableEq, Repr

/-- What a MAC frame carries. -/
inductive EthBody where
  | pause
  | arpRequest (ip : W32)
  | igmpQuery
  | ptp
  | ipv4 (src dst : W32) (fragment : Bool) (udpPort : W16)
  | other
  deriving DecidableEq, Repr

/-- A MAC frame (R419). -/
structure EthFrame where
  length : Nat
  fcsOk : Bool
  tagged : Bool
  body : EthBody
  deriving DecidableEq, Repr

/-- The PTP messages of R440 as their effect on the time base: what IEEE 1588 makes of them is given. -/
inductive PtpMsg where
  | announce (best : Bool)
  | sync (offset : BitVec 32)
  | valid
  deriving DecidableEq, Repr

/-- The six resets' targets of Table 14-4. -/
inductive ResetKind where
  | core (c : CoreId) | cluster (c : ClusterId) | partition (p : PartId) | die (d : Fin 2) | warm
  deriving DecidableEq, Repr

/-- What a bring-up stage found (R482, Table 14-3). -/
structure StageReport where
  /-- the stage could not pass: stages 1 and 2 only -/
  stop : Bool
  /-- lanes, channels, segments, cores or networks failed -/
  losses : Bool
  duration : W32
  count0 : W32
  count1 : W32
  count2 : W32
  count3 : W32
  /-- lanes that came up, channels and segments that failed, cores found bad -/
  lanesUp : W32
  chainUp : Byte
  channelsFailed : List (Fin 192)
  segmentsFailed : List SegId
  coresFailed : List CoreId
  deriving DecidableEq, Repr

/-- The rails whose fall is a power-on reset (R546). -/
inductive CoreRail where
  | vddP | vddMr0 | vddMr1 | vps | vpsq | vddIo18 | vddaPll
  deriving DecidableEq, Repr

/-- A weight and its moments after an optimiser step are computed; its batch gradient is given in E5M2. -/
structure Grad where
  /-- index of the weight in the chain -/
  idx : Nat
  /-- de-quantised batch gradient, FP32 -/
  g : W32
  deriving DecidableEq, Repr

/-- Bytes of a chunk's 32 words. -/
abbrev Words := List W64

/-! ## The commands -/

/-- One constructor per row of spec/opcode_table.json, in the table's order. -/
inductive Instr where
  -- root clock and divisions
  | pllLockLost
  | rootClockLoss
  | pllLockRegained
  | clockLossRecovery
  | divisionChange (p : PartId)
  -- the core
  | halt (c : CoreId)
  | fire (c : CoreId) (upsets : List Upset)
  | loop (c : CoreId)
  | endl (c : CoreId)
  | load (c : CoreId) (upsets : List Upset)
  | frame (c : CoreId)
  | rowend (c : CoreId) (upsets : List Upset)
  | waitd (c : CoreId)
  | call (c : CoreId)
  | ret (c : CoreId)
  | illegalInstruction (c : CoreId) (w : W64)
  | heldCycleFire (c : CoreId) (held : W32)
  | waitdPortValid (c : CoreId) (k : BitVec 20)
  | waitdDeadline (c : CoreId)
  | zeroCycleRunFault (c : CoreId)
  | rowmaxExceeded (c : CoreId)
  | lsWriteback (c : CoreId) (addr : BitVec 13)
  | stageIdleGate (c : CoreId)
  | stageIdleUngate (c : CoreId)
  | weightBufferLoadDone (c : CoreId)
  | accumulatorDrainDone (c : CoreId)
  | scaleSelectionDone (c : CoreId)
  | pass2RowDone (c : CoreId)
  | xcfgWrite (c : CoreId) (v : W32)
  -- queues
  | queueWrite (q : QueueId) (port : BitVec 10) (w : QWord)
  | creditGrant (q : QueueId) (port : BitVec 10) (n : Nat)
  | sequentialRead (q : QueueId) (r : BitVec 10)
  | windowedRead (q : QueueId) (r : BitVec 10) (a : W32)
  | mark (q : QueueId) (r : BitVec 10)
  | rewind (q : QueueId) (r : BitVec 10)
  | release (q : QueueId) (r : BitVec 10) (p : W32)
  | badPacketSkip (q : QueueId) (r : BitVec 10)
  | spillReturn (q : QueueId)
  | censusFire (p : PartId)
  | deadlockDrop (p : PartId)
  | dlkDropAndResume (p : PartId)
  | dlkContinue (p : PartId)
  | epochDiscard (q : QueueId) (r : BitVec 10)
  | voidSlotFill (q : QueueId)
  -- armature
  | contentionDetect (seg : SegId) (en : BitVec 4)
  | contentionNotice (c : CoreId)
  | forceLift (seg : SegId)
  | scrubPassStart (p : PartId)
  | scrubRead (p : PartId) (found : Finding)
  | configFrameReloadDone (p : PartId)
  | packetForward (router : BitVec 6) (out : BitVec 3)
  | packetReceive (ep : Endpoint) (upset : BitVec 128)
  | packetResend (ep : Endpoint)
  | reductionTimeout (point : Nat)
  -- calipers
  | caliperReport (p : PartId) (r : CalReport)
  | s2PacketReceive (c : CoreId) (tensor : BitVec 12) (s2 : W32)
  | wselWrite (slot : BitVec 6) (v : W32)
  | wcfgWrite (slot : BitVec 6) (v : W32)
  | s2Write (slot : BitVec 6) (v : W32)
  | driftThWrite (slot : BitVec 6) (v : W32)
  -- mailbox
  | installFirmware (tag : Byte) (img : FwImg)
  | installCastingSet (tag : Byte) (slot : W32) (img : SetImg)
  | installUserDefaults (tag : Byte) (img : UdImg)
  | enrol (tag : Byte) (img : OwnerImg)
  | floor (tag : Byte) (which : BitVec 3)
  | attest (tag : Byte) (nonce : BitVec 256) (dest : DevAddr)
  | readlog (tag : Byte) (dest : DevAddr)
  | cast (tag : Byte) (slot : W32) (mask : W32)
  | recast (tag : Byte) (slot : W32) (net : W32)
  | stop (tag : Byte) (net : W32)
  | resume (tag : Byte) (net : W32)
  | uncast (tag : Byte) (net : W32)
  | close (tag : Byte) (net : W32) (grp : W32)
  | repairContinue (tag : Byte) (net : W32)
  | repairAbort (tag : Byte) (net : W32)
  | retest (tag : Byte) (core : W32)
  | boack (tag : Byte) (mask : W32)
  | mbxUnknownOpcode (tag : Byte) (opc : Byte)
  | longCommandEnd (tag : Byte) (result : W16)
  -- casting
  | partitionConfigChunk (p : PartId) (idx : BitVec 10) (ws : Words) (crcOk : Bool)
  | programCacheChunk (cl : ClusterId) (idx : BitVec 9) (ws : Words) (crcOk : Bool)
  | castingAck (net : NetId) (src : Endpoint) (seq : BitVec 20)
  | castingAckTimeout (net : NetId) (dst : Endpoint) (seq : BitVec 20)
  | assignmentRecord (c : CoreId) (r : AssignRec)
  | coreImageChunk (c : CoreId) (idx : BitVec 7) (ws : Words) (crcOk : Bool)
  | completionReduction (net : NetId) (incomplete : List CoreId)
  | bitmapRequest (c : CoreId)
  | bitmapReply (c : CoreId) (bitmap : BitVec 81)
  | sectionReadDone (net : NetId) (entry : Nat)
  | castingStepEnd (net : NetId) (fault : Option CoreId)
  | chaseReport (net : NetId) (unit : ChaseUnit) (agree : Bool)
  | networkRelease (p : PartId)
  | drainComplete (net : NetId)
  | forcedFlush (net : NetId)
  -- route memory
  | positionDatagram (lane : PartId) (port : W16) (bytes : List Byte)
  | rtePosinSubmit (b : Byte)
  | positionTimeout
  | tileIssue (g : BitVec 2) (upset : Bool)
  | supersedeNotice (c : CoreId) (pgen : BitVec 4) (ffirst flast : W32)
  | candidateTileWrite (q : QueueId) (r : BitVec 10)
  | candidateDue (bin : W32)
  | rteDecideCommit
  | rteDecideDiscard
  | passOpen
  | passClose
  | passAbort
  | rteFreeWrite (v : W32)
  | rteRetireWrite (v : W32)
  | retireComplete
  | rteCtrlWrite (v : W32)
  | rtePredWrite (v : W32)
  -- adaptation
  | replaySlotWrite (u : BitVec 2) (chain : BitVec 2) (frame : W32) (flags : Byte) (gap : Bool) (rows : Words)
      (label : Option Words)
  | feederIssue (u : BitVec 2) (chain : BitVec 2)
  | batchEnd (u : BitVec 2) (grads : List Grad) (readBackOk : Bool)
  | adaptationCommit (u : BitVec 2)
  | bankFree (u : BitVec 2)
  | adpDecideCommit (u : BitVec 2)
  | adpDecideDiscard (u : BitVec 2)
  | adpCtrlWrite (u : BitVec 2) (v : W32)
  | adpBatchWrite (u : BitVec 2) (v : W32)
  -- memory and DMA
  | memoryBurstGrant (ch : Fin 192)
  | memoryBurstDone (ch : Fin 192)
  | farLaneGrant (dir : Fin 2)
  | stackHot (st : Fin 12)
  | stackCool (st : Fin 12)
  | selfRefreshReturn (ch : Fin 192)
  | dmaDescriptorFetch (n : BitVec 6)
  | dmaBurstIssue (n : BitVec 6)
  | dmaDescriptorComplete (n : BitVec 6)
  | dmaResume (n : BitVec 6)
  | dmaAbort (n : BitVec 6)
  | dmaResetRing (n : BitVec 6)
  | dmaRbaseWrite (n : BitVec 6) (v : W32)
  | dmaRcfgWrite (n : BitVec 6) (v : W32)
  | dmaTailWrite (n : BitVec 6) (v : W32)
  | dmaSuspend (p : PartId)
  | dmaSuspended (p : PartId)
  | dmaUnsuspend (p : PartId)
  | regionDescriptorWrite (p : PartId) (j : BitVec 6) (reg : BitVec 2) (v : W32)
  -- ingest and chain links
  | ethFrameReceive (lane : PartId) (f : EthFrame)
  | gvspLeader (lane : PartId) (port : W16) (src : W32) (l : Leader)
  | gvspDataPacket (lane : PartId) (port : W16) (src : W32) (block : W64) (pid : Nat) (bytes : List Byte)
  | gvspTrailer (lane : PartId) (port : W16) (src : W32) (block : W64)
  | blockTimeout (ctx : BitVec 10)
  | memberTimeout (ctx : BitVec 10)
  | laneLinkDown (lane : PartId)
  | laneLinkUp (lane : PartId)
  | ptpMessage (lane : PartId) (m : PtpMsg)
  | ptpHoldover
  | ptpLatch (v : W32)
  | chnidWrite (v : W32)
  | chainPortTrain (east : Bool) (peer : BitVec 4) (lat : W16)
  | chainTrainRetry (east : Bool)
  | chainLinkDown (east : Bool)
  | chainWordReceive (east : Bool) (chan : BitVec 5) (w : QWord) (fecOk : Bool)
  | ctxCfgWrite (v : W32)
  | ctxBindWrite (v : W32)
  -- maquette frames
  | maquetteDue (net : NetId)
  | maquetteInject (net : NetId) (grp : BitVec 4)
  | maquetteForceSlot (net : NetId) (grp : BitVec 4)
  | blockReport (net : NetId) (r : BlockRep)
  | maquetteCheck (net : NetId) (outputsOk : Bool) (tensor : BitVec 12)
  -- faults, fencing, watchdog, ageing
  | fenceStart (c : CoreId) (cause : BitVec 3)
  | spareCheckComplete (p : PartId) (ok : Bool)
  | spareReloadComplete (p : PartId) (ok : Bool)
  | spareChaseComplete (p : PartId) (ok : Bool)
  | faultDegradeResume (p : PartId)
  | faultKeepStopped (p : PartId)
  | degradedSwitch (net : NetId) (stage : StageId)
  | fenceLogCommit
  | retestCoreDone (c : CoreId) (passed : Bool)
  | watchdogKick (sig : W32) (ms : Nat)
  | watchdogExpire (sig : W32)
  | firmwareRestart
  | patinaSample (p : PartId) (m : BitVec 2) (raw : BitVec 20) (temp : Byte) (norm : W16)
  | marginPlan (p : PartId) (slack : Int) (ks : Nat)
  | pMcmdApply (p : PartId)
  | pMcmdReject (p : PartId)
  | avsStep (die : Fin 2) (ack : Bool)
  | avsStepSettle (die : Fin 2)
  | pmbusRetry (die : Fin 2) (ack : Bool)
  | pmbAlert (status : W16)
  -- SDIO card and host interface
  | cmd0
  | cmd3
  | cmd5 (arg : W32)
  | cmd7 (rca : W16)
  | cmd11
  | cmd15 (rca : W16)
  | cmd19
  | cmd52 (write : Bool) (fn : BitVec 3) (addr : BitVec 17) (b : Byte)
  | cmd53 (write : Bool) (fn : BitVec 3) (block : Bool) (incr : Bool) (addr : BitVec 17) (count : BitVec 9)
      (bytes : List Byte)
  | sdioIllegalCommand (idx : BitVec 6)
  | registerWrite (addr : BitVec 17) (b : Byte)
  | pModeWrite (p : PartId) (v : W32)
  | streamRepeat (k : BitVec 4)
  | recordItemWrite (rout : BitVec 6)
  | hostSilent
  -- bring-up, resets and power
  | resetNAssert (lowNs : Nat)
  | resetNRelease (strap : BitVec 2) (testN : Bool)
  | bringupStageEnd (r : StageReport)
  | rstArmWrite (v : W32)
  | rstArmExpire
  | resetCore (c : CoreId)
  | resetCluster (c : ClusterId)
  | resetPartition (p : PartId)
  | resetComputeDie (d : Fin 2)
  | resetPackageWarm
  | resetComplete (k : ResetKind)
  | packageStandby
  | deepStandby
  | deepStandbyRetained
  | wake
  | powerStateEntered
  | pPwrRetention (p : PartId)
  | pPwrOff (p : PartId)
  | pPwrOn (p : PartId)
  | retentionExitCheck (p : PartId) (ok : Bool)
  -- brown-out and supplies
  | brownoutWarning (die : Fin 2) (mv : W16)
  | brownoutWarningReport (die : Fin 2) (mv : W16)
  | brownoutRecovery (die : Fin 2) (us : W32)
  | brownoutReset (die : Fin 2) (mv : W16)
  | dieArmatureTestDone (die : Fin 2)
  | supplyFail (r : CoreRail)
  | opticalRailFail
  -- JTAG
  | jtagBypass
  | jtagIdcode
  | jtagSamplePreload (pins : BitVec 28)
  | jtagExtest
  -- late rows of the table
  | supplyRestored
  | strAgeElapsed
  | partitionPowerTransitionDone (p : PartId)
  deriving DecidableEq, Repr

end Sys2Proof
end

