-- ==== Sys2Proof/Decode.lean ====
section
/-! DEFINITION. The words that the opcode table's bits spell. No row of the table gives bits (the commands are
events, not encodings), so every word is refused. The 64-bit instructions of a core's stage program are data of
the device and are decoded in Machine/Sched.lean. -/
namespace Sys2Proof

/-- The command that a word spells by the table's bits: none, since no row has bits. -/
def decodeTableWord (_nbits _w : Nat) : Option Instr := none

end Sys2Proof
end

