-- ==== Sys2Proof/Config.lean ====
section
/-! DEFINITION. The values that the spec leaves open, as constants without a body, and the sizes that it fixes. -/
namespace Sys2Proof

/-- A value that the spec does not fix, taken afresh at every number of the counter `Dev.fresh`.
Assumption 4 (DESIGN CHOICE): safe. -/
opaque Config.freeWord : Nat → BitVec 64

/-- CODE of CAST_ERR less 1: the manual gives each check of the loader a code and lists no numbers.
Assumption 14 (DESIGN CHOICE): unsafe. -/
opaque Config.castErrCode : Nat → BitVec 15

/-- What a logic block's cells compute in one cycle from their input set (R283): the next flip-flops, and the value
patched if the block sets its valid bit. The manual gives the cells and their inputs and no wiring. -/
opaque Config.logicBlock (luts : List W16) (ff snoop : W32) (strobes : Byte) (window : BitVec 24) : W32 × Option W32

/-- A blend of a reference word and a pass word with the weight of the casting image (R352): no formula is given. -/
opaque Config.blendWord (reference pass : W64) : W64

/-- The sum of several cores' caliper sums: the manual gives no order in which the collector adds them (R192). -/
opaque Config.sumReports (sums : List W32) : W32

/-- The A8 row that holds the moment of a weight: the manual does not say how the weights make up rows (R375). -/
opaque Config.momentRow : Nat → Nat

/-- S2 of the tensor of the first or of the second moments, among the network's tensors: the manual does not say which those two are
(R373, R375). -/
opaque Config.momentS2 (tensors : List (Nat × W32)) (second : Bool) : W32

/-- The configuration frame that holds a segment's words: the manual gives the frames no layout (R266, R268). -/
opaque Config.segFrame : SegId → Nat

/-- The cause argument of event 0x2004: the manual names the argument and gives its causes no numbers. -/
opaque Config.stopCause : Nat → BitVec 32

/-- OPC of a class 0 or 1 packet by what it says: the manual leaves OPC to the class's user and numbers class 2 alone.
Assumption 16 (DESIGN CHOICE): safe. -/
opaque Config.packetOpc : Nat → BitVec 8

/-- The payload of a supersede notice (R349): the manual names what it carries and gives no layout. -/
opaque Config.supersedeFlit (pgen : BitVec 4) (ffirst flast : W32) : BitVec 128

/-- The event code of an uncorrectable error in the ingest buffer (Table 1-4): the spec names none. Assumption 131 (DESIGN CHOICE).
Assumption 131 (DESIGN CHOICE): safe. -/
opaque Config.sramEvent : BitVec 16

end Sys2Proof
end

