-- ==== Sys2Proof/Machine/Tbl.lean ====
section
/-! DEFINITION. Sparse tables in one canonical form: keys strictly rising, and no entry equal to what an
unlisted key reads as. The register files, the queues and every memory of the device are held this way,
so that equal contents are equal data. -/
namespace Sys2Proof

/-- A sparse table of values keyed by number; an unlisted key reads as the table's default. -/
abbrev Tbl (α : Type) := List (Nat × α)

/-- The value at key `k`, `d` where no entry lists it. -/
def tblGet {α : Type} (d : α) : Tbl α → Nat → α
  | [], _ => d
  | (k, v) :: t, n => if k = n then v else tblGet d t n

/-- Put an entry at its place in key order, replacing the one it meets. -/
def tblPut {α : Type} (n : Nat) (v : α) : Tbl α → Tbl α
  | [] => [(n, v)]
  | (k, w) :: t =>
    if n < k then (n, v) :: (k, w) :: t
    else if n = k then (n, v) :: t
    else (k, w) :: tblPut n v t

/-- Remove the entry at key `n`. -/
def tblDrop {α : Type} (n : Nat) (t : Tbl α) : Tbl α := t.filter (fun e => e.1 != n)

/-- Write `v` at key `n`, keeping the canonical form: writing the default removes the entry. -/
def tblSet {α : Type} [DecidableEq α] (d : α) (t : Tbl α) (n : Nat) (v : α) : Tbl α :=
  if v = d then tblDrop n t else tblPut n v t

/-- The canonical form of a table. -/
abbrev tblWf {α : Type} [DecidableEq α] (d : α) (t : Tbl α) : Prop :=
  t.Pairwise (fun a b => a.1 < b.1) ∧ ∀ e ∈ t, e.2 ≠ d

/-- Apply `f` to the value at key `n`. -/
def tblMod {α : Type} [DecidableEq α] (d : α) (t : Tbl α) (n : Nat) (f : α → α) : Tbl α :=
  tblSet d t n (f (tblGet d t n))

/-- Apply `f` to every value that the table lists; values equal to the default afterwards leave the table. -/
def tblMap {α : Type} [DecidableEq α] (d : α) (t : Tbl α) (f : Nat → α → α) : Tbl α :=
  t.foldr (fun e r => tblSet d r e.1 (f e.1 e.2)) []

end Sys2Proof
end

