-- ==== Sys2Proof/Machine/State.lean ====
section
/-! DEFINITION. The state of the device as plain data: every register, queue, buffer, counter, mode and pin that
the spec gives the block, unit by unit, and the queue of waiting commands. Each structure's defaults are that
unit's values after power-on; `State.reset` collects them. -/
namespace Sys2Proof.Machine

open Sys2Proof

/-! ## The core (chapters 03 to 05) -/

/-- CORE_STAT STATE (Table 13-3 of chapter 03, Table 3-13). -/
inductive CState where
  | uncast | running | held | transferring | waitd | faulted | fenced | halted
  deriving DecidableEq, Repr

/-- CORE_STAT FAULT (Table 3-13). -/
inductive CFault where
  | none | localStore | rowCycle | illegal | bankConflict | nesting | zeroRun
  deriving DecidableEq, Repr

/-- An active loop: its level, its trip count minus 1 and its counter (R99). -/
structure LoopFrame where
  level : BitVec 3
  tripM1 : Nat
  count : Nat
  deriving DecidableEq, Repr

/-- Why a running core does not go on by itself. Held cycles change no state (R101); the other waits count as
unheld schedule cycles (R119, R120, R126, R178); `marker` is the wait at FRAME. -/
inductive Wait where
  | none | held | weights | wswap | drain | scale | pass2 | marker
  deriving DecidableEq, Repr

/-- A weight buffer (R119): loaded or empty, and its 256 X19 weights, output-channel-major. -/
structure WBuf where
  loaded : Bool := false
  vals : List X19 := []
  deriving DecidableEq, Repr

/-- A weight-buffer load in the background (R119): which buffer, its length in cycles, the cycles gone, and
the loop counters that address it. -/
structure WLoad where
  toActive : Bool
  cycles : Nat
  gone : Nat
  loops : List LoopFrame
  dsel : Nat
  depthwise : Bool
  deriving DecidableEq, Repr

/-- The bank being drained into pass 1 (R120). -/
structure Drain where
  bank : Bool
  first : Nat
  next : Nat
  len : Nat
  loops : List LoopFrame
  dsel : Nat
  deriving DecidableEq, Repr

/-- A row in pass 1 (R125): its values keyed by pixel × channels + channel. -/
structure Row1 where
  vals : Tbl W32 := []
  dsel : Nat := 0
  /-- position of the row's first word in the finishing queue, and its words there; none before the first is written -/
  pos : Option W32 := none
  words : Nat := 0
  deriving DecidableEq, Repr

/-- A row in pass 2 (R125, R178): its pooled values, the scales once fixed, the words still to write and
whether its values have entered the caliper. -/
structure Row2 where
  vals : Tbl W32
  width : Nat
  chans : Nat
  dsel : Nat
  /-- unheld cycles since pass 1 ended, up to the 4 of scale selection (R178) -/
  age : Nat
  fixed : Bool
  scales : List RowScale
  /-- words still to write, the header of a quantisation row alone in its cycle -/
  out : List (Kind × W64)
  begun : Bool
  /-- the row's words in the finishing queue: the first one's position and their number -/
  pos : Option W32 := none
  words : Nat := 0
  /-- its values have entered the caliper slot of their block (R528) -/
  counted : Bool := false
  /-- the epoch of its own frame, and whether that frame was voided, once FRAME has come before its last word is written -/
  left : Option (BitVec 3 × Bool) := none
  deriving DecidableEq, Repr

/-- A caliper slot (R188, R189): three sums of 16 lanes and the saturating counters. -/
structure CalSlot where
  sse : List W32 := []
  ssv : List W32 := []
  sumv : List W32 := []
  count : W32 := 0#32
  sat : W32 := 0#32
  nan : W32 := 0#32
  const : W32 := 0#32
  kmaxn : Option Int := none
  kmin : Byte := 0#8
  kmax : Byte := 0#8
  deriving DecidableEq, Repr

/-- A record that an output stage is building (R62 to R66, R566). -/
structure RecBuild where
  valid : Nat := 0
  dropped : Nat := 0
  /-- candidates read of the frame, the words of the one in hand, and the produced entries or row words -/
  seen : Nat := 0
  entry : List QWord := []
  entries : List QWord := []
  /-- words of the finished record still to write; none stands for a record that is closed bad in its turn (R567) -/
  out : List (Option QWord) := []
  deriving DecidableEq, Repr

/-- What a comparison core keeps of its references (R104, R347, R349): tiles used in each frame in hand. -/
structure RefUse where
  frame : W32
  pgen : BitVec 4
  deriving DecidableEq, Repr

/-- Where the words of a LOAD come from: its port, the null tile alone, or the null tile in place of the port's words. -/
inductive LoadFrom where
  | port | null | nullOver
  deriving DecidableEq, Repr

/-- One physical core. -/
structure Core where
  -- identity (CORE_ID; SPARE and FENCED flags)
  logical : LogicalId := 0#11
  assigned : Bool := false
  spare : Bool := false
  net : NetId := 0#5
  stage : StageId := 0#11
  kind : StageKind := .compute
  cidx : BitVec 10 := 0#10
  alt : Bool := false
  groups : List (BitVec 12) := []
  expect : BitVec 81 := 0#81
  bitmap : BitVec 81 := 0#81
  rowmax : Nat := 0
  bentry : BitVec 19 := 0x7FFFF#19
  -- status (CORE_STAT and counters)
  state : CState := .uncast
  holdsrc : BitVec 6 := 0#6
  fault : CFault := .none
  holdCyc : W32 := 0#32
  lsCe : W16 := 0#16
  lsUe : Option (BitVec 13) := none
  rowcycLast : BitVec 28 := 0#28
  wdogEn : Bool := true
  gateEn : Bool := true
  -- sequencer
  sched : Tbl W64 := []
  pc : BitVec 11 := 0#11
  loops : List LoopFrame := []
  calls : List (BitVec 11) := []
  zrun : Nat := 0
  /-- cycles of the instruction in progress already fired -/
  at_ : Nat := 0
  wait : Wait := .none
  rowCount : Nat := 0
  cycCount : Nat := 0
  /-- cycles of the row close since the last value drained (R178) -/
  sinceDrain : Nat := 0
  waitd : Option (BitVec 20) := none
  gated : Bool := false
  framErr : Nat := 0
  nullSubs : Nat := 0
  -- configuration memory beyond the schedule: address generators, finishing, activation table
  desc : Tbl W64 := []
  fin : Tbl W64 := []
  act : Tbl W64 := []
  -- local store
  ls : Tbl W64 := []
  lsErr : Tbl Nat := []
  lsFix : List (BitVec 13) := []
  -- MAC array
  buf0 : WBuf := {}
  buf1 : WBuf := {}
  active1 : Bool := false
  wload : Option WLoad := none
  wfmt : Fmt := .a8
  zp16 : Nat := 0
  acc : Tbl W32 := []
  bank1 : Bool := false
  /-- the lowest slot filled since the banks were swapped, and the slot past the highest -/
  filledFrom : Nat := 64
  filled : Nat := 0
  /-- banks handed to pass 1, the one draining first -/
  drains : List Drain := []
  -- finishing unit
  row1 : Option Row1 := none
  /-- rows of fused vertical pooling kept for the next row (R124) -/
  pool : Tbl (Tbl W32) := []
  /-- running taps of a pooling window by pixel and lane (R149); none before the first tap counted -/
  pacc : Tbl (Option W32) := []
  row2 : List Row2 := []
  /-- a null tile stands in at the port of the last WAITD; its NULLZERO, NULLADDR and PORT (R103) -/
  nullTile : Bool := false
  nullZero : Bool := false
  nullAddr : Nat := 0
  nullPort : Nat := 0
  /-- words of the null tile that sequential reads have taken -/
  nullPos : Nat := 0
  /-- where the words of the LOAD in progress come from, once it has begun -/
  loadFrom : Option LoadFrom := none
  /-- words of a served tile still to release (R104, R347) -/
  refSkip : Nat := 0
  cal : Tbl CalSlot := []
  calFrame : W32 := 0#32
  s2 : Tbl W32 := []
  s2next : Tbl W32 := []
  s2init : Tbl W32 := []
  -- ports, frame state, stage routines
  ins : List (Option PortIn) := []
  outs : List (Option PortOut) := []
  finq : Option QueueId := none
  /-- the headers kept, keyed by address generator (AG0, AG3) × 2^32 + address (R143) -/
  headers : Tbl W64 := []
  frame : W32 := 0#32
  ctx : BitVec 10 := 0#10
  flags : Byte := 0#8
  epoch : BitVec 3 := 0#3
  inFrame : Bool := false
  /-- the rest of the frame in progress is voided; the next frame too -/
  voiding : Bool := false
  voidNext : Bool := false
  /-- ports whose words up to the next frame-start marker a framing error or a gap marker gives up (R106, R231) -/
  lost : BitVec 4 := 0#4
  /-- gap markers that FRAME has read (R231) -/
  gapsRead : Nat := 0
  /-- per input port that carries result records: words of the frame's record read so far, and its VALID (R64) -/
  recPos : Tbl Nat := []
  recValid : Tbl Nat := []
  /-- words of the stage program in the schedule memory; after the last the sequencer goes on at the entry (R156) -/
  plen : Nat := 0
  /-- words of a weight block read from a queue's window (SPACE 1, R140) -/
  wwin : List W64 := []
  /-- frames begun since the program's entry, for the rotation of R67, and the descriptor index of the row -/
  frames : Nat := 0
  /-- the last frames begun, maquette frames apart, with their index since the rotation started (R192) -/
  frameLog : List (W32 × Nat) := []
  dselRow : Nat := 0
  /-- bits of pixels read and not yet unpacked by an admission stage, and their number -/
  ubuf : Nat := 0
  ulen : Nat := 0
  uvoid : Bool := false
  recb : RecBuild := {}
  refs : List RefUse := []
  /-- tag of the tile in hand, the cause of the last null tile and the words written of the candidate slot -/
  refTag : W64 := 0#64
  refStat : BitVec 2 := 0#2
  candPos : Nat := 0
  /-- caliper reports sent at the last close (R191) -/
  sent : List CalReport := []
  -- logic block (R282 to R287): flip-flops, tables, snoop and patch
  ff : W32 := 0#32
  luts : Tbl W16 := []
  tshift : Nat := 0
  snoopQ : Option QueueId := none
  snoopKinds : BitVec 4 := 0#4
  snoopIdx : Nat := 0
  snoopHigh : Bool := false
  snoopReg : W32 := 0#32
  snoopStrobe : Byte := 0#8
  snoopTime : Option (BitVec 48) := none
  patchQ : Option QueueId := none
  patchIdx : Nat := 0
  patchHigh : Bool := false
  patch : Option W32 := none
  deriving DecidableEq, Repr

/-! ## Queues (chapter 06) -/

/-- A receiver entry (Table 6-5) with what a detach or a skip has in hand and the word it last read. -/
structure Rcv where
  h : W32 := 0#32
  m : Option W32 := none
  r : W32 := 0#32
  b : W32 := 0#32
  e : BitVec 3 := 0#3
  detach : Bool := false
  laglim : Nat := 0
  windowed : Bool := false
  part : Option PartId := none
  await : Bool := false
  /-- its core is fenced and no spare takes it: treated as released up to T (Table 4-6, Table 8-13) -/
  gone : Bool := false
  /-- the switch frame S of a vacant position: up to its frame-start marker everything is released (Table 4-6, R521) -/
  upTo : Option W32 := none
  gap : Option (W32 × W16) := none
  /-- words of a bad packet still to skip, the length word included -/
  skip : Nat := 0
  /-- positions counted once in EPDISC by windowed reads (R251) -/
  stale : List W32 := []
  /-- the last read's answer; none is V = 0 (R202) -/
  last : Option QWord := none
  /-- the position up to which its core has released rows that have not all come yet (R158) -/
  owed : Option W32 := none
  /-- the frame whose frame-start marker it read last, with MAQUETTE -/
  began : Option (W32 × Bool) := none
  deriving DecidableEq, Repr

/-- A producer end of a queue: credits not yet used, the words of an open commit-mode packet, the discard armed
by a packet beyond PKTMAX, and the cursor of a slotted edge (frame index and words written in it). -/
structure Prod where
  credits : Nat := 0
  /-- credits for words of the stager, granted in Spilling state (R236) -/
  scredits : Nat := 0
  wants : Bool := false
  open_ : List QWord := []
  inPkt : Bool := false
  pktLen : Nat := 0
  discard : Bool := false
  slotFrame : Nat := 0
  slotWord : Nat := 0
  /-- void words that end the frame of a reset producer of a queue without slots, and the words of a row (R490) -/
  voidLeft : Nat := 0
  voidRow : Nat := 1
  /-- the receiving end of a forced lane discards until a frame-start marker (R264) -/
  dropToMarker : Bool := false
  /-- epoch of its last word -/
  epoch : BitVec 3 := 0#3
  deriving DecidableEq, Repr

/-- A burst of the spill ring (Table 6-7): its sequence number and its place in the ring; its words lie in PSRAM. -/
structure Burst where
  seq : W32
  slot : Nat
  deriving DecidableEq, Repr

/-- Words of a rotation position's slots in one frame that the queue manager fills with void words: those from
`first` up to `last`, counted over the slots that the position owns in that frame. -/
structure VoidRun where
  pos : Nat
  frame : Nat
  first : Nat
  last : Nat
  deriving DecidableEq, Repr

/-- One hardware queue. -/
structure Queue where
  floor : Nat := 0
  cap : Nat := 0
  pmode : PMode := .plain
  pktmax : Nat := 0
  nprod : Nat := 1
  elastic : Nat := 0
  spillBase : DevAddr := 0#40
  slot : Option SlotImg := none
  /-- the slots of the frames before a degraded variant's switch frame -/
  oldSlot : Option SlotImg := none
  net : NetId := 0#5
  rcvs : List Rcv := []
  prods : Tbl Prod := []
  /-- cells on chip from the oldest word not yet freed; none is an unfilled slot -/
  store : List (Option QWord) := []
  old : W32 := 0#32
  /-- position of the open length slot (R221) -/
  lenSlot : Option W32 := none
  /-- slotted edge: frame index of the oldest cell and its place within that frame's cells -/
  slotF : Nat := 0
  slotO : Nat := 0
  /-- slots of voided rotation positions that await their turn (R163) -/
  voids : List VoidRun := []
  /-- epoch of the last word taken into the on-chip part (R240) -/
  lastEpoch : BitVec 3 := 0#3
  spilling : Bool := false
  stager : List (Option QWord) := []
  ring : List Burst := []
  /-- length words held on chip for slots that lie in the ring (R569) -/
  held : List (W32 × QWord) := []
  spillSeq : W32 := 0#32
  retSeq : W32 := 0#32
  /-- a burst to the ring is under way, and one from it, for whose words space is kept (R236, R239) -/
  spillBusy : Bool := false
  retBusy : Bool := false
  epdisc : W32 := 0#32
  gaps : W32 := 0#32
  gapw : W32 := 0#32
  badpkt : W16 := 0#16
  winerr : W16 := 0#16
  winEvt : Option W32 := none
  qhold : W32 := 0#32
  spwords : W32 := 0#32
  sperr : W16 := 0#16
  markerr : W16 := 0#16
  ringFull : Bool := false
  rsel : BitVec 10 := 0#10
  /-- the snoop and patch index: words since the last word written with EOR (R286) -/
  wordIdx : Nat := 0
  /-- the flags that its writers have set so far on each frame in it, MAQUETTE apart, oldest first (R76) -/
  frameFlags : List ((W32 × Bool) × Byte) := []
  /-- the weight sequence that streams into the queue, address and words, and the next word of it (R134) -/
  stream : Option (DevAddr × Nat) := none
  streamPos : Nat := 0
  /-- position at which the queue's contents last began: its release, or its last emptying (R132, R134) -/
  startPos : W32 := 0#32
  /-- images to issue into the queue, each an address and its words, the words of the first already issued, and the words in
  flight (R364) -/
  images : List (DevAddr × Nat) := []
  imgPos : Nat := 0
  imgFlight : Nat := 0
  deriving DecidableEq, Repr

/-! ## Clusters and partitions -/

/-- A cluster: its program cache as the images cast into it, with its corrected words (Table 1-4), its queue manager's copy of the
partition's part of the logical-to-physical map (R36), and whether it runs without a local spare (R42). -/
structure Cluster where
  cacheChunks : Tbl Words := []
  cacheCe : W32 := 0#32
  map : Tbl (Option CoreId) := []
  noSpare : Bool := false
  inReset : Bool := false
  deriving DecidableEq, Repr

/-- A region descriptor (Table 11-5, Table 11-12). -/
structure Region where
  base : BitVec 31 := 0#31
  lenM1 : BitVec 25 := 0#25
  v : Bool := false
  rd : Bool := false
  wr : Bool := false
  dma : Bool := false
  lock : Bool := false
  deriving DecidableEq, Repr

/-- A circuit segment (R261, R263 to R267). -/
structure Seg where
  own : Bool := false
  drv : BitVec 2 := 0#2
  en : BitVec 4 := 0#4
  forced : Bool := false
  /-- when the force was last lifted (R267) -/
  liftedAt : Option (BitVec 48) := none
  stage : StageId := 0#11
  net : NetId := 0#5
  q : Option QueueId := none
  /-- the lane carries the reads of this receiver, not the words of an edge -/
  rcv : Option (BitVec 10) := none
  port : Option (BitVec 10) := none
  deriving DecidableEq, Repr

/-- CAST_STAT STATE (Table 8-15). -/
inductive PState where
  | uncast | partly | released | stopped | draining | heldAbort
  deriving DecidableEq, Repr

/-- Power state of a partition (P_PSTAT). -/
inductive PPower where
  | on | retention | off
  deriving DecidableEq, Repr

/-- Arithmetic division (P_CLK DIV). -/
inductive Div where
  | d4 | d5 | d8
  deriving DecidableEq, Repr

/-- The phases of fencing in which a spare activation waits (Table 15-2). -/
inductive Phase where
  | check | reload | chase
  deriving DecidableEq, Repr

/-- A spare activation in progress (R513). -/
structure Activation where
  failed : CoreId
  spare : CoreId
  phase : Phase
  deriving DecidableEq, Repr

/-- A patina monitor (Table 15-6). -/
structure Monitor where
  raw : BitVec 20 := 0#20
  temp : Byte := 0#8
  norm : W16 := 0#16
  /-- rail voltage recorded with the sample (R532), mV -/
  rail : W16 := 0#16
  deriving DecidableEq, Repr

/-- One partition: casting fields, modes, census, armature page, DMA and region descriptors, clock, power and
health fields. -/
structure Partition where
  -- casting (Table 8-15)
  cast : PState := .uncast
  net : NetId := 0#5
  slot : BitVec 3 := 0#3
  slotValid : Bool := false
  rounds : BitVec 2 := 0#2
  castErr : W16 := 0#16
  castStep : BitVec 4 := 0#4
  castRes : W32 := 0#32
  drainTo : BitVec 10 := 50#10
  absorb : W32 := 0#32
  flushDrop : W32 := 0#32
  castRep : W16 := 0#16
  castFenced : W16 := 0#16
  castTime : W32 := 0#32
  cfgChunks : Tbl Words := []
  relAck : Bool := false
  -- modes (Table 13-7)
  mode : BitVec 10 := 0x0C0#10
  -- census (Table 6-11)
  dlkCnt : BitVec 17 := 0#17
  frozen : Bool := false
  fullq : QueueId := 0#13
  neq : QueueId := 0#13
  dlkFires : W32 := 0#32
  dlkDrop : W32 := 0#32
  -- armature page (Table 7-11), scrubber
  segs : Tbl Seg := []
  reload : Option (BitVec 18) := none
  scrubbing : Bool := false
  scrubPos : Nat := 0
  contSeg : SegId := 0#24
  contCnt : W32 := 0#32
  scrubPass : W32 := 0#32
  scrubCe : W32 := 0#32
  scrubUe : W32 := 0#32
  scrubUeAddr : Option (BitVec 18) := none
  pktCrc : W16 := 0#16
  pktResend : W16 := 0#16
  pktBlk0 : W32 := 0#32
  snoopMiss : W16 := 0#16
  patchMiss : W16 := 0#16
  ownSel : SegId := 0#24
  /-- cores with an uncorrectable configuration word, and when (R509) -/
  cfgUe : List (CoreId × BitVec 48) := []
  -- DMA pre-emption and faults (Table 11-11)
  suspend : Bool := false
  suspended : Bool := false
  tfDma : W16 := 0#16
  tfOther : W16 := 0#16
  regions : Tbl Region := []
  -- clock and power (Table 11 of chapter 14)
  div : Div := .d4
  divNext : Option Div := none
  bow : Bool := false
  awaitAck : Bool := false
  pwrReq : BitVec 2 := 0#2
  power : PPower := .on
  powerTo : Option PPower := none
  checkFail : Bool := false
  rstCore : W16 := 0#16
  rstCluster : W16 := 0#16
  rstPart : W16 := 0#16
  retEntries : W16 := 0#16
  inReset : Bool := false
  /-- from retention until its next release its boundary is that of a partly cast partition (R46) -/
  shut : Bool := false
  -- health (Table 15-5)
  act : Option Activation := none
  faultWait : Option (StageId × CoreId) := none
  fcnt : W16 := 0#16
  degCnt : W16 := 0#16
  margin : Byte := 0#8
  proposed : Byte := 0#8
  propValid : Bool := false
  derated : Bool := false
  derProp : Bool := false
  slack : W16 := 0#16
  mons : List Monitor := [{}, {}, {}, {}]
  deriving DecidableEq, Repr

/-! ## Networks, tensors and casting -/

/-- The open frame of a tensor at its collector (R192). -/
structure OpenFrame where
  frame : W32
  maquette : Bool
  reports : List CalReport
  deriving DecidableEq, Repr

/-- A tensor at its collector (R183 to R187). -/
structure Tensor where
  stage : StageId := 0#11
  integer : Bool := true
  s2 : W32 := 0#32
  s2init : W32 := 0#32
  kt : BitVec 8 := 224#8
  driftTh : W32 := 0#32
  frames : List OpenFrame := []
  /-- the frame closed last, and the ones closed that the collector's core has in hand -/
  closed : Option W32 := none
  shut : List W32 := []
  /-- host writes that wait for the next frame close: KT, S2 and DRIFT_TH -/
  ktNew : Option (BitVec 8) := none
  s2New : Option W32 := none
  thNew : Option W32 := none
  deriving DecidableEq, Repr

/-- What the engine has decided about a group frame (R435): nothing yet, as the admission stage is not ready; admitted, with the
frame's epoch; refused, or dropped since. -/
inductive Adm where
  | pending | admitted (epoch : BitVec 3) | refused
  deriving DecidableEq, Repr

/-- Words of a member frame in the ingest buffer: its start marker or a line, void when missing; the epoch once admitted; the
words of a maquette frame are never the engine's to refuse. -/
structure InLine where
  frame : W32
  words : List QWord
  epoch : Option (BitVec 3) := none
  maq : Bool := false
  deriving DecidableEq, Repr

/-- An admission group in service (R73, R434, R435). -/
structure Group where
  img : GroupImg
  /-- group frames offered so far: the next frame number (R73) -/
  counter : W32 := 0#32
  /-- the group frames that some member has not ended, oldest first -/
  live : List (W32 × Adm) := []
  /-- what waits in the ingest buffer for each member's queue -/
  buf : Tbl (List InLine) := []
  /-- start times of the last 256 group frames, newest first, PTP ns (R442, R473), and the member that began the newest -/
  starts : List (W32 × W64) := []
  first : BitVec 4 := 0#4
  /-- the last frame given to the admission stage, and whether it is a maquette frame (R435) -/
  last : Option (W32 × Bool) := none
  /-- a maquette frame is to take the slot of the next camera frame; it has taken one and is not yet injected (R79) -/
  displace : Bool := false
  taken : Bool := false
  /-- frames whose place in the ingest buffer is marked invalid: an uncorrectable error of plinth SRAM (Table 1-4) -/
  invalid : List W32 := []
  deriving DecidableEq, Repr

/-- A maquette frame of a network (R79, R527 to R531). -/
structure Maq where
  counter : W32 := 0#32
  due : Bool := false
  /-- the frames in flight are those of a trial of an adaptation candidate -/
  trial : Bool := false
  inFlight : List W32 := []
  /-- frames in flight whose check is discarded (R82) -/
  voided : List W32 := []
  reports : List BlockRep := []
  /-- what the checker has of the outputs of the frames in flight, by record output (R79, R527) -/
  outs : List (BitVec 6 × List QWord) := []
  /-- caliper reports of the frame (R191) -/
  calReps : List CalReport := []
  /-- the mismatch awaiting confirmation and the suspect core (R530) -/
  confirm : Bool := false
  suspect : Option (StageId × BitVec 10) := none
  tries : Nat := 0
  /-- cores fenced by the frames of a network on probation -/
  fenced : Nat := 0
  passed : Bool := false
  deriving DecidableEq, Repr

/-- The casting of a network in progress (Table 8-9). -/
structure Casting where
  step : Nat
  slot : BitVec 3
  round : Nat := 0
  /-- chunks sent and not yet acknowledged, by their destination and SEQ, with their resends -/
  unacked : List ((Endpoint × BitVec 20) × Nat) := []
  incomplete : List CoreId := []
  paused : Bool := false
  chased : List ChaseUnit := []
  badChase : List (ChaseUnit × Nat) := []
  sectionsRead : List Nat := []
  tag : Option Byte := none
  /-- the placement of step 1 (R41), the spares placed by R315, and when the casting began -/
  place : List (LogicalId × CoreId) := []
  /-- the sections whose digest has matched, and the stages whose local-store image waits in the shadow for step 8 (R307, R318) -/
  hashed : List SectionImg := []
  shadowed : List StageId := []
  respared : List CoreId := []
  t0 : BitVec 48 := 0#48
  recast : Bool := false
  noChase : Bool := false
  deriving DecidableEq, Repr

/-- What a drain is for (R324, R326, R497). -/
inductive DrainFor where
  | stop | recast (slot : BitVec 3) | uncast | standby
  deriving DecidableEq, Repr

/-- One of the 32 networks. -/
structure Network where
  img : Option NetImg := none
  slot : BitVec 3 := 0#3
  setver : W32 := 0#32
  epoch : BitVec 3 := 0#3
  aepoch : BitVec 3 := 0#3
  /-- the companions' admission, the replay feeder, is stopped (R365) -/
  aclosed : Bool := false
  everCast : Bool := false
  open_ : Bool := false
  openAt : Bool := false
  stoppedBy : Option W32 := none
  groups : Tbl (Option Group) := []
  tensors : Tbl Tensor := []
  casting : Option Casting := none
  drain : Option DrainFor := none
  drainTag : Option Byte := none
  maq : Maq := {}
  held : Bool := false
  /-- admission waits for a maquette frame to pass (Table 14-1, stages 8 and 9; R504) -/
  probation : Bool := false
  degraded : List StageId := []
  /-- the switch frame of a degraded variant per stage (R521) -/
  switchAt : List (StageId × W32) := []
  /-- frames admitted and not yet out of every output -/
  inFlight : List W32 := []
  /-- those during which a partition of the network ran below /4 (Table 2-5) -/
  slow : List W32 := []
  /-- partitions that a drop has not yet reached (R246), and the partition whose census dropped -/
  dropPend : List PartId := []
  dropBy : PartId := 0#5
  recordAtStandby : Bool := false
  deriving DecidableEq, Repr

/-! ## Packet layer (chapter 07) -/

/-- A packet: the fields of the header flit of Table 7-6 and its payload flits. -/
structure Packet where
  cls : BitVec 2
  dmode : BitVec 2 := 0#2
  src : Endpoint
  dst : Endpoint
  pmask : W32 := 0#32
  opc : Byte
  seq : BitVec 20
  payload : List (BitVec 128) := []
  crc : W32
  deriving DecidableEq, Repr

/-- A router: its waiting packets with the input they arrived on, its round-robin pointer per output. -/
structure Router where
  waiting : List (BitVec 3 × Packet) := []
  rr : Tbl (BitVec 3) := []
  /-- flits of the last packet of classes 1 to 3 at each output, until one of class 0 has gone (PKT_BLK0) -/
  other : Tbl Nat := []
  deriving DecidableEq, Repr

/-- A combining point of a reduction (R274): the OR of the payloads so far and the sources seen. -/
structure Combine where
  opc : Byte
  seq : BitVec 20
  seen : List Endpoint
  payload : BitVec 2048
  deriving DecidableEq, Repr

/-- The packet layer: routers, endpoints' inboxes, unacknowledged class 0 and 1 packets with their resends. -/
structure PacketNet where
  routers : Tbl Router := []
  inbox : Tbl (List Packet) := []
  unacked : List (Packet × Nat) := []
  combines : Tbl (List Combine) := []
  crcDrops : Nat := 0
  /-- class 3 packets with a bad CRC, which the host bridge reports to the host (R278) -/
  hostErrs : Nat := 0
  deriving DecidableEq, Repr

/-! ## External memory and DMA (chapter 11) -/

/-- What a memory burst serves, in the order of Table 11-7, and the DMA and host requesters. -/
inductive Requester where
  | weights (q : QueueId)
  | spill (q : QueueId)
  | prefetch (g : BitVec 2)
  | shadow (c : CoreId)
  | casting (net : NetId)
  | record (rout : BitVec 6)
  | image (q : QueueId)
  | candidate (u : BitVec 2)
  | intake (u : BitVec 2)
  | route
  | dma (n : BitVec 6)
  | host
  deriving DecidableEq, Repr

/-- A burst request at a channel controller (R387, R395). -/
structure BurstReq where
  who : Requester
  cls : BitVec 2
  part : PartId
  write : Bool
  addr : DevAddr
  bytes : Nat
  /-- the source bytes of a write, as storage addresses are filled when the burst is done -/
  data : List Byte := []
  /-- destination of a DMA copy's read -/
  dst : Option DevAddr := none
  /-- place of the burst within its descriptor, a tile or a stream -/
  off : Nat := 0
  /-- epoch of the words of a queue's burst, that of the network at issue (R249) -/
  epoch : BitVec 3 := 0#3
  /-- the burst ends a tile: its last word carries EOR -/
  last : Bool := false
  /-- the burst failed its check: CAUSE of R405 -/
  cause : Nat := 0
  /-- a DMA write whose bytes a faulting read has already counted (R410) -/
  counted : Bool := false
  /-- checked before issue (R411) -/
  pre : Bool := false
  /-- cancelled while under way: it brings no words (R134) -/
  dead : Bool := false
  /-- destination queue of a tile's burst, and the tag of the tile -/
  q : QueueId := 0#13
  tag : W64 := 0#64
  deriving DecidableEq, Repr

/-- A channel controller. -/
structure Channel where
  waiting : List BurstReq := []
  busy : Option BurstReq := none
  guard2 : Nat := 0
  guard3 : Nat := 0
  /-- round robin of class 0: the service whose turn is next (R395) -/
  rr0 : Nat := 0
  selfRefresh : Bool := false
  failed : Bool := false
  deriving DecidableEq, Repr

/-- A memory ring (Table 11-9). -/
structure Ring where
  up : Bool := false
  burst0 : W32 := 0#32
  burst1 : W32 := 0#32
  burst2 : W32 := 0#32
  burst3 : W32 := 0#32
  c0wait : W16 := 0#16
  guard : W16 := 0#16
  far : W32 := 0#32
  tfDma : W16 := 0#16
  tfOther : W16 := 0#16
  /-- bursts that wait for lane 8 toward this die's ring, oldest first (R394) -/
  lane8 : List BurstReq := []
  deriving DecidableEq, Repr

/-- A DMA descriptor (Table 11-6). -/
structure DmaDesc where
  src : W64 := 0#64
  dst : DevAddr := 0#40
  len : W32 := 0#32
  fill : Bool := false
  evt : Bool := false
  stop : Bool := false
  deriving DecidableEq, Repr

/-- A DMA channel (Table 11-10) with its descriptor in progress and its bursts in flight. -/
structure DmaChan where
  rbase : W32 := 0#32
  rsizeM1 : BitVec 12 := 0#12
  en : Bool := false
  tail : BitVec 12 := 0#12
  head : BitVec 12 := 0#12
  state : BitVec 2 := 0#2
  done : W16 := 0#16
  resume : W32 := 0#32
  faddr : BitVec 31 := 0#31
  fwrite : Bool := false
  desc : Option DmaDesc := none
  off : Nat := 0
  inFlight : Nat := 0
  fbytes : Nat := 0
  /-- CAUSE of the descriptor's first fault, 0 none -/
  fcause : Nat := 0
  /-- the host has aborted the descriptor, whose earlier bursts have not all completed (R411, R412) -/
  aborted : Bool := false
  deriving DecidableEq, Repr

/-! ## Ingest and chain links (chapter 12) -/

/-- An ingest lane (Table 12-6). -/
structure Lane where
  en : Bool := false
  ptpEn : Bool := false
  ip : W32 := 0#32
  /-- MAC address when the host has written it; none is the factory MAC -/
  macl : Option W32 := none
  mach : Option W16 := none
  link : Bool := false
  fecLock : Bool := false
  rxpkt : W32 := 0#32
  dropFifo : W16 := 0#16
  dropBad : W16 := 0#16
  fecunc : W32 := 0#32
  fifo : List Nat := []
  /-- frames sent: ARP replies, IGMP reports and PTP messages (R420) -/
  tx : List EthBody := []
  deriving DecidableEq, Repr

/-- The open block of a context (R429, R430). -/
structure Block where
  id : W64
  lastPid : Nat := 0
  /-- a leader that differs from the context made every line missing -/
  bad : Bool := false
  lines : Nat
  tstamp : W64
  /-- bytes of the block accounted for -/
  pos : Nat := 0
  /-- bytes of the line in progress, held in the ingest buffer -/
  held : List Byte := []
  /-- the line in progress is missing already -/
  broken : Bool := false
  deriving DecidableEq, Repr

/-- A stream context (Table 12-7). -/
structure Context where
  en : Bool := false
  lane : PartId := 0#5
  srcf : Bool := false
  tssrc : Bool := false
  udpport : W16 := 0#16
  srcip : W32 := 0#32
  net : NetId := 0#5
  grp : BitVec 4 := 0#4
  member : BitVec 4 := 0#4
  bound : Bool := false
  pktpay : W16 := 0#16
  blkh : W16 := 0#16
  blkto : W16 := 0#16
  memto : W16 := 0#16
  widthM1 : BitVec 14 := 0#14
  linesM1 : BitVec 14 := 0#14
  lscan : Bool := false
  pixfmt : BitVec 4 := 0#4
  zp : W16 := 0#16
  dest : QueueId := 0#13
  frames : W32 := 0#32
  refused : W32 := 0#32
  incomp : W32 := 0#32
  missl : W32 := 0#32
  pktlost : W32 := 0#32
  overrun : W32 := 0#32
  fmterr : W16 := 0#16
  dropinc : W16 := 0#16
  lastf : W32 := 0#32
  block : Option Block := none
  lastBlock : Option W64 := none
  /-- number of the member frame in progress or next, whether it has begun, the lines of it accounted for, and whether one of
  them is missing -/
  memFrame : W32 := 0#32
  begun : Bool := false
  line : Nat := 0
  incompleteNow : Bool := false
  /-- member frames whose lines MEMTO made missing before they came (R434) -/
  dead : List W32 := []
  deriving DecidableEq, Repr

/-- A chain channel in service (R447, R449). -/
structure Chan where
  img : ChanImg
  net : NetId := 0#5
  sent : Nat := 0
  /-- receiving end: words of the frame in progress so far; sending end: discard until a marker -/
  inFrame : Bool := false
  broken : Bool := false
  deriving DecidableEq, Repr

/-- The ingest engine, PTP and the chain ports. -/
structure Ingest where
  posport : W16 := 0#16
  chnid : BitVec 4 := 0#4
  domain : Byte := 0#8
  ptpState : BitVec 3 := 0#3
  plane : PartId := 0#5
  ptpOfs : W32 := 0#32
  lsec : W32 := 0#32
  lns : BitVec 30 := 0#30
  ltime : BitVec 48 := 0#48
  rej : W32 := 0#32
  wup : Bool := false
  eup : Bool := false
  wretry : Bool := false
  eretry : Bool := false
  clLat : Tbl W16 := []
  clFec : Tbl W32 := []
  clVoid : Tbl W32 := []
  ctxSel : BitVec 10 := 0#10
  lanes : Tbl Lane := []
  ctxs : Tbl Context := []
  chans : List Chan := []
  /-- words that left over chain links, sent (R447) or forwarded port to port (R448), newest last, with the port they left by -/
  forwarded : List (Bool × BitVec 5 × QWord) := []
  deriving DecidableEq, Repr

/-! ## Route memory (chapter 09) -/

/-- A position record (Table 9-4). -/
structure PosRec where
  fix : Bool := false
  rev : Bool := false
  nopos : Bool := false
  time : W64 := 0#64
  rdist : W32 := 0#32
  speed : W32 := 0#32
  unc : W32 := 0#32
  deriving DecidableEq, Repr

/-- Predictor state (RTE_STAT PSTATE). -/
inductive PredState where
  | idle | tracking | lost
  deriving DecidableEq, Repr

/-- A tile in a list (R344, R345): its destination, its tag fields and whether it has been delivered. -/
structure Tile where
  q : QueueId
  frame : W32
  bin : Int
  tile : Byte
  tstat : BitVec 2
  upol : BitVec 2
  pgen : BitVec 4
  epoch : BitVec 3
  addr : DevAddr
  /-- its place in the frame's list -/
  pos : Nat
  /-- data words whose bursts have been issued, and the words delivered, tag included -/
  sent : Nat := 0
  got : Nat := 0
  /-- position of the tag in the destination queue, once written -/
  at_ : Option W32 := none
  deriving DecidableEq, Repr

/-- The list of a frame, until every tile of it is delivered: its first bin, its direction and the places still to issue
(R344, R348). -/
structure RefList where
  frame : W32
  first : Int
  rev : Bool
  todo : List Nat
  deriving DecidableEq, Repr

/-- A reference group in service. -/
structure RefGroup where
  img : RefGroupImg
  net : NetId
  /-- newest frame whose list has been issued -/
  lastFrame : Option W32 := none
  /-- the latest offered frame and the PTP time of its first line; the first frame offered since the release or the last drop -/
  offered : Option (W32 × W64) := none
  firstOff : Option W32 := none
  /-- first bin of the last list, and the frame of the newest tile delivered -/
  lastFirst : Int := 0
  lastDel : Option W32 := none
  lists : List RefList := []
  tiles : List Tile := []
  deriving DecidableEq, Repr

/-- A bin's candidate (R353, R355). -/
structure Cand where
  bin : W32
  block : BitVec 25
  tainted : Bool := false
  blend : Bool := false
  /-- tiles written, by group and tile -/
  tiles : List (BitVec 2 × Byte) := []
  deriving DecidableEq, Repr

/-- What the candidate writer has in hand of an edge (R353): the FLAGS of the frame, and of the slot being read its words still to
come, the address of the next burst (none when the slot is dropped), the words held and the candidate's bin, group and tile. -/
structure CandIn where
  flags : Byte := 0#8
  left : Nat := 0
  addr : Option Nat := none
  held : List W64 := []
  bin : W32 := 0#32
  group : BitVec 2 := 0#2
  tile : Byte := 0#8
  deriving DecidableEq, Repr

/-- The position index, the predictor and the RTE block (Table 9-7). -/
structure Route where
  index : Tbl (BitVec 128) := []
  en : Bool := false
  laneEn : Bool := false
  hostEn : Bool := false
  poslane : PartId := 0#5
  binlen : BitVec 6 := 1#6
  horizon : BitVec 6 := 8#6
  commitlag : Byte := 16#8
  corrTh : W16 := 500#16
  posTo : W16 := 200#16
  pstate : PredState := .idle
  pgen : BitVec 4 := 0#4
  passOpen : Bool := false
  xbin : W32 := 0#32
  last : PosRec := {}
  haveRec : Bool := false
  corr : W32 := 0#32
  cancel : W32 := 0#32
  noref : W32 := 0#32
  posdisc : W16 := 0#16
  rej : W16 := 0#16
  uncover : W32 := 0#32
  uncEvt : Bool := false
  idxPart : W16 := 0#16
  idxUnc : W16 := 0#16
  /-- corrected words of plinth SRAM, counted as they are read (Table 1-4) -/
  sramCe : W32 := 0#32
  retire : W16 := 0#16
  retired : W16 := 0#16
  /-- a retire token waits, and the tags of the undelivered tiles issued before it was written -/
  retirePend : Bool := false
  retireTiles : List W64 := []
  passno : W32 := 0#32
  free : List (BitVec 25) := []
  candDrop : W16 := 0#16
  cands : List Cand := []
  pend : List Cand := []
  candIn : Tbl CandIn := []
  /-- bins that the lists of the open pass hold and that have not fallen due -/
  past : List W32 := []
  posin : List Byte := []
  groups : Tbl (Option RefGroup) := []
  deriving DecidableEq, Repr

/-! ## Adaptation (chapter 10) -/

/-- A replay slot as its header says (R369); rows and label lie in PSRAM. -/
structure Replay where
  frame : W32
  sstate : BitVec 3
  flags : Byte
  bytes : Nat
  deriving DecidableEq, Repr

/-- A chain of adapted head stages in service (Table 10-6). -/
structure AdChain where
  img : ChainImg
  next : W32 := 0#32
  slots : Tbl (Option Replay) := []
  deriving DecidableEq, Repr

/-- STATE of ADP_STAT; building (2) lasts within a batch end, stopped (6) shows while the companions are stopped. -/
inductive AdState where
  | off | accumulating | pendingHost | trial | marked
  deriving DecidableEq, Repr

/-- A weight with its moments (Table 10-2). -/
structure Wt where
  w : BitVec 16 := 0#16
  m : W32 := 0#32
  v : W32 := 0#32
  deriving DecidableEq, Repr

/-- An adaptation unit (Table 10-5). -/
structure Adapt where
  net : Option NetId := none
  en : Bool := false
  freeze : Bool := false
  ncommit : Byte := 0#8
  ntrial : BitVec 4 := 0#4
  xmask : Byte := 0x4B#8
  batch : W16 := 0#16
  replayM1 : BitVec 10 := 0#10
  lr : W32 := 0#32
  b1 : W32 := 0#32
  b2 : W32 := 0#32
  eps : W32 := 0#32
  clip : W32 := 0#32
  state : AdState := .off
  active : BitVec 2 := 0#2
  cand : BitVec 2 := 0#2
  pending : Bool := false
  batches : Byte := 0#8
  steps : W32 := 0#32
  stepsInBatch : Nat := 0
  cmt : W32 := 0#32
  discTrial : W16 := 0#16
  discHost : W16 := 0#16
  skipExcl : W16 := 0#16
  skipOver : W16 := 0#16
  gsat : W32 := 0#32
  lastf : W32 := 0#32
  gen : W32 := 0#32
  rej : W32 := 0#32
  /-- bank still in use by frames before F, not yet free (R380) -/
  busyBank : Option (BitVec 2) := none
  trialLeft : Nat := 0
  chains : Tbl (Option AdChain) := []
  stages : List AdStageImg := []
  /-- per stage slot: frames whose image load held the stage, and the last frame counted -/
  late : Tbl W32 := []
  lateFrame : Tbl W32 := []
  weights : Tbl Wt := []
  /-- device address of the master weights in the adaptation region, in units of 512 bytes (Table 10-2, R383) -/
  wbase : W32 := 0#32
  deriving DecidableEq, Repr

/-! ## Calipers' watch slots (Table 5-9, Table 5-10) -/

/-- A watch slot. -/
structure Watch where
  part : PartId := 0#5
  tensor : BitVec 12 := 0#12
  arm : Bool := false
  kt : BitVec 8 := 0#8
  s2 : W32 := 0#32
  driftTh : W32 := 0#32
  frame : W32 := 0#32
  count : W32 := 0#32
  sat : W32 := 0#32
  nan : W32 := 0#32
  const : W32 := 0#32
  sse : W32 := 0#32
  ssv : W32 := 0#32
  mse : W32 := 0#32
  rmse : W32 := 0#32
  sumv : W32 := 0#32
  kmaxn : W16 := 0#16
  kmin : Byte := 0#8
  kmax : Byte := 0#8
  valid : Bool := false
  complete : Bool := false
  drift : Bool := false
  notensor : Bool := false
  deriving DecidableEq, Repr

/-- The CAL block. -/
structure Cal where
  en : Bool := true
  late : W32 := 0#32
  driftEvt : W32 := 0#32
  s2upd : W32 := 0#32
  rej : W32 := 0#32
  watch : Tbl Watch := []
  deriving DecidableEq, Repr

/-! ## Host interface (chapter 13) -/

/-- An event record (Table 13-11). -/
structure Event where
  code : W16
  unsync : Bool
  aux : Byte
  eseq : W32
  time : W64
  args : List W32
  deriving DecidableEq, Repr

/-- The EVT block: event queue, stream settings, host presence (Table 13-17). -/
structure Evt where
  classen : W16 := 0x0FFE#16
  urgent : W16 := 0x0016#16
  queue : List Event := []
  lost : W32 := 0#32
  /-- losses since the last event queued (R470) -/
  lostRun : W32 := 0#32
  seq : W32 := 0#32
  strTh : Byte := 1#8
  strAge : W16 := 1000#16
  aged : Bool := false
  bseq : W32 := 0#32
  hostTo : W16 := 1000#16
  fallback : Bool := false
  silent : Bool := false
  fallen : Bool := false
  hostSil : W32 := 0#32
  /-- last blocks delivered, oldest first, at most 8 (R475) -/
  kept : List (List Byte) := []
  repeat_ : List (List Byte) := []
  /-- whose turn the next block is: true for records (R472) -/
  turnRec : Bool := false
  turnOut : Nat := 0
  deriving DecidableEq, Repr

/-- A record output (R473, R474): the items waiting in its ring, oldest first, with bytes already read. -/
structure Rout where
  net : NetId := 0#5
  stage : StageId := 0#11
  valid : Bool := false
  q : QueueId := 0#13
  rcv : BitVec 10 := 0#10
  part : PartId := 0#5
  ringBase : DevAddr := 0#40
  ringBytes : Nat := 0
  cap : Nat := 0
  width : Nat := 0
  rtype : Byte := 0#8
  items : List (List Byte) := []
  readOff : Nat := 0
  /-- words of the packet in hand still to read, and those read -/
  left : Nat := 0
  held : List QWord := []
  rseq : W32 := 0#32
  lost : W32 := 0#32
  lostRep : W32 := 0#32
  /-- when the last event 0xB002 was raised (R474) -/
  lostEvt : Option (BitVec 48) := none
  bad : W32 := 0#32
  wpos : Nat := 0
  deriving DecidableEq, Repr

/-- What a long command of the image store does when it ends. -/
inductive Job where
  | none
  | firmware (img : FwImg)
  | castingSet (slot : BitVec 3) (img : SetImg)
  | defaults (img : UdImg)
  | enrol (img : OwnerImg)
  | floor (which : BitVec 3)
  deriving DecidableEq, Repr

/-- A long mailbox command in flight. -/
structure LongCmd where
  tag : Byte
  opc : Byte
  result : W16
  job : Job := Job.none
  deriving DecidableEq, Repr

/-- The mailbox (Table 13-8). -/
structure Mbx where
  busy : Bool := false
  done : Bool := false
  ien : Bool := false
  tag : Byte := 0#8
  /-- OPC of the command last taken -/
  opc : Byte := 0#8
  result : W16 := 0#16
  rej : W32 := 0#32
  args : Tbl W32 := []
  res : Tbl W32 := []
  longs : List LongCmd := []
  deriving DecidableEq, Repr

/-- The SDIO card (chapter 13, The card) and function 3's registers. -/
structure Card where
  rca : W16 := 0#16
  selected : Bool := false
  inactive : Bool := false
  v18 : Bool := false
  /-- the next response carries ILLEGAL_COMMAND -/
  illegal : Bool := false
  /-- the last response and the bytes that the last command read -/
  resp : W32 := 0#32
  data : List Byte := []
  /-- the bytes of the CCCR and the FBR that the host writes -/
  cccr : Tbl Byte := []
  /-- an open-ended transfer of function 2 or 3 runs -/
  openFn : Option (BitVec 3) := none
  /-- the register whose bytes are staged, function 3's above 0x1FFFF, with the bytes; the register latched and its value (R462) -/
  stageAddr : Option (BitVec 18) := none
  staged : W32 := 0#32
  latchAddr : Option (BitVec 18) := none
  latched : W32 := 0#32
  bulkPage : BitVec 24 := 0#24
  bulkErr : W32 := 0#32
  deriving DecidableEq, Repr

/-! ## Resets, power, brown-out, supplies (chapters 14 and 16) -/

/-- PWR_STAT STATE. -/
inductive PwrState where
  | running | enterStandby | standby | enterDeep | deep | waking
  deriving DecidableEq, Repr

/-- A stage report record (Table 14-2). -/
structure BootRec where
  stage : Byte
  result : Byte
  flags : Byte
  net : Byte
  duration : W32
  boots : W32
  c0 : W32
  c1 : W32
  c2 : W32
  c3 : W32
  deriving DecidableEq, Repr

/-- The RST and PWR block and the bring-up sequencer (Table 14-10). -/
structure Pwr where
  armed : Bool := false
  lastKind : BitVec 3 := 6#3
  lastSrc : BitVec 3 := 4#3
  busy : List ResetKind := []
  warmCnt : W16 := 0#16
  dieCnt : W16 := 0#16
  rej : W32 := 0#32
  nofast : Bool := false
  firstFail : BitVec 4 := 0#4
  fast : Bool := false
  stopped : Bool := false
  bootTime : W32 := 0#32
  state : PwrState := .running
  psret : Bool := false
  stage : BitVec 4 := 1#4
  bootUs : Nat := 0
  restart : Bool := false
  /-- networks that stage 7 casts, with their slots, the one in hand first, and the aborts of that casting (R481, R489) -/
  bootNets : List (NetId × BitVec 3) := []
  aborts : Nat := 0
  ready : Bool := false
  fwUp : Bool := false
  resetHeld : Bool := false
  supplyFail : Bool := false
  /-- stage 3 trains every PSRAM channel in full: deep standby did not retain them (R498) -/
  fullTrain : Bool := false
  deriving DecidableEq, Repr

/-- A compute die (Table 14-10, brown-out registers; AVS). -/
structure Die where
  warn : Bool := false
  resetLvl : Bool := false
  /-- the networks cast on the die before a brown-out reset, to be cast again, each with its lowest partition there and whether it
  waits for a BOACK that names that partition (R504) -/
  recastNets : List (NetId × PartId × Bool) := []
  testing : Bool := false
  episode : Bool := false
  boMin : W16 := 0#16
  warns : W16 := 0#16
  resets : W16 := 0#16
  dur : W32 := 0#32
  avs : W16 := 800#16
  /-- setpoint the monitor takes while a step settles (R534) -/
  monitorAvs : W16 := 800#16
  /-- setpoint sent and not acknowledged (R543) -/
  unackedAvs : Option W16 := none
  vbase : W16 := 800#16
  vmax : W16 := 900#16
  railOn : Bool := true
  inReset : Bool := false
  deriving DecidableEq, Repr

/-- A gated clock domain (Table 14-12). -/
structure Dom where
  gated : Bool := false
  powered : Bool := true
  gates : W32 := 0#32
  deriving DecidableEq, Repr

/-- The root PLL (R52 to R54). -/
structure Pll where
  locked : Bool := true
  lossTimer : Bool := false
  lossOn : Bool := false
  stableTimer : Bool := false
  deriving DecidableEq, Repr

/-- The pins and straps (Table 16-3). -/
structure Pins where
  resetN : Bool := true
  testN : Bool := true
  strap : BitVec 2 := 0#2
  pmbStatus : W16 := 0#16
  /-- PMBus targets base + 2 to base + 5 that answer (R544), and the rails VPS, VPSQ, VDDA_OPT and VCC_OPT that are on (R548) -/
  pmbTargets : BitVec 4 := 0#4
  rails : BitVec 4 := 0xF#4
  deriving DecidableEq, Repr

/-- TAP instructions (R554). -/
inductive TapInstr where
  | bypass | idcode | sample | extest
  deriving DecidableEq, Repr

/-- The test access port: its instruction and what its data register holds. -/
structure Tap where
  instr : TapInstr := .idcode
  dr : W32 := 0#32
  boundary : BitVec 28 := 0#28
  deriving DecidableEq, Repr

/-! ## Health (chapter 15) -/

/-- A fence-log or fence-list entry (Table 15-4). -/
structure Fence where
  phys : CoreId
  cause : BitVec 3
  gen : W32
  deriving DecidableEq, Repr

/-- The HLT block, the fence log, and the parts of the health record that the fence engine, bring-up and ageing
read: kept through every reset and state (Table 14-6, row 2) but for the registers named. -/
structure Health where
  fences : List Fence := []
  flog : List Fence := []
  flogFull : Bool := false
  fsel : BitVec 11 := 0#11
  wdHeld : Bool := false
  wdCnt : W16 := 0#16
  bankChg : W16 := 0#16
  wdSig : W32 := 0#32
  /-- expiries since the last change of bank, newest first (R526) -/
  wdTimes : List (BitVec 48) := []
  wdSwitched : Bool := false
  wdExpected : W32 := 0#32
  fwDown : Bool := false
  mqInt : BitVec 12 := 10#12
  mqRun : W32 := 0#32
  mqMis : W16 := 0#16
  mqTrans : W16 := 0#16
  mqUnloc : W16 := 0#16
  mqFenced : W16 := 0#16
  rtPassed : BitVec 12 := 0#12
  rtFailed : BitVec 12 := 0#12
  rtSegs : Byte := 0#8
  /-- cores a RETEST still has to test -/
  retest : List CoreId := []
  retestAll : Bool := false
  /-- cores of partitions in retention or off that have passed a RETEST: released at the next casting (Table 15-3) -/
  passed : List CoreId := []
  mapgen : W32 := 0#32
  defects : List CoreId := []
  badSegs : List SegId := []
  trained : Bool := false
  restarted : Bool := false
  boots : W32 := 0#32
  bootlog : List (List BootRec) := []
  /-- daily patina records, newest first: the partition, the day and the oscillator drift -/
  patina : List (PartId × Nat × W16) := []
  deriving DecidableEq, Repr

/-! ## The image store (chapter 08): everything the signed container holds -/

/-- The factory region (Table 8-2): never written by firmware (R292). -/
structure Factory where
  verifies : Bool := true
  l : Bool := false
  die1 : Bool := true
  goodCores : Nat := 1984
  clkMhz : Nat := 600
  lanes : Nat := 32
  macbase : BitVec 48 := 0#48
  certDigest : BitVec 512 := 0#512
  factDigest : BitVec 512 := 0#512
  flashUid : BitVec 128 := 0#128
  /-- the vendor key, held in the boot ROM -/
  vendorKey : Nat := 1
  pufOk : Bool := true
  defaults : List DefEntry := []
  revision : BitVec 4 := 0#4
  deriving DecidableEq, Repr

/-- The image store: firmware banks, owner records, user defaults, casting-set slots and the version floors and
generation of the health record. -/
structure Store where
  factory : Factory := {}
  bankA : Option FwImg := some ⟨1#24, 1, 0#512, []⟩
  bankB : Option FwImg := none
  runB : Bool := false
  owner : Option OwnerImg := none
  udA : Option UdImg := none
  udB : Option UdImg := none
  udCurB : Bool := false
  slots : Tbl (Option SetImg) := []
  fwFloor : W32 := 0#32
  setFloor : W32 := 0#32
  udFloor : W32 := 0#32
  ownFloor : W32 := 0#32
  hgen : W64 := 0#64
  lastSet : Option (BitVec 3) := none
  healthOk : Bool := true
  deriving DecidableEq, Repr

/-! ## The whole machine -/

/-- Why a command ends the run. No command of this block does: the spec gives every stop of a unit as a state
of that unit (a core stopped by a fault, a frozen channel, a held partition). The one constructor exists because
the interface asks for the type; nothing raises it. -/
inductive Fault where
  | never
  deriving DecidableEq, Repr

/-- Why a command has no meaning. -/
inductive Refusal where
  /-- The command's meaning is not modelled; raised by no command of this model. -/
  | notModelled (mnemonic : String)
  /-- A chunk that is no chunk: not 32 words, or an index past the last chunk of its section (R309, R310); raised by the chunk commands.
  Safe: no such command exists on the hardware. -/
  | illFormed
  deriving DecidableEq, Repr

/-- Everything in the device that resets and commands reach, the image store apart. -/
structure Dev where
  l : Bool := false
  die1 : Bool := true
  pll : Pll := {}
  pins : Pins := {}
  /-- TIME (R50) and the PTP nanoseconds in thirds since power-on -/
  time : BitVec 48 := 0#48
  ptpThirds : Nat := 0
  /-- counter of the free values taken -/
  fresh : Nat := 0
  xptPage : BitVec 15 := 0#15
  xptWen : Bool := false
  xptRej : W32 := 0#32
  cores : Tbl Core := []
  queues : Tbl Queue := []
  clusters : Tbl Cluster := []
  parts : Tbl Partition := []
  nets : Tbl Network := []
  /-- logical to physical map (R36): the physical core of each logical ID, none when unmapped or vacant -/
  map : Tbl (Option CoreId) := []
  packets : PacketNet := {}
  bridgeAbsorb : Tbl W32 := []
  psram : Tbl Byte := []
  chans : Tbl Channel := []
  rings : Tbl Ring := []
  hot : BitVec 12 := 0#12
  memRej : W32 := 0#32
  dma : Tbl DmaChan := []
  ing : Ingest := {}
  route : Route := {}
  adapt : Tbl Adapt := []
  cal : Cal := {}
  /-- caliper reports on their way to the collectors and to the maquette checker (R191), and new scales on their way to the
  producing cores (R183) -/
  reports : List CalReport := []
  scales : List (CoreId × BitVec 12 × W32) := []
  /-- block reports on their way to the maquette checker (R528) -/
  blockReps : List (NetId × BlockRep) := []
  evt : Evt := {}
  routs : Tbl Rout := []
  mbx : Mbx := {}
  card : Card := {}
  pwr : Pwr := {}
  dies : Tbl Die := []
  doms : Tbl Dom := []
  health : Health := {}
  deriving DecidableEq, Repr

/-- The machine: the commands that wait, first in first out, the device, its image store and its test port. -/
structure State where
  pending : List Instr := []
  dev : Dev := {}
  store : Store := {}
  tap : Tap := {}
  deriving DecidableEq, Repr

/-- The device right after power-on: no network cast, bring-up in stage 1, the empty queue of commands.
The values that the spec gives none for are those of assumptions 5, 6 and 7 (DESIGN CHOICE): unsafe. -/
def State.reset : State := {}

/-- What a command answers. -/
abbrev Ans := Host.Outcome State Fault Refusal

end Sys2Proof.Machine
end

