-- ==== Sys2Proof/Machine/Ops.lean ====
section
/-! DEFINITION. The named operations that every family shares: reading and changing one unit of the device, saturating
counters, events (R469, R470), partition modes (R465, R479) and free values. -/
namespace Sys2Proof

/-- Bits [63:60] of a marker's payload (Table 6-4). -/
def QWord.mtype (w : QWord) : BitVec 4 := w.payload.extractLsb' 60 4
/-- The word is a frame-start marker. -/
def QWord.isStart (w : QWord) : Bool := w.kind == .marker && w.mtype == 1#4
/-- The word is a gap marker. -/
def QWord.isGap (w : QWord) : Bool := w.kind == .marker && w.mtype == 3#4
/-- A void word of an epoch. -/
def voidWord (e : BitVec 3) (eor eof : Bool) : QWord := { payload := 0#64, kind := .void, eor := eor, eof := eof, epoch := e }
/-- A frame-start marker (Table 2-4). -/
def startMarker (frame : W32) (ctx : BitVec 10) (flags : Byte) (epoch : BitVec 3) : QWord :=
  { payload := 1#4 ++ 0#4 ++ flags ++ 0#6 ++ ctx ++ frame, kind := .marker, epoch := epoch }
/-- FRAME of a frame-start marker. -/
def QWord.frame (w : QWord) : W32 := w.payload.extractLsb' 0 32
/-- CTX of a frame-start marker. -/
def QWord.ctx (w : QWord) : BitVec 10 := w.payload.extractLsb' 32 10
/-- FLAGS of a frame-start marker. -/
def QWord.flags (w : QWord) : Byte := w.payload.extractLsb' 48 8
/-- The frame that a frame-start marker begins: its number, and whether it is a maquette frame (R79). -/
def QWord.frameKey (w : QWord) : W32 × Bool := (w.frame, w.flags.getLsbD 6)
/-- The tag bits [71:64] as stored, V included. -/
def QWord.tag (w : QWord) : Byte :=
  w.epoch ++ (if w.eof then 1#1 else 0#1) ++ (if w.eor then 1#1 else 0#1) ++
    (match w.kind with | .data => 0#2 | .header => 1#2 | .marker => 2#2 | .void => 3#2) ++ 1#1

/-- The word that a payload and a tag spell; none when V is 0 (Table 6-2). -/
def wordOfTag (payload : W64) (t : Byte) : Option QWord :=
  if t.getLsbD 0 then
    some { payload := payload,
           kind := (if t.getLsbD 2 then (if t.getLsbD 1 then .void else .marker)
                    else (if t.getLsbD 1 then .header else .data)),
           eor := t.getLsbD 3, eof := t.getLsbD 4, epoch := t.extractLsb' 5 3 }
  else none

end Sys2Proof

namespace Sys2Proof.Machine

open Sys2Proof

/-! ## Saturating counters -/

/-- One more, saturating at the largest value. -/
def satInc {n : Nat} (x : BitVec n) : BitVec n := if x = BitVec.allOnes n then x else x + 1#n

/-- `k` more, saturating at the largest value. -/
def satAdd {n : Nat} (x : BitVec n) (k : Nat) : BitVec n :=
  if x.toNat + k < 2 ^ n then BitVec.ofNat n (x.toNat + k) else BitVec.allOnes n

/-- A number in `n` bits, saturating. -/
def satOf (n k : Nat) : BitVec n := if k < 2 ^ n then BitVec.ofNat n k else BitVec.allOnes n

/-! ## Units of the device -/

def Dev.core (d : Dev) (c : CoreId) : Core := tblGet {} d.cores c.toNat
def Dev.modCore (d : Dev) (c : CoreId) (f : Core → Core) : Dev := { d with cores := tblMod {} d.cores c.toNat f }
def Dev.queue (d : Dev) (q : QueueId) : Queue := tblGet {} d.queues q.toNat
def Dev.setQueue (d : Dev) (q : QueueId) (v : Queue) : Dev := { d with queues := tblSet {} d.queues q.toNat v }
def Dev.modQueue (d : Dev) (q : QueueId) (f : Queue → Queue) : Dev := { d with queues := tblMod {} d.queues q.toNat f }
def Dev.part (d : Dev) (p : PartId) : Partition := tblGet {} d.parts p.toNat
def Dev.modPart (d : Dev) (p : PartId) (f : Partition → Partition) : Dev :=
  { d with parts := tblMod {} d.parts p.toNat f }
def Dev.net (d : Dev) (n : NetId) : Network := tblGet {} d.nets n.toNat
def Dev.modNet (d : Dev) (n : NetId) (f : Network → Network) : Dev := { d with nets := tblMod {} d.nets n.toNat f }
def Dev.cluster (d : Dev) (c : ClusterId) : Cluster := tblGet {} d.clusters c.toNat
def Dev.modCluster (d : Dev) (c : ClusterId) (f : Cluster → Cluster) : Dev :=
  { d with clusters := tblMod {} d.clusters c.toNat f }
def Dev.die (d : Dev) (i : Nat) : Die := tblGet {} d.dies i
def Dev.modDie (d : Dev) (i : Nat) (f : Die → Die) : Dev := { d with dies := tblMod {} d.dies i f }
def Dev.chan (d : Dev) (i : Nat) : Channel := tblGet {} d.chans i
def Dev.modChan (d : Dev) (i : Nat) (f : Channel → Channel) : Dev := { d with chans := tblMod {} d.chans i f }
def Dev.ring (d : Dev) (i : Nat) : Ring := tblGet {} d.rings i
def Dev.modRing (d : Dev) (i : Nat) (f : Ring → Ring) : Dev := { d with rings := tblMod {} d.rings i f }
def Dev.dmaCh (d : Dev) (n : BitVec 6) : DmaChan := tblGet {} d.dma n.toNat
def Dev.modDma (d : Dev) (n : BitVec 6) (f : DmaChan → DmaChan) : Dev := { d with dma := tblMod {} d.dma n.toNat f }
def Dev.lane (d : Dev) (l : PartId) : Lane := tblGet {} d.ing.lanes l.toNat
def Dev.modIng (d : Dev) (f : Ingest → Ingest) : Dev := { d with ing := f d.ing }
def Dev.modLane (d : Dev) (l : PartId) (f : Lane → Lane) : Dev :=
  d.modIng (fun g => { g with lanes := tblMod {} g.lanes l.toNat f })
def Dev.ctx (d : Dev) (c : BitVec 10) : Context := tblGet {} d.ing.ctxs c.toNat
def Dev.modCtx (d : Dev) (c : BitVec 10) (f : Context → Context) : Dev :=
  d.modIng (fun g => { g with ctxs := tblMod {} g.ctxs c.toNat f })
def Dev.modRoute (d : Dev) (f : Route → Route) : Dev := { d with route := f d.route }
def Dev.adaptU (d : Dev) (u : BitVec 2) : Adapt := tblGet {} d.adapt u.toNat
def Dev.modAdapt (d : Dev) (u : BitVec 2) (f : Adapt → Adapt) : Dev := { d with adapt := tblMod {} d.adapt u.toNat f }
def Dev.modCal (d : Dev) (f : Cal → Cal) : Dev := { d with cal := f d.cal }
def Dev.modEvt (d : Dev) (f : Evt → Evt) : Dev := { d with evt := f d.evt }
def Dev.rout (d : Dev) (n : BitVec 6) : Rout := tblGet {} d.routs n.toNat
def Dev.modRout (d : Dev) (n : BitVec 6) (f : Rout → Rout) : Dev := { d with routs := tblMod {} d.routs n.toNat f }
def Dev.modMbx (d : Dev) (f : Mbx → Mbx) : Dev := { d with mbx := f d.mbx }
def Dev.modCard (d : Dev) (f : Card → Card) : Dev := { d with card := f d.card }
def Dev.modPwr (d : Dev) (f : Pwr → Pwr) : Dev := { d with pwr := f d.pwr }
def Dev.modHealth (d : Dev) (f : Health → Health) : Dev := { d with health := f d.health }

/-- Apply `f` to every core that a list names. -/
def Dev.modCores (d : Dev) (cs : List CoreId) (f : Core → Core) : Dev := cs.foldl (fun e c => e.modCore c f) d
/-- Apply `f` to every partition that a list names. -/
def Dev.modParts (d : Dev) (ps : List PartId) (f : Partition → Partition) : Dev :=
  ps.foldl (fun e p => e.modPart p f) d

/-! ## Numbering -/

def allParts : List PartId := (List.range 32).map (BitVec.ofNat 5)
def allNets : List NetId := (List.range 32).map (BitVec.ofNat 5)
/-- The 64 cores of a partition (R23, Table 1-5). -/
def coresOfPart (p : PartId) : List CoreId := (List.range 64).map (fun i => BitVec.ofNat 11 (p.toNat * 64 + i))
/-- The 16 cores of a cluster. -/
def coresOfCluster (c : ClusterId) : List CoreId := (List.range 16).map (fun i => BitVec.ofNat 11 (c.toNat * 16 + i))
/-- The four clusters of a partition. -/
def clustersOfPart (p : PartId) : List ClusterId := (List.range 4).map (fun i => BitVec.ofNat 7 (p.toNat * 4 + i))
/-- The sixteen partitions of a die. -/
def partsOfDie (i : Nat) : List PartId := (List.range 16).map (fun k => BitVec.ofNat 5 (i * 16 + k))

/-- The die of a number is populated (R6: no die 1 on the HK-W9620). Assumption 5 (DESIGN CHOICE): unsafe. -/
def Dev.diePresent (d : Dev) (i : Nat) : Bool := i == 0 || d.die1

/-- The queues that the device lists, with their numbers. -/
def Dev.queueIds (d : Dev) : List QueueId := d.queues.map (fun e => BitVec.ofNat 13 e.1)
/-- The cores that the device lists. -/
def Dev.coreIds (d : Dev) : List CoreId := d.cores.map (fun e => BitVec.ofNat 11 e.1)
/-- The networks that the device lists. -/
def Dev.netIds (d : Dev) : List NetId := d.nets.map (fun e => BitVec.ofNat 5 e.1)

/-- The partitions of a network: those whose NET names it while they are not uncast (R83). -/
def Dev.partsOfNet (d : Dev) (n : NetId) : List PartId :=
  allParts.filter (fun p => (d.part p).cast != .uncast && (d.part p).net == n)
/-- A partition is a companion partition of its network (R361). -/
def Dev.companion (d : Dev) (n : NetId) (p : PartId) : Bool :=
  match (d.net n).img with | some im => im.companions.contains p | none => false
/-- The partitions that act as one network with a partition: the companions of a network, or the others (R365). -/
def Dev.domain (d : Dev) (n : NetId) (p : PartId) : List PartId :=
  (d.partsOfNet n).filter (fun q => d.companion n q == d.companion n p)
/-- An open adaptation batch of a network is discarded (Table 10-4). -/
def Dev.batchLost (d : Dev) (n : NetId) : Dev :=
  { d with adapt := tblMap {} d.adapt (fun _ a => if a.net == some n then { a with stepsInBatch := 0 } else a) }
/-- The queues owned by a partition. -/
def Dev.queuesOfPart (d : Dev) (p : PartId) : List QueueId := d.queueIds.filter (fun q => partOfQueue q == p)
/-- The queues of a network. -/
def Dev.queuesOfNet (d : Dev) (n : NetId) : List QueueId :=
  d.queueIds.filter (fun q => (d.queue q).net == n && (d.queue q).cap != 0)
/-- The assigned cores of a network. -/
def Dev.coresOfNet (d : Dev) (n : NetId) : List CoreId :=
  d.coreIds.filter (fun c => (d.core c).assigned && (d.core c).net == n)
/-- The cores of a stage of a network. -/
def Dev.coresOfStage (d : Dev) (n : NetId) (st : StageId) : List CoreId :=
  (d.coresOfNet n).filter (fun c => (d.core c).stage == st)
/-- The lowest partition of a network (Table 13-6). -/
def Dev.lowestPart (d : Dev) (n : NetId) : Option PartId := (d.partsOfNet n).head?

/-- The partition is cast and its units run: released, or stopped or draining with its contents kept, powered and
out of reset (R32, R46). -/
def Partition.live (p : Partition) : Bool :=
  (p.cast == .released || p.cast == .stopped || p.cast == .draining) && p.power == .on && !p.inReset && !p.shut

/-- A core fenced: on the fence list, or in the fence log from which firmware has not yet committed it (R511). -/
def Dev.fenced (d : Dev) (c : CoreId) : Bool :=
  d.health.fences.any (fun f => f.phys == c) || d.health.flog.any (fun f => f.phys == c) || (d.core c).state == .fenced
/-- A core that is neither defective nor fenced (R40). -/
def Dev.good (d : Dev) (c : CoreId) : Bool := !d.fenced c && !d.health.defects.contains c

/-! ## Free values -/

/-- A free value of `n` bits: the spec fixes none, and the counter moves on. -/
def Dev.free (d : Dev) (n : Nat) : BitVec n × Dev :=
  ((Config.freeWord d.fresh).setWidth n, { d with fresh := d.fresh + 1 })

/-- `n` free bytes. -/
def Dev.freeBytes (d : Dev) (n : Nat) : List Byte × Dev :=
  ((List.range n).map (fun i => (Config.freeWord (d.fresh + i)).setWidth 8), { d with fresh := d.fresh + n })

/-- A read of a cluster's program cache: the words that SECDED corrects are counted, and a line with more wrong is reloaded from the
shadow, so that what is read is right (Table 1-4). Assumption 131 (DESIGN CHOICE): safe. -/
def Dev.cacheRead (d : Dev) (cl : ClusterId) : Dev :=
  let (n, d1) := d.free 8
  d1.modCluster cl (fun x => { x with cacheCe := satAdd x.cacheCe n.toNat })

/-- A read of plinth SRAM: the words that SECDED corrects are counted (Table 1-4).
Assumption 131 (DESIGN CHOICE): safe. -/
def Dev.sramRead (d : Dev) : Dev :=
  let (n, d1) := d.free 8
  d1.modRoute (fun r => { r with sramCe := satAdd r.sramCe n.toNat })

/-! ## Time and events -/

/-- PTP time in nanoseconds (Table 13-11). -/
def Dev.ptpNow (d : Dev) : W64 := BitVec.ofNat 64 (d.ptpThirds / 3)

/-- The most events that the event queue holds (R470). Assumption 127 (UNVERIFIED): unsafe. -/
def evtMax : Nat := 2048

/-- The class of an event code (Table 13-11). -/
def evtClass (code : W16) : Nat := code.toNat / 4096

/-- Put an event at the end of the event queue, with the next ESEQ. -/
def Evt.push (e : Evt) (code : W16) (unsync : Bool) (aux : Byte) (time : W64) (args : List W32) : Evt :=
  { e with queue := e.queue ++ [⟨code, unsync, aux, e.seq, time, args⟩], seq := e.seq + 1#32 }

/-- Queue an event (R470): not of a disabled class; lost when the queue is full; after a loss preceded by 0xB001.
Assumption 47 (DEDUCED): unsafe. -/
def Evt.put (e : Evt) (code : W16) (unsync : Bool) (aux : Byte) (time : W64) (args : List W32) : Evt :=
  if !e.classen.getLsbD (evtClass code) then e
  else
    let report := e.lostRun != 0#32 && e.classen.getLsbD 11
    let need := if report then 2 else 1
    if e.queue.length + need ≤ evtMax then
      let e1 := if report then e.push 0xB001#16 unsync 0xFF#8 time [e.lostRun] else e
      { e1.push code unsync aux time args with lostRun := 0#32 }
    else { e with lost := satInc e.lost, lostRun := satInc e.lostRun }

/-- Raise an event with an AUX byte. -/
def Dev.raiseAux (d : Dev) (code : W16) (aux : Byte) (args : List W32) : Dev :=
  d.modEvt (fun e => e.put code (d.ing.ptpState != 3#3) aux d.ptpNow args)

/-- Raise an event that names a partition. -/
def Dev.raise (d : Dev) (code : W16) (p : PartId) (args : List W32) : Dev := d.raiseAux code (p.setWidth 8) args

/-- Raise an event that names no partition. -/
def Dev.raise0 (d : Dev) (code : W16) (args : List W32) : Dev := d.raiseAux code 0xFF#8 args

/-- A number in an event's argument. -/
def arg32 {n : Nat} (x : BitVec n) : W32 := x.setWidth 32

/-! ## Host writes (R459, R479) -/

/-- Function 1 answers beyond the ID block: firmware has started (R459), and the package is not in deep standby (Table 14-5). -/
def Dev.f1 (d : Dev) : Bool := d.pwr.fwUp && d.pwr.state != .deep
/-- A command of the host has come: it is neither silent nor fallen back on (R479). -/
def Dev.hostHere (d : Dev) : Dev := { d with evt := { d.evt with silent := false, fallen := false } }
/-- A whole register is written: bytes staged for another are discarded (R462). Assumption 101 (DEDUCED): unsafe. -/
def Dev.hostWrote (d : Dev) : Dev := d.hostHere.modCard (fun c => { c with stageAddr := none, staged := 0#32 })
/-- The copper signals are the device's: EXTEST has not taken them from it (R554). -/
def State.bus (s : State) : Bool := s.tap.instr != .extest
/-- A host write of a register: ignored while function 1 does not answer, and not seen while SDIO stops.
Assumption 11 (DESIGN CHOICE): safe. -/
def hostWrite (f : Dev → Dev) (s : State) : State :=
  if s.bus then { s with dev := if s.dev.f1 then f s.dev.hostWrote else s.dev.hostWrote } else s
/-- A host write of the RST and PWR block, which answers in deep standby too (Table 14-5). -/
def hostWritePwr (f : Dev → Dev) (s : State) : State :=
  if s.bus then { s with dev := if s.dev.pwr.fwUp then f s.dev.hostWrote else s.dev.hostWrote } else s
/-- A host write of the page of a partition: an absent one ignores it (R6). -/
def hostWritePart (p : PartId) (f : Dev → Dev) (s : State) : State := hostWrite (fun d => if d.diePresent (dieOfPart p) then f d else d) s
/-- The expert pages of a die are served: it is present, powered and out of reset (Table 13-18).
Assumption 100 (DEDUCED): unsafe. -/
def Dev.expertLive (d : Dev) (i : Nat) : Bool := d.diePresent i && (d.die i).railOn && !(d.die i).inReset
/-- A host write of an expert page of a die. -/
def hostWriteDie (die : Nat) (f : Dev → Dev) (s : State) : State := hostWrite (fun d => if d.expertLive die then f d else d) s

/-! ## Modes (R465, R467, R479) -/

/-- A function is in host-assisted mode in a partition, unless the host is silent and fallback is in force. -/
def Dev.hostMode (d : Dev) (p : PartId) (bit : Nat) : Bool := (d.part p).mode.getLsbD bit && !d.evt.fallen

/-! ## Mapping generation (R37) -/

/-- A change of an entry of the logical-to-physical map. Assumption 59 (DEDUCED): unsafe. -/
def Dev.bumpMap (d : Dev) : Dev := d.modHealth (fun h => { h with mapgen := h.mapgen + 1#32 })

/-- The queue managers of a partition copy an entry of the master map (R36): the core of the partition that holds the ID, or none. -/
def Dev.copyMap (d : Dev) (l : LogicalId) (p : PartId) (c : Option CoreId) : Dev :=
  (clustersOfPart p).foldl (fun d cl => d.modCluster cl (fun x => { x with map := tblSet none x.map l.toNat c })) d

/-- A change of the logical-to-physical map, in the master map and in the copies of the partitions that it leaves and enters; the
map generation counts it (R36, R37). -/
def Dev.mapTo (d : Dev) (l : LogicalId) (c : Option CoreId) : Dev :=
  let d1 := match tblGet none d.map l.toNat with | some o => d.copyMap l (partOfCore o) none | none => d
  let d2 := match c with | some x => d1.copyMap l (partOfCore x) c | none => d1
  ({ d2 with map := tblSet none d2.map l.toNat c }).bumpMap

/-- The entries of the master map that hold a core: what emptying it changes (R37). -/
def Dev.mapped (d : Dev) : Nat := (d.map.filter (fun e => e.2.isSome)).length

/-- The network's current frame number: that of the last frame that its lowest admission group offered. -/
def Network.frameNow (n : Network) : W32 :=
  match n.groups with
  | (_, some g) :: _ => if g.counter == 0#32 && g.live.isEmpty then 0#32 else g.counter - 1#32
  | _ => 0#32

/-! ## Bytes -/

/-- The bytes of a 64-bit word, little-endian (R13). -/
def bytes64 (w : W64) : List Byte := (List.range 8).map (fun i => w.extractLsb' (8 * i) 8)
/-- The bytes of a 32-bit word, little-endian. -/
def bytes32 (w : W32) : List Byte := (List.range 4).map (fun i => w.extractLsb' (8 * i) 8)
/-- The bytes of a 16-bit word, little-endian. -/
def bytes16 (w : W16) : List Byte := [w.extractLsb' 0 8, w.extractLsb' 8 8]
/-- The number that little-endian bytes spell. -/
def leNat : List Byte → Nat
  | [] => 0
  | b :: t => b.toNat + 256 * leNat t
/-- The number that big-endian bytes spell (R13, Hokucia formats on optical lanes). -/
def beNat (l : List Byte) : Nat := leNat l.reverse

end Sys2Proof.Machine
end

