-- ==== Sys2Proof/Machine/Window.lean ====
section
/-! DEFINITION. The address generators (chapter 04): the fields of their descriptors (Table 4-2, Table 4-3), the
window geometry and the classes of a tap (R144, R145), regrouping (R155), the layout of a stored row (R142), linear
addresses (R140), the rotation of row blocks (R67) and the first row that an output row needs (R158). -/
namespace Sys2Proof.Machine

open Sys2Proof

/-- Bits [hi:lo] of a word as a number. -/
def bits (w : W64) (lo n : Nat) : Nat := w.toNat / 2 ^ lo % 2 ^ n

/-- A window descriptor, decoded (Table 4-2): sizes, not sizes minus 1. -/
structure WinDesc where
  iw : Nat
  ih : Nat
  ch : Nat
  fmt : Fmt
  /-- rows carry a header word: A4 and A8, and the gradient rows of a companion (R142, R372) -/
  hdr : Bool
  m : Nat
  opk : Nat
  lpix : Nat
  ltap : Nat
  lgrp : Nat
  regrp : Nat
  kh : Nat
  kw : Nat
  sh : Nat
  sw : Nat
  dh : Nat
  dw : Nat
  zh : Nat
  zw : Nat
  bh : Nat
  bw : Nat
  g : Nat
  pt : Nat
  pb : Nat
  pl : Nat
  pr : Nat
  padsrc : Bool
  padc : Nat
  rpitch : Nat
  pbw : Nat
  rb : Nat
  ncore : Nat
  cidx : Nat
  deriving DecidableEq, Repr

/-- The fields of a window descriptor's four words (Table 4-2). -/
def winDesc (grad : Bool) (w0 w1 w2 w3 : W64) : WinDesc :=
  let f := fmtOfCode (bits w0 38 3)
  { iw := bits w0 0 14 + 1, ih := bits w0 14 14 + 1, ch := bits w0 28 10 + 1, fmt := f, hdr := fmtHasHeader f || (grad && f == .e5m2),
    m := bits w0 41 4 + 1, opk := bits w0 45 4, lpix := bits w0 49 4, ltap := bits w0 53 4, lgrp := bits w0 57 4,
    regrp := bits w0 61 2,
    kh := bits w1 0 5 + 1, kw := bits w1 5 5 + 1, sh := bits w1 10 6 + 1, sw := bits w1 16 6 + 1,
    dh := bits w1 22 8 + 1, dw := bits w1 30 8 + 1, zh := bits w1 38 4 + 1, zw := bits w1 42 4 + 1,
    bh := bits w1 46 4 + 1, bw := bits w1 50 4 + 1, g := bits w1 54 10 + 1,
    pt := bits w2 0 8, pb := bits w2 8 8, pl := bits w2 16 8, pr := bits w2 24 8,
    padsrc := bits w2 34 1 == 1, padc := bits w2 35 16,
    rpitch := bits w3 0 18, pbw := bits w3 18 6 + 1, rb := bits w3 24 8 + 1, ncore := bits w3 32 10 + 1,
    cidx := bits w3 42 10 }

/-- A row-output descriptor, decoded (Table 4-3). -/
structure OutDesc where
  ow : Nat
  oh : Nat
  co : Nat
  m : Nat
  opk : Nat
  lpix : Nat
  lout : Nat
  finq : Nat
  pbw : Nat
  rb : Nat
  ncore : Nat
  cidx : Nat
  deriving DecidableEq, Repr

/-- The fields of a row-output descriptor's words. -/
def outDesc (w0 w1 w3 : W64) : OutDesc :=
  { ow := bits w0 0 14 + 1, oh := bits w0 14 14 + 1, co := bits w0 28 10 + 1, m := bits w0 41 4 + 1,
    opk := bits w0 45 4, lpix := bits w0 49 4, lout := bits w0 53 4, finq := bits w1 0 13,
    pbw := bits w3 18 6 + 1, rb := bits w3 24 8 + 1, ncore := bits w3 32 10 + 1, cidx := bits w3 42 10 }

/-- A word of a core's descriptor: address generator, index, word. -/
def Core.descWord (k : Core) (ag idx w : Nat) : W64 := tblGet 0#64 k.desc ((ag * 16 + idx) * 4 + w)
def Core.win (k : Core) (ag idx : Nat) : WinDesc :=
  winDesc (k.kind == .companion) (k.descWord ag idx 0) (k.descWord ag idx 1) (k.descWord ag idx 2) (k.descWord ag idx 3)
def Core.outD (k : Core) (idx : Nat) : OutDesc :=
  outDesc (k.descWord 2 idx 0) (k.descWord 2 idx 1) (k.descWord 2 idx 3)

/-! ## Loop counters -/

/-- The counter of a loop level, 0 when it is not active. -/
def counterOf (ls : List LoopFrame) (lev : Nat) : Nat :=
  match ls.find? (fun f => f.level.toNat == lev) with | some f => f.count | none => 0

/-- The counter that a four-bit loop-level field names; 0 when bit [3] is clear (chapter 04, Descriptors). -/
def fieldCounter (ls : List LoopFrame) (f : Nat) : Nat := if f / 8 % 2 == 1 then counterOf ls (f % 8) else 0

/-- Advance the innermost active loop by one trip, carrying outward; the outermost wraps to 0 (R119). -/
def advance : List LoopFrame → List LoopFrame
  | [] => []
  | f :: t => if f.count < f.tripM1 then { f with count := f.count + 1 } :: t else { f with count := 0 } :: advance t

/-! ## Geometry (R144) -/

def WinDesc.keh (d : WinDesc) : Nat := (d.kh - 1) * d.dh + 1
def WinDesc.kew (d : WinDesc) : Nat := (d.kw - 1) * d.dw + 1
def WinDesc.zih (d : WinDesc) : Nat := (d.ih - 1) * d.zh + 1
def WinDesc.ziw (d : WinDesc) : Nat := (d.iw - 1) * d.zw + 1
/-- OH and OW of R144. -/
def WinDesc.oh (d : WinDesc) : Nat := (d.zih + d.pt + d.pb - d.keh) / d.sh + 1
def WinDesc.ow (d : WinDesc) : Nat := (d.ziw + d.pl + d.pr - d.kew) / d.sw + 1

/-- The class of a tap (R145): outside the image, between real pixels, or at a pixel of the image. -/
inductive TapClass where
  | pad | zero | read (row col : Nat)
  deriving DecidableEq, Repr

/-- Where the tap of run index `i` lies for output row `y` (R145). -/
def WinDesc.tap (d : WinDesc) (ls : List LoopFrame) (y i : Nat) : TapClass :=
  let x := fieldCounter ls d.lpix * d.pbw + i
  let t := fieldCounter ls d.ltap
  let v : Int := (y * d.sh : Nat) - (d.pt : Int) + (t / d.kw * d.dh : Nat)
  let u : Int := (x * d.sw : Nat) - (d.pl : Int) + (t % d.kw * d.dw : Nat)
  if v < 0 || v > ((d.ih - 1) * d.zh : Nat) || u < 0 || u > ((d.iw - 1) * d.zw : Nat) then .pad
  else if v.toNat % d.zh != 0 || u.toNat % d.zw != 0 then .zero
  else .read (v.toNat / d.zh) (u.toNat / d.zw)

/-! ## Stored rows (R142) -/

/-- Channels of quantisation row `q` of a row of `c` channels, and their padded number. -/
def rowChans (c q : Nat) : Nat := min 64 (c - 64 * q)
def padChans (n : Nat) : Nat :=
  if n ≤ 1 then 1 else if n ≤ 2 then 2 else if n ≤ 4 then 4 else if n ≤ 8 then 8
  else if n ≤ 16 then 16 else if n ≤ 32 then 32 else if n ≤ 48 then 48 else 64

/-- Words of quantisation row `q` of a stored row: its header, and its values packed. -/
def qrowWords (f : Fmt) (hdr : Bool) (width c q : Nat) : Nat :=
  (if hdr then 1 else 0) + (width * padChans (rowChans c q) * fmtBits f + 63) / 64

/-- qoffset of R145: the words of quantisation rows 0 to q − 1. -/
def qoffset (f : Fmt) (hdr : Bool) (width c q : Nat) : Nat := ((List.range q).map (qrowWords f hdr width c)).sum

/-- Words of a stored row. -/
def storedWords (f : Fmt) (hdr : Bool) (width c : Nat) : Nat := qoffset f hdr width c ((c + 63) / 64)

/-- A value of a stored row: its word, its bit place in the word and the word of its header, relative to the
first word of stored row 0. -/
structure Place where
  word : Nat
  bit : Nat
  header : Option Nat
  deriving DecidableEq, Repr

/-- Place of channel `c` of pixel `col` in stored row `row`, a row of `width` pixels and `chans` channels. -/
def placeOf (f : Fmt) (hdr : Bool) (rpitch width chans row col c : Nat) : Place :=
  let q := c / 64
  let base := row * rpitch + qoffset f hdr width chans q
  let bit := (col * padChans (rowChans chans q) + c % 64) * fmtBits f
  { word := base + (if hdr then 1 else 0) + bit / 64, bit := bit % 64, header := if hdr then some base else none }

/-- The stored place of lane `t` of input group `g` at image pixel (r, c) of member `m`; none for a lane beyond
the channels, which is fed the zero point (R145, R155). -/
def WinDesc.lanePlace (d : WinDesc) (mem r c g t : Nat) : Option Place :=
  let o := 16 * g + t
  match d.regrp with
  | 1 =>
    if d.ch ≤ o then none
    else
      let cp := d.ch / (d.bh * d.bw)
      let dy := o / (d.bw * cp)
      let dx := o / cp % d.bw
      some (placeOf d.fmt d.hdr d.rpitch (d.iw * d.bw) cp ((r * d.bh + dy) * d.m + mem) (c * d.bw + dx) (o % cp))
  | 2 =>
    if d.ch ≤ o then none
    else
      let so := (r % d.bh * d.bw + c % d.bw) * d.ch + o
      some (placeOf d.fmt d.hdr d.rpitch (d.iw / d.bw) (d.ch * d.bh * d.bw) (r / d.bh * d.m + mem) (c / d.bw) so)
  | _ =>
    let q := g / 4
    if d.ch ≤ 64 * q || padChans (rowChans d.ch q) ≤ 16 * (g % 4) + t then none
    else some (placeOf d.fmt d.hdr d.rpitch d.iw d.ch (r * d.m + mem) c o)

/-- Padded channels of a pixel over all its quantisation rows. -/
def padTotal (c : Nat) : Nat := ((List.range ((c + 63) / 64)).map (fun q => padChans (rowChans c q))).sum

/-- A value of a row by its place in pixel-major, channel-minor order with padded channels: its pixel and channel; none past
the row or for a padded channel (R154, R155). -/
def flatValue (width chans e : Nat) : Option (Nat × Nat) :=
  let cp := max (padTotal chans) 1
  if width ≤ e / cp || chans ≤ e % cp then none else some (e / cp, e % cp)

/-- The stored places of the 16 values that a cycle of a regroup stage takes, cycle `x` of row `y` (kind 4, Table 4-4). -/
def WinDesc.regroupPlaces (d : WinDesc) (mem y x : Nat) : List (Option Place) :=
  (List.range 16).map (fun t => (flatValue d.iw d.ch (16 * x + t)).bind (fun e => d.lanePlace mem y e.1 (e.2 / 16) (e.2 % 16)))

/-- The rows of a frame as stored, and the stored line of a line of the image that the window sees. -/
def WinDesc.storedLine (d : WinDesc) (r : Nat) : Nat :=
  match d.regrp with | 1 => r * d.bh | 2 => r / d.bh | _ => r
def WinDesc.storedRows (d : WinDesc) : Nat :=
  (match d.regrp with | 1 => d.ih * d.bh | 2 => d.ih / d.bh | _ => d.ih) * d.m

/-! ## Rotation (R67, R156) and release (R158) -/

/-- The output rows (line, member) that position `cidx` of `n` produces in its frame `f`, in turn. -/
def rotationRows (oh m rb n cidx f : Nat) : List (Nat × Nat) :=
  let bf := (oh + rb - 1) / rb * m
  ((List.range bf).filter (fun b => (f * bf + b) % n == cidx)).flatMap (fun b =>
    ((List.range rb).map (fun i => b / m * rb + i)).filterMap (fun y => if y < oh then some (y, b % m) else none))

def WinDesc.rows (d : WinDesc) (f : Nat) : List (Nat × Nat) := rotationRows d.oh d.m d.rb d.ncore d.cidx f
def OutDesc.rows (d : OutDesc) (f : Nat) : List (Nat × Nat) := rotationRows d.oh d.m d.rb d.ncore d.cidx f

/-- The first stored row that output row `y` of member `mem` needs (R158). -/
def WinDesc.firstRow (d : WinDesc) (y mem : Nat) : Nat :=
  let top := y * d.sh - d.pt
  let r0 := min ((top + d.zh - 1) / d.zh) (d.ih - 1)
  d.storedLine r0 * d.m + mem

/-! ## Linear descriptors (R140) -/

/-- A signed 12-bit step. -/
def signed12 (n : Nat) : Int := if n < 2048 then n else (n : Int) - 4096

/-- The address of a linear descriptor for the loop counters and the run index.
Assumption 142 (DESIGN CHOICE): unsafe. -/
def linearAddr (w0 w1 w2 : W64) (ls : List LoopFrame) (run : Nat) : Nat :=
  let term (e : Nat) : Int :=
    let src := bits w1 (16 * e) 4
    let step := signed12 (bits w1 (16 * e + 4) 12)
    if src < 8 then step * counterOf ls src else if src == 8 then step * run else 0
  let a : Int := (bits w0 0 13 : Int) + term 0 + term 1 + term 2 + term 3
  let wrap := bits w2 0 14
  if wrap == 0 then (a % 8192).toNat else (a % (wrap : Int)).toNat

def Core.linear (k : Core) (ag idx : Nat) (ls : List LoopFrame) (run : Nat) : Nat :=
  linearAddr (k.descWord ag idx 0) (k.descWord ag idx 1) (k.descWord ag idx 2) ls run

/-- OPK of a descriptor (Table 4-1). -/
def Core.opk (k : Core) (ag idx : Nat) : Nat := bits (k.descWord ag idx 0) 45 4

/-! ## Codes of a word -/

/-- The code of `b` bits at a bit place of a payload. -/
def codeAt (w : W64) (bit b : Nat) : Nat := w.toNat / 2 ^ bit % 2 ^ b

/-- What a row header says of the codes of its row (Table 5-5): the constant, or the scale and zero point. -/
inductive RowCode where
  | const (x : Num) | scaled (scale : W32) (zp : Nat)
  deriving DecidableEq, Repr

def rowCode (h : W64) : RowCode :=
  let sc := bits h 24 8
  if sc == 0 then .const (ofCode .bf16 (bits h 0 16))
  else .scaled (to32 (.fin (rowScale (h.extractLsb' 32 32) sc))) (bits h 16 8)

/-- A code as a multiplier input (R112, R113). -/
def expandCode (f : Fmt) (h : Option W64) (zp16 code : Nat) : X19 :=
  match f with
  | .a4 | .a8 =>
    match rowCode (h.getD 0#64) with
    | .const x => toX19 x
    | .scaled s z => expandInt (toX19 (of32 s)) z code
  | .u16 => expandU16 zp16 code
  | g =>
    match h with
    | none => expandFloat g code
    | some w =>
      match rowCode w with
      | .const x => toX19 x
      | .scaled s _ => toX19 (numMul (of32 s) (flush (ofCode g code)))

/-- A code as an FP32 join operand (R122): d × s rounded once, nothing rounded to X19. -/
def joinCode (f : Fmt) (h : Option W64) (zp16 code : Nat) : W32 :=
  match f with
  | .a4 | .a8 =>
    match rowCode (h.getD 0#64) with
    | .const x => to32 x
    | .scaled s z => to32 (numMul (of32 s) (.fin (dyInt (codeDiff code z) 0)))
  | .u16 => to32 (.fin (dyInt (codeDiff code zp16) 0))
  | g => to32 (flush (ofCode g code))

/-- The pad value of a window (R146). -/
def WinDesc.padX19 (d : WinDesc) : X19 := if d.padsrc then expandFloat .bf16 d.padc else 0#19

end Sys2Proof.Machine
end

