-- ==== Sys2Proof/Machine/Envelope.lean ====
section
/-! DEFINITION. Results within an envelope (R89 to R91): what a network's outputs hold, the bounds of an element, and the
comparison of an output of a maquette frame with its reference. -/
namespace Sys2Proof.Machine

open Sys2Proof

/-! ## Elements (R89) -/

/-- The magnitude of a value. -/
def Dy.mag (d : Dy) : Dy := { d with neg := false }

/-- An element lies in its envelope: |y - y_D| ≤ a + r × |y_D|, exactly (R89). One that is no finite value must equal its
reference. Assumption 132 (DESIGN CHOICE): unsafe. -/
def inEnvelope (b : Bound) (yd : W32) (y : Num) : Bool :=
  match y, of32 yd, of32 b.a, of32 b.r with
  | .fin v, .fin w, .fin a, .fin r => dyLe (Dy.mag (dyAdd v w.negate)) (dyAdd a (dyMul r (Dy.mag w)))
  | v, w, _, _ => v == w

/-- The bounds that hold for an element: those of the degraded variant, or of a trial's adaptation envelope (R90, R379). -/
def boundOf (e : ElemRef) (degraded trial : Bool) : Bound :=
  if degraded then e.deg else if trial then e.trial.getD e.env else e.env

/-- The exact value of a code of an output: an integer code by a scale and a zero point. -/
def exactCode (f : Fmt) (scale : Dy) (z c : Nat) : Num :=
  match f with
  | .a4 | .a8 => .fin (dyMul scale (dyInt (codeDiff c z) 0))
  | f => ofCode f c

/-- The exact value of a code of an integer row under its row header (Table 5-5): a constant, or a scaled code. -/
def rowValue (f : Fmt) (h : W64) (c : Nat) : Num :=
  if (h.extractLsb' 24 8).toNat == 0 then ofCode .bf16 (h.extractLsb' 0 16).toNat
  else exactCode f (rowScale (h.extractLsb' 32 32) (h.extractLsb' 24 8).toNat) (h.extractLsb' 16 8).toNat c

/-- The values of stored rows in order, each under the row header that came last. -/
def rowValues (f : Fmt) : W64 → List QWord → List Num
  | _, [] => []
  | h, w :: t =>
    if w.kind == .header then rowValues f w.payload t
    else
      let n := 64 / fmtBits f
      (List.range n).map (fun i =>
        if w.kind == .void then .fin ⟨false, 0, 0⟩
        else if fmtHasHeader f then rowValue f h (codeAt w.payload (fmtBits f * i) (fmtBits f))
        else ofCode f (codeAt w.payload (fmtBits f * i) (fmtBits f))) ++ rowValues f h t

/-- The bits of an entry, its first word lowest. -/
def entryBits : List QWord → Nat
  | [] => 0
  | w :: t => w.payload.toNat + 2 ^ 64 * entryBits t

/-- The values of an entry's fields. -/
def fieldValue (f : FieldImg) (e : List QWord) : Num :=
  exactCode f.fmt (match of32 f.scale with | .fin d => d | _ => ⟨false, 0, 0⟩) f.zp (entryBits e / 2 ^ f.lsb % 2 ^ fmtBits f.fmt)

/-! ## Records (R91) -/

/-- Every field of an entry lies in its envelope. -/
def entryFits (bd : ElemRef → Bound) (vs : List Num) (e : EntryRef) : Bool :=
  vs.length == e.fields.length && (vs.zip e.fields).all (fun p => inEnvelope (bd p.2) p.2.y p.1)

/-- The deciding value of an entry lies within its envelope of the threshold: it may be present or absent. -/
def marginal (bd : ElemRef → Bound) (o : OutRef) (e : EntryRef) : Bool :=
  match o.decides with
  | none => false
  | some (i, th) => match e.fields[i]? with | some f => inEnvelope (bd f) f.y (of32 th) | none => false

/-- The sort keys of two entries lie within each other's envelopes: they may change order. -/
def swappable (bd : ElemRef → Bound) (o : OutRef) (x y : EntryRef) : Bool :=
  match o.key with
  | none => false
  | some i => match x.fields[i]?, y.fields[i]? with
    | some f, some g => inEnvelope (bd f) f.y (of32 g.y) && inEnvelope (bd g) g.y (of32 f.y)
    | _, _ => false

/-- The entries of a record agree with those of its reference: each is one of them, in their order but for swappable ones, and
only marginal entries of the reference are missing. `rest` are the reference entries not yet met, with their places. -/
def entriesAgree (bd : ElemRef → Bound) (o : OutRef) :
    List (List Num) → List (Nat × EntryRef) → List (Nat × EntryRef) → Bool
  | [], rest, _ => rest.all (fun e => !e.2.present || marginal bd o e.2)
  | v :: t, rest, met =>
    rest.any (fun e => (e.2.present || marginal bd o e.2) && entryFits bd v e.2 &&
      met.all (fun x => decide (x.1 < e.1) || swappable bd o x.2 e.2) && entriesAgree bd o t (rest.erase e) (e :: met))

/-- Entry `i` of a record of entries of `w` words: what follows its two header words. -/
def entryAt (ws : List QWord) (w i : Nat) : List QWord := (ws.drop (2 + i * w)).take w

/-- The flags of a record (Table 2-2). -/
def recFlags (ws : List QWord) : Byte := (ws.headD {}).payload.extractLsb' 48 8

/-- The guarantee is withheld from a frame with INCOMPLETE, VOID_PART, REF_NULL or OVERFLOW (R90). -/
def withheld (fl : Byte) : Bool := fl &&& 0x2B#8 != 0#8

/-- An output of a frame lies in its envelope (R89 to R91). For a frame with REF_SUPERSEDED the reference is an evaluation with the
tile used (R90), which the casting image does not hold: the checker's finding is `other`, the tensor that it finds outside.
Assumption 132 (DESIGN CHOICE): unsafe. -/
def outputAgrees (o : OutRef) (ref : List EntryRef) (trial : Bool) (other : Option (BitVec 12)) (ws : List QWord) : Bool :=
  let fl := recFlags ws
  let bd : ElemRef → Bound := fun e => boundOf e (fl.getLsbD 4) trial
  if withheld fl then true
  else if fl.getLsbD 2 then other != some o.tensor
  else if o.rows then
    match ref with
    | [e] => entryFits bd (rowValues ((o.fields.head?.map (fun f => f.fmt)).getD .a8) 0#64 (ws.drop 2)) e
    | _ => false
  else
    let h := ((ws.drop 1).headD {}).payload
    let w := (h.extractLsb' 32 4).toNat + 1
    entriesAgree bd o ((List.range (h.extractLsb' 0 16).toNat).map (fun i => o.fields.map (fun f => fieldValue f (entryAt ws w i))))
      ((List.range ref.length).zip ref) []

end Sys2Proof.Machine
end

