-- ==== Sys2Proof/Machine/MemOps.lean ====
section
/-! DEFINITION. Device addresses and their storage (R390), region checks (R400), bytes of PSRAM, and translation
faults of requesters other than DMA (R413). -/
namespace Sys2Proof.Machine

open Sys2Proof

/-- Bytes of one die in the group and die views (Table 11-2). -/
def dieSpan : Nat := 0x180000000

/-- Bytes of the package in each view: one die's or two. -/
def spanEnd (die1 : Bool) : Nat := if die1 then 0x300000000 else 0x180000000

/-- The ends of the die view and of the channel view (Table 11-2). -/
def dieViewEnd (die1 : Bool) : Nat := if die1 then 0xB00000000 else 0x980000000
def chanViewEnd (die1 : Bool) : Nat := if die1 then 0xF00000000 else 0xD80000000

/-- The channel and offset of a device address by the computation of R390; none where Table 11-2 maps nothing. -/
def locate (die1 : Bool) (a : Nat) : Option (Nat × Nat) :=
  if a < spanEnd die1 then
    let d := a / dieSpan
    let o := a % dieSpan
    let g := o / 0x18000000
    let k := o % 0x18000000 / 512
    some (96 * d + 16 * (k % 6) + g, k / 6 * 512 + a % 512)
  else if 0x800000000 ≤ a && a < dieViewEnd die1 then
    let o := a % 0x800000000
    let d := o / dieSpan
    let k := o % dieSpan / 512
    some (96 * d + 16 * (k % 6) + k / 6 % 16, k / 96 * 512 + a % 512)
  else if 0xC00000000 ≤ a && a < chanViewEnd die1 then
    some (a % 0x400000000 / 0x4000000, a % 0x4000000)
  else none

/-- The three device addresses of a byte of storage, one in each view. -/
def viewsOf (ch off : Nat) : List Nat :=
  let d := ch / 96
  let st := ch % 96 / 16
  let lv := ch % 16
  let kg := off / 512 * 6 + st
  let kd := off / 512 * 96 + lv * 6 + st
  [dieSpan * d + (0x18000000 * lv + (512 * kg + off % 512)),
   0x800000000 + (dieSpan * d + (512 * kd + off % 512)),
   0xC00000000 + (0x4000000 * ch + off)]

/-- The key of a byte of storage: channel × 2^26 + offset. -/
def cellKey (p : Nat × Nat) : Nat := 0x4000000 * p.1 + p.2

/-- The byte that PSRAM holds at a device address, 0 where nothing is mapped. Assumption 6 (DESIGN CHOICE): unsafe. -/
def Dev.readByte (d : Dev) (a : Nat) : Byte :=
  match locate d.die1 a with
  | some p => tblGet 0#8 d.psram (cellKey p)
  | none => 0#8

/-- Write one byte of PSRAM; an unmapped address reaches no storage (R390). -/
def Dev.writeByte (d : Dev) (a : Nat) (b : Byte) : Dev :=
  match locate d.die1 a with
  | some p => { d with psram := tblSet 0#8 d.psram (cellKey p) b }
  | none => d

/-- `n` bytes from a device address upward. -/
def Dev.readBytes (d : Dev) (a : Nat) : Nat → List Byte
  | 0 => []
  | n + 1 => d.readByte a :: d.readBytes (a + 1) n

/-- Write bytes from a device address upward. -/
def Dev.writeBytes (d : Dev) (a : Nat) : List Byte → Dev
  | [] => d
  | b :: t => (d.writeByte a b).writeBytes (a + 1) t

/-- The position index in plinth SRAM (Table 11-2). -/
def isIndexAddr (a : Nat) : Bool := 0x400000000 ≤ a && a < 0x400200000

/-- Write bytes to the position index: whole aligned entries are taken, each part that covers only part of an entry is
discarded and counted (R333). -/
def Dev.writeIndex (d : Dev) (a : Nat) (l : List Byte) : Dev :=
  let o := a % 0x200000
  let skip := if o % 16 == 0 then 0 else min l.length (16 - o % 16)
  let body := l.drop skip
  let n := body.length / 16
  let parts := (if skip == 0 then 0 else 1) + (if body.length % 16 == 0 then 0 else 1)
  d.modRoute (fun r =>
    { r with
      index := (List.range n).foldl (fun t i =>
        tblSet 0#128 t ((o + skip) / 16 + i) (BitVec.ofNat 128 (leNat ((body.drop (16 * i)).take 16)))) r.index,
      idxPart := satAdd r.idxPart parts })

/-- A byte of the position index. -/
def Dev.indexByte (d : Dev) (a : Nat) : Byte :=
  let o := a % 0x200000
  (tblGet 0#128 d.route.index (o / 16)).extractLsb' (8 * (o % 16)) 8

/-- Bytes from PSRAM or the position index, and bytes to them. -/
def Dev.memRead (d : Dev) (a n : Nat) : List Byte :=
  if isIndexAddr a then (List.range n).map (fun i => d.indexByte (a + i)) else d.readBytes a n
def Dev.memWrite (d : Dev) (a : Nat) (l : List Byte) : Dev :=
  if isIndexAddr a then d.writeIndex a l else d.writeBytes a l

/-- First device address and length in bytes of a region. -/
def Region.start (r : Region) : Nat := 512 * r.base.toNat
def Region.bytes (r : Region) : Nat := 512 * (r.lenM1.toNat + 1)

/-- A region covers a byte of storage through any view (R400). -/
def Region.covers (r : Region) (p : Nat × Nat) : Bool :=
  r.v && (viewsOf p.1 p.2).any (fun a => r.start ≤ a && a < r.start + r.bytes)

/-- A valid region of a partition grants a burst, which lies within one granule of 512 bytes (R387, R400). -/
def Dev.regionOk (d : Dev) (p : PartId) (a : Nat) (write dma : Bool) : Bool :=
  match locate d.die1 a with
  | none => isIndexAddr a && (d.part p).regions.any (fun e =>
      e.2.v && e.2.start ≤ a && a < e.2.start + e.2.bytes && (if write then e.2.wr else e.2.rd) && (!dma || e.2.dma))
  | some pl => (d.part p).regions.any (fun e =>
      e.2.covers pl && (if write then e.2.wr else e.2.rd) && (!dma || e.2.dma))

/-- CAUSE of a burst that must not reach storage: 1 translation, 5 a far ring that does not run (R413, R414);
none when the burst may run. `far` is true for an access of a partition of the other die (R393). -/
def Dev.burstCause (d : Dev) (p : PartId) (a : Nat) (write dma : Bool) : Option Nat :=
  match locate d.die1 a with
  | none => if d.regionOk p a write dma then none else some 1
  | some pl =>
    if (d.chan pl.1).failed then some 1
    else if pl.1 / 96 != dieOfPart p && !(d.ring (pl.1 / 96)).up then some 5
    else if d.regionOk p a write dma then none
    else some 1

/-- Bits [39:9] of a device address, as an event carries them. -/
def addrHi (a : Nat) : W32 := BitVec.ofNat 32 (a / 512)

/-- Requester kind of Table 11-7. -/
def Requester.kindNo (r : Requester) : Nat :=
  match r with
  | .weights _ => 0 | .spill _ => 1 | .prefetch _ => 2 | .shadow _ => 3 | .casting _ => 4
  | .record _ => 5 | .image _ => 6 | .candidate _ => 7 | .intake _ => 8 | .route => 9
  | .dma _ => 10 | .host => 11

/-- A translation fault of a requester other than DMA (R413). -/
def Dev.tfault (d : Dev) (who : Requester) (p : PartId) (a : Nat) : Dev :=
  let d1 := d.modPart p (fun x => { x with tfOther := satInc x.tfOther })
  let d2 := d1.modRing (dieOfPart p) (fun x => { x with tfOther := satInc x.tfOther })
  d2.raise 0x7002#16 p [BitVec.ofNat 32 who.kindNo, addrHi a]

/-- Count a granted burst of a class in its ring (Table 11-9). -/
def Dev.countBurst (d : Dev) (die : Nat) (cls : BitVec 2) : Dev :=
  d.modRing die (fun r =>
    match cls.toNat with
    | 0 => { r with burst0 := r.burst0 + 1#32 }
    | 1 => { r with burst1 := r.burst1 + 1#32 }
    | 2 => { r with burst2 := r.burst2 + 1#32 }
    | _ => { r with burst3 := r.burst3 + 1#32 })

/-- The granules of 512 bytes that a span of device addresses touches. -/
def granulesOf (a n : Nat) : List Nat := if n == 0 then [] else (List.range ((a % 512 + n + 511) / 512)).map (fun i => a / 512 + i)

/-- The bursts of some granules are counted in the rings that serve them; one of another die than the requester's is far (R393). -/
def Dev.countBursts (d : Dev) (from_ : Option PartId) (cls : BitVec 2) (gs : List Nat) : Dev :=
  gs.foldl (fun d g =>
    match locate d.die1 (512 * g) with
    | none => d
    | some pl =>
      let die := pl.1 / 96
      let d1 := d.countBurst die cls
      match from_ with
      | some p => if die == dieOfPart p then d1 else d1.modRing (dieOfPart p) (fun r => { r with far := r.far + 1#32 })
      | none => d1) d

/-- Whose access is never far: the plinth functions' (R393). -/
def Requester.plinth (r : Requester) : Bool :=
  match r with
  | .host | .route | .casting _ => true
  | _ => false

/-- Check and run a small access at once, its wait being timing only: bytes read, or none when it faults. -/
def Dev.directOk (d : Dev) (p : PartId) (a : Nat) (write dma : Bool) : Bool := (d.burstCause p a write dma).isNone

/-- Tiles and candidates are named by group-view addresses alone (R391). -/
def Requester.groupOnly (r : Requester) : Bool := match r with | .prefetch _ | .route => true | _ => false

/-- Why a burst of a requester other than DMA faults: its region (R400), or an address beyond the group view (R391). -/
def Dev.causeFor (d : Dev) (w : Requester) (p : PartId) (a : Nat) (write : Bool) : Option Nat :=
  if w.groupOnly && 0x300000000 ≤ a then some 1 else d.burstCause p a write false

/-- Hand a burst to its channel; a far one waits for lane 8 toward the ring it reads (R393, R394). -/
def Dev.toChannel (d : Dev) (b : BurstReq) (ch : Nat) : Dev :=
  let die := ch / 96
  if !b.who.plinth && die != dieOfPart b.part then
    (d.modRing (dieOfPart b.part) (fun r => { r with far := r.far + 1#32 })).modRing die
      (fun r => { r with lane8 := r.lane8 ++ [b] })
  else d.modChan ch (fun c => { c with waiting := c.waiting ++ [b] })

end Sys2Proof.Machine
end

