-- ==== Sys2Proof/Machine/QueueOps.lean ====
section
/-! DEFINITION. What a queue manager does (chapter 06): positions and receivers, credits and the pool, the three
packet modes, slots of a multi-core edge (R159), detaching, spilling, and the reads that a receiver makes. -/
namespace Sys2Proof.Machine

open Sys2Proof

/-! ## Positions (R207) -/

/-- (q − p) mod 2^32. -/
def pdist (p q : W32) : Nat := (q - p).toNat
/-- Position p is earlier than q (R207). -/
def earlier (p q : W32) : Bool := 1 ≤ pdist p q && pdist p q < 2 ^ 31

/-- Filled cells at the front of a store. -/
def leading : List (Option QWord) → Nat
  | some _ :: t => leading t + 1
  | _ => 0

/-- Words of one stored row of a slotted edge, and of one frame with its marker (R159). -/
def slotRowWords (s : SlotImg) : Nat := s.words * (if s.grouped then s.ncore else 1)
def slotFrameWords (s : SlotImg) : Nat := 1 + s.rows * (slotRowWords s)

/-- Cells held, on chip, in the ring and in the stager. -/
def Queue.total (q : Queue) : Nat := q.store.length + 56 * q.ring.length + q.stager.length

/-- Words visible from the oldest word not yet freed: up to the open length slot, and whole rows only on a
slotted edge. -/
def Queue.vis (q : Queue) : Nat :=
  let l := leading q.store
  match q.slot with
  | some s =>
    let o := (q.slotO + l) % (slotFrameWords s)
    l - (if o = 0 then 0 else (o - 1) % (slotRowWords s))
  | none =>
    if l < q.store.length then l
    else match q.lenSlot with
      | some p => pdist q.old p
      | none => q.total

/-- The tail T: the position after the last visible word. -/
def Queue.tail (q : Queue) : W32 := q.old + BitVec.ofNat 32 q.vis

/-- Credits of every producer, and words of every open packet. -/
def Queue.creditSum (q : Queue) : Nat := (q.prods.map (fun e => e.2.credits)).sum
def Queue.openSum (q : Queue) : Nat := (q.prods.map (fun e => e.2.open_.length)).sum
def Queue.scredits (q : Queue) : Nat := (q.prods.map (fun e => e.2.scredits)).sum

/-- The occupancy of R214. A slotted edge reserves the cell of each credit in its store. -/
def Queue.occ (q : Queue) : Nat :=
  match q.slot with
  | some _ => q.store.length
  | none => q.store.length + q.openSum + q.creditSum + (if q.retBusy then 56 else 0)

/-- Words borrowed from the pool, in granules of 8 (R216). -/
def borrowOf (floor occ : Nat) : Nat := (occ - floor + 7) / 8 * 8
def Queue.borrow (q : Queue) : Nat := borrowOf q.floor q.occ

/-- The pool of a cluster less what its queues have borrowed (R216). -/
def Dev.poolFree (d : Dev) (cl : ClusterId) : Nat :=
  32768 - ((d.queues.filter (fun e => e.1 / 64 == cl.toNat)).map (fun e => e.2.floor + e.2.borrow)).sum

/-- The on-chip part can take `k` more words: within CAP, and within FLOOR or borrowed (R215, R236). -/
def Dev.canTake (d : Dev) (id : QueueId) (k : Nat) : Bool :=
  let q := d.queue id
  q.occ + k ≤ q.cap && borrowOf q.floor (q.occ + k) - q.borrow ≤ d.poolFree (clusterOfQueue id)

/-! ## Cells -/

/-- The cell at a position on chip; none when the position is not on chip or its slot is unfilled. -/
def Queue.cell (q : Queue) (p : W32) : Option QWord := (q.store[pdist q.old p]?).join

/-- Set the cell at a position on chip. -/
def Queue.setCell (q : Queue) (i : Nat) (w : QWord) : Queue := { q with store := q.store.set i (some w) }

/-- A void length word, as a receiver of a length-prefix queue meets it (R222). -/
def isBadLength (q : Queue) (w : QWord) : Bool := q.pmode == .lengthPrefix && w.kind == .void && w.mtype == 2#4
/-- LEN of a length word (Table 6-4). -/
def wordLen (w : QWord) : Nat := (w.payload.extractLsb' 0 24).toNat

/-- A frame-start marker that the second rule of R250 accepts. -/
def nextEpoch (e : BitVec 3) (w : QWord) : Bool := w.isStart && w.epoch == e + 1#3
/-- A word of a stale epoch for a receiver (R251). -/
def stale (e : BitVec 3) (w : QWord) : Bool := w.epoch != e && !nextEpoch e w

/-! ## What a sequential receiver finds (R209, R221, R223, R231, R251) -/

/-- V = 0; a prepared gap marker; a bad packet to skip; a word to discard by epoch; a word to deliver. -/
inductive Look where
  | empty | gap (w : QWord) | bad (words : Nat) | stale | word (w : QWord)
  deriving DecidableEq, Repr

/-- The gap marker that a detach prepared (Table 6-4). Assumption 40 (DESIGN CHOICE): unsafe. -/
def gapMarker (e : BitVec 3) (gapw : W32) (gapf : W16) : QWord :=
  { payload := 3#4 ++ 0#12 ++ gapf ++ gapw, kind := .marker, epoch := e }

/-- What the receiver finds at position `p` of its queue, p being R or the word after R. -/
def Queue.lookAt (q : Queue) (r : Rcv) (p : W32) : Look :=
  if pdist q.old p < q.vis then
    match q.cell p with
    | none => .empty
    | some w =>
      if stale r.e w then .stale
      else if isBadLength q w then .bad (wordLen w + 1)
      else .word w
  else .empty

/-- What the receiver's next sequential read finds. -/
def Queue.look (q : Queue) (r : Rcv) : Look :=
  if r.skip != 0 then .empty
  else match r.gap with
    | some (gw, gf) => .gap (gapMarker r.e gw gf)
    | none => if r.await then .empty else q.lookAt r r.r

/-- The receiver's read fires (R209, R250): R moves past a delivered word, H follows when no mark is set, and a
frame-start marker sets B and E. -/
def Rcv.take (r : Rcv) (l : Look) : Rcv :=
  match l with
  | .gap w => { r with gap := none, last := some w }
  | .word w =>
    let r1 := { r with r := r.r + 1#32, last := some w }
    let r2 := match r.m with | none => { r1 with h := r1.r } | some _ => r1
    if w.isStart then { r2 with b := r2.r, e := w.epoch, owed := none } else r2
  | .bad n => { r with skip := n, last := none }
  | _ => { r with last := none }

/-! ## Detaching (R230) -/

/-- Offset of the newest frame-start marker among the visible cells from `i` up, and how many there are. -/
def newestStart : List (Option QWord) → Nat → Option (Nat × Nat)
  | [], _ => none
  | c :: t, i =>
    match newestStart t (i + 1) with
    | some (j, n) => some (j, if (match c with | some w => w.isStart | none => false) then n + 1 else n)
    | none => if (match c with | some w => w.isStart | none => false) then some (i, 1) else none

/-- Frame-start markers among cells. -/
def startsIn (l : List (Option QWord)) : Nat :=
  l.countP (fun c => match c with | some w => w.isStart | none => false)

/-- A detach of one receiver: H and R to the newest frame-start marker after H, or to T with Await set, the
mark cleared, the gap marker prepared. Answers the words skipped. Assumption 40 (DESIGN CHOICE): unsafe. -/
def Queue.detach (q : Queue) (r : Rcv) : Rcv × Nat :=
  let cells := q.store.take q.vis
  let h := pdist q.old r.h
  let from_ := pdist q.old r.r
  let dest := match newestStart (cells.drop (h + 1)) (h + 1) with | some (j, _) => some j | none => none
  let to_ := dest.getD q.vis
  let skipped := to_ - from_
  let starts := startsIn ((cells.drop from_).take skipped)
  let (pw, pf) := match r.gap with | some (a, b) => (a.toNat, b.toNat) | none => (0, 0)
  let p := q.old + BitVec.ofNat 32 to_
  ({ r with h := p, r := p, m := none, skip := 0, owed := none, await := dest.isNone,
            gap := some (satOf 32 (pw + skipped), satOf 16 (pf + starts)) }, skipped)

/-- Detach the receivers that `f` chooses, counting GAPS and GAPW. -/
def Queue.detachIf (q : Queue) (f : Rcv → Bool) : Queue :=
  let out := q.rcvs.map (fun r => if r.detach && f r then (let (x, n) := q.detach r; (x, some n)) else (r, none))
  let ns := out.filterMap (fun e => e.2)
  { q with rcvs := out.map (fun e => e.1), gaps := satAdd q.gaps ns.length, gapw := satAdd q.gapw ns.sum }

/-- A waiting detached receiver releases words as they arrive, until a frame-start marker (R230): the receiver
and the words released, over the visible cells from R. -/
def Rcv.awaitRun (r : Rcv) : List (Option QWord) → Rcv × Nat
  | some w :: t =>
    if !r.await then (r, 0)
    else if w.isStart then ({ r with await := false }, 0)
    else let (x, n) := Rcv.awaitRun { r with h := r.h + 1#32, r := r.r + 1#32 } t; (x, n + 1)
  | _ => (r, 0)

/-- Run every waiting detached receiver over the visible words. -/
def Queue.awaitAll (q : Queue) : Queue :=
  let out := q.rcvs.map (fun r =>
    if r.await then r.awaitRun ((q.store.take q.vis).drop (pdist q.old r.r)) else (r, 0))
  { q with rcvs := out.map (fun e => e.1),
           gapw := satAdd q.gapw (out.map (fun e => if e.1.detach then e.2 else 0)).sum }

/-- Rows that a core has released before they came leave as they come (R158). -/
def Queue.payOwed (q : Queue) : Queue :=
  { q with rcvs := q.rcvs.map (fun r => match r.owed with
      | none => r
      | some p =>
        let all := pdist q.old p ≤ q.vis
        let to_ := if all then p else q.tail
        { r with h := to_, r := to_, m := none, owed := if all then none else some p }) }

/-- Detach every receiver whose lag T − H exceeds its LAGLIM. -/
def Queue.detachLag (q : Queue) : Queue := q.detachIf (fun r => r.laglim < pdist r.h q.tail)

/-- Cells of frames before a frame, up to its frame-start marker. -/
def beforeFrame (f : W32) : List (Option QWord) → Nat
  | some w :: t => if w.isStart && w.frame == f then 0 else beforeFrame f t + 1
  | _ => 0

/-- A vacant position passes the frames before the switch frame as they come (Table 4-6).
Assumption 149 (DEDUCED): unsafe. -/
def Queue.passVacant (q : Queue) : Queue :=
  { q with rcvs := q.rcvs.map (fun r => match r.upTo with
      | none => r
      | some f =>
        let n := beforeFrame f ((q.store.take q.vis).drop (pdist q.old r.r))
        let p := r.r + BitVec.ofNat 32 n
        { r with h := p, r := p, m := none, gap := none, skip := 0, owed := none, await := false }) }

/-- A receiver of a queue whose content comes in units of `u` words goes on at the next unit: the words of the one begun are
released, what has not come as it comes (R132). Assumption 149 (DEDUCED): unsafe. -/
def Queue.toNextUnit (q : Queue) (u : Nat) (r : Rcv) : Rcv :=
  let at_ := r.owed.getD r.r
  let off := pdist q.startPos at_ % max u 1
  let p := if off == 0 then at_ else at_ + BitVec.ofNat 32 (u - off)
  let all := pdist q.old p ≤ q.vis
  let to_ := if all then p else q.tail
  { r with h := to_, r := to_, m := none, gap := none, skip := 0, stale := [], await := false, owed := if all then none else some p }

/-- Offset of the first frame-start marker among cells. -/
def firstStart : List (Option QWord) → Option Nat
  | [] => none
  | some w :: t => if w.isStart then some 0 else (firstStart t).map (fun n => n + 1)
  | none :: t => (firstStart t).map (fun n => n + 1)

/-- A receiver whose frame is given up: everything up to the next frame-start marker from R is released, what has not
come as it comes (R264, R490). Assumption 40 (DESIGN CHOICE): unsafe. -/
def Queue.toNextStart (q : Queue) (r : Rcv) : Rcv :=
  let off := firstStart ((q.store.take q.vis).drop (pdist q.old r.r))
  let p := match off with | some j => r.r + BitVec.ofNat 32 j | none => q.tail
  { r with h := p, r := p, m := none, gap := none, skip := 0, stale := [], owed := none, await := off.isNone }

/-! ## Freeing (R213) -/

/-- Words that every receiver has released, from the oldest word not yet freed. -/
def Queue.released (q : Queue) : Nat :=
  match q.rcvs with
  | [] => 0
  | r :: t => t.foldl (fun m x => min m (pdist q.old x.h)) (pdist q.old r.h)

/-- Free the words that every receiver has released. -/
def Queue.settle (q : Queue) : Queue :=
  let k := min q.released q.store.length
  let q1 := { q with store := q.store.drop k, old := q.old + BitVec.ofNat 32 k }
  match q.slot with
  | none => q1
  | some s => { q1 with slotF := q.slotF + (q.slotO + k) / (slotFrameWords s), slotO := (q.slotO + k) % (slotFrameWords s) }

/-- Change receiver `i`. -/
def Queue.modRcv (q : Queue) (i : BitVec 10) (f : Rcv → Rcv) : Queue := { q with rcvs := q.rcvs.modify i.toNat f }
/-- Receiver `i`. -/
def Queue.rcv (q : Queue) (i : BitVec 10) : Option Rcv := q.rcvs[i.toNat]?
def Queue.prod (q : Queue) (p : Nat) : Prod := tblGet {} q.prods p
def Queue.modProd (q : Queue) (p : Nat) (f : Prod → Prod) : Queue := { q with prods := tblMod {} q.prods p f }

/-! ## Writing: plain cells and packets -/

/-- Put cells at the end of the queue: on chip, or in the stager of a spilling queue (R236). -/
def Queue.append (q : Queue) (toStager : Bool) (cells : List (Option QWord)) : Queue :=
  if toStager then { q with stager := q.stager ++ cells, spilling := true }
  else { q with store := q.store ++ cells,
                lastEpoch := match (cells.filterMap id).getLast? with | some w => w.epoch | none => q.lastEpoch }

/-- Fill the open length slot wherever it lies (R569). -/
def Queue.fillLen (q : Queue) (w : QWord) : Queue :=
  match q.lenSlot with
  | none => q
  | some p =>
    let i := pdist q.old p
    let on := q.store.length
    let rg := on + 56 * q.ring.length
    let q1 := { q with lenSlot := none }
    if i < on then q1.setCell i w
    else if i < rg then { q1 with held := q.held ++ [(p, w)] }
    else { q1 with stager := q.stager.set (i - rg) (some w) }

/-- The length marker of a packet, or the void length word of a bad one (R221, R222). -/
def lenWord (bad : Bool) (e : BitVec 3) (n : Nat) : QWord :=
  { payload := 2#4 ++ 0#36 ++ BitVec.ofNat 24 n, kind := if bad then .void else .marker, epoch := e }

/-- Close a producer's open packet as bad, or abort it (R222, R225). `arm`: the close is for PKTMAX. -/
def Queue.closeBad (q : Queue) (port : Nat) (arm : Bool) : Queue :=
  let p := q.prod port
  if !p.inPkt then q
  else
    let q1 := match q.pmode with
      | .lengthPrefix => q.fillLen (lenWord true p.epoch p.pktLen)
      | _ => q
    { q1.modProd port (fun x => { x with inPkt := false, pktLen := 0, open_ := [], discard := arm })
      with badpkt := satInc q.badpkt }

/-- Close a producer's packet as bad; one that has written no word yet leaves a bad packet of length 0 (R567).
Assumption 44 (DEDUCED): unsafe. -/
def Queue.refuseRecord (q : Queue) (port : Nat) (e : BitVec 3) : Queue :=
  if (q.prod port).inPkt then q.closeBad port false
  else match q.pmode with
    | .lengthPrefix => { q.append q.spilling [some (lenWord true e 0)] with badpkt := satInc q.badpkt }
    | .commit => { q with badpkt := satInc q.badpkt }
    | .plain => q

/-- Close every open packet of a queue as bad. -/
def Queue.closeAllBad (q : Queue) : Queue := (q.prods.map (fun e => e.1)).foldl (fun x p => x.closeBad p false) q

/-- A word of a length-prefix producer (R221, R222): the slot at the packet's start, its fill at the end.
Assumption 35 (DEDUCED): unsafe. -/
def Queue.putLen (q : Queue) (port : Nat) (st : Bool) (w : QWord) : Queue :=
  let p := q.prod port
  if p.discard then q.modProd port (fun x => { x with discard := !w.eor })
  else if q.pktmax < p.pktLen + 1 then
    let c := if p.inPkt then q.closeBad port (!w.eor) else q
    c
  else
    let q0 := if p.inPkt then q
      else { q with lenSlot := some (q.old + BitVec.ofNat 32 q.total) }.append st [none]
    let q1 := (q0.append st [some w]).modProd port (fun x => { x with inPkt := true, pktLen := p.pktLen + 1 })
    if w.eor then
      (q1.fillLen (lenWord false w.epoch (p.pktLen + 1))).modProd port (fun x => { x with inPkt := false, pktLen := 0 })
    else q1

/-- A word of a commit-mode producer (R224, R225). Assumption 43 (DESIGN CHOICE): safe. -/
def Queue.putCommit (q : Queue) (port : Nat) (w : QWord) : Queue :=
  let p := q.prod port
  if p.discard then q.modProd port (fun x => { x with discard := !w.eor })
  else if q.pktmax < p.pktLen + 1 then q.closeBad port (!w.eor)
  else if w.eor then
    (q.append false ((p.open_ ++ [w]).map some)).modProd port
      (fun x => { x with inPkt := false, pktLen := 0, open_ := [] })
  else q.modProd port (fun x => { x with inPkt := true, pktLen := p.pktLen + 1, open_ := p.open_ ++ [w] })

/-! ## Slots of a multi-core edge (R67, R159) -/

/-- Output lines of one member, and blocks of a frame. -/
def slotLines (s : SlotImg) : Nat := s.rows / max s.members 1
def slotBlocks (s : SlotImg) : Nat := ((slotLines s) + s.rb - 1) / max s.rb 1 * s.members

/-- The stored rows that rotation position `p` owns in frame `f`, in the order in which it produces them: its
blocks in turn, a block's lines in turn. A stage of channel groups owns a slot in every row. -/
def slotRowsOf (s : SlotImg) (p f : Nat) : List Nat :=
  if s.grouped then List.range s.rows
  else
    ((List.range (slotBlocks s)).filter (fun b => ((f - s.base) * (slotBlocks s) + b) % max s.ncore 1 == p)).flatMap (fun b =>
      ((List.range s.rb).map (fun i => b / s.members * s.rb + i)).filterMap (fun y =>
        if y < (slotLines s) then some (y * s.members + b % s.members) else none))

/-- Place within the frame's cells of word `j` that position `p` writes in frame `f`; none past its slots. -/
def slotPlace (s : SlotImg) (p f j : Nat) : Option Nat :=
  match (slotRowsOf s p f)[j / max s.words 1]? with
  | none => none
  | some row => some (1 + row * (slotRowWords s) + (if s.grouped then p * s.words else 0) + j % max s.words 1)

/-- The slots in force in a frame (R521). Assumption 39 (DESIGN CHOICE): safe. -/
def Queue.slotFor (q : Queue) (s : SlotImg) (f : Nat) : SlotImg := if f < s.base then q.oldSlot.getD s else s

/-- Offset from the oldest cell of place `o` of frame `f`; none when it has been freed. -/
def Queue.slotOff (q : Queue) (s : SlotImg) (f o : Nat) : Option Nat :=
  let a := f * (slotFrameWords s) + o
  let b := q.slotF * (slotFrameWords s) + q.slotO
  if b ≤ a then some (a - b) else none

/-- Extend the store with unfilled cells up to `n` cells. -/
def Queue.reserve (q : Queue) (n : Nat) : Queue :=
  { q with store := q.store ++ List.replicate (n - q.store.length) none }

/-- A marker that a core of the stage writes: the first of its frame fills the marker slot; a later one ORs its
FLAGS while the slot is unread and is discarded. -/
def Queue.putSlotMarker (q : Queue) (s : SlotImg) (port : Nat) (w : QWord) : Queue :=
  let f := (q.prod port).slotFrame
  let q1 := q.modProd port (fun x => { x with slotFrame := f + 1, slotWord := 0 })
  match q1.slotOff s f 0 with
  | none => q1
  | some i =>
    let q2 := q1.reserve (i + 1)
    match q2.store[i]? with
    | some (some v) =>
      if q2.rcvs.all (fun r => pdist q2.old r.r ≤ i) then
        q2.setCell i { v with payload := v.payload ||| ((0#8 ++ w.flags) ++ 0#48) }
      else q2
    | _ => q2.setCell i w

/-- A word that a core of the stage writes in the frame it has begun. -/
def Queue.putSlotWord (q : Queue) (s : SlotImg) (port : Nat) (w : QWord) : Queue :=
  let p := q.prod port
  let f := p.slotFrame - 1
  match slotPlace (q.slotFor s f) port f p.slotWord with
  | none => { q with winerr := satInc q.winerr }
  | some o =>
    let q1 := q.modProd port (fun x => { x with slotWord := p.slotWord + 1 })
    match q1.slotOff s f o with
    | none => q1
    | some i => (q1.reserve (i + 1)).setCell i w

/-- The cell that a producer's `k`-th next word of a slotted edge needs, as a count of cells from the oldest. -/
def Queue.slotNeed (q : Queue) (s : SlotImg) (port k : Nat) : Nat :=
  let p := q.prod port
  let f := p.slotFrame - 1
  match slotPlace (q.slotFor s f) port f (p.slotWord + k) with
  | some o => (match q.slotOff s f o with | some i => i + 1 | none => 0)
  | none => (match q.slotOff s p.slotFrame 0 with | some i => i + 1 | none => 0)

/-- The void words of a voided position's slots, where the turn has come: the first unfilled cell belongs to the
run. Fills the cells of the run's slots from there, as far as `space` cells reach. -/
def Queue.fillVoid (q : Queue) (s : SlotImg) (v : VoidRun) (space : Nat) : Queue × Bool :=
  let cells := ((List.range (v.last - v.first)).map (fun k => v.first + k)).filterMap (fun j =>
    match slotPlace (q.slotFor s v.frame) v.pos v.frame j with
    | some o => (match q.slotOff s v.frame o with | some i => some (i, o) | none => none)
    | none => none)
  let fits := cells.all (fun c => c.1 < space)
  let now := cells.filter (fun c => c.1 < space)
  let q1 := now.foldl (fun x c =>
    let y := x.reserve (c.1 + 1)
    match y.store[c.1]? with
    | some none => y.setCell c.1 (voidWord q.lastEpoch ((c.2 - 1) % (slotRowWords s) + 1 == (slotRowWords s))
        (c.2 + 1 == (slotFrameWords s)))
    | _ => y) q
  (q1, fits)

/-! ## The lanes (R264) and the boundary of a partition (R46, R279) -/

/-- A forced segment carries the words of the queue's edge, or the reads of receiver `r`.
Assumption 42 (DEDUCED): unsafe. -/
def Dev.laneForced (d : Dev) (id : QueueId) (r : Option (BitVec 10)) : Bool :=
  d.parts.any (fun e => e.2.segs.any (fun g => g.2.forced && g.2.q == some id && g.2.rcv == r))

/-- A forced segment carries the words of a producer port. -/
def Dev.portForced (d : Dev) (id : QueueId) (port : BitVec 10) : Bool :=
  d.parts.any (fun e => e.2.segs.any (fun g =>
    g.2.forced && g.2.q == some id && g.2.rcv.isNone && (g.2.port.isNone || g.2.port == some port)))

/-- The queue exists and its owner runs. -/
def Dev.queueLive (d : Dev) (id : QueueId) : Bool :=
  (d.queue id).cap != 0 && (d.part (partOfQueue id)).live && !(d.cluster (clusterOfQueue id)).inReset

/-- The census watches the queue: some receiver lies in a partition (R242). -/
def Queue.watched (q : Queue) : Bool := q.cap != 0 && q.rcvs.any (fun r => r.part.isSome)

/-- A watched queue moves (R241): the census of its partition starts again. -/
def Dev.moved (d : Dev) (id : QueueId) : Dev :=
  if (d.queue id).watched then d.modPart (partOfQueue id) (fun p => { p with dlkCnt := 0#17 }) else d

/-- A queue moves by a change. -/
def Dev.moveQueue (d : Dev) (id : QueueId) (f : Queue → Queue) : Dev := (d.modQueue id f).moved id

/-- The queue's partition is frozen: its contents and pointers are kept (R247). -/
def Dev.queueFrozen (d : Dev) (id : QueueId) : Bool := (d.part (partOfQueue id)).frozen

/-- The epoch that the words of a queue carry now: its network's, or that of the network's companions (R249, R365). -/
def Dev.epochOf (d : Dev) (id : QueueId) : BitVec 3 :=
  let x := d.net (d.queue id).net
  if d.companion (d.queue id).net (partOfQueue id) then x.aepoch else x.epoch

/-! ## The census' hold (R244, R247) -/

/-- The census of a partition holds its count. -/
def Dev.censusHeld (d : Dev) (p : PartId) : Bool :=
  let x := d.part p
  !(x.cast == .released || x.cast == .stopped) || x.frozen || x.power != .on || x.inReset
    || (coresOfPart p).any (fun c => (d.core c).state == .waitd)
    || (d.partsOfNet x.net).any (fun o => (d.part o).act.isSome || (d.part o).frozen)

/-- A hold of the census may have ended: the count restarts at 0 when the last one has. -/
def Dev.censusBack (d : Dev) (p : PartId) : Dev :=
  if d.censusHeld p then d else d.modPart p (fun x => { x with dlkCnt := 0#17 })

/-- The censuses of a network's partitions may go on. -/
def Dev.censusBackNet (d : Dev) (n : NetId) : Dev := (d.partsOfNet n).foldl (fun d p => d.censusBack p) d

/-- Receivers in a partition that is in reset, gated or not in service count as released up to T (R46, R308, Table 6-9).
Assumption 41 (DESIGN CHOICE): unsafe. -/
def Dev.resetRcvs (d : Dev) (q : Queue) : Queue :=
  { q with rcvs := q.rcvs.map (fun r =>
      match r.part with
      | some p => if !(d.part p).live || r.gone then { r with h := q.tail, r := q.tail, m := none, gap := none, skip := 0, owed := none } else r
      | none => r) }

/-- Put a queue back after a change: receivers in reset follow T, waiting receivers release, lagging ones are
detached, freed words leave. -/
def Dev.putQueue (d : Dev) (id : QueueId) (q : Queue) : Dev :=
  (d.setQueue id ((d.resetRcvs q).awaitAll.passVacant.payOwed.detachLag).settle).moved id

/-! ## Spilling (R236 to R240) -/

/-- The 512 bytes of a spill burst (Table 6-7). An unfilled length slot is stored with V = 0. -/
def spillBytes (cells : List (Option QWord)) (seq : W32) (id : QueueId) : List Byte :=
  (cells.flatMap (fun c => match c with | some w => bytes64 w.payload | none => List.replicate 8 0#8))
    ++ cells.map (fun c => match c with | some w => w.tag | none => 0#8)
    ++ bytes32 seq ++ bytes16 (id.setWidth 16) ++ [0#8, 0#8]

/-- Device address of a burst of the spill ring. -/
def Queue.burstAddr (q : Queue) (slot : Nat) : Nat := q.spillBase.toNat + 512 * slot

/-- Write a full burst of the stager to the ring when it has room, one at a time: a class 0 burst (R239).
Assumption 37 (DEDUCED): unsafe. Assumption 38 (DESIGN CHOICE): safe. -/
def Dev.spillOut (d : Dev) (id : QueueId) : Dev :=
  let q := d.queue id
  if q.spillBusy || q.stager.length < 56 || q.elastic ≤ q.ring.length then d
  else
    let slot := match q.ring.getLast? with | some b => (b.slot + 1) % max q.elastic 1 | none => 0
    let a := q.burstAddr slot
    let p := partOfQueue id
    let d1 := d.setQueue id { q with spillBusy := true }
    match locate d.die1 a with
    | some pl => d1.toChannel { who := .spill id, cls := 0#2, part := p, write := true, addr := BitVec.ofNat 40 a, bytes := 512,
                                off := slot, tag := q.spillSeq.setWidth 64 } pl.1
    | none => (d1.setQueue id { q with stager := q.stager.drop 56, ring := q.ring ++ [⟨q.spillSeq, slot⟩],
                                       spillSeq := q.spillSeq + 1#32, spwords := satAdd q.spwords 56 }).tfault (.spill id) p a

/-- A spill burst is written: its words leave the stager for the ring. Assumption 37 (DEDUCED): unsafe.
Assumption 38 (DESIGN CHOICE): safe. -/
def Dev.spillEnd (d : Dev) (id : QueueId) (b : BurstReq) : Dev :=
  let q := d.queue id
  if !q.spillBusy || q.spillSeq.setWidth 64 != b.tag then d
  else
    let d1 := d.setQueue id { q with spillBusy := false, stager := q.stager.drop 56, ring := q.ring ++ [⟨q.spillSeq, b.off⟩],
                                     spillSeq := q.spillSeq + 1#32, spwords := satAdd q.spwords 56 }
    ((if b.cause == 0 then d1.writeBytes b.addr.toNat (spillBytes (q.stager.take 56) q.spillSeq id) else d1).moved id).spillOut id

/-- The cells of a returned burst: its words, or 56 void words after a spill error (R240). -/
def burstCells (bytes : List Byte) (ok : Bool) : List (Option QWord) :=
  (List.range 56).map (fun i =>
    let t := bytes.getD (448 + i) 0#8
    let w := wordOfTag (BitVec.ofNat 64 (leNat ((bytes.drop (8 * i)).take 8))) t
    if ok then w else some (voidWord (t.extractLsb' 5 3) (t.getLsbD 3) (t.getLsbD 4)))

/-- Put the words held for length slots into the cells of a returned burst, whose first position is `p`. -/
def Queue.placeHeld (q : Queue) (p : W32) (cells : List (Option QWord)) : List (Option QWord) × List (W32 × QWord) :=
  (q.held.foldl (fun c h => if pdist p h.1 < 56 then c.set (pdist p h.1) (some h.2) else c) cells,
   q.held.filter (fun h => !decide (pdist p h.1 < 56)))

/-- A returned burst enters the on-chip part (R236, R240, R569). Assumption 38 (DESIGN CHOICE): safe. -/
def Dev.spillBack (d : Dev) (id : QueueId) (b : BurstReq) : Dev :=
  let q := d.queue id
  match q.ring with
  | [] => d
  | _ :: rest =>
    if !q.retBusy || q.retSeq.setWidth 64 != b.tag then d
    else
      let p := partOfQueue id
      let q1 := { q with ring := rest, retSeq := q.retSeq + 1#32, retBusy := false }
      let here := q.old + BitVec.ofNat 32 q.store.length
      if b.cause == 0 then
        let bytes := d.readBytes b.addr.toNat 512
        let seq := BitVec.ofNat 32 (leNat ((bytes.drop 504).take 4))
        let qn := BitVec.ofNat 13 (leNat ((bytes.drop 508).take 2))
        let ok := seq == q.retSeq && qn == id
        let (cells, held) := q.placeHeld here (burstCells bytes ok)
        let d2 := d.putQueue id { q1.append false cells with
          held := held, sperr := if ok then q.sperr else satInc q.sperr }
        if ok then d2 else d2.raise 0x4003#16 p [arg32 id, q.retSeq, seq]
      else
        let (cells, held) := q.placeHeld here (List.replicate 56 (some (voidWord q.lastEpoch false false)))
        (d.putQueue id { q1.append false cells with held := held, sperr := satInc q.sperr }).raise 0x4003#16 p
          [arg32 id, q.retSeq, 0xFFFFFFFF#32]

/-- Ask for the oldest burst of the ring, one at a time: a class 0 burst (R236, R239).
Assumption 38 (DESIGN CHOICE): safe. -/
def Dev.returnBurst (d : Dev) (id : QueueId) : Dev :=
  let q := d.queue id
  match q.ring with
  | [] => d
  | b :: _ =>
    if q.retBusy then d
    else
      let a := q.burstAddr b.slot
      let p := partOfQueue id
      let d1 := d.setQueue id { q with retBusy := true }
      let req : BurstReq := { who := .spill id, cls := 0#2, part := p, write := false, addr := BitVec.ofNat 40 a, bytes := 512,
                              off := b.slot, tag := q.retSeq.setWidth 64 }
      match locate d.die1 a with
      | some pl => d1.toChannel req pl.1
      | none => (d1.tfault (.spill id) p a).spillBack id { req with cause := 1 }

/-- Pass words from the stager to the on-chip part while it can take them. -/
def Dev.drainStager (d : Dev) (id : QueueId) : Nat → Dev
  | 0 => d
  | n + 1 =>
    let q := d.queue id
    match q.stager with
    | [] => d
    | c :: t =>
      if d.canTake id 1 then (d.putQueue id ({ q with stager := t }.append false [c])).drainStager id n else d

/-- Return to Normal state when the ring and the stager are empty; credits still out for the stager become credits of the on-chip
part once it can take their words, and bring their words to the stager until then. -/
def Dev.normal (d : Dev) (id : QueueId) : Dev :=
  let q := d.queue id
  if !(q.ring.isEmpty && q.stager.isEmpty) then d
  else if q.scredits == 0 || d.canTake id q.scredits then
    d.setQueue id { q with
      spilling := false, prods := tblMap {} q.prods (fun _ p => { p with credits := p.credits + p.scredits, scredits := 0 }) }
  else d.setQueue id { q with spilling := false }

/-! ## Credits (R215, R216, R218, R236, R238) -/

/-- The stager has room for a word credited now; a word of a length-prefix queue may bring its slot.
Assumption 36 (DESIGN CHOICE): unsafe. -/
def Queue.stagerRoom (q : Queue) (n : Nat) : Bool :=
  let per := if q.pmode == .lengthPrefix then 2 else 1
  q.stager.length + per * (q.scredits + n) ≤ 112

/-- What the queue manager answers a request of `n` credits at a port: the device after it.
Assumption 34 (DESIGN CHOICE): unsafe. -/
def Dev.grant (d : Dev) (id : QueueId) (port : BitVec 10) (n : Nat) : Dev :=
  let q := d.queue id
  let p := port.toNat
  let pr := q.prod p
  let give (x : Queue) : Queue := x.modProd p (fun y => { y with credits := y.credits + n, wants := false })
  let refuse (x : Queue) : Queue :=
    let y := { x with qhold := satInc x.qhold }
    if n == 1 then y else y.modProd p (fun z => { z with wants := true })
  let short (q1 : Queue) : Dev :=
    let oldest := q1.rcvs.filter (fun r => r.h == q1.old)
    if q1.store.isEmpty || oldest.isEmpty || oldest.any (fun r => !r.detach) then d.setQueue id q1
    else (d.setQueue id ((q1.detachIf (fun r => r.h == q1.old)).settle)).moved id
  if n == 1 && 16 ≤ pr.credits + pr.scredits then d
  else
    match q.slot with
    | some s =>
      let need := q.slotNeed s p (pr.credits + n - 1)
      let more := need - q.store.length
      if d.canTake id more then d.setQueue id (give (q.reserve need)) else short (refuse q)
    | none =>
      let spill := q.elastic != 0 && (q.spilling || q.scredits != 0 || q.cap ≤ q.occ)
      if spill then
        let q1 := { q with spilling := true }
        if q1.stagerRoom n then
          d.setQueue id (q1.modProd p (fun y => { y with scredits := y.scredits + n, wants := false }))
        else d.setQueue id { refuse q1 with ringFull := q.ringFull || q.elastic ≤ q.ring.length }
      else if d.canTake id n then d.setQueue id (give q)
      else short (refuse q)

/-- Cells that the queue may still take, by CAP, floor and pool (R215, R216). -/
def Dev.roomOf (d : Dev) (id : QueueId) : Nat :=
  let q := d.queue id
  min (q.cap - q.occ) (q.floor + q.borrow + d.poolFree (clusterOfQueue id) / 8 * 8 - q.occ)

/-- A credit of the port is at hand. -/
def Queue.hasCredit (q : Queue) (port : Nat) : Bool := (q.prod port).credits + (q.prod port).scredits != 0

/-! ## Snoop and patch (R286 to R288) -/

/-- Half of a payload. -/
def halfOf (w : W64) (high : Bool) : W32 := if high then w.extractLsb' 32 32 else w.extractLsb' 0 32

/-- KIND as a bit number of the kind mask. -/
def kindBit (k : Kind) : Nat := match k with | .data => 0 | .header => 1 | .marker => 2 | .void => 3

/-- Patch a word with the valid value of a block that patches this queue at this index. -/
def Dev.patchWord (d : Dev) (id : QueueId) (idx : Nat) (w : QWord) : QWord × Dev :=
  (coresOfCluster (clusterOfQueue id)).foldl (fun acc c =>
    let (w, d) := acc
    let k := d.core c
    if k.state != .fenced && k.patchQ == some id && k.patchIdx == idx && (w.kind == .data || w.kind == .header) then
      match k.patch with
      | some v =>
        ({ w with payload := if k.patchHigh then v ++ w.payload.extractLsb' 0 32 else w.payload.extractLsb' 32 32 ++ v },
         d.modCore c (fun x => { x with patch := none }))
      | none => (w, d.modPart (partOfCore c) (fun p => { p with patchMiss := satInc p.patchMiss }))
    else (w, d)) (w, d)

/-- Capture a word in the snoops that watch this queue. -/
def Dev.snoopWord (d : Dev) (id : QueueId) (idx : Nat) (w : QWord) : Dev :=
  (coresOfCluster (clusterOfQueue id)).foldl (fun d c =>
    let k := d.core c
    if k.state != .fenced && k.snoopQ == some id && k.snoopKinds.getLsbD (kindBit w.kind) && k.snoopIdx == idx then
      if k.snoopTime == some d.time then d.modPart (partOfCore c) (fun p => { p with snoopMiss := satInc p.snoopMiss })
      else d.modCore c (fun x => { x with snoopReg := halfOf w.payload k.snoopHigh, snoopStrobe := w.tag,
                                          snoopTime := some d.time })
    else d) d

/-! ## A write (R204) -/

/-- The queue takes a word whose credit is at hand: packets, slots, spilling. -/
def Queue.put (q : Queue) (port : Nat) (w : QWord) : Queue :=
  let p := q.prod port
  let st := p.credits == 0
  let q0 := q.modProd port (fun x =>
    if st then { x with scredits := x.scredits - 1, epoch := w.epoch } else { x with credits := x.credits - 1, epoch := w.epoch })
  let q1 := match q.slot with
    | some s => { (if w.isStart then q0.putSlotMarker s port w else q0.putSlotWord s port w) with lastEpoch := w.epoch }
    | none =>
      match q.pmode with
      | .plain => (q0.append st [some w]).modProd port (fun x => { x with slotWord := if w.isStart then 0 else x.slotWord + 1 })
      | .lengthPrefix => q0.putLen port st w
      | .commit => q0.putCommit port w
  { q1 with wordIdx := if w.eor then 0 else q.wordIdx + 1 }

/-- A word absorbed at the boundary of a partition that is not live (R308), or by the bridge of a die in reset (R23). -/
def Dev.absorb (d : Dev) (p : PartId) : Dev :=
  let i := dieOfPart p
  if (d.die i).inReset || !(d.die i).railOn then
    { d with bridgeAbsorb := tblMod 0#32 d.bridgeAbsorb i satInc }
  else d.modPart p (fun x => { x with absorb := satInc x.absorb })

/-- A frame-start marker opens its frame's entry of the flags, or joins its flags to it (R76, R156). -/
def Queue.openFlags (q : Queue) (w : QWord) : Queue :=
  if !w.isStart then q
  else if q.frameFlags.any (fun e => e.1 == w.frameKey) then
    { q with frameFlags := q.frameFlags.map (fun e => if e.1 == w.frameKey then (e.1, e.2 ||| w.flags) else e) }
  else { q with frameFlags := q.frameFlags ++ [(w.frameKey, w.flags)] }

/-- Flags that a writer sets on a frame after its marker went out (R76). -/
def Queue.tellFlags (q : Queue) (key : W32 × Bool) (f : Byte) : Queue :=
  { q with frameFlags := q.frameFlags.map (fun e => if e.1 == key then (e.1, e.2 ||| f) else e) }

/-- The flags set so far on a frame of the queue. -/
def Queue.heardFlags (q : Queue) (key : W32 × Bool) : Byte :=
  q.frameFlags.foldl (fun f e => if e.1 == key then f ||| e.2 else f) 0#8

/-- A receiver reads a frame-start marker: entries that every receiver has passed leave. -/
def Queue.beginFlags (q : Queue) (r : BitVec 10) (w : QWord) : Queue :=
  if !w.isStart then q
  else
    let q1 := q.modRcv r (fun x => { x with began := some w.frameKey })
    { q1 with frameFlags := q1.frameFlags.dropWhile (fun e =>
        q1.rcvs.all (fun x => x.gone || (match x.began with
          | none => false
          | some k => k != e.1 && q1.frameFlags.any (fun y => y.1 == k)))) }

/-- A producer's word reaches the queue manager (R204): absorbed at the boundary of a partition that is not live,
lost on a forced lane, discarded with its credit returned after a force until a frame-start marker, otherwise
written with snoop and patch applied. A word without credit waits at its producer. Assumption 19 (DEDUCED): unsafe. -/
def Dev.write (d : Dev) (id : QueueId) (port : BitVec 10) (w : QWord) : Dev :=
  let p := port.toNat
  if !d.queueLive id then d.absorb (partOfQueue id)
  else
    let q := d.queue id
    let pr := q.prod p
    if !q.hasCredit p then d.setQueue id (q.modProd p (fun x => { x with wants := true }))
    else if d.portForced id port then d.setQueue id (q.modProd p (fun x => { x with dropToMarker := true }))
    else if pr.dropToMarker && !w.isStart then d
    else
      let q0 := q.modProd p (fun x => { x with dropToMarker := false })
      let (w1, d1) := d.patchWord id q.wordIdx w
      let d2 := d1.snoopWord id q.wordIdx w1
      let d3 := d2.putQueue id ((q0.put p w1).openFlags w1)
      d3.spillOut id

/-- Write words one after another. -/
def Dev.writeAll (d : Dev) (id : QueueId) (port : BitVec 10) (ws : List QWord) : Dev :=
  ws.foldl (fun d w => d.write id port w) d

/-! ## Reads -/

/-- Reads of a queue answer V = 0: its partition is not live or frozen, or the read lane is forced (R46, R247, R263). -/
def Dev.readsDead (d : Dev) (id : QueueId) (r : BitVec 10) : Bool :=
  !d.queueLive id || (d.part (partOfQueue id)).frozen || d.laneForced id (some r)

/-- What a sequential read of a receiver finds now. -/
def Dev.peek (d : Dev) (id : QueueId) (r : BitVec 10) : Look :=
  if d.readsDead id r then .empty
  else match (d.queue id).rcv r with
    | none => .empty
    | some x => (d.queue id).look x

/-- A sequential read that fires. -/
def Dev.seqRead (d : Dev) (id : QueueId) (r : BitVec 10) : Dev :=
  let l := d.peek id r
  match (d.queue id).rcv r with
  | none => d
  | some _ =>
    let q := (d.queue id).modRcv r (fun x => x.take l)
    match l with
    | .word w => d.putQueue id (q.beginFlags r w)
    | _ => d.setQueue id q

/-- The word a receiver last read. -/
def Dev.lastOf (d : Dev) (id : QueueId) (r : BitVec 10) : Option QWord :=
  match (d.queue id).rcv r with | some x => x.last | none => none

/-- Discard the stale word at R of a sequential receiver (R251). -/
def Dev.epochDrop (d : Dev) (id : QueueId) (r : BitVec 10) : Dev :=
  match d.peek id r with
  | .stale =>
    let q := (d.queue id).modRcv r (fun x =>
      let x1 := { x with r := x.r + 1#32 }
      match x.m with | none => { x1 with h := x1.r } | some _ => x1)
    d.putQueue id { q with epdisc := satInc q.epdisc }
  | _ => d

/-- A windowed read of position B + a (R210, R211, R251): the word returned, none for V = 0, and the device. -/
def Dev.winRead (d : Dev) (id : QueueId) (r : BitVec 10) (a : W32) : Option QWord × Dev :=
  if d.readsDead id r then (none, d)
  else
    let q := d.queue id
    match q.rcv r with
    | none => (none, d)
    | some x =>
      match x.gap with
      | some (gw, gf) =>
        (some (gapMarker x.e gw gf), d.setQueue id (q.modRcv r (fun y => { y with gap := none })))
      | none =>
      let p := x.b + a
      let staleHere := match q.cell p with | some w => pdist q.old p < q.vis && stale x.e w | none => false
      if staleHere then
        if x.stale.contains p then (some (voidWord x.e false false), d)
        else (some (voidWord x.e false false),
          d.setQueue id { q.modRcv r (fun y => { y with stale := p :: y.stale }) with epdisc := satInc q.epdisc })
      else if earlier p x.h then
        let f := (d.net q.net).frameNow
        let d1 := d.setQueue id { q with winerr := satInc q.winerr, winEvt := some f }
        (some (voidWord x.e false false),
          if q.winEvt == some f then d1 else d1.raise 0x4002#16 (partOfQueue id) [arg32 id, f])
      else if pdist q.old p < q.vis then (q.cell p, d)
      else (none, d)

/-- MARK (R212). -/
def Queue.mark (q : Queue) (r : BitVec 10) : Queue := q.modRcv r (fun x => { x with m := some x.r })

/-- REWIND (R212). -/
def Queue.rewind (q : Queue) (r : BitVec 10) : Queue :=
  match q.rcv r with
  | none => q
  | some x => match x.m with
    | some m => q.modRcv r (fun y => { y with r := m })
    | none => { q with markerr := satInc q.markerr }

/-- RELEASE to position p (R212). -/
def Queue.release (q : Queue) (r : BitVec 10) (p : W32) : Queue :=
  match q.rcv r with
  | none => q
  | some x =>
    let go (to_ : W32) (y : Rcv) : Rcv :=
      { y with h := to_, m := none, r := if earlier y.r to_ then to_ else y.r,
               stale := y.stale.filter (fun s => !earlier s to_) }
    if pdist x.h p ≤ pdist x.h q.tail then q.modRcv r (go p)
    else if earlier p x.h then { q with markerr := satInc q.markerr }
    else { q.modRcv r (go q.tail) with markerr := satInc q.markerr }

/-- The release of a ROWEND: to `p`, what has not come yet as it comes (R158). -/
def Queue.releaseTo (q : Queue) (r : BitVec 10) (p : W32) : Queue :=
  match q.rcv r with
  | none => q
  | some x =>
    if pdist x.h q.tail < pdist x.h p && !earlier p x.h then
      (q.release r q.tail).modRcv r (fun y => { y with owed := some p })
    else if earlier p x.h then q
    else q.release r p

/-- A record writer counts the bad packets that it skips in ROUT_BAD (R473). -/
def Dev.countBad (d : Dev) (id : QueueId) (r : BitVec 10) : Dev :=
  { d with routs := tblMap {} d.routs (fun _ x => if x.valid && x.q == id && x.rcv == r then { x with bad := satInc x.bad } else x) }

/-- End the skip of a bad packet (R223): the length word and its words are released for the receiver. -/
def Dev.endSkip (d : Dev) (id : QueueId) (r : BitVec 10) : Dev :=
  match (d.queue id).rcv r with
  | none => d
  | some x =>
    let q := (d.queue id).modRcv r (fun y =>
      let p := y.r + BitVec.ofNat 32 x.skip
      { y with r := p, skip := 0, h := match y.m with | none => p | some _ => y.h })
    (d.putQueue id q).countBad id r

/-! ## Frames in flight -/

/-- A frame of the network has left every output: each output stage's cores are past it. -/
def Dev.frameOut (d : Dev) (n : NetId) (f : W32) : Bool :=
  let cs := d.coresOfNet n
  let outs := cs.filter (fun c => (d.core c).kind == .output)
  (if outs.isEmpty then cs else outs).all (fun c =>
    let k := d.core c
    (k.frame == f && !k.inFrame && k.frames != 0) || (k.frames != 0 && earlier f k.frame))

/-- Frames admitted and not yet out of every output. -/
def Dev.framesIn (d : Dev) (n : NetId) : List W32 := (d.net n).inFlight.filter (fun f => !d.frameOut n f)

/-- Frames that have left every output are no longer in flight. -/
def Dev.trimFlights (d : Dev) (n : NetId) : Dev := d.modNet n (fun x => { x with inFlight := d.framesIn n })

/-! ## Emptying (Table 6-8, Table 6-9) -/

/-- Every word leaves, open packets are closed bad or aborted, stager and ring are emptied, marks cleared and
pointers set to T. The slots of a multi-core edge start again with the stage's programs. -/
def Queue.empty (q : Queue) : Queue :=
  let bad := (q.prods.filter (fun e => e.2.inPkt)).length
  let t := q.tail
  { q with
    store := [], stager := [], ring := [], held := [], lenSlot := none, spilling := false, old := t,
    slotF := 0, slotO := 0, voids := [], wordIdx := 0, frameFlags := [], streamPos := 0, images := [], imgPos := 0, imgFlight := 0, badpkt := satAdd q.badpkt bad,
    retSeq := q.spillSeq, spillBusy := false, retBusy := false, startPos := t,
    rcvs := q.rcvs.map (fun r => { r with h := t, r := t, m := none, gap := none, skip := 0, await := false, stale := [], owed := none,
                                          began := none, upTo := none }),
    prods := tblMap {} q.prods (fun _ p =>
      { p with open_ := [], inPkt := false, pktLen := 0, discard := false, slotFrame := 0, slotWord := 0, wants := false,
               voidLeft := 0, credits := if q.slot.isSome then 0 else p.credits, scredits := 0 }) }

/-- Set every receiver's accepted epoch (R250). -/
def Queue.setEpoch (q : Queue) (e : BitVec 3) : Queue := { q with rcvs := q.rcvs.map (fun r => { r with e := e }) }

/-- The queue holds at least one word (R242). -/
def Queue.nonEmpty (q : Queue) : Bool :=
  q.store.any (fun c => c.isSome) || !q.ring.isEmpty || q.stager.any (fun c => c.isSome) || q.openSum != 0
/-- A producer has a word to write and no credit for it (R242). -/
def Queue.full (q : Queue) : Bool := q.prods.any (fun e => e.2.wants && e.2.credits + e.2.scredits == 0)
end Sys2Proof.Machine
end

