-- ==== Sys2Proof/Machine/Bursts.lean ====
section
/-! DEFINITION. Memory bursts from issue to delivery (chapter 11): channels and lane 8, what a burst's end does for
weight streaming, reference tiles and DMA, and the bursts that credits start (R133, R218, R345). -/
namespace Sys2Proof.Machine

open Sys2Proof

/-! ## Weight streams (R134) -/

/-- The words of a weight burst: as many of the 64 as the sequence still has; void after a translation fault (Table 11-7). -/
def Dev.weightEnd (d : Dev) (id : QueueId) (b : BurstReq) : Dev :=
  let q := d.queue id
  match q.stream with
  | none => d
  | some (_, words) =>
    let n := min 64 (words - b.off)
    let bytes := if b.cause == 0 then d.readBytes b.addr.toNat 512 else []
    let ws := (List.range n).map (fun i =>
      if b.cause == 0 then
        ({ payload := BitVec.ofNat 64 (leNat ((bytes.drop (8 * i)).take 8)), epoch := b.epoch } : QWord)
      else voidWord b.epoch false false)
    let d1 := d.writeAll id 0#10 ws
    d1.modQueue id (fun q => q.modProd 0 (fun p => { p with credits := p.credits - (64 - n) }))

/-! ## Images of adapted stages (R364) -/

/-- The words of an image burst, void after a translation fault (Table 11-7). -/
def Dev.imageEnd (d : Dev) (id : QueueId) (b : BurstReq) : Dev :=
  let n := b.bytes / 8
  let bytes := if b.cause == 0 then d.readBytes b.addr.toNat b.bytes else []
  let ws := (List.range n).map (fun i =>
    let e := b.last && i + 1 == n
    if b.cause == 0 then
      ({ payload := BitVec.ofNat 64 (leNat ((bytes.drop (8 * i)).take 8)), eor := e, eof := e, epoch := b.epoch } : QWord)
    else voidWord b.epoch e e)
  let d1 := d.writeAll id 0#10 ws
  d1.modQueue id (fun q => { q with imgFlight := q.imgFlight - n }.modProd 0 (fun p => { p with credits := p.credits - (64 - n) }))

/-! ## Reference tiles (R338, R339) -/

/-- Tile-tag word payload (Table 9-3). -/
def Tile.tag (t : Tile) (g : BitVec 2) : W64 :=
  t.pgen ++ t.upol ++ t.tstat ++ t.tile ++ g ++ BitVec.ofInt 14 t.bin ++ t.frame

/-- Change the tile of a group that stands at a place of a frame's list. -/
def RefGroup.modTile (g : RefGroup) (frame : W32) (pos : Nat) (f : Tile → Tile) : RefGroup :=
  { g with tiles := g.tiles.map (fun t => if t.frame == frame && t.pos == pos then f t else t) }

def Dev.refGroup (d : Dev) (g : BitVec 2) : Option RefGroup := tblGet none d.route.groups g.toNat
def Dev.modRef (d : Dev) (g : BitVec 2) (f : RefGroup → RefGroup) : Dev :=
  d.modRoute (fun r => { r with groups := tblMod none r.groups g.toNat (fun o => o.map f) })

/-- Deliver words of a tile: its tag ahead of the first. A delivered tile without a stored reference counts in NOREF. -/
def Dev.tileWords (d : Dev) (g : BitVec 2) (t : Tile) (ws : List W64) : Dev :=
  let mk (w : W64) : QWord := { payload := w, epoch := t.epoch }
  let first := t.got == 0
  let at_ := (d.queue t.q).old + BitVec.ofNat 32 (d.queue t.q).total
  let d1 := d.writeAll t.q 0#10 ((if first then [mk (t.tag g)] else []) ++ ws.map mk)
  let d2 := d1.modRef g (fun x => { x with lastDel := if first then some t.frame else x.lastDel }.modTile t.frame t.pos (fun y =>
    { y with got := y.got + ws.length + (if first then 1 else 0), at_ := if first then some at_ else y.at_, tstat := t.tstat }))
  if first && t.tstat != 0#2 then d2.modRoute (fun r => { r with noref := satInc r.noref }) else d2

/-- A tile's burst is done: nothing is delivered for a cancelled tile; a faulting first burst makes it a tile without
reference, and words of a later faulting one are 0. Assumption 66 (DEDUCED): unsafe. -/
def Dev.tileEnd (d : Dev) (g : BitVec 2) (b : BurstReq) : Dev :=
  match d.refGroup g with
  | none => d
  | some x =>
    match x.tiles.find? (fun t => t.tag g == b.tag && t.q == b.q && t.epoch == b.epoch) with
    | none => d
    | some t =>
      let ws := if b.cause == 0 && t.tstat == 0#2 then
          let bytes := d.readBytes b.addr.toNat 512
          (List.range 64).map (fun i => BitVec.ofNat 64 (leNat ((bytes.drop (8 * i)).take 8)))
        else List.replicate 64 0#64
      let t1 := if b.cause != 0 && t.got == 0 then { t with tstat := 1#2 } else t
      d.tileWords g t1 ws

/-! ## DMA (R406, R410) -/

/-- Partition of a DMA channel (R404). -/
def dmaPart (n : BitVec 6) : PartId := n.extractLsb' 1 5

/-- The first fault of a descriptor in hardware mode raises its event; every faulted byte counts once. -/
def Dev.dmaFault (d : Dev) (n : BitVec 6) (a bytes : Nat) (write : Bool) (cause : Nat) : Dev :=
  let c := d.dmaCh n
  let p := dmaPart n
  let d1 := d.modDma n (fun c =>
    { c with fbytes := c.fbytes + bytes, fcause := if c.fcause == 0 then cause else c.fcause,
             faddr := BitVec.ofNat 31 (a / 512), fwrite := write })
  let d2 := (d1.modPart p (fun x => { x with tfDma := satInc x.tfDma })).modRing (dieOfPart p)
    (fun r => { r with tfDma := satInc r.tfDma })
  if c.fcause == 0 then
    d2.raise 0x7001#16 p [arg32 n, arg32 c.head, addrHi a, (if write then 1#32 else 0#32)]
  else d2

/-- A DMA write has reached storage, or is discarded. -/
def Dev.dmaWriteEnd (d : Dev) (n : BitVec 6) (b : BurstReq) : Dev :=
  let d1 := if b.cause == 0 then d.memWrite b.addr.toNat b.data
    else d.dmaFault n b.addr.toNat (if b.counted then 0 else b.bytes) true b.cause
  d1.modDma n (fun c => { c with inFlight := c.inFlight - 1 })

/-- Hand a DMA write on; one that reaches no channel ends at once. -/
def Dev.dmaWrite (d : Dev) (n : BitVec 6) (b : BurstReq) : Dev :=
  match locate d.die1 b.addr.toNat with
  | some pl => d.toChannel b pl.1
  | none =>
    let cause := if b.pre then none else d.burstCause b.part b.addr.toNat true true
    d.dmaWriteEnd n { b with cause := cause.getD 0 }

/-- A byte of a copy's source that is also a byte of its destination, through an alias in another view (R407).
Assumption 128 (DESIGN CHOICE): safe. -/
def Dev.aliased (d : Dev) (x : DmaDesc) (a : Nat) : Bool :=
  match locate d.die1 a with
  | none => false
  | some pl => (viewsOf pl.1 pl.2).any (fun v => decide (x.dst.toNat ≤ v) && decide (v < x.dst.toNat + x.len.toNat))

/-- The bytes that the read of a copy brings: a byte that the same copy also overwrites is either the old or the new value
(R407), a free value. -/
def Dev.copyData (d : Dev) (n : BitVec 6) (a len : Nat) : List Byte × Dev :=
  let data := d.memRead a len
  match (d.dmaCh n).desc with
  | none => (data, d)
  | some x =>
    let hits := (List.range len).map (fun i => d.aliased x (a + i))
    if hits.any id then
      let f := d.freeBytes len
      ((hits.zip (data.zip f.1)).map (fun e => if e.1 then e.2.2 else e.2.1), f.2)
    else (data, d)

/-- The read of a copy is done: its bytes, zeros after a fault, go on to the destination. -/
def Dev.dmaReadEnd (d : Dev) (n : BitVec 6) (b : BurstReq) : Dev :=
  let d1 := if b.cause == 0 then d else d.dmaFault n b.addr.toNat b.bytes false b.cause
  let r := if b.cause == 0 then d1.copyData n b.addr.toNat b.bytes else (List.replicate b.bytes 0#8, d1)
  match b.dst with
  | none => d1
  | some a => r.2.dmaWrite n { b with write := true, addr := a, dst := none, data := r.1, counted := b.cause != 0, cause := 0 }

/-! ## Every burst -/

/-- What the end of a burst does, by its requester (Table 11-7). -/
def Dev.burstEnd (d : Dev) (b : BurstReq) : Dev :=
  if b.dead then d
  else match b.who with
  | .weights q => d.weightEnd q b
  | .image q => d.imageEnd q b
  | .intake _ => if b.write then d else d.imageEnd b.q b
  | .prefetch g => d.tileEnd g b
  | .dma n => if b.write then d.dmaWriteEnd n b else d.dmaReadEnd n b
  | .spill q => if b.write then d.spillEnd q b else d.spillBack q b
  | _ => d

/-- The check of a burst at its grant (R400): DMA in host-assisted mode has been checked before issue (R411). -/
def Dev.checked (d : Dev) (b : BurstReq) : BurstReq × Dev :=
  match b.who with
  | .host => (b, d)
  | .dma _ =>
    if b.pre then (b, d)
    else ({ b with cause := (d.burstCause b.part b.addr.toNat b.write true).getD 0 }, d)
  | w =>
    match d.causeFor w b.part b.addr.toNat b.write with
    | none => (b, d)
    | some c => ({ b with cause := c }, d.tfault w b.part b.addr.toNat)

/-- Issue a burst: to its channel, or to its end with a fault when its address reaches no storage. -/
def Dev.submit (d : Dev) (b : BurstReq) : Dev :=
  match locate d.die1 b.addr.toNat with
  | some pl => d.toChannel b pl.1
  | none => let (b1, d1) := d.checked b; d1.burstEnd b1

/-! ## Bursts that credits start -/

/-- The next weight burst of a stream (R133, R134). -/
def Dev.streamBurst (d : Dev) (id : QueueId) : Dev :=
  let q := d.queue id
  match q.stream with
  | none => d
  | some (a, words) =>
    (d.setQueue id { q with streamPos := if words ≤ q.streamPos + 64 then 0 else q.streamPos + 64 }).submit
      { who := .weights id, cls := 0#2, part := partOfQueue id, write := false, addr := a + BitVec.ofNat 40 (8 * q.streamPos),
        bytes := 512, off := q.streamPos, epoch := d.epochOf id }

/-- The adaptation unit of a network, unit 0 where it has none. -/
def Dev.unitNo (d : Dev) (n : NetId) : BitVec 2 := ((d.adapt.find? (fun e => e.2.net == some n)).map (fun e => BitVec.ofNat 2 e.1)).getD 0#2

/-- The next burst of the image that a queue takes, when credits cover it (R364); a companion queue takes replay slots, in class 3
(R371), whose last word ends the frame. -/
def Dev.imageBurst (d : Dev) (id : QueueId) : Dev :=
  let q := d.queue id
  match q.images with
  | [] => d
  | (a, words) :: t =>
    if (q.prod 0).credits < q.imgFlight + 64 then d
    else
      let n := min 64 (words - q.imgPos)
      let last := words ≤ q.imgPos + 64
      let feed := d.companion q.net (partOfQueue id)
      (d.setQueue id { q with images := if last then t else q.images, imgPos := if last then 0 else q.imgPos + 64,
                              imgFlight := q.imgFlight + n }).submit
        { who := if feed then .intake (d.unitNo q.net) else .image id, cls := if feed then 3#2 else 2#2, part := partOfQueue id,
          write := false, addr := a + BitVec.ofNat 40 (8 * q.imgPos), bytes := 8 * n, off := q.imgPos, epoch := d.epochOf id, q := id,
          last := feed && last && t.isEmpty }

/-- An image is to be issued into a queue. -/
def Dev.issueImage (d : Dev) (id : QueueId) (a : DevAddr) (words : Nat) : Dev :=
  (d.modQueue id (fun q => { q with images := q.images ++ [(a, words)] })).imageBurst id

/-- The first tile for a queue whose bursts are not all issued, with its group. -/
def Dev.nextTile (d : Dev) (id : QueueId) : Option (BitVec 2 × RefGroup × Tile) :=
  d.route.groups.findSome? (fun e => match e.2 with
    | none => none
    | some g => (g.tiles.find? (fun t => t.q == id && t.sent < 64 * g.img.tsize)).map (fun t => (BitVec.ofNat 2 e.1, g, t)))

/-- Words of tiles issued for a queue and not yet delivered. -/
def Dev.tilesInFlight (d : Dev) (id : QueueId) : Nat :=
  (d.route.groups.map (fun e => match e.2 with
    | none => 0
    | some g => ((g.tiles.filter (fun t => t.q == id && t.sent != 0)).map (fun t => t.sent + 1 - t.got)).sum)).sum

/-- Start the next burst of a tile when the queue has credit for the whole burst, the tag with the first (R345, R218).
A tile without a stored reference reads nothing, and its words are delivered with payload 0 (R339). -/
def Dev.tileBurst (d : Dev) (id : QueueId) : Dev :=
  match d.nextTile id with
  | none => d
  | some (g, x, t) =>
    let need := if t.sent == 0 then 65 else 64
    if ((d.queue id).prod 0).credits < need + d.tilesInFlight id then d
    else
      let d1 := d.modRef g (fun y => y.modTile t.frame t.pos (fun z => { z with sent := z.sent + 64 }))
      if t.tstat != 0#2 then d1.tileWords g t (List.replicate 64 0#64)
      else d1.submit { who := .prefetch g, cls := 1#2, part := partOfQueue id, write := false,
                       addr := t.addr + BitVec.ofNat 40 (8 * t.sent), bytes := 512, off := t.sent, q := id,
                       tag := t.tag g, epoch := t.epoch, last := x.img.tsize * 64 ≤ t.sent + 64 }

/-- A burst brings words of a memory controller to one of some queues. -/
def BurstReq.brings (b : BurstReq) (qs : List QueueId) : Bool :=
  match b.who with | .weights q | .image q => qs.contains q | .prefetch _ | .intake _ => qs.contains b.q | _ => false

/-- Bursts under way bring nothing any more. Assumption 149 (DEDUCED): unsafe. -/
def Dev.cancelBusy (d : Dev) (f : BurstReq → Bool) : Dev :=
  { d with chans := tblMap {} d.chans (fun _ c => { c with busy := c.busy.map (fun b => if f b then { b with dead := true } else b) }) }

/-- Bursts of weights or images that are under way to a queue. -/
def Dev.underWay (d : Dev) (q : QueueId) : Nat :=
  d.chans.countP (fun e => match e.2.busy with
    | some b => !b.dead && b.brings [q] && (match b.who with | .prefetch _ => false | _ => true)
    | none => false)

/-- Cancel every burst that has not been granted and that `f` chooses. -/
def Dev.cancelBursts (d : Dev) (f : BurstReq → Bool) : Dev :=
  { d with chans := tblMap {} d.chans (fun _ c => { c with waiting := c.waiting.filter (fun b => !f b) }),
           rings := tblMap {} d.rings (fun _ r => { r with lane8 := r.lane8.filter (fun b => !f b) }) }

end Sys2Proof.Machine
end

