-- ==== Sys2Proof/Machine/Dma.lean ====
section
/-! DEFINITION. The DMA channels (R404 to R412, R416): descriptor fetch, bursts, completion, pre-emption, faults and
the writes of a channel's registers. -/
namespace Sys2Proof.Machine

open Sys2Proof

/-- Device address of the descriptor at HEAD. -/
def DmaChan.descAddr (c : DmaChan) : Nat := 512 * c.rbase.toNat + 32 * c.head.toNat

/-- Bytes of a small access of a DMA channel, the burst counted; none when it is a translation fault.
Assumption 81 (DESIGN CHOICE): safe. -/
def Dev.dmaSmallRead (d : Dev) (n : BitVec 6) (a len : Nat) : Option (List Byte × Dev) :=
  match d.burstCause (dmaPart n) a false true with
  | some _ => none
  | none => some (d.memRead a len, d.countBursts (some (dmaPart n)) 3#2 [a / 512])
def Dev.dmaSmallWrite (d : Dev) (n : BitVec 6) (a : Nat) (l : List Byte) : Option Dev :=
  match d.burstCause (dmaPart n) a true true with
  | some _ => none
  | none => some ((d.countBursts (some (dmaPart n)) 3#2 [a / 512]).memWrite a l)

/-- A ring fault (R408): EN cleared, state 3, the address kept, an event. -/
def Dev.ringFault (d : Dev) (n : BitVec 6) (a : Nat) (write : Bool) : Dev :=
  let p := dmaPart n
  let d1 := d.modDma n (fun c => { c with en := false, state := 3#2, desc := none, off := 0, fbytes := 0,
                                          fcause := 0, aborted := false, faddr := BitVec.ofNat 31 (a / 512), fwrite := write })
  ((d1.modPart p (fun x => { x with tfDma := satInc x.tfDma })).modRing (dieOfPart p)
    (fun r => { r with tfDma := satInc r.tfDma })).raise 0x7003#16 p [arg32 n, addrHi a]

/-- Word 3 of a descriptor (Table 11-6). -/
def statusWord (status cause fbytes : Nat) : W64 :=
  BitVec.ofNat 32 (min fbytes 0xFFFFFFFF) ++ 0#24 ++ BitVec.ofNat 6 cause ++ BitVec.ofNat 2 status

/-- The index after HEAD. -/
def DmaChan.nextHead (c : DmaChan) : BitVec 12 :=
  BitVec.ofNat 12 ((c.head.toNat + 1) % (c.rsizeM1.toNat + 1))

/-- End the descriptor in progress with a status (R406): word 3 written, HEAD advanced, the completion event, STOP. -/
def Dev.dmaFinish (d : Dev) (n : BitVec 6) (status cause fbytes : Nat) : Dev :=
  let c := d.dmaCh n
  let a := c.descAddr + 24
  match d.dmaSmallWrite n a (bytes64 (statusWord status cause fbytes)) with
  | none => d.ringFault n a true
  | some d1 =>
    let stop := match c.desc with | some x => x.stop | none => false
    let evt := match c.desc with | some x => x.evt | none => false
    let d2 := d1.modDma n (fun c =>
      { c with head := c.nextHead, desc := none, off := 0, fbytes := 0, fcause := 0, state := 0#2, resume := 0#32,
               aborted := false, done := satInc c.done, en := c.en && !stop })
    if evt then d2.raise 0x7005#16 (dmaPart n) [arg32 n, arg32 c.head, BitVec.ofNat 32 status] else d2

/-- The descriptor that 32 bytes spell, and whether it is bad (R407). -/
def parseDesc (l : List Byte) : DmaDesc × Bool :=
  let w (i : Nat) : W64 := BitVec.ofNat 64 (leNat ((l.drop (8 * i)).take 8))
  let x : DmaDesc := { src := w 0, dst := (w 1).setWidth 40, len := (w 2).setWidth 32, fill := (w 2).getLsbD 32,
                       evt := (w 2).getLsbD 34, stop := (w 2).getLsbD 35 }
  let s := x.src.toNat
  let t := x.dst.toNat
  let n := x.len.toNat
  let view (a : Nat) : Nat := if a < 0x400000000 then 0 else if a < 0x800000000 then 1 else if a < 0xC00000000 then 2 else 3
  let overlap := !x.fill && view s == view t && s < t + n && t < s + n
  (x, (w 1).extractLsb' 40 24 != 0#24 || (w 2).extractLsb' 36 28 != 0#28 || (w 2).getLsbD 33
      || (!x.fill && (w 0).extractLsb' 40 24 != 0#24) || n % 16 != 0 || t % 16 != 0 || (!x.fill && s % 16 != 0) || overlap)

/-- DMA_DESCRIPTOR_FETCH (R406 to R408); bursts of a descriptor that a ring reset or a casting ended complete first. -/
def dmaFetch (n : BitVec 6) (d : Dev) : Dev :=
  let c := d.dmaCh n
  let p := dmaPart n
  if !c.en || c.desc.isSome || c.state != 0#2 || c.head == c.tail || (d.part p).suspend || c.inFlight != 0 then d
  else match d.dmaSmallRead n c.descAddr 32 with
    | none => d.ringFault n c.descAddr false
    | some (l, d1) =>
      let (x, bad) := parseDesc l
      let d2 := d1.modDma n (fun c => { c with desc := some x, off := 0, fbytes := 0, fcause := 0 })
      if bad then (d2.raise 0x7004#16 p [arg32 n, arg32 c.head]).dmaFinish n 3 4 x.len.toNat else d2
def execDmaDescriptorFetch (n : BitVec 6) (s : State) : Ans := .next { s with dev := dmaFetch n s.dev }

/-- Bytes of the burst at offset `off`: it crosses no 512-byte boundary of SRC or DST. -/
def DmaDesc.burstLen (x : DmaDesc) (off : Nat) : Nat :=
  let room (a : Nat) : Nat := 512 - (a + off) % 512
  min (x.len.toNat - off) (min (room x.dst.toNat) (if x.fill then 512 else room x.src.toNat))

/-- The first address of a burst that would fault, in host-assisted mode: the read's, then the write's. -/
def Dev.dmaWouldFault (d : Dev) (p : PartId) (x : DmaDesc) (off : Nat) : Option (Nat × Bool) :=
  let s := x.src.toNat + off
  let t := x.dst.toNat + off
  if !x.fill && (d.burstCause p s false true).isSome then some (s, false)
  else if (d.burstCause p t true true).isSome then some (t, true)
  else none

/-- Freeze at a burst (R411). -/
def Dev.dmaFreeze (d : Dev) (n : BitVec 6) (a : Nat) (write : Bool) : Dev :=
  let p := dmaPart n
  let c := d.dmaCh n
  let d1 := d.modDma n (fun c => { c with state := 1#2, resume := BitVec.ofNat 32 c.off, faddr := BitVec.ofNat 31 (a / 512),
                                          fwrite := write })
  ((d1.modPart p (fun x => { x with tfDma := satInc x.tfDma })).modRing (dieOfPart p)
    (fun r => { r with tfDma := satInc r.tfDma })).raise 0x7001#16 p
      [arg32 n, arg32 c.head, addrHi a, (if write then 3#32 else 2#32)]

/-- Issue the burst at the channel's offset. Assumption 78 (DESIGN CHOICE): unsafe. -/
def Dev.dmaIssue (d : Dev) (n : BitVec 6) (x : DmaDesc) (pre : Bool) : Dev :=
  let c := d.dmaCh n
  let len := x.burstLen c.off
  let d1 := d.modDma n (fun c => { c with off := c.off + len, inFlight := c.inFlight + 1 })
  let b : BurstReq := { who := .dma n, cls := 3#2, part := dmaPart n, write := false, addr := x.dst, bytes := len, off := c.off,
                        pre := pre }
  let t : DevAddr := x.dst + BitVec.ofNat 40 c.off
  if x.fill then
    let pat := bytes64 x.src
    d1.dmaWrite n { b with write := true, addr := t, data := (List.range len).map (fun i => pat.getD (i % 8) 0#8) }
  else
    let r := { b with addr := x.src.setWidth 40 + BitVec.ofNat 40 c.off, dst := some t }
    match locate d1.die1 r.addr.toNat with
    | some pl => d1.toChannel r pl.1
    | none =>
      let cause := if pre then none else d1.burstCause r.part r.addr.toNat false true
      d1.dmaReadEnd n { r with cause := cause.getD 0 }

/-- DMA_BURST_ISSUE (R406, R409 to R411): at most 8 in flight, none while suspended or frozen.
Assumption 79 (DEDUCED): unsafe. -/
def dmaBurst (n : BitVec 6) (d : Dev) : Dev :=
  let c := d.dmaCh n
  let p := dmaPart n
  match c.desc with
  | none => d
  | some x =>
    if c.state != 0#2 || c.aborted || (d.part p).suspend || 8 ≤ c.inFlight || x.len.toNat ≤ c.off then d
    else if d.hostMode p 0 then
      match d.dmaWouldFault p x c.off with
      | some (a, w) => d.dmaFreeze n a w
      | none => d.dmaIssue n x true
    else d.dmaIssue n x false
def execDmaBurstIssue (n : BitVec 6) (s : State) : Ans := .next { s with dev := dmaBurst n s.dev }

/-- DMA_DESCRIPTOR_COMPLETE (R406): every write of the descriptor has reached storage. -/
def dmaComplete (n : BitVec 6) (d : Dev) : Dev :=
  let c := d.dmaCh n
  match c.desc with
  | none => d
  | some x =>
    if c.aborted && c.inFlight == 0 then d.dmaFinish n 3 2 (x.len.toNat - c.resume.toNat)
    else if c.aborted || c.state != 0#2 || c.inFlight != 0 || c.off < x.len.toNat then d
    else if c.fcause == 0 then d.dmaFinish n 1 0 0 else d.dmaFinish n 2 c.fcause c.fbytes
def execDmaDescriptorComplete (n : BitVec 6) (s : State) : Ans := .next { s with dev := dmaComplete n s.dev }

/-- A write to this block that a rule ignores. -/
def Dev.memReject (d : Dev) : Dev := { d with memRej := satInc d.memRej }

/-- The channel's die is populated: pages of an absent die ignore writes (R6). -/
def Dev.dmaPresent (d : Dev) (n : BitVec 6) : Bool := d.diePresent (dieOfPart (dmaPart n))

/-- DMA_RESUME (R412): the faulting burst is checked again. -/
def dmaResume (n : BitVec 6) (d : Dev) : Dev :=
  let c := d.dmaCh n
  if !d.dmaPresent n then d else
  match c.desc with
  | some x =>
    if c.state != 1#2 then d.memReject
    else match d.dmaWouldFault (dmaPart n) x c.off with
      | some (a, w) => d.dmaFreeze n a w
      | none => d.modDma n (fun c => { c with state := 0#2, resume := 0#32 })
  | none => d.memReject
def execDmaResume (n : BitVec 6) (s : State) : Ans := .next (hostWrite (dmaResume n) s)

/-- DMA_ABORT (R412); the status word is written when the bursts before the fault have reached storage (R406, R411).
Assumption 151 (DEDUCED): unsafe. -/
def dmaAbort (n : BitVec 6) (d : Dev) : Dev :=
  let c := d.dmaCh n
  if !d.dmaPresent n then d else
  match c.desc with
  | some x =>
    if c.state != 1#2 then d.memReject
    else if c.inFlight != 0 then d.modDma n (fun c => { c with state := 0#2, aborted := true })
    else d.dmaFinish n 3 2 (x.len.toNat - c.resume.toNat)
  | none => d.memReject
def execDmaAbort (n : BitVec 6) (s : State) : Ans := .next (hostWrite (dmaAbort n) s)

/-- DMA_RESET_RING (R416). -/
def dmaResetRing (n : BitVec 6) (d : Dev) : Dev :=
  if !d.dmaPresent n then d
  else if (d.dmaCh n).en then d.memReject
  else d.modDma n (fun c => { c with head := 0#12, tail := 0#12, state := 0#2, resume := 0#32, faddr := 0#31, fwrite := false,
                                     desc := none, off := 0, fbytes := 0, fcause := 0, aborted := false })
def execDmaResetRing (n : BitVec 6) (s : State) : Ans := .next (hostWrite (dmaResetRing n) s)

/-- DMA_RBASE_WRITE (R416). -/
def dmaRbase (n : BitVec 6) (v : W32) (d : Dev) : Dev :=
  if !d.dmaPresent n then d
  else if (d.dmaCh n).en then d.memReject else d.modDma n (fun c => { c with rbase := v })
def execDmaRbaseWrite (n : BitVec 6) (v : W32) (s : State) : Ans := .next (hostWrite (dmaRbase n v) s)

/-- DMA_RCFG_WRITE (R416, R408): EN follows the write; RSIZEM1 is ignored while EN is 1, counted when it would change;
setting EN after a ring fault retries the same descriptor from its start. Assumption 80 (DESIGN CHOICE): unsafe. -/
def dmaRcfg (n : BitVec 6) (v : W32) (d : Dev) : Dev :=
  let c := d.dmaCh n
  let size := v.setWidth 12
  if !d.dmaPresent n then d else
  let d1 := if c.en && size != c.rsizeM1 then d.memReject else d
  d1.modDma n (fun c =>
    { c with rsizeM1 := if c.en then c.rsizeM1 else size, en := v.getLsbD 12,
             state := if v.getLsbD 12 && !c.en && c.state == 3#2 then 0#2 else c.state })
def execDmaRcfgWrite (n : BitVec 6) (v : W32) (s : State) : Ans := .next (hostWrite (dmaRcfg n v) s)

/-- DMA_TAIL_WRITE (R416). -/
def dmaTail (n : BitVec 6) (v : W32) (d : Dev) : Dev :=
  if !d.dmaPresent n then d
  else if (d.dmaCh n).rsizeM1.toNat < (v.setWidth 12 : BitVec 12).toNat then d.memReject
  else d.modDma n (fun c => { c with tail := v.setWidth 12 })
def execDmaTailWrite (n : BitVec 6) (v : W32) (s : State) : Ans := .next (hostWrite (dmaTail n v) s)

/-- The two channels of a partition. -/
def dmaOf (p : PartId) : List (BitVec 6) := [p ++ 0#1, p ++ 1#1]

/-- DMA_SUSPEND (R409). -/
def execDmaSuspend (p : PartId) (s : State) : Ans :=
  .next (hostWritePart p (fun d => d.modPart p (fun x => { x with suspend := true })) s)

/-- DMA_SUSPENDED (R409): both channels have stopped. -/
def dmaSuspended (p : PartId) (d : Dev) : Dev :=
  if (d.part p).suspend && (dmaOf p).all (fun n => (d.dmaCh n).inFlight == 0) then
    d.modPart p (fun x => { x with suspended := true })
  else d
def execDmaSuspended (p : PartId) (s : State) : Ans := .next { s with dev := dmaSuspended p s.dev }

/-- DMA_UNSUSPEND (R409). -/
def execDmaUnsuspend (p : PartId) (s : State) : Ans :=
  .next (hostWritePart p (fun d => d.modPart p (fun x => { x with suspend := false, suspended := false })) s)

/-- Bursts of a DMA channel that have moved nothing yet: those that wait, and reads under way. -/
def Dev.dmaUnmoved (d : Dev) (n : BitVec 6) : List BurstReq :=
  let mine (b : BurstReq) : Bool := b.who == Requester.dma n && !b.dead
  d.chans.flatMap (fun e => e.2.waiting.filter mine ++ (match e.2.busy with | some b => if mine b && !b.write then [b] else [] | none => []))
    ++ d.rings.flatMap (fun e => e.2.lane8.filter mine)

/-- The channels of a partition complete their descriptors at step 2 of casting (Table 11-8): STATUS 3, CAUSE 3, EN clear; what has
not been granted is cancelled. FBYTES counts what was not transferred. -/
def Dev.dmaCasting (d : Dev) (p : PartId) : Dev :=
  (dmaOf p).foldl (fun d n =>
    let c := d.dmaCh n
    let lost : List BurstReq := d.dmaUnmoved n
    let d0 := (d.cancelBursts (fun b => b.who == Requester.dma n)).cancelBusy (fun b => b.who == Requester.dma n && !b.write)
    let d1 := d0.modDma n (fun c => { c with inFlight := c.inFlight - lost.length })
    let d2 := match c.desc with
      | some x => d1.dmaFinish n 3 3 (x.len.toNat - c.off + ((lost.filter (fun b : BurstReq => !b.counted)).map (fun b : BurstReq => b.bytes)).sum + c.fbytes)
      | none => d1
    d2.modDma n (fun c => { c with en := false })) d

end Sys2Proof.Machine
end

