-- ==== Sys2Proof/Machine/Finish.lean ====
section
/-! DEFINITION. The finishing unit and the weight unit of a core: the finishing descriptor (Table 3-9), the steps of
R121, fused pooling (R124), the two passes over a row (R125, R175 to R177, R372), the caliper (R188 to R190), and
the loading of weight buffers (R114, R119, R563, R564). -/
namespace Sys2Proof.Machine

open Sys2Proof

/-! ## Finishing descriptors (Table 3-9) -/

/-- A finishing descriptor, decoded. -/
structure FinDesc where
  ofmt : Fmt
  bias : Bool
  join : Nat
  act : Nat
  pool : Nat
  pk : Nat
  infsel : Bool
  tensor : Nat
  lsparam : Nat
  deriving DecidableEq, Repr

def finDesc (w : W64) : FinDesc :=
  { ofmt := fmtOfCode (bits w 0 3), bias := bits w 3 1 == 1, join := bits w 4 2, act := bits w 6 2, pool := bits w 8 2,
    pk := bits w 10 2, infsel := bits w 12 1 == 1, tensor := bits w 20 12, lsparam := bits w 32 13 }

/-- The finishing descriptor DSEL[2:0]. -/
def Core.finD (k : Core) (dsel : Nat) : FinDesc := finDesc (tblGet 0#64 k.fin (dsel % 8))

/-- Does a finishing descriptor take a join operand (R565). -/
def Core.joinsAt (k : Core) (dsel : Nat) : Bool := let j := (k.finD dsel).join; j == 1 || j == 2

/-! ## The local store and the parameter block (R564) -/

/-- A local-store word. -/
def Core.lsWord (k : Core) (a : Nat) : W64 := tblGet 0#64 k.ls (a % 8192)
/-- 32-bit word `i` from a local-store word address. -/
def Core.lsHalf (k : Core) (a i : Nat) : W32 :=
  let w := k.lsWord (a + i / 2)
  if i % 2 == 0 then w.extractLsb' 0 32 else w.extractLsb' 32 32
def Core.bias (k : Core) (f : FinDesc) (c : Nat) : W32 := k.lsHalf f.lsparam (3 * c)
def Core.wscale (k : Core) (f : FinDesc) (c : Nat) : W32 := k.lsHalf f.lsparam (3 * c + 1)
def Core.wzero (k : Core) (f : FinDesc) (c : Nat) : Nat := (k.lsHalf f.lsparam (3 * c + 2)).toNat

/-- A read of local-store words: single errors are corrected and counted, with the write-back due (R129); the
address of a double error, if one is met. -/
def Core.lsRead (k : Core) (addrs : List Nat) : Core × Option Nat :=
  let hit := addrs.filter (fun a => tblGet 0 k.lsErr (a % 8192) == 1)
  let dbl := addrs.find? (fun a => tblGet 0 k.lsErr (a % 8192) == 2)
  ({ k with lsCe := satAdd k.lsCe hit.length,
            lsFix := hit.foldl (fun l a => let b := BitVec.ofNat 13 a; if l.contains b then l else l ++ [b]) k.lsFix },
   dbl)

/-! ## The weight unit -/

/-- Load cycles of a weight block (Table 3-7, R563). Assumption 139 (DEDUCED): unsafe. -/
def loadCycles (f : Fmt) (depthwise : Bool) : Nat :=
  if depthwise then (16 * fmtBits f + 255) / 256 else 256 * fmtBits f / 256

/-- Local-store words of a weight block. -/
def blockWords (f : Fmt) (depthwise : Bool) : Nat := ((if depthwise then 16 else 256) * fmtBits f + 63) / 64

/-- SPACE of a linear descriptor: its addresses lie in the window of the port's queue (R140). -/
def Core.inWindow (k : Core) (ag idx : Nat) : Bool := bits (k.descWord ag idx 0) 13 1 == 1

/-- The weights of a block, expanded (R114, R563). -/
def Core.weights (k : Core) (l : WLoad) : List X19 :=
  let b := fmtBits k.wfmt
  let base := k.linear 1 l.dsel l.loops 0
  let word (i : Nat) : W64 := if k.inWindow 1 l.dsel then k.wwin.getD i 0#64 else k.lsWord (base + i)
  let fd := k.finD l.dsel
  let g := fieldCounter l.loops (k.outD l.dsel).lout
  (List.range (if l.depthwise then 16 else 256)).map (fun e =>
    let code := codeAt (word (e / (64 / b))) (e % (64 / b) * b) b
    let c := 16 * g + (if l.depthwise then e else e / 16)
    expandWeight k.wfmt (k.wscale fd c) (k.wzero fd c) code)

/-- The local-store words of the scales and zero points that a block's expansion takes (R114, R564). -/
def Core.paramAddrs (k : Core) (l : WLoad) : List Nat :=
  if k.wfmt != .a4 && k.wfmt != .a8 then []
  else
    let g := fieldCounter l.loops (k.outD l.dsel).lout
    ((List.range 16).flatMap (fun o => [(3 * (16 * g + o) + 1) / 2, (3 * (16 * g + o) + 2) / 2])).eraseDups.map
      (fun i => ((k.finD l.dsel).lsparam + i) % 8192)

/-- The local-store words of a whole block. -/
def Core.blockAddrs (k : Core) (l : WLoad) : List Nat :=
  if k.inWindow 1 l.dsel then []
  else (List.range (blockWords k.wfmt l.depthwise)).map (fun i => (k.linear 1 l.dsel l.loops 0 + i) % 8192)

/-- A weight buffer by its number. -/
def Core.buf (k : Core) (one : Bool) : WBuf := if one then k.buf1 else k.buf0
def Core.setBuf (k : Core) (one : Bool) (b : WBuf) : Core := if one then { k with buf1 := b } else { k with buf0 := b }

/-- The load in progress is complete: its buffer holds its block. A load of the active buffer is followed by one
of the inactive buffer in the background (R119). -/
def Core.finishLoad (k : Core) : Core :=
  match k.wload with
  | none => k
  | some l =>
    let k1 := k.setBuf (if l.toActive then k.active1 else !k.active1) ⟨true, k.weights l⟩
    { k1 with wload := if l.toActive then some { l with toActive := false, gone := 0, loops := advance l.loops } else none }

/-- One unheld cycle of the weight unit; a block of a queue's window waits for its words (R140). -/
def Core.loadCycle (k : Core) : Core :=
  match k.wload with
  | none => k
  | some l =>
    if l.gone + 1 < l.cycles then { k with wload := some { l with gone := l.gone + 1 } }
    else if k.inWindow 1 l.dsel && k.wwin.isEmpty then k
    else { k.finishLoad with wwin := [] }

/-- A row that waits for its scales grows older by one cycle; at 4 they are fixed (R178). -/
def Row2.older (r : Row2) : Row2 := if r.fixed then r else { r with age := r.age + 1, fixed := 4 ≤ r.age + 1 }

/-- What goes on by itself in an unheld cycle: the weight unit and scale selection. -/
def Core.tick (k : Core) : Core := { k.loadCycle with row2 := k.row2.map Row2.older }

/-- Word `i` of the null tile: a zero-point code is real zero, payload 0; else the local store's word (R103). -/
def Core.nullWord (k : Core) (i : Nat) : W64 := if k.nullZero then 0#64 else k.lsWord (k.nullAddr + i)

/-- The local-store words that AG1 asks for the weight unit in its next cycle. -/
def Core.loadAddrs (k : Core) : List Nat :=
  match k.wload with
  | none => []
  | some l => ((k.blockAddrs l).drop (4 * l.gone)).take 4

/-- The scales and zero points that are read in the weight unit's next cycle, its last. -/
def Core.loadParams (k : Core) : List Nat :=
  match k.wload with
  | none => []
  | some l => if l.gone + 1 < l.cycles then [] else k.paramAddrs l

/-- The local-store words of the biases of output group `g` (R564). -/
def Core.biasAddrs (k : Core) (dsel g : Nat) : List Nat :=
  let f := k.finD dsel
  if !f.bias then []
  else (((List.range 16).filter (fun o => decide (16 * g + o < (k.outD dsel).co))).map (fun o => 3 * (16 * g + o) / 2)).eraseDups.map
    (fun i => (f.lsparam + i) % 8192)

/-! ## Activation (R123) -/

/-- The activation table applied to an FP32 value. -/
def Core.actTable (k : Core) (x : W32) : W32 :=
  let h := tblGet 0#64 k.act 0
  let lo := h.extractLsb' 0 32
  let hi := h.extractLsb' 32 32
  let i : Nat :=
    if lt32 x lo then 0 else if !lt32 x hi then 255
    else
      let span := dyAdd (finOr0 hi) (finOr0 lo).negate
      let at_ := dyAdd (finOr0 x) (finOr0 lo).negate
      min 255 (truncDiv (dyMul at_ ⟨false, 256, 0⟩) span).toNat
  let w := tblGet 0#64 k.act (1 + i)
  let slope := w.extractLsb' 0 32
  let icpt := w.extractLsb' 32 32
  match of32 x with
  | .nan => nan32
  | .inf s =>
    (match of32 slope with
     | .fin d => if d.m = 0 then icpt else to32 (.inf (s != d.neg))
     | .inf t => to32 (.inf (s != t))
     | .nan => nan32)
  | .fin _ => fma32 slope x icpt

/-- ReLU, exact. -/
def relu (x : W32) : W32 := if isNan32 x then nan32 else if lt32 x 0#32 then 0#32 else x

/-- The steps of R121 up to pooling on a drained value of channel `c`, with its join operand.
Assumption 27 (DESIGN CHOICE): unsafe. -/
def Core.finishValue (k : Core) (f : FinDesc) (c : Nat) (join : W32) (v : W32) : W32 :=
  let v1 := if f.bias then add32 v (k.bias f c) else v
  let v2 := if f.join == 1 then add32 v1 join else v1
  let v3 := match f.act with | 1 => relu v2 | 2 => k.actTable v2 | _ => v2
  if f.join == 2 then add32 v3 join else v3

/-! ## Pooling (R124, R149) -/

/-- The larger of two values; NaN when either is a NaN (R124). -/
def max32 (a b : W32) : W32 := if isNan32 a || isNan32 b then nan32 else if lt32 a b then b else a

/-- A natural number in FP32. -/
def nat32 (n : Nat) : W32 := to32 (.fin ⟨false, n, 0⟩)

/-- Combine a window's values: maximum or average. -/
def poolValues (avg : Bool) (l : List W32) : W32 :=
  match l with
  | [] => 0#32
  | v :: t => if avg then div32 (t.foldl add32 v) (nat32 l.length) else t.foldl max32 v

/-- Fused pooling window of PK: rows, columns, strides (Table 3-9). -/
def pkWindow (pk : Nat) : Nat × Nat × Nat :=
  match pk with | 0 => (2, 2, 2) | 1 => (3, 3, 2) | _ => (1, 2, 1)

/-- A pooled row from the rows of its window, each `width` pixels of `ch` channels, with column stride 2. -/
def poolRow (avg : Bool) (cols width ch : Nat) (rows : List (Tbl W32)) : Tbl W32 × Nat :=
  let ow := if width < cols then 0 else (width - cols) / 2 + 1
  ((List.range ow).foldl (fun acc x =>
    (List.range ch).foldl (fun acc c =>
      tblSet 0#32 acc (x * ch + c)
        (poolValues avg (rows.flatMap (fun r => (List.range cols).map (fun j => tblGet 0#32 r ((2 * x + j) * ch + c))))))
      acc) [], ow)

/-! ## Pass 2: conversion (R125, R142, R169 to R177) -/

/-- Pack codes of `b` bits into 64-bit payloads, the first in the low bits; `fill` fills the last word. -/
def packCodes (b fill : Nat) : Nat → List Nat → List W64
  | 0, _ => []
  | _, [] => []
  | n + 1, l =>
    let k := 64 / b
    let h := l.take k ++ List.replicate (k - l.length) fill
    BitVec.ofNat 64 (h.foldr (fun c acc => acc * 2 ^ b + c) 0) :: packCodes b fill n (l.drop k)

/-- The value that a code of a float format stands for, in FP32. -/
def codeValue (f : Fmt) (c : Nat) : W32 := to32 (ofCode f c)

/-- What pass 2 made of one quantisation row: header word, codes pixel-major with padding, and per value the code's
count and its de-quantised value. -/
structure Qrow where
  header : Option W64
  scale : Option RowScale
  codes : List Nat
  fill : Nat
  counts : List Count
  dq : List W32
  deriving Repr

/-- The largest finite magnitude of a row, and its finite values (R372). -/
def gradMag (vs : List W32) : Dy :=
  vs.foldl (fun m v => match of32 v with | .fin d => (if dyLt m { d with neg := false } then { d with neg := false } else m) | _ => m)
    ⟨false, 0, 0⟩

/-- Quotient of a value by a row scale, narrowed to E5M2 (R372): exact quotients are truncated; the quotient is taken
with 40 bits and a sticky bit, which truncation to 3 significant bits does not see. -/
def gradCode (infsel : Bool) (s : Dy) (v : W32) : Nat × Count :=
  let top := if infsel then 0x7C else fmtMax .e5m2
  match flush (of32 v) with
  | .nan => (fmtNan .e5m2, .nan)
  | .inf neg => ((if neg then 0x80 else 0) + top, .sat)
  | .fin d =>
    if s.m = 0 then (0, .none)
    else
      let q : Dy := ⟨d.neg != s.neg, d.m * 2 ^ 64 / s.m, d.e - s.e - 64⟩
      if atBound .e5m2 q then ((if q.neg then 0x80 else 0) + top, .sat)
      else ((if q.neg then 0x80 else 0) + truncFloat 5 2 q, .none)

/-- Convert the values of one quantisation row. -/
def convertQrow (f : Fmt) (grad infsel : Bool) (s2 : W32) (vs : List W32) : Qrow :=
  match f with
  | .a4 | .a8 =>
    let rs := chooseScale f s2 (vs.foldl RowRange.add {})
    match rs with
    | .const c =>
      { header := some (rowHeaderWord s2 rs), scale := some rs, codes := vs.map (fun _ => 0), fill := 0,
        counts := vs.map (fun v => match of32 v with | .nan => .nan | .inf _ => .sat | .fin _ => .none),
        dq := vs.map (fun _ => c ++ 0#16) }
    | .scaled _ k z =>
      let sc := rowScale s2 k
      let cs := vs.map (narrowInt f sc z)
      { header := some (rowHeaderWord s2 rs), scale := some rs, codes := cs.map (fun e => e.1), fill := z,
        counts := cs.map (fun e => e.2),
        dq := cs.map (fun e => to32 (numMul (.fin sc) (.fin (dyInt (codeDiff e.1 z) 0)))) }
  | _ =>
    if grad then
      let mag := gradMag vs
      if mag.m = 0 then
        let rs := RowScale.const 0#16
        { header := some (rowHeaderWord s2 rs), scale := some rs, codes := vs.map (fun _ => 0), fill := 0,
          counts := vs.map (fun v => match of32 v with | .nan => .nan | .inf _ => .sat | .fin _ => .none),
          dq := vs.map (fun _ => 0#32) }
      else
        let k := gradScode s2 mag 255 1
        let sc := rowScale s2 k
        let cs := vs.map (gradCode infsel sc)
        let rs := RowScale.scaled k k 0
        { header := some (rowHeaderWord s2 rs), scale := some rs, codes := cs.map (fun e => e.1), fill := 0,
          counts := cs.map (fun e => e.2),
          dq := cs.map (fun e => to32 (numMul (.fin sc) (ofCode .e5m2 e.1))) }
    else
      let cs := vs.map (narrowFloat f infsel)
      { header := none, scale := none, codes := cs.map (fun e => e.1), fill := 0, counts := cs.map (fun e => e.2),
        dq := cs.map (fun e => codeValue f e.1) }

/-- The values of quantisation row `q`, pixel-major and channel-minor. -/
def qrowValues (vals : Tbl W32) (width chans q : Nat) : List W32 :=
  (List.range width).flatMap (fun x =>
    (List.range (rowChans chans q)).map (fun t => tblGet 0#32 vals (x * chans + 64 * q + t)))

/-- Insert the padded channels of each pixel (R142). -/
def padCodes (cq cp fill : Nat) : Nat → List Nat → List Nat
  | 0, _ => []
  | n + 1, l => l.take cq ++ List.replicate (cp - cq) fill ++ padCodes cq cp fill n (l.drop cq)

/-- The words of a converted quantisation row: its header, then its payloads. -/
def qrowOut (f : Fmt) (width chans q : Nat) (r : Qrow) : List (Kind × W64) :=
  let cq := rowChans chans q
  let codes := padCodes cq (padChans cq) r.fill width r.codes
  (match r.header with | some h => [(Kind.header, h)] | none => [])
    ++ (packCodes (fmtBits f) r.fill (codes.length + 1) codes).map (fun w => (Kind.data, w))

/-! ## The caliper (R188 to R190) -/

/-- Values that pass 2 converts in a cycle (R126). -/
def perCycle (f : Fmt) : Nat := match f with | .bf16 | .fp16 => 8 | .fp32 => 4 | _ => 16

/-- Add to one lane sum. -/
def laneAdd (l : List W32) (i : Nat) (v : W32) : List W32 :=
  let l0 := if l.isEmpty then List.replicate 16 0#32 else l
  l0.set i (add32 (l0.getD i 0#32) v)

/-- One converted value enters the caliper slot: its lane, value, de-quantised value and count. -/
def CalSlot.value (s : CalSlot) (lane : Nat) (v dq : W32) (c : Count) : CalSlot :=
  let s1 := match c with
    | .sat => { s with sat := satInc s.sat }
    | .nan => { s with nan := satInc s.nan }
    | .none => s
  if isFin32 v then
    let e := sub32 v dq
    { s1 with sse := laneAdd s1.sse lane (mul32 e e), ssv := laneAdd s1.ssv lane (mul32 v v),
              sumv := laneAdd s1.sumv lane v, count := satInc s1.count }
  else s1

/-- KNEED as kept for tracking: signed 16 bits. -/
def clampK (k : Int) : Int := max (-32768) (min 32767 k)

/-- A converted quantisation row enters the caliper slot. -/
def CalSlot.row (s : CalSlot) (f : Fmt) (cq : Nat) (r : Qrow) (vs : List W32) : CalSlot :=
  let cp := padChans cq
  let s1 := ((List.range vs.length).zip (vs.zip (r.dq.zip r.counts))).foldl (fun s e =>
    s.value ((e.1 / cq * cp + e.1 % cq) % perCycle f) e.2.1 e.2.2.1 e.2.2.2) s
  match r.scale with
  | none => s1
  | some (.const _) => { s1 with const := satInc s1.const }
  | some (.scaled k c _) =>
    { s1 with kmaxn := some (match s1.kmaxn with | some m => max m (clampK k) | none => clampK k),
              kmin := if s1.kmin == 0#8 || c < s1.kmin.toNat then BitVec.ofNat 8 c else s1.kmin,
              kmax := if s1.kmax.toNat < c then BitVec.ofNat 8 c else s1.kmax }

/-- S2 that a core uses for a tensor in the frame in progress: S2_0 in a maquette frame (R181, R182). -/
def Core.s2Of (k : Core) (t : Nat) : W32 :=
  if k.flags.getLsbD 6 then tblGet 0#32 k.s2init t else tblGet 0#32 k.s2 t

/-- Pass 2 of a row: its words, and the caliper slot that its values enter, unless they did at the end of their block. `cal`:
calipers are enabled; in a maquette frame the slots serve the checker whether or not.
Assumption 133 (DEDUCED): unsafe. -/
def Core.convert (k : Core) (cal : Bool) (r : Row2) : Core × Row2 :=
  let f := k.finD r.dsel
  let grad := k.kind == .companion && f.ofmt == .e5m2
  let qs := (List.range ((r.chans + 63) / 64)).map (fun q =>
    let vs := qrowValues r.vals r.width r.chans q
    (q, vs, convertQrow f.ofmt grad f.infsel (k.s2Of f.tensor) vs))
  let slot := tblGet {} k.cal (r.dsel % 8)
  let slot' := if (cal || k.flags.getLsbD 6) && !k.voiding && !r.counted then qs.foldl (fun s e => s.row f.ofmt (rowChans r.chans e.1) e.2.2 e.2.1) slot else slot
  ({ k with cal := tblSet {} k.cal (r.dsel % 8) slot' },
   { r with begun := true, scales := qs.filterMap (fun e => e.2.2.scale),
            out := qs.flatMap (fun e => qrowOut f.ofmt r.width r.chans e.1 e.2.2) })

/-- The rows of a finishing descriptor have a row scale to select: integer formats, and a companion's gradient rows (R125,
R178, R372). -/
def Core.scaled (k : Core) (f : FinDesc) : Bool := fmtHasHeader f.ofmt || (k.kind == .companion && f.ofmt == .e5m2)

/-- The words that pass 2 writes in a cycle: a header alone, else up to two data words, one for A4 (R126, R178).
Assumption 27 (DESIGN CHOICE): unsafe. -/
def pass2Words (f : Fmt) : List (Kind × W64) → List (Kind × W64)
  | [] => []
  | (.data, a) :: (.data, b) :: _ => if f == .a4 then [(.data, a)] else [(.data, a), (.data, b)]
  | e :: _ => [e]

/-! ## Row close (R107, R124, R125) -/

/-- Close pass 1 of the row in hand: fused pooling combines it with the core's earlier rows, and a row that results
goes to pass 2. `y` and `mem` say which output row it is. -/
def Core.closeRow (k : Core) (y mem : Nat) (age : Nat) : Core :=
  match k.row1 with
  | none => k
  | some r =>
    let f := k.finD r.dsel
    let od := k.outD r.dsel
    let pooled := f.pool != 0 && k.opk 0 r.dsel != 3
    let width := if pooled then (k.win 0 r.dsel).ow else od.ow
    let push (k : Core) (vals : Tbl W32) (w : Nat) : Core :=
      { k with row2 := k.row2 ++ [{ vals := vals, width := w, chans := od.co, dsel := r.dsel, age := age,
                                    fixed := 4 ≤ age || !k.scaled f, scales := [], out := [], begun := false,
                                    pos := r.pos, words := r.words }] }
    let k1 := { k with row1 := none }
    if !pooled then push k1 r.vals width
    else
      let (kh, kw, sv) := pkWindow f.pk
      let key (yy : Nat) : Nat := 16384 * mem + yy
      let pool := tblSet [] k.pool (key y) r.vals
      if y + 1 < kh || (y + 1 - kh) % sv != 0 then { k1 with pool := pool }
      else
        let rows := (List.range kh).map (fun i => tblGet [] pool (key (y + 1 - kh + i)))
        let (v, w) := poolRow (f.pool == 2) kw width od.co rows
        let keep := if kh == 3 then tblSet [] (tblSet [] pool (key (y - 1)) []) (key (y - 2)) []
          else tblSet [] (tblSet [] pool (key y) []) (key (y - 1)) []
        push { k1 with pool := keep } v w

end Sys2Proof.Machine
end

