-- ==== Sys2Proof/Machine/Sched.lean ====
section
/-! DEFINITION. The schedule instructions of a core (Table 3-3, Table 3-4): their fields, the 64-bit words that encode
them and the decoder of the sequencer. Reserved fields are 0 in the words written; the sequencer does not read them. -/
namespace Sys2Proof.Machine

open Sys2Proof

/-- The fields of FIRE (Table 3-4). -/
structure FireOp where
  rpt : BitVec 12
  mac : BitVec 3
  wswap : BitVec 1
  agstep : BitVec 4
  rden : BitVec 4
  wren : BitVec 2
  fin : BitVec 3
  accbase : BitVec 6
  abswap : BitVec 1
  dsel : BitVec 4
  eor : BitVec 1
  eof : BitVec 1
  flev : BitVec 4
  llev : BitVec 4
  deriving DecidableEq, Repr

/-- A schedule instruction. -/
inductive SeqInstr where
  | halt
  | fire (f : FireOp)
  | loop (trip : BitVec 12) (level : BitVec 3) (end_ : BitVec 11)
  | endl (level : BitVec 3) (start : BitVec 11)
  | load (words : BitVec 13) (port : BitVec 2) (lsaddr : BitVec 13)
  | frame (rden : BitVec 4) (wren : BitVec 2)
  | rowend (close : BitVec 14) (rowcyc : BitVec 28)
  | waitd (port : BitVec 2) (dl : BitVec 20) (nullzero : BitVec 1) (nulladdr : BitVec 13)
  | call (target : BitVec 11)
  | ret
  deriving DecidableEq, Repr

/-- The word of an instruction (Table 3-4). -/
def encodeSeq (i : SeqInstr) : W64 :=
  match i with
  | .halt => 0#64
  | .fire f => 1#4 ++ f.rpt ++ f.mac ++ f.wswap ++ f.agstep ++ f.rden ++ f.wren ++ f.fin ++ f.accbase ++ f.abswap
      ++ f.dsel ++ f.eor ++ f.eof ++ f.flev ++ f.llev ++ 0#10
  | .loop t l e => 2#4 ++ t ++ l ++ 0#5 ++ e ++ 0#29
  | .endl l s => 3#4 ++ 0#12 ++ l ++ 0#5 ++ s ++ 0#29
  | .load w p a => 4#4 ++ w ++ 0#9 ++ p ++ a ++ 0#23
  | .frame r w => 5#4 ++ 0#20 ++ r ++ w ++ 0#34
  | .rowend c r => 6#4 ++ c ++ r ++ 0#18
  | .waitd p d n a => 7#4 ++ 0#22 ++ p ++ d ++ n ++ a ++ 0#2
  | .call t => 8#4 ++ 0#49 ++ t
  | .ret => 9#4 ++ 0#60

/-- The fields of a FIRE word. -/
def fireOf (w : W64) : FireOp :=
  { rpt := w.extractLsb' 48 12, mac := w.extractLsb' 45 3, wswap := w.extractLsb' 44 1, agstep := w.extractLsb' 40 4,
    rden := w.extractLsb' 36 4, wren := w.extractLsb' 34 2, fin := w.extractLsb' 31 3, accbase := w.extractLsb' 25 6,
    abswap := w.extractLsb' 24 1, dsel := w.extractLsb' 20 4, eor := w.extractLsb' 19 1, eof := w.extractLsb' 18 1,
    flev := w.extractLsb' 14 4, llev := w.extractLsb' 10 4 }

/-- The instruction of a word; none for the illegal opcodes 0xA to 0xF (R96). -/
def decodeSeq (w : W64) : Option SeqInstr :=
  match (w.extractLsb' 60 4).toNat with
  | 0 => some .halt
  | 1 => some (.fire (fireOf w))
  | 2 => some (.loop (w.extractLsb' 48 12) (w.extractLsb' 45 3) (w.extractLsb' 29 11))
  | 3 => some (.endl (w.extractLsb' 45 3) (w.extractLsb' 29 11))
  | 4 => some (.load (w.extractLsb' 47 13) (w.extractLsb' 36 2) (w.extractLsb' 23 13))
  | 5 => some (.frame (w.extractLsb' 36 4) (w.extractLsb' 34 2))
  | 6 => some (.rowend (w.extractLsb' 46 14) (w.extractLsb' 18 28))
  | 7 => some (.waitd (w.extractLsb' 36 2) (w.extractLsb' 16 20) (w.extractLsb' 15 1) (w.extractLsb' 2 13))
  | 8 => some (.call (w.extractLsb' 0 11))
  | 9 => some .ret
  | _ => none

/-- The bits of a word that its opcode does not name are 0 (R97): the word is the one that its fields encode. -/
def reservedClear (w : W64) : Bool :=
  match decodeSeq w with
  | none => false
  | some i => encodeSeq i == w

end Sys2Proof.Machine
end

