-- ==== Sys2Proof/Machine/Caliper.lean ====
section
/-! DEFINITION. Calipers at their collectors (R180 to R198): reports, frame close, tracking of S2, drift events, new
scales reaching the cores, and the host's watch slots. -/
namespace Sys2Proof.Machine

open Sys2Proof

/-! ## Tensors and collectors (R183, R186) -/

def Dev.tensor (d : Dev) (n : NetId) (t : BitVec 12) : Option Tensor := (d.net n).tensors.lookup t.toNat
def Dev.modTensor (d : Dev) (n : NetId) (t : BitVec 12) (f : Tensor → Tensor) : Dev :=
  d.modNet n (fun x => { x with tensors := x.tensors.map (fun e => if e.1 == t.toNat then (e.1, f e.2) else e) })

/-- The collector's core: rotation position 0 of the tensor's stage. -/
def Dev.collectorOf (d : Dev) (n : NetId) (t : Tensor) : Option CoreId :=
  (d.coresOfStage n t.stage).find? (fun c => (d.core c).cidx == 0#10 && !(d.core c).spare)

/-- 2^−64 and 2^64 in FP32 (R180). -/
def s2Min : W32 := 0x1F800000#32
def s2Max : W32 := 0x5F800000#32
/-- A positive FP32 value in the range of R180. -/
def clampS2 (v : W32) : W32 := if v.toNat < s2Min.toNat then s2Min else if s2Max.toNat < v.toNat then s2Max else v
/-- A positive finite FP32 value, subnormal values included. -/
def posFinite (v : W32) : Bool := 0 < v.toNat && v.toNat < 0x7F800000

/-- The tensor as its casting image gives it (R186, R198). -/
def tensorOfImg (i : TensorImg) : Tensor :=
  { stage := i.stage, integer := i.integer, s2 := i.s2, s2init := i.s2, kt := i.kt, driftTh := i.driftTh }

/-! ## Which cores report a frame (R192) -/

/-- Rotation positions that hold a block of the frame of index `j`. -/
def positionsOf (bf n j : Nat) : List Nat :=
  ((List.range bf).map (fun b => (j * bf + b) % max n 1)).foldl (fun acc p => if acc.contains p then acc else acc ++ [p]) []

/-- The descriptor index under which a core writes a tensor: DSEL of a FIRE whose finishing descriptor names it. -/
def Core.dselOf (k : Core) (t : BitVec 12) : Nat :=
  (k.sched.findSome? (fun e => match decodeSeq e.2 with
    | some (.fire f) =>
      if 256 ≤ e.1 && f.mac != 0#3 && (finDesc (tblGet 0#64 k.fin (f.dsel.toNat % 8))).tensor == t.toNat then some f.dsel.toNat else none
    | _ => none)).getD (((k.fin.find? (fun e => (finDesc e.2).tensor == t.toNat)).map (fun e => e.1)).getD 0)

/-- Blocks of a frame and cores of the rotation, for a descriptor index (R67). -/
def Core.rotation (k : Core) (ds : Nat) : Nat × Nat :=
  let (oh, m, rb, n) := if k.opk 0 ds ≤ 4 then (let w := k.win 0 ds; (w.oh, w.m, w.rb, w.ncore))
    else (let o := k.outD ds; (o.oh, o.m, o.rb, o.ncore))
  ((oh + rb - 1) / max rb 1 * m, n)

/-- Positions whose reports frame `f` of a tensor needs; none before the collector's core has begun the frame. -/
def Dev.expected (d : Dev) (n : NetId) (t : BitVec 12) (x : Tensor) (f : W32) : Option (List Nat) :=
  match d.collectorOf n x with
  | none => none
  | some c =>
    let k := d.core c
    match k.frameLog.lookup f with
    | none => none
    | some j =>
      let stages : List StageImg := match (d.net n).img with | some im => im.stages | none => []
      match stages.find? (fun s => s.num == x.stage && s.channelGroups) with
      | some s => some (List.range s.cores.length)
      | none => let r := k.rotation (k.dselOf t); some (positionsOf r.1 r.2 j)

/-! ## Closing a frame (R184, R185, R187, R193) -/

/-- Sum of the reports' sums: one report's own, or as the collector adds several (no order given).
Assumption 29 (DESIGN CHOICE): safe. -/
def sumOf (l : List W32) : W32 := match l with | [] => 0#32 | [v] => v | l => Config.sumReports l

/-- The statistics of a closed frame. -/
structure Stats where
  frame : W32
  count : W32
  sat : W32
  nan : W32
  const : W32
  sse : W32
  ssv : W32
  sumv : W32
  mse : W32
  rmse : W32
  kmaxn : Int
  kmin : Byte
  kmax : Byte
  complete : Bool
  deriving DecidableEq, Repr

/-- The statistics of a closed frame from its reports (R193). Assumption 145 (DESIGN CHOICE): unsafe. -/
def statsOf (f : W32) (complete : Bool) (l : List CalReport) : Stats :=
  let sat (g : CalReport → W32) : W32 := satOf 32 ((l.map (fun r => (g r).toNat)).sum)
  let sse := sumOf (l.map (fun r => r.sse))
  let ssv := sumOf (l.map (fun r => r.ssv))
  let count := sat (fun r => r.count)
  { frame := f, count := count, sat := sat (fun r => r.sat), nan := sat (fun r => r.nan), const := sat (fun r => r.const),
    sse := sse, ssv := ssv, sumv := sumOf (l.map (fun r => r.sumv)),
    mse := if count == 0#32 then 0#32 else div32 sse (nat32 count.toNat),
    rmse := if ssv == 0#32 || ssv == 0x80000000#32 then 0#32 else div32 sse ssv,
    kmaxn := l.foldl (fun m r => max m r.kmaxn) (-32768),
    kmin := l.foldl (fun m r => if r.kmin != 0#8 && (m == 0#8 || r.kmin.toNat < m.toNat) then r.kmin else m) 0#8,
    kmax := l.foldl (fun m r => if m.toNat < r.kmax.toNat then r.kmax else m) 0#8,
    complete := complete }

/-- The step of R184: S2 × 2^d, clamped. Assumption 30 (DEDUCED): unsafe. -/
def stepS2 (s2 : W32) (kmaxn : Int) (kt : BitVec 8) : W32 :=
  let d : Int := if kmaxn == -32768 then 0 else max (-1) (min 2 ((kmaxn - kt.toNat + 8) / 16))
  clampS2 (BitVec.ofInt 32 (s2.toNat + d * 0x800000))

/-- A watch slot takes a closed frame's statistics. -/
def Watch.take (w : Watch) (st : Stats) (s2 : W32) (drift : Bool) : Watch :=
  { w with frame := st.frame, count := st.count, sat := st.sat, nan := st.nan, const := st.const, sse := st.sse, ssv := st.ssv,
           mse := st.mse, rmse := st.rmse, sumv := st.sumv, kmaxn := BitVec.ofInt 16 st.kmaxn, kmin := st.kmin,
           kmax := st.kmax, valid := true, complete := st.complete, drift := w.drift || drift, s2 := s2 }

/-- A new S2 goes to every producing core of its tensor as a packet of class 3 (R183). -/
def Dev.sendS2 (d : Dev) (n : NetId) (tn : BitVec 12) (was : W32) : Dev :=
  match d.tensor n tn with
  | none => d
  | some t =>
    if t.s2 == was then d
    else { d with scales := d.scales ++ ((d.coresOfStage n t.stage).filter (fun c => !(d.core c).spare)).map (fun c => (c, tn, t.s2)) }

/-- Close a frame: the frame's statistics, the host's values, tracking unless the frame was dropped, the drift
event, and the watch slots armed on the tensor. Assumption 31 (DEDUCED): unsafe. -/
def Dev.closeFrame (d : Dev) (n : NetId) (tn : BitVec 12) (o : OpenFrame) (complete dropped : Bool) : Dev :=
  match d.tensor n tn with
  | none => d
  | some t =>
    let st := statsOf o.frame complete o.reports
    let kt := t.ktNew.getD t.kt
    let th := t.thNew.getD t.driftTh
    let host := match d.collectorOf n t with | some c => d.hostMode (partOfCore c) 2 | none => true
    let tracked := t.s2New.isNone && !host && !dropped && t.integer
    let s2 := match t.s2New with | some v => v | none => if tracked then stepS2 t.s2 st.kmaxn kt else t.s2
    let drift := th != 0#32 && th.toNat ≤ st.sat.toNat
    let d1 := (d.modTensor n tn (fun t =>
      { t with kt := kt, driftTh := th, s2 := s2, ktNew := none, thNew := none, s2New := none,
               frames := t.frames.filter (fun x => x.frame != o.frame), closed := some o.frame,
               shut := (o.frame :: t.shut).take 8 })).sendS2 n tn t.s2
    let armed (w : Watch) : Bool := w.arm && !w.notensor && w.tensor == tn && (d.part w.part).net == n && (d.part w.part).cast != .uncast
    let d2 := d1.modCal (fun c =>
      { c with s2upd := if tracked && s2 != t.s2 then satInc c.s2upd else c.s2upd,
               driftEvt := if drift then satInc c.driftEvt else c.driftEvt,
               watch := c.watch.map (fun e => if armed e.2 then (e.1, e.2.take st s2 drift) else e) })
    if drift then
      match d.lowestPart n with
      | some p => d2.raise 0x6001#16 p [arg32 tn, o.frame, st.sat, BitVec.ofInt 32 st.kmaxn]
      | none => d2
    else d2

/-- Close every open frame of a tensor that `f` chooses, incomplete. -/
def Dev.closeOpen (d : Dev) (n : NetId) (tn : BitVec 12) (dropped : Bool) (f : OpenFrame → Bool) : Dev :=
  match d.tensor n tn with
  | none => d
  | some t => (t.frames.filter f).foldl (fun d o => d.closeFrame n tn o false dropped) d

/-- Close a frame whose expected reports have all come. -/
def Dev.closeWhole (d : Dev) (n : NetId) (tn : BitVec 12) (f : W32) : Dev :=
  match d.tensor n tn with
  | none => d
  | some t =>
    match t.frames.find? (fun o => o.frame == f), d.expected n tn t f with
    | some o, some ps =>
      if ps.all (fun p => o.reports.any (fun r => r.pos.toNat == p)) then d.closeFrame n tn o true false else d
    | _, _ => d

/-- The frames that the collector's core has passed by two close with the reports they have (R192). -/
def Dev.closePassed (d : Dev) (c : CoreId) : Dev :=
  let k := d.core c
  if !d.cal.en || k.cidx != 0#10 || k.spare then d
  else
    let now := k.frames - 1
    ((d.net k.net).tensors.filter (fun e => e.2.stage == k.stage)).foldl (fun d e =>
      let old := (k.frameLog.filter (fun x => x.2 + 2 ≤ now && !e.2.shut.contains x.1)).reverse.map (fun x => x.1)
      let lost := (e.2.frames.filter (fun o => !k.frameLog.any (fun x => x.1 == o.frame))).map (fun o => o.frame)
      (lost ++ old).foldl (fun d f =>
        d.closeFrame k.net (BitVec.ofNat 12 e.1) ((e.2.frames.find? (fun o => o.frame == f)).getD ⟨f, false, []⟩) false false) d) d

/-- A frame is older than those that the collector's core has in hand, and not open. -/
def Dev.passed (d : Dev) (n : NetId) (t : Tensor) (f : W32) : Bool :=
  !t.frames.any (fun o => o.frame == f) && (match d.collectorOf n t with
    | none => false
    | some c => !(d.core c).frameLog.any (fun e => e.1 == f) && (match (d.core c).frameLog with
      | e :: _ => decide (1 ≤ (e.1 - f).toNat ∧ (e.1 - f).toNat < 2 ^ 31)
      | [] => false))

/-- CALIPER_REPORT (R191, R192): a report on its way arrives. A maquette frame's goes to the checker; one of a frame that is
closed is counted; every frame whose reports are complete closes. -/
def caliperReport (p : PartId) (r : CalReport) (d : Dev) : Dev :=
  let n := (d.part p).net
  if (d.part p).cast == .uncast || r.net != n || !d.reports.contains r then d
  else
  let d := { d with reports := d.reports.erase r }
  if r.maquette then d.modNet n (fun x => { x with maq := { x.maq with calReps := x.maq.calReps ++ [r] } })
  else if !d.cal.en then d
  else match d.tensor n r.tensor with
    | none => d
    | some t =>
      if t.shut.contains r.frame || d.passed n t r.frame then d.modCal (fun c => { c with late := satInc c.late })
      else
        let d1 := d.modTensor n r.tensor (fun t =>
          { t with frames := if t.frames.any (fun o => o.frame == r.frame) then
                               t.frames.map (fun o => if o.frame == r.frame then { o with reports := o.reports ++ [r] } else o)
                             else t.frames ++ [⟨r.frame, false, [r]⟩] })
        match d1.tensor n r.tensor with
        | none => d1
        | some t2 => (t2.frames.map (fun o => o.frame)).foldl (fun d f => d.closeWhole n r.tensor f) d1
def execCaliperReport (p : PartId) (r : CalReport) (s : State) : Ans := .next { s with dev := caliperReport p r s.dev }

/-- S2_PACKET_RECEIVE (R181): a new S2 on its way arrives, and takes effect at the core's next FRAME. -/
def s2Receive (c : CoreId) (t : BitVec 12) (v : W32) (d : Dev) : Dev :=
  if !d.scales.contains (c, t, v) then d
  else
    let d1 := { d with scales := d.scales.erase (c, t, v) }
    if (d1.core c).assigned then d1.modCore c (fun k => { k with s2next := tblSet 0#32 k.s2next t.toNat v }) else d1
def execS2PacketReceive (c : CoreId) (t : BitVec 12) (v : W32) (s : State) : Ans :=
  .next { s with dev := s2Receive c t v s.dev }

/-! ## Watch slots (R195 to R198) -/

def Dev.watchAt (d : Dev) (n : BitVec 6) : Watch := tblGet {} d.cal.watch n.toNat
def Dev.modWatch (d : Dev) (n : BitVec 6) (f : Watch → Watch) : Dev :=
  d.modCal (fun c => { c with watch := tblMod {} c.watch n.toNat f })

/-- The integer tensor that a selection names, with its network. -/
def Dev.named (d : Dev) (p : PartId) (t : BitVec 12) : Option (NetId × Tensor) :=
  if (d.part p).cast == .uncast then none
  else match d.tensor (d.part p).net t with
    | some x => if x.integer then some ((d.part p).net, x) else none
    | none => none

/-- WSEL_WRITE (R196). -/
def wsel (n : BitVec 6) (v : W32) (d : Dev) : Dev :=
  let p : PartId := v.setWidth 5
  let t : BitVec 12 := v.extractLsb' 16 12
  let arm := v.getLsbD 31
  let x := d.named p t
  d.modWatch n (fun w =>
    let w1 : Watch := { part := p, tensor := t, arm := arm, kt := w.kt, s2 := w.s2, driftTh := w.driftTh, drift := w.drift,
                        notensor := x.isNone }
    match x with
    | some (_, y) => if arm then { w1 with kt := y.kt, s2 := y.s2, driftTh := y.driftTh } else w1
    | none => w1)
def execWselWrite (n : BitVec 6) (v : W32) (s : State) : Ans := .next (hostWrite (wsel n v) s)

/-- A write to a watch slot that it ignores (R196, R198). -/
def Dev.calReject (d : Dev) : Dev := d.modCal (fun c => { c with rej := satInc c.rej })

/-- The tensor that an armed slot's write reaches. -/
def Dev.armedTensor (d : Dev) (n : BitVec 6) : Option NetId :=
  let w := d.watchAt n
  if w.arm && !w.notensor then (d.named w.part w.tensor).map (fun e => e.1) else none

/-- WCFG_WRITE. -/
def wcfg (n : BitVec 6) (v : W32) (d : Dev) : Dev :=
  match d.armedTensor n with
  | none => d.calReject
  | some m => (d.modTensor m (d.watchAt n).tensor (fun t => { t with ktNew := some (v.setWidth 8) })).modWatch n
      (fun w => { w with kt := v.setWidth 8 })
def execWcfgWrite (n : BitVec 6) (v : W32) (s : State) : Ans := .next (hostWrite (wcfg n v) s)

/-- S2_WRITE: the value reaches the collector at the tensor's next frame close. -/
def s2Write (n : BitVec 6) (v : W32) (d : Dev) : Dev :=
  match d.armedTensor n with
  | none => d.calReject
  | some m => if posFinite v then d.modTensor m (d.watchAt n).tensor (fun t => { t with s2New := some (clampS2 v) }) else d.calReject
def execS2Write (n : BitVec 6) (v : W32) (s : State) : Ans := .next (hostWrite (s2Write n v) s)

/-- DRIFT_TH_WRITE. -/
def driftThWrite (n : BitVec 6) (v : W32) (d : Dev) : Dev :=
  match d.armedTensor n with
  | none => d.calReject
  | some m => (d.modTensor m (d.watchAt n).tensor (fun t => { t with thNew := some v })).modWatch n (fun w => { w with driftTh := v })
def execDriftThWrite (n : BitVec 6) (v : W32) (s : State) : Ans := .next (hostWrite (driftThWrite n v) s)

/-! ## Resets of a collector (R186, R194) -/

/-- A tensor returns to what its image gives; an armed slot reloads it. -/
def Dev.resetTensor (d : Dev) (n : NetId) (tn : BitVec 12) : Dev :=
  match (d.net n).img.bind (fun im => im.tensors.find? (fun i => i.num == tn)) with
  | none => d
  | some i =>
    let armed (w : Watch) : Bool := w.arm && !w.notensor && w.tensor == tn && (d.part w.part).net == n
    let was := ((d.tensor n tn).map (fun t => t.s2)).getD i.s2
    ((d.modTensor n tn (fun t => { tensorOfImg i with closed := t.closed, shut := t.shut })).sendS2 n tn was).modCal (fun c =>
      { c with watch := c.watch.map (fun e =>
          if armed e.2 then (e.1, { e.2 with kt := i.kt, s2 := i.s2, driftTh := i.driftTh }) else e) })

/-- Armed slots reload the settings of a network's tensors after it is cast again (R198). -/
def Dev.rearm (d : Dev) (n : NetId) : Dev :=
  d.modCal (fun c => { c with watch := c.watch.map (fun e =>
    match (if e.2.arm && (d.part e.2.part).net == n then d.named e.2.part e.2.tensor else none) with
    | some (_, t) => (e.1, { e.2 with kt := t.kt, s2 := t.s2, driftTh := t.driftTh, notensor := false })
    | none => e) })

/-- The tensors of a stage. -/
def Dev.tensorsOf (d : Dev) (n : NetId) (st : StageId) : List (BitVec 12) :=
  ((d.net n).tensors.filter (fun e => e.2.stage == st)).map (fun e => BitVec.ofNat 12 e.1)

/-- A core's caliper slots and, when it holds the collectors of its stage, their open frames and scales are lost; the core
uses S2_0 until it next receives a value. -/
def Dev.resetCalipers (d : Dev) (c : CoreId) : Dev :=
  let k := d.core c
  let d1 := d.modCore c (fun k => { k with cal := [], s2 := k.s2init, s2next := [], sent := [] })
  if k.assigned && k.cidx == 0#10 && !k.spare then (d.tensorsOf k.net k.stage).foldl (fun d t => d.resetTensor k.net t) d1
  else d1

/-- A drop closes every open frame of the tensors of a network, or of its companions, incomplete and without tracking (R192,
R365); none while the calipers are off (R195). -/
def Dev.dropCalipers (d : Dev) (n : NetId) (comp : Bool) : Dev :=
  if !d.cal.en then d
  else
    ((d.net n).tensors.filter (fun e => (d.coresOfStage n e.2.stage).any (fun c => d.companion n (partOfCore c)) == comp)).foldl
      (fun d e => d.closeOpen n (BitVec.ofNat 12 e.1) true (fun _ => true)) d

end Sys2Proof.Machine
end

