-- ==== Sys2Proof/Machine/Packets.lean ====
section
/-! DEFINITION. The packet layer (R272 to R279): headers and their CRC-32C, the routers and their routes, buffers and
arbitration, group multicast, partition broadcast, reductions, acknowledgements and resends. -/
namespace Sys2Proof

/-- Header bits [95:0] of a packet (Table 7-6). -/
def Machine.Packet.header (p : Machine.Packet) : BitVec 96 :=
  p.seq ++ p.opc ++ p.pmask ++ p.dst ++ p.src ++ 0#3 ++ BitVec.ofNat 5 p.payload.length ++ p.dmode ++ p.cls

/-- One byte into a CRC-32C (Castagnoli, reflected). -/
def crcByte (c : W32) (b : Byte) : W32 :=
  (List.range 8).foldl (fun c _ => if c.getLsbD 0 then (c >>> 1) ^^^ 0x82F63B78#32 else c >>> 1) (c ^^^ b.setWidth 32)
/-- CRC-32C of bytes. Assumption 15 (PRESUMED): unsafe. -/
def crc32c (l : List Byte) : W32 := (l.foldl crcByte 0xFFFFFFFF#32) ^^^ 0xFFFFFFFF#32
/-- The bytes of a bit vector, lowest first. -/
def bytesOf {n : Nat} (k : Nat) (x : BitVec n) : List Byte := (List.range k).map (fun i => x.extractLsb' (8 * i) 8)

/-- The CRC of a packet: over its header and every payload flit (R273). -/
def Machine.Packet.crcOf (h : BitVec 96) (payload : List (BitVec 128)) : W32 :=
  crc32c (bytesOf 12 h ++ payload.flatMap (bytesOf 16))

end Sys2Proof

namespace Sys2Proof.Machine

open Sys2Proof

/-- Flits of a packet. -/
def Packet.flits (p : Packet) : Nat := 1 + p.payload.length
/-- A packet with its CRC. -/
def Packet.seal (p : Packet) : Packet := { p with crc := Packet.crcOf p.header p.payload }

/-! ## Endpoints (Table 7-7) -/

/-- Where an endpoint is: a partition's router, or the plinth router; none for a reserved endpoint. -/
inductive Site where
  | part (p : PartId) | plinth
  deriving DecidableEq, Repr

/-- Assumption 17 (DESIGN CHOICE): unsafe. -/
def siteOf (e : Endpoint) : Option Site :=
  let n := e.toNat
  if n < 0x800 then some (.part (e.extractLsb' 6 5))
  else if n < 0x880 then some (.part (e.extractLsb' 2 5))
  else if n < 0x8A0 then some (.part (e.extractLsb' 0 5))
  else if n < 0x8A2 then some (.part (e.extractLsb' 0 1 ++ 0#4))
  else if 0xF00 ≤ n && n < 0xF04 then some .plinth
  else none

/-- The endpoints of a core, a queue manager and a partition control; the management controller's. -/
def epCore (c : CoreId) : Endpoint := 0#1 ++ c
def epCluster (c : ClusterId) : Endpoint := 0x10#5 ++ c
def epPart (p : PartId) : Endpoint := 0x44#7 ++ p
def epMgmt : Endpoint := 0xF00#12

/-- The unit of an endpoint runs (R279, R308): classes 2 and 3 reach a partly cast partition, classes 0 and 1 do not. -/
def Dev.epRuns (d : Dev) (e : Endpoint) (cls : BitVec 2) : Bool :=
  match siteOf e with
  | some (.part p) =>
    let x := d.part p
    d.diePresent (dieOfPart p) && (d.die (dieOfPart p)).railOn && !(d.die (dieOfPart p)).inReset
      && (0x8A0 ≤ e.toNat || (x.power == .on && !x.inReset && (2 ≤ cls.toNat || x.live)))
  | some .plinth => true
  | none => false

/-! ## Routes (R272): routers 0 to 31 of the partitions, 32 and 33 of the die bridges, 34 and 35 of the plinth bridges,
36 of the plinth; outputs 0 north, 1 east, 2 south, 3 west, 4 the endpoints, 5 the bridge router -/

/-- The output of a partition's router toward a partition of its die, along the row first. -/
def gridOut (i j : Nat) : Nat :=
  if i % 4 < j % 4 then 1 else if j % 4 < i % 4 then 3 else if i / 4 < j / 4 then 2 else if j / 4 < i / 4 then 0 else 4

/-- The output that a router takes toward a site. -/
def routeOut (r : Nat) (s : Site) : Nat :=
  if r < 32 then
    match s with
    | .part p =>
      if p.toNat / 16 == r / 16 then gridOut (r % 16) (p.toNat % 16)
      else (let o := gridOut (r % 16) 15; if o == 4 then 5 else o)
    | .plinth => let o := gridOut (r % 16) 0; if o == 4 then 5 else o
  else if r < 34 then
    match s with | .part p => if p.toNat / 16 == r - 32 then 0 else 1 | .plinth => 0
  else if r < 36 then
    match s with | .part p => if p.toNat / 16 == r - 34 then 0 else 1 | .plinth => 1
  else match s with | .part p => p.toNat / 16 | .plinth => 4

/-- The router behind an output and the input that the packet arrives on; none at the endpoints. -/
def nextRouter (r out : Nat) : Option (Nat × Nat) :=
  if r < 32 then
    match out with
    | 0 => some (r - 4, 2)
    | 1 => some (r + 1, 3)
    | 2 => some (r + 4, 0)
    | 3 => some (r - 1, 1)
    | 5 => if r % 16 == 15 then some (32 + r / 16, 0) else some (34 + r / 16, 0)
    | _ => none
  else if r < 34 then (if out == 0 then some ((r - 32) * 16 + 15, 5) else some (65 - r, 1))
  else if r < 36 then (if out == 0 then some ((r - 34) * 16, 5) else some (36, r - 34))
  else match out with | 0 => some (34, 1) | 1 => some (35, 1) | _ => none

/-- The router at a site. -/
def routerOf (s : Site) : Nat := match s with | .part p => p.toNat | .plinth => 36

/-! ## Sending -/

def Dev.modNetw (d : Dev) (f : PacketNet → PacketNet) : Dev := { d with packets := f d.packets }
def Dev.router (d : Dev) (r : Nat) : Router := tblGet {} d.packets.routers r
def Dev.modRouter (d : Dev) (r : Nat) (f : Router → Router) : Dev :=
  d.modNetw (fun n => { n with routers := tblMod {} n.routers r f })

/-- A packet waits at the router of its sender. -/
def Dev.inject (d : Dev) (p : Packet) : Dev :=
  match siteOf p.src with
  | none => d
  | some s => d.modRouter (routerOf s) (fun r => { r with waiting := r.waiting ++ [(4#3, p)] })

/-- Send a packet; one of class 0 or 1 awaits its acknowledgement (R278). -/
def Dev.sendPacket (d : Dev) (p : Packet) : Dev :=
  let p1 := p.seal
  let d1 := if p.cls.toNat < 2 then d.modNetw (fun n => { n with unacked := n.unacked ++ [(p1, 0)] }) else d
  d1.inject p1

/-- OPC of the acknowledgement, the contention notice, the drop and the fault notice on classes 0 and 1. -/
def opcAck : Byte := Config.packetOpc 0
def opcContention : Byte := Config.packetOpc 1
def opcDrop : Byte := Config.packetOpc 2
def opcFault : Byte := Config.packetOpc 3

/-- A class 0 packet from a partition control. -/
def Dev.notice (d : Dev) (p : PartId) (dst : Endpoint) (opc : Byte) : Dev :=
  d.sendPacket { cls := 0#2, src := epPart p, dst := dst, opc := opc, seq := 0#20, crc := 0#32 }

/-! ## Forwarding (R275, R276) -/

/-- The outputs that a packet still needs at a router, with the partitions of its mask that lie behind each. -/
def Packet.wants (p : Packet) (r out : Nat) : Option Packet :=
  if p.dmode == 0#2 || p.dmode == 3#2 then
    match siteOf p.dst with | some s => if routeOut r s == out then some p else none | none => none
  else
    let m := (List.range 32).foldl (fun m i =>
      if p.pmask.getLsbD i && routeOut r (.part (BitVec.ofNat 5 i)) == out then m ||| (1#32 <<< i) else m) 0#32
    if m == 0#32 then none else some { p with pmask := m }

/-- What is left of a packet at a router after a copy has gone: nothing of a unicast, the other partitions of a mask. -/
def Packet.rest (p sent : Packet) : Option Packet :=
  if p.dmode == 0#2 || p.dmode == 3#2 then none
  else
    let m := p.pmask &&& ~~~sent.pmask
    if m == 0#32 then none else some { p with pmask := m }

/-- The buffer of a class at an input of the next router has room for the whole packet: 17 flits (R275). -/
def Dev.bufferRoom (d : Dev) (next : Option (Nat × Nat)) (p : Packet) : Bool :=
  match next with
  | none => true
  | some (r, i) =>
    (((d.router r).waiting.filter (fun e => e.1.toNat == i && e.2.cls == p.cls)).map (fun e => e.2.flits)).sum + p.flits ≤ 17

/-- The waiting packet that an output sends: the lowest class, and within it the input next in turn. -/
def pickPacket (rr : Nat) (l : List (BitVec 3 × Packet)) : Option (BitVec 3 × Packet) :=
  l.foldl (fun best e => match best with
    | none => some e
    | some b =>
      let ke := e.2.cls.toNat * 8 + (e.1.toNat + 8 - rr) % 8
      let kb := b.2.cls.toNat * 8 + (b.1.toNat + 8 - rr) % 8
      if ke < kb then some e else some b) none

/-- The endpoints of a partition that a multicast or broadcast packet reaches. -/
def Dev.castTargets (d : Dev) (r : Nat) (p : Packet) : List Endpoint :=
  let part : PartId := BitVec.ofNat 5 r
  if p.dmode == 1#2 then ((coresOfPart part).filter (fun c => (d.core c).groups.contains p.dst)).map epCore
  else epPart part :: (coresOfPart part).map epCore

/-- A packet reaches its endpoints from their router. One whose unit does not run is discarded, which ends the wait for its
acknowledgement (R279). -/
def Dev.deliver (d : Dev) (r : Nat) (p : Packet) : Dev :=
  let eps := if p.dmode == 0#2 || p.dmode == 3#2 then [p.dst] else d.castTargets r p
  eps.foldl (fun d e =>
    if d.epRuns e p.cls then d.modNetw (fun n => { n with inbox := tblMod [] n.inbox e.toNat (fun l => l ++ [p]) })
    else if p.cls.toNat < 2 then d.modNetw (fun n => { n with unacked := n.unacked.filter (fun u => u.1 != p) })
    else d) d

/-- The partition of an endpoint counts a discarded packet. -/
def Dev.countCrc (d : Dev) (e : Endpoint) : Dev :=
  match siteOf e with
  | some (.part p) => d.modPart p (fun x => { x with pktCrc := satInc x.pktCrc })
  | _ => d.modNetw (fun n => { n with crcDrops := n.crcDrops + 1 })

/-- A router is present and runs (R24, R281). -/
def Dev.routerUp (d : Dev) (r : Nat) : Bool :=
  let die := if r < 32 then r / 16 else r % 2
  if r == 36 then true
  else r < 36 && d.diePresent die && (r % 32 < 16 || d.die1) && (34 ≤ r || ((d.die die).railOn && !(d.die die).inReset))

/-- PKT_BLK0 (R289): a class 0 packet that leaves a partition router has waited behind the packet of another class that its output
sent before, for fewer cycles than that one has flits; for how many is a free value.
Assumption 134 (DESIGN CHOICE): safe. -/
def Dev.countBlk (d : Dev) (r out : Nat) (p : Packet) : Dev :=
  if 32 ≤ r then d
  else
    let n := tblGet 0 (d.router r).other out
    if p.cls != 0#2 then d.modRouter r (fun y => { y with other := tblSet 0 y.other out p.flits })
    else if n == 0 then d
    else
      let (x, d1) := d.free 5
      (d1.modPart (BitVec.ofNat 5 r) (fun y => { y with pktBlk0 := satAdd y.pktBlk0 (x.toNat % n) })).modRouter r (fun y =>
        { y with other := tblSet 0 y.other out 0 })

/-- PACKET_FORWARD. A packet for a reserved endpoint is discarded by the router that holds it and counted (R274). -/
def packetForward (r : BitVec 6) (out : BitVec 3) (d : Dev) : Dev :=
  if !d.routerUp r.toNat then d
  else
    let x := d.router r.toNat
    let lost := x.waiting.filter (fun e => (e.2.dmode == 0#2 || e.2.dmode == 3#2) && (siteOf e.2.dst).isNone)
    match lost with
    | e :: _ =>
      (d.modRouter r.toNat (fun y => { y with waiting := y.waiting.erase e })).countCrc e.2.src
    | [] =>
      let next := nextRouter r.toNat out.toNat
      let ready := x.waiting.filter (fun e => match e.2.wants r.toNat out.toNat with
        | some c => d.bufferRoom next c | none => false)
      match pickPacket (tblGet 0#3 x.rr out.toNat).toNat ready with
      | none => d
      | some e =>
        match e.2.wants r.toNat out.toNat with
        | none => d
        | some c =>
          let left := match e.2.rest c with | some p => [(e.1, p)] | none => []
          let d1 := (d.countBlk r.toNat out.toNat c).modRouter r.toNat (fun y =>
            { y with waiting := y.waiting.flatMap (fun w => if w == e then left else [w]), rr := tblSet 0#3 y.rr out.toNat (e.1 + 1#3) })
          match next with
          | some (n, i) =>
            if d1.routerUp n then d1.modRouter n (fun y => { y with waiting := y.waiting ++ [(BitVec.ofNat 3 i, c)] })
            else if c.cls.toNat < 2 then d1.modNetw (fun m => { m with unacked := m.unacked.filter (fun u => u.1 != c) })
            else d1
          | none => d1.deliver r.toNat c
def execPacketForward (r : BitVec 6) (out : BitVec 3) (s : State) : Ans := .next { s with dev := packetForward r out s.dev }

/-! ## Receiving, acknowledging, resending (R278) -/

/-- PACKET_RECEIVE: the destination checks the CRC of the next packet, of whose header some bits were upset on the way. -/
def packetReceive (e : Endpoint) (upset : BitVec 128) (d : Dev) : Dev :=
  match tblGet [] d.packets.inbox e.toNat with
  | [] => d
  | p :: rest =>
    let d1 := d.modNetw (fun n => { n with inbox := tblSet [] n.inbox e.toNat rest })
    let ok := Packet.crcOf (p.header ^^^ upset.extractLsb' 0 96) p.payload == (p.crc ^^^ upset.extractLsb' 96 32)
    if !ok then (if p.cls == 3#2 then (d1.countCrc e).modNetw (fun n => { n with hostErrs := n.hostErrs + 1 }) else d1.countCrc e)
    else if 2 ≤ p.cls.toNat then d1
    else if p.opc == opcAck then
      d1.modNetw (fun n => { n with unacked := n.unacked.filter (fun u => !(u.1.src == e && u.1.dst == p.src && u.1.seq == p.seq)) })
    else d1.inject (Packet.seal { cls := p.cls, src := e, dst := p.src, opc := opcAck, seq := p.seq, crc := 0#32 })
def execPacketReceive (e : Endpoint) (upset : BitVec 128) (s : State) : Ans :=
  .next { s with dev := packetReceive e upset s.dev }

/-- PACKET_RESEND: the oldest packet of a sender that has no acknowledgement goes again, up to three times; then its
delivery event is raised. -/
def packetResend (e : Endpoint) (d : Dev) : Dev :=
  match d.packets.unacked.find? (fun u => u.1.src == e) with
  | none => d
  | some (p, k) =>
    if k < 3 then
      let d1 := d.modNetw (fun n => { n with unacked := n.unacked.map (fun u => if u == (p, k) then (p, k + 1) else u) })
      let d2 := match siteOf e with
        | some (.part q) => d1.modPart q (fun x => { x with pktResend := satInc x.pktResend })
        | _ => d1
      d2.inject p
    else
      let d1 := d.modNetw (fun n => { n with unacked := n.unacked.erase (p, k) })
      let args := [arg32 p.dst, arg32 p.cls, arg32 p.opc]
      match siteOf e with
      | some (.part q) => d1.raise 0x3003#16 q args
      | _ => d1.raise0 0x3003#16 args
def execPacketResend (e : Endpoint) (s : State) : Ans := .next { s with dev := packetResend e s.dev }

/-! ## Reductions (R274): points 0 to 127 are the queue managers, 128 to 159 the partition routers -/

/-- The sources of a combining point that are live. -/
def Dev.reduceSources (d : Dev) (point : Nat) : List Endpoint :=
  if point < 128 then
    ((coresOfCluster (BitVec.ofNat 7 point)).filter (fun c => d.good c && (d.core c).assigned && !(d.core c).spare)).map epCore
  else ((clustersOfPart (BitVec.ofNat 5 (point - 128))).filter (fun cl =>
      (coresOfCluster cl).any (fun c => d.good c && (d.core c).assigned && !(d.core c).spare))).map epCluster

/-- The payload of a reduction as one vector. -/
def payloadBits (l : List (BitVec 128)) : BitVec 2048 := l.foldr (fun f acc => (acc <<< 128) ||| f.setWidth 2048) 0#2048

/-- A combining point forwards a combination: a queue manager to its partition's router, a partition's router to the
destination. -/
def Dev.reduceOut (d : Dev) (point : Nat) (c : Combine) : Dev :=
  let payload := (List.range 16).map (fun i => c.payload.extractLsb' (128 * i) 128)
  if point < 128 then
    let e := epCluster (BitVec.ofNat 7 point)
    let up := 128 + point / 4
    d.modNetw (fun n => { n with combines := tblMod [] n.combines up (fun l =>
      match l.find? (fun x => x.opc == c.opc && x.seq == c.seq) with
      | some _ => l.map (fun x => if x.opc == c.opc && x.seq == c.seq then
          { x with seen := x.seen ++ [e], payload := x.payload ||| c.payload } else x)
      | none => l ++ [⟨c.opc, c.seq, [e], c.payload⟩]) })
  else d.sendPacket { cls := 2#2, dmode := 3#2, src := epPart (BitVec.ofNat 5 (point - 128)), dst := epMgmt, opc := c.opc, seq := c.seq,
                      payload := payload, crc := 0#32 }

/-- A combining point that holds a packet from every live source forwards. -/
def Dev.reduceTry (d : Dev) (point : Nat) (opc : Byte) (seq : BitVec 20) : Dev :=
  match (tblGet [] d.packets.combines point).find? (fun c => c.opc == opc && c.seq == seq) with
  | none => d
  | some c =>
    if (d.reduceSources point).all (fun e => c.seen.contains e) then
      (d.modNetw (fun n => { n with combines := tblMod [] n.combines point (fun l => l.erase c) })).reduceOut point c
    else d

/-- A core's answer to a reduction enters the combining point of its cluster. -/
def Dev.reduceIn (d : Dev) (c : CoreId) (opc : Byte) (seq : BitVec 20) (payload : BitVec 2048) : Dev :=
  let point := (clusterOfCore c).toNat
  let d1 := d.modNetw (fun n => { n with combines := tblMod [] n.combines point (fun l =>
    match l.find? (fun x => x.opc == opc && x.seq == seq) with
    | some _ => l.map (fun x => if x.opc == opc && x.seq == seq then
        { x with seen := x.seen ++ [epCore c], payload := x.payload ||| payload } else x)
    | none => l ++ [⟨opc, seq, [epCore c], payload⟩]) })
  (d1.reduceTry point opc seq).reduceTry (128 + point / 4) opc seq

/-- REDUCTION_TIMEOUT: the oldest combination of a point goes on without its missing sources. -/
def reductionTimeout (point : Nat) (d : Dev) : Dev :=
  match tblGet [] d.packets.combines point with
  | [] => d
  | c :: t =>
    let d1 := (d.modNetw (fun n => { n with combines := tblSet [] n.combines point t })).reduceOut point c
    if point < 128 then d1.reduceTry (128 + point / 4) c.opc c.seq else d1
def execReductionTimeout (point : Nat) (s : State) : Ans := .next { s with dev := reductionTimeout point s.dev }

end Sys2Proof.Machine
end

