-- ==== Sys2Proof/Machine/Admit.lean ====
section
/-! DEFINITION. Admission (chapter 12, Lines, packets and missing lines; Admission): member frames and their lines, the
decision on a group frame (R434 to R438), what the ingest buffer delivers (R432), and the images that an admitted frame
issues (R364). A frame's start marker goes ahead of its lines in every member's queue (R74, DEDUCED). -/
namespace Sys2Proof.Machine

open Sys2Proof

/-! ## Geometry -/

/-- Bits of a pixel on the wire (Table 12-2). -/
def pixelBits (f : BitVec 4) : Nat :=
  match f.toNat with | 0 => 8 | 5 | 6 | 8 => 12 | 7 => 10 | _ => 16
/-- LB and LW of a group's lines. -/
def lineBytes (g : GroupImg) : Nat := g.width * pixelBits g.pixfmt / 8
def lineWords (g : GroupImg) : Nat := lineBytes g / 8

/-- A packed line as queue words: little-endian within each word (R432). -/
def wordsOf : Nat → List Byte → List W64
  | 0, _ => []
  | n + 1, l => BitVec.ofNat 64 (leNat (l.take 8)) :: wordsOf n (l.drop 8)

/-- Words of a line of one kind: EOR on the last, EOF too when the line ends the member frame. -/
def rowWords (kind : Kind) (eof : Bool) (ws : List W64) : List QWord :=
  ws.zipIdx.map (fun e =>
    let last := e.2 + 1 == ws.length
    { payload := e.1, kind := kind, eor := last, eof := last && eof })

/-! ## Groups and their contexts -/

def Dev.group (d : Dev) (n : NetId) (g : BitVec 4) : Option Group := tblGet none (d.net n).groups g.toNat
def Dev.modGroup (d : Dev) (n : NetId) (g : BitVec 4) (f : Group → Group) : Dev :=
  d.modNet n (fun x => { x with groups := tblMod none x.groups g.toNat (fun o => o.map f) })

/-- The contexts bound to a group and enabled. -/
def Dev.ctxsOf (d : Dev) (n : NetId) (g : BitVec 4) : List (BitVec 10) :=
  (d.ing.ctxs.filter (fun e => e.2.bound && e.2.en && e.2.net == n && e.2.grp == g)).map (fun e => BitVec.ofNat 10 e.1)

/-- CTX of a group's frames: the context of member 0 (Table 2-4). -/
def Dev.firstCtx (d : Dev) (n : NetId) (g : BitVec 4) : BitVec 10 :=
  ((d.ctxsOf n g).find? (fun c => (d.ctx c).member == 0#4)).getD 0#10

/-- The decision on a group frame. -/
def Group.status (g : Group) (f : W32) : Option Adm := (g.live.find? (fun e => e.1 == f)).map (fun e => e.2)
/-- Lines of the frame are kept. -/
def Group.keeps (g : Group) (f : W32) : Bool :=
  match g.status f with | some .pending | some (.admitted _) => true | _ => false

/-- Bytes of the ingest buffer that a group's lines occupy, those of lines in progress included.
Assumption 84 (DESIGN CHOICE): unsafe. -/
def Dev.groupOcc (d : Dev) (n : NetId) (g : BitVec 4) : Nat :=
  match d.group n g with
  | none => 0
  | some x =>
    (x.buf.map (fun e => (e.2.map (fun l => 8 * (l.words.filter (fun w => w.kind == .data)).length)).sum)).sum +
      ((d.ctxsOf n g).map (fun c =>
        let k := d.ctx c
        if x.keeps k.memFrame then (match k.block with | some b => b.held.length | none => 0) else 0)).sum

/-! ## Delivery (R432) -/

/-- Words of a member's line at the head of the ingest buffer enter its queue, against credits. -/
def Dev.ingestRun (d : Dev) (n : NetId) (g : BitVec 4) (m : Nat) : Nat → Dev
  | 0 => d
  | k + 1 =>
    match d.group n g with
    | none => d
    | some x =>
      match tblGet [] x.buf m with
      | [] => d
      | l :: t =>
        match l.epoch, l.words with
        | none, _ => d
        | some _, [] => (d.modGroup n g (fun x => { x with buf := tblSet [] x.buf m t })).ingestRun n g m k
        | some e, w :: ws =>
          let q := (x.img.dests[m]?).getD 0#13
          if d.queueLive q && !(d.queue q).hasCredit 0 then
            d.modQueue q (fun y => y.modProd 0 (fun p => { p with wants := true }))
          else
            ((d.write q 0#10 { w with epoch := e }).modGroup n g (fun x =>
              { x with buf := tblSet [] x.buf m ({ l with words := ws } :: t) })).ingestRun n g m k

/-- Everything that a member's buffer holds, as far as credits reach. -/
def Dev.ingestAll (d : Dev) (n : NetId) (g : BitVec 4) (m : Nat) : Dev :=
  let ls := match d.group n g with | some x => tblGet [] x.buf m | none => []
  d.ingestRun n g m ((ls.map (fun l => l.words.length + 1)).sum + 1)

/-! ## The decision (R435) -/

/-- No stop, drain, freeze, brown-out warning or clock loss keeps frames from a network. -/
def Dev.mayAdmit (d : Dev) (n : NetId) : Bool :=
  (d.net n).drain.isNone && (d.pwr.state == .running || d.pwr.state == .waking) && !d.pll.lossOn &&
    (d.partsOfNet n).all (fun p =>
      let y := d.part p
      d.companion n p ||
        (y.cast == .released && y.power == .on && !y.bow && !y.awaitAck && !y.frozen && !(d.die (dieOfPart p)).warn))

/-- Admission to a network is open. -/
def Dev.admitting (d : Dev) (n : NetId) : Bool := ((d.net n).open_ || (d.net n).openAt) && d.mayAdmit n

/-- A word that starts a frame of this number and kind. -/
def startsFrame (f : W32) (maq : Bool) (w : QWord) : Bool := w.isStart && w.frame == f && w.flags.getLsbD 6 == maq

/-- The admission stage has begun to deliver the last frame that it was given: its marker has been read from member 0's queue. -/
def Dev.stageReady (d : Dev) (n : NetId) (g : BitVec 4) : Bool :=
  match d.group n g with
  | none => false
  | some x =>
    match x.last with
    | none => true
    | some (f, maq) =>
      let q := d.queue ((x.img.dests.head?).getD 0#13)
      !(tblGet [] x.buf 0).any (fun l => l.frame == f && l.maq == maq && l.words.any (startsFrame f maq)) &&
        !q.stager.any (fun o => match o with | some w => startsFrame f maq w | none => false) &&
        !q.rcvs.any (fun r => (q.store.drop (pdist q.old r.r)).any (fun o =>
          match o with | some w => startsFrame f maq w | none => false))

/-- The images of a network's adapted stages are issued from a bank (R364). -/
def Dev.issueImages (d : Dev) (n : NetId) (bank : Adapt → BitVec 2) : Dev :=
  d.adapt.foldl (fun d a =>
    if a.2.net != some n then d
    else a.2.stages.foldl (fun d s =>
      d.issueImage s.q (BitVec.ofNat 40 (512 * s.base.toNat + (bank a.2).toNat * s.imgWords.toNat * 8)) s.imgWords.toNat) d) d

/-- The ingest buffer is read for an admitted frame: corrected words are counted, and an uncorrectable one marks the buffer frame
invalid and raises an event (Table 1-4). Which happens is a free value. Assumption 131 (DESIGN CHOICE): safe. -/
def Dev.bufferRead (d : Dev) (n : NetId) (g : BitVec 4) (f : W32) : Dev :=
  let (b, d1) := d.sramRead.free 1
  let d2 := d1.modGroup n g (fun x => { x with invalid := if b == 1#1 then f :: x.invalid else x.invalid.erase f })
  { d2 with evt := if b == 1#1 then (d2.raise0 Config.sramEvent [arg32 n, f]).evt else d2.evt }

/-- A frame is admitted: its lines carry the network's epoch, and the images of its adapted stages are issued. -/
def Dev.admitFrame (d : Dev) (n : NetId) (g : BitVec 4) (f : W32) : Dev :=
  let e := (d.net n).epoch
  let d1 := d.modGroup n g (fun x =>
    { x with live := x.live.map (fun y => if y.1 == f then (f, .admitted e) else y), last := some (f, false),
             buf := tblMap [] x.buf (fun _ ls => ls.map (fun l => if l.frame == f && !l.maq then { l with epoch := some e } else l)) })
  let d2 := (d1.trimFlights n).modNet n (fun x => { x with inFlight := if x.inFlight.contains f then x.inFlight else x.inFlight ++ [f] })
  let d3 := (d2.bufferRead n g f).issueImages n (fun a => a.active)
  ((d3.group n g).map (fun x => (List.range x.img.members).foldl (fun d m => d.ingestAll n g m) d3)).getD d3

/-- A frame is refused whole: nothing of it is kept, and it counts for each member (R437). -/
def Dev.refuseFrame (d : Dev) (n : NetId) (g : BitVec 4) (f : W32) : Dev :=
  let d1 := d.modGroup n g (fun x =>
    { x with live := x.live.map (fun y => if y.1 == f then (f, .refused) else y),
             buf := tblMap [] x.buf (fun _ ls => ls.filter (fun l => l.frame != f || l.maq)) })
  (d1.ctxsOf n g).foldl (fun d c => d.modCtx c (fun x => { x with refused := satInc x.refused })) d1

/-- Decisions that wait are taken, in order: the network closed, the stage ready, or the occupancy beyond AQUOTA - AR.
Assumption 83 (DESIGN CHOICE): unsafe. -/
def Dev.decideFrames (d : Dev) (n : NetId) (g : BitVec 4) : Nat → Dev
  | 0 => d
  | k + 1 =>
    match d.group n g with
    | none => d
    | some x =>
      match x.live.find? (fun e => e.2 == .pending) with
      | none => d
      | some (f, _) =>
        if !d.admitting n then (d.refuseFrame n g f).decideFrames n g k
        else if d.stageReady n g then (d.admitFrame n g f).decideFrames n g k
        else if x.img.aquota - x.img.ar < d.groupOcc n g then (d.refuseFrame n g f).decideFrames n g k
        else d

/-- The waiting decisions of a group. -/
def Dev.recheck (d : Dev) (n : NetId) (g : BitVec 4) : Dev :=
  d.decideFrames n g (((d.group n g).map (fun x => x.live.length)).getD 0 + 1)

/-- The waiting decisions of every group of a network. -/
def Dev.recheckNet (d : Dev) (n : NetId) : Dev :=
  ((d.net n).groups.map (fun e => BitVec.ofNat 4 e.1)).foldl (fun d g => d.recheck n g) d

/-- The start time of a group frame (R442), known to the reference groups that follow it (R344).
Assumption 85 (DEDUCED): unsafe. -/
def Dev.setStart (d : Dev) (n : NetId) (g : BitVec 4) (f : W32) (t : W64) : Dev :=
  let d1 := d.modGroup n g (fun x => { x with starts := ((f, t) :: x.starts.filter (fun e => e.1 != f)).take 256 })
  d1.modRoute (fun r => { r with groups := tblMap none r.groups (fun _ o => o.map (fun y =>
    if y.net == n && y.img.grp == g then
      { y with offered := some (f, t), firstOff := y.firstOff.orElse (fun _ => some f) } else y)) })

/-! ## Maquette frames (R79, R82, R379, R382, R527) -/

/-- The adaptation unit of a network that runs a trial. -/
def Dev.trialUnit (d : Dev) (n : NetId) : Option (BitVec 2) :=
  let us : List (BitVec 2) := [0#2, 1#2, 2#2, 3#2]
  us.find? (fun u => (d.adaptU u).net == some n && (d.adaptU u).state == .trial)

/-- A maquette frame is to be injected: a trial's next frame, or the one that is due when none is in flight. -/
def Dev.maqWants (d : Dev) (n : NetId) : Bool :=
  let m := (d.net n).maq
  ((d.net n).open_ || (d.net n).openAt || (d.net n).probation) && d.mayAdmit n &&
    (match d.trialUnit n with
      | some u => 0 < (d.adaptU u).trialLeft && (m.inFlight.isEmpty || m.trial)
      | none => m.due && m.inFlight.isEmpty)

/-- The words of a group's maquette frame, as the memory holds them: the frames are taken in turn.
Assumption 93 (DESIGN CHOICE): unsafe. -/
def Dev.maqWords (d : Dev) (g : GroupImg) (k : Nat) : List W64 :=
  let i := k % max g.maqFrames.length 1
  let before := ((g.maqFrames.take i).map List.length).sum
  (List.range ((g.maqFrames[i]?).getD []).length).map (fun j => BitVec.ofNat 64 (leNat (d.readBytes (g.maqAddr.toNat + 8 * (before + j)) 8)))

/-- What a maquette frame puts into the ingest buffer for a member: the marker with MAQUETTE and every row. -/
def maqLines (g : GroupImg) (m : Nat) (f : W32) (ctx : BitVec 10) (e : BitVec 3) (ws : List W64) : List InLine :=
  let lw := lineWords g
  { frame := f, words := [startMarker f ctx 0x40#8 0#3], epoch := some e, maq := true } ::
    (List.range g.lines).map (fun r =>
      { frame := f, words := rowWords .data (r + 1 == g.lines) ((ws.drop ((r * g.members + m) * lw)).take lw), epoch := some e, maq := true })

/-- A maquette frame enters a group: its number is the maquette counter's, its images come from bank 0, a trial's from the
candidate's. -/
def Dev.maqInject (d : Dev) (n : NetId) (g : BitVec 4) : Dev :=
  match d.group n g with
  | none => d
  | some x =>
    let u := d.trialUnit n
    let e := (d.net n).epoch
    let k := (d.net n).maq.counter
    let ws := d.maqWords x.img k.toNat
    let d1 := d.modNet n (fun y => { y with maq := { y.maq with
      counter := k + 1#32, due := u.isSome && y.maq.due, trial := u.isSome, inFlight := y.maq.inFlight ++ [k] } })
    let d2 := match u with | some u => d1.modAdapt u (fun a => { a with trialLeft := a.trialLeft - 1 }) | none => d1
    let d3 := (d2.modGroup n g (fun x => { x with last := some (k, true), taken := false })).issueImages n
      (fun a => if u.isSome then a.cand else 0#2)
    (List.range x.img.members).foldl (fun d m =>
      (d.modGroup n g (fun y => { y with buf := tblMod [] y.buf m (fun ls => ls ++ maqLines x.img m k (d.firstCtx n g) e ws) })).ingestAll n g m) d3

/-- A frame that has taken a slot is injected as soon as no admitted frame is still arriving. -/
def Dev.maqTry (d : Dev) (n : NetId) (g : BitVec 4) : Dev :=
  match d.group n g with
  | some x => if x.taken && d.maqWants n && x.live.all (fun e => e.2 == .refused) then d.maqInject n g else d
  | none => d

/-- The group offers its next frame (R73): its number is consumed, and the engine decides. A maquette frame that has taken the
slot displaces it (R79). -/
def Dev.offer (d : Dev) (n : NetId) (g : BitVec 4) (member : BitVec 4) (t : W64) : Dev :=
  match d.group n g with
  | none => d
  | some x =>
    let f := x.counter
    let d1 := d.modGroup n g (fun x => { x with counter := x.counter + 1#32, live := x.live ++ [(f, .pending)], first := member })
    let d2 := d1.setStart n g f t
    let d3 := if d2.admitting n then d2.modNet n (fun y => { y with open_ := true, openAt := false }) else d2
    if x.displace then ((d3.refuseFrame n g f).modGroup n g (fun x => { x with displace := false, taken := true })).maqTry n g
    else if !d3.admitting n || x.img.aquota < d3.groupOcc n g + x.img.ar then d3.refuseFrame n g f
    else d3.recheck n g

/-- Group frames that a member has not begun before are offered up to its own. -/
def Dev.offerTo (d : Dev) (n : NetId) (g : BitVec 4) (member : BitVec 4) (t : W64) (f : W32) : Nat → Dev
  | 0 => d
  | k + 1 =>
    match d.group n g with
    | none => d
    | some x => if 2147483648 ≤ (f - x.counter).toNat then d else (d.offer n g member t).offerTo n g member t f k

/-! ## Member frames (R434) -/

/-- A member's row enters the ingest buffer behind what the member has there. -/
def Dev.bufRow (d : Dev) (n : NetId) (g : BitVec 4) (m : Nat) (l : InLine) : Dev :=
  (d.modGroup n g (fun x => { x with buf := tblMod [] x.buf m (fun ls => ls ++ [l]) })).ingestAll n g m

/-- The epoch of a frame that is admitted. -/
def Group.epochOf (g : Group) (f : W32) : Option (BitVec 3) := match g.status f with | some (.admitted e) => some e | _ => none

/-- The start marker of a member frame (R74). Assumption 82 (DEDUCED): unsafe. -/
def Dev.bufMarker (d : Dev) (n : NetId) (g : BitVec 4) (m : Nat) (f : W32) : Dev :=
  match d.group n g with
  | none => d
  | some x =>
    if x.keeps f then d.bufRow n g m { frame := f, words := [startMarker f (d.firstCtx n g) 0#8 0#3], epoch := x.epochOf f } else d

/-- A member frame begins, with its start time; the first of its group frame makes the group offer it. -/
def Dev.memberBegin (d : Dev) (c : BitVec 10) : Dev :=
  let k := d.ctx c
  let f := k.memFrame
  let t := match k.tssrc, k.block with | true, some b => b.tstamp | _, _ => d.ptpNow
  let d1 := d.modCtx c (fun x => { x with frames := satInc x.frames, begun := true, line := 0, incompleteNow := false, lastf := f })
  let d2 := d1.offerTo k.net k.grp k.member t f 65536
  if k.dead.contains f then d2 else d2.bufMarker k.net k.grp k.member.toNat f

/-- Group frames that every member has ended leave the list. -/
def Dev.trimLive (d : Dev) (n : NetId) (g : BitVec 4) : Dev :=
  let cs := d.ctxsOf n g
  d.modGroup n g (fun x => { x with live := (x.live.filter (fun e =>
    e.2 == .pending || cs.any (fun c => let k := d.ctx c; (e.1 - k.memFrame).toNat < 2147483648 && !k.dead.contains e.1))) })

/-- A member frame has ended. -/
def Dev.memberEnd (d : Dev) (c : BitVec 10) : Dev :=
  let k := d.ctx c
  (d.modCtx c (fun x => { x with memFrame := k.memFrame + 1#32, begun := false, line := 0, incompleteNow := false,
                                 dead := x.dead.filter (fun f => f != k.memFrame) })).trimLive k.net k.grp |>.maqTry k.net k.grp

/-- One line of a context is whole or known to be missing (R430, R432, R438). -/
def Dev.putLine (d : Dev) (c : BitVec 10) (data : Option (List Byte)) : Dev :=
  let d0 := if (d.ctx c).begun then d else d.memberBegin c
  let k := d0.ctx c
  let f := k.memFrame
  match d0.group k.net k.grp with
  | none => d0
  | some g =>
    let eof := k.line == k.linesM1.toNat
    let d1 :=
      if !g.keeps f || k.dead.contains f then d0
      else
        let beyond := data.isSome && (g.epochOf f).isSome && g.img.aquota < d0.groupOcc k.net k.grp + lineBytes g.img
        let got := if beyond then none else data
        let d1 := d0.modCtx c (fun x =>
          { x with overrun := if beyond then satInc x.overrun else x.overrun, missl := if got.isNone then satInc x.missl else x.missl,
                   incomp := if got.isNone && !x.incompleteNow then satInc x.incomp else x.incomp,
                   incompleteNow := x.incompleteNow || got.isNone })
        let ws := match got with
          | some l => rowWords .data eof (wordsOf (lineWords g.img) l)
          | none => rowWords .void eof (List.replicate (lineWords g.img) 0#64)
        d1.bufRow k.net k.grp k.member.toNat { frame := f, words := ws, epoch := g.epochOf f }
    let d2 := d1.modCtx c (fun x => { x with line := x.line + 1 })
    (if eof then d2.memberEnd c else d2).recheck k.net k.grp

/-- Lines known to be missing, one after another. -/
def Dev.missLines (d : Dev) (c : BitVec 10) : Nat → Dev
  | 0 => d
  | n + 1 => (d.putLine c none).missLines c n

/-- Every line of a member frame that MEMTO or a close leaves missing is written without the frame having begun. -/
def Dev.voidMember (d : Dev) (c : BitVec 10) (f : W32) : Dev :=
  let k := d.ctx c
  match d.group k.net k.grp with
  | none => d
  | some g =>
    let lines := k.linesM1.toNat + 1
    let d1 := d.modCtx c (fun x => { x with dead := x.dead ++ [f] })
    if !g.keeps f then d1
    else
      let d2 := d1.modCtx c (fun x => { x with missl := satAdd x.missl lines, incomp := satInc x.incomp })
      let d3 := d2.bufMarker k.net k.grp k.member.toNat f
      (List.range lines).foldl (fun d i => d.bufRow k.net k.grp k.member.toNat
        { frame := f, words := rowWords .void (i + 1 == lines) (List.replicate (lineWords g.img) 0#64), epoch := g.epochOf f }) d3

/-! ## Blocks (R429 to R431) -/

/-- Change the open block of a context. -/
def Dev.modBlock (d : Dev) (c : BitVec 10) (f : Block → Block) : Dev := d.modCtx c (fun x => { x with block := x.block.map f })

/-- Bytes of one line of a context, as casting loaded it. -/
def Context.lineBytes (x : Context) : Nat := (x.widthM1.toNat + 1) * pixelBits x.pixfmt / 8
/-- Lines of one block: BLKH in line-scan mode, LPF where BLKH is 0; the height in area mode.
Assumption 87 (DESIGN CHOICE): unsafe. -/
def Context.blockLines (x : Context) : Nat := if x.lscan && x.blkh != 0#16 then x.blkh.toNat else x.linesM1.toNat + 1

/-- `n` bytes of the open block, received or lost, line by line. -/
def Dev.blockBytes (d : Dev) (c : BitVec 10) : Nat → Nat → Option (List Byte) → Dev
  | 0, _, _ => d
  | _ + 1, 0, _ => d
  | k + 1, n, data =>
    let x := d.ctx c
    match x.block with
    | none => d
    | some b =>
      let lb := x.lineBytes
      if lb == 0 || b.lines * lb ≤ b.pos then d.modBlock c (fun b => { b with pos := b.pos + n })
      else
        let here := b.pos % lb
        let take := min n (lb - here)
        let d1 := if !x.begun && here == 0 then d.memberBegin c else d
        let broken := b.broken && here != 0
        let d2 := match data with
          | none => if broken then d1 else (d1.modBlock c (fun b => { b with held := [] })).putLine c none
          | some _ => d1
        let broken1 := broken || data.isNone
        let held := if broken1 then [] else (if here == 0 then [] else b.held) ++ ((data.getD []).take take)
        let ends := here + take == lb
        let d3 := d2.modBlock c (fun b => { b with pos := b.pos + take, broken := broken1 && !ends, held := if ends then [] else held })
        let d4 := if ends && !broken1 then d3.putLine c (some held) else d3
        d4.blockBytes c k (n - take) (data.map (fun l => l.drop take))

/-- `n` bytes of the open block, with fuel for every line of it. -/
def Dev.blockData (d : Dev) (c : BitVec 10) (n : Nat) (data : Option (List Byte)) : Dev :=
  d.blockBytes c (n / max (d.ctx c).lineBytes 1 + 3) n data

/-- The open block closes: lines not yet received are missing, and packets not received count. -/
def Dev.closeBlock (d : Dev) (c : BitVec 10) : Dev :=
  let x := d.ctx c
  match x.block with
  | none => d
  | some b =>
    let total := b.lines * x.lineBytes
    let pk := (total + x.pktpay.toNat - 1) / max x.pktpay.toNat 1
    let d1 := if b.bad then d else d.modCtx c (fun x => { x with pktlost := satAdd x.pktlost (pk - b.lastPid) })
    (d1.blockData c (total - b.pos) none).modCtx c (fun x => { x with block := none, lastBlock := some b.id })

/-- How many block IDs lie from one block to a later one: 0 when it is not later. Standard IDs wrap from 65,535 to 1 (PRESUMED). -/
def blockDist (last id : W64) : Nat :=
  if last.toNat < id.toNat then id.toNat - last.toNat
  else if last.toNat ≤ 65535 && 1 ≤ id.toNat && 65535 + id.toNat - last.toNat < 32768 then 65535 + id.toNat - last.toNat
  else 0

/-- A packet of a block has arrived: an earlier block closes, the blocks skipped are missing (R431), and the block opens. None
when the packet belongs to a block that is closed. Assumption 86 (DEDUCED): unsafe. -/
def Dev.toBlock (d : Dev) (c : BitVec 10) (id tstamp : W64) : Option Dev :=
  let x := d.ctx c
  let open_ (d : Dev) : Dev := d.modCtx c (fun y => { y with block := some { id := id, lines := y.blockLines, tstamp := tstamp } })
  match x.block with
  | some b =>
    if b.id == id then some d
    else
      let k := blockDist b.id id
      if k == 0 then none else some (open_ ((d.closeBlock c).missLines c ((k - 1) * x.blockLines)))
  | none =>
    match x.lastBlock with
    | none => some (open_ d)
    | some l =>
      let k := blockDist l id
      if k == 0 then none else some (open_ (d.missLines c ((k - 1) * x.blockLines)))

/-- The lines still missing of a member frame in progress are marked missing, the line in progress too (R72, Table 12-4). -/
def Dev.endMember (d : Dev) (c : BitVec 10) : Dev :=
  let x := d.ctx c
  let d1 := match x.block with
    | some b => if x.lineBytes != 0 && b.pos % x.lineBytes != 0 then d.modBlock c (fun b => { b with held := [], broken := true }) else d
    | none => d
  d1.missLines c (x.linesM1.toNat + 1 - x.line)

/-- A context that is bound anew, or whose network is released: its stream starts again at a member frame (R434). -/
def Context.restream (x : Context) (f : W32) : Context :=
  { x with block := none, lastBlock := none, memFrame := f, begun := false, line := 0, incompleteNow := false, dead := [] }

/-! ## The ingest buffer when credits come -/

/-- The ingest engine's words for a queue go on when the queue gives credit. -/
def Dev.ingestCredit (d : Dev) (q : QueueId) : Dev :=
  let n := (d.queue q).net
  (d.net n).groups.foldl (fun d e =>
    match e.2 with
    | none => d
    | some x =>
      match x.img.dests.findIdx? (fun y => y == q) with
      | none => d
      | some m => (d.recheck n (BitVec.ofNat 4 e.1)).ingestAll n (BitVec.ofNat 4 e.1) m) d

end Sys2Proof.Machine
end

