-- ==== Sys2Proof/Machine/Fire.lean ====
section
/-! DEFINITION. A cycle of a FIRE (R97, R100, R101): the reads of AG0 (R143, R145), the MAC array (R115 to R118), the
drain into pass 1 with its join operand (R120, R565), pass 2 (R126), the words written, and the routines of
admission stages (R425, R433) and output stages (R566, R567); and the run of RPT + 1 cycles with its waits. -/
namespace Sys2Proof.Machine

open Sys2Proof

/-- What a cycle comes to: held with its HOLDSRC bits, a fault, or fired. -/
inductive CycleRes where
  | held (src : BitVec 6)
  | fault (f : CFault) (ue : Option Nat)
  | fired (d : Dev)

/-! ## Ports -/

def Core.inPort (k : Core) (i : Nat) : Option PortIn := (k.ins[i]?).join
def Core.outPort (k : Core) (i : Nat) : Option PortOut := (k.outs[i]?).join
/-- The input ports that a mask enables, in ascending order. -/
def portsOf (m : BitVec 4) : List Nat := (List.range 4).filter (fun i => m.getLsbD i)
def outsOf (m : BitVec 2) : List Nat := (List.range 2).filter (fun i => m.getLsbD i)
/-- HOLDSRC bit of an input port, and of an output port (Table 3-13). -/
def holdIn (i : Nat) : BitVec 6 := 1#6 <<< i
def holdOut (i : Nat) : BitVec 6 := 16#6 <<< i

/-- Credits that an output port has at hand. -/
def Dev.creditsAt (d : Dev) (k : Core) (i : Nat) : Nat :=
  match k.outPort i with
  | none => 0
  | some p =>
    let pr := (d.queue p.q).prod p.port.toNat
    if pr.voidLeft == 0 then pr.credits + pr.scredits else 0

/-- HOLDSRC of the enabled outputs that lack credit for `n` words. -/
def Dev.lackCredit (d : Dev) (k : Core) (wren : BitVec 2) (n : Nat) : BitVec 6 :=
  (outsOf wren).foldl (fun h i => if d.creditsAt k i < n then h ||| holdOut i else h) 0#6

/-- A core that lacks credit has a word to write (R242). -/
def Dev.markWants (d : Dev) (k : Core) (h : BitVec 6) : Dev :=
  (List.range 2).foldl (fun d i =>
    if (h &&& holdOut i) == 0#6 then d
    else match k.outPort i with
      | none => d
      | some p => d.modQueue p.q (fun q => q.modProd p.port.toNat (fun x => { x with wants := true }))) d

/-- The frame in hand of a core, as its queues name it. -/
def Core.frameKey (k : Core) : W32 × Bool := (k.frame, k.flags.getLsbD 6)

/-- Write words to every enabled output (Table 3-4, WREN), with the frame's flags as they stand (R76). -/
def Dev.emit (d : Dev) (k : Core) (wren : BitVec 2) (ws : List QWord) : Dev :=
  (outsOf wren).foldl (fun d i =>
    match k.outPort i with
    | none => d
    | some p => (d.writeAll p.q p.port ws).modQueue p.q (fun q => q.tellFlags k.frameKey k.flags)) d

/-- The flags that the frame in hand has on the core's inputs so far (R76). Assumption 22 (DEDUCED): unsafe. -/
def Dev.flagsHeard (d : Dev) (k : Core) : Byte :=
  [0, 1, 2, 3].foldl (fun f i =>
    match k.inPort i with
    | none => f
    | some p => f ||| (d.queue p.q).heardFlags k.frameKey) 0#8

/-- The core joins the flags of its inputs to those of the frame in hand. -/
def Dev.hearFlags (d : Dev) (c : CoreId) : Dev :=
  let k := d.core c
  let f := d.flagsHeard k
  if !k.inFrame || k.flags ||| f == k.flags then d else d.modCore c (fun k => { k with flags := k.flags ||| f })

/-- Elements without repeats, in the order in which they first come. -/
def distinct (l : List Nat) : List Nat := l.foldl (fun acc a => if acc.contains a then acc else acc ++ [a]) []

/-! ## Loop-level conditions (FLEV and LLEV) -/

/-- The frames of a level and of every level nested inside it; none when the level is not active. -/
def nestOf (ls : List LoopFrame) (lev : Nat) : Option (List LoopFrame) :=
  if ls.any (fun f => f.level.toNat == lev) then some (ls.takeWhile (fun f => f.level.toNat != lev)
    ++ ls.filter (fun f => f.level.toNat == lev)) else none

/-- A loop-level field with bit [3] set names an active level. -/
def levelOk (ls : List LoopFrame) (f : BitVec 4) : Bool := !f.getLsbD 3 || (nestOf ls (f.toNat % 8)).isSome
def allFirst (ls : List LoopFrame) (f : BitVec 4) : Bool :=
  match nestOf ls (f.toNat % 8) with | some l => l.all (fun x => x.count == 0) | none => false
def allLast (ls : List LoopFrame) (f : BitVec 4) : Bool :=
  match nestOf ls (f.toNat % 8) with | some l => l.all (fun x => x.count == x.tripM1) | none => false

/-- The MAC mode in force in a run (FLEV). -/
def macMode (ls : List LoopFrame) (f : FireOp) : Nat :=
  if f.flev.getLsbD 3 && allFirst ls f.flev then
    (match f.mac.toNat with | 1 => 2 | 3 => 4 | m => m)
  else f.mac.toNat
/-- ABSWAP, EOR and EOF act in the run (LLEV). -/
def lastActs (ls : List LoopFrame) (f : FireOp) : Bool := !f.llev.getLsbD 3 || allLast ls f.llev

/-! ## Reads of a cycle -/

/-- A port at which the null tile stands in (R103). -/
def Core.isNull (k : Core) (p : Nat) : Bool := k.nullTile && p == k.nullPort
/-- A port whose words up to the next frame-start marker are given up: nothing is read from it before FRAME (R106, R231). -/
def Core.isLost (k : Core) (p : Nat) : Bool := k.lost.getLsbD p

/-- Word `a` of the null tile as a windowed read finds it: the zero point of its row when the tile is all zero-point codes,
else the local store's word. Assumption 24 (DEDUCED): unsafe. -/
def Core.nullRead (k : Core) (a : Nat) : QWord :=
  if k.nullZero then voidWord k.epoch false false else { payload := k.nullWord a, epoch := k.epoch }

/-- Read words of windows: (port, address) pairs in turn. The words, the HOLDSRC of those with V = 0, the device. -/
def Dev.readWins (d : Dev) (k : Core) : List (Nat × Nat) → List (Nat × QWord) × BitVec 6 × Dev
  | [] => ([], 0#6, d)
  | (p, a) :: t =>
    let (w, d1) := if k.isNull p then (some (k.nullRead a), d)
      else if k.isLost p then (some (voidWord k.epoch false false), d)
      else match k.inPort p with
      | none => (none, d)
      | some i => d.winRead i.q i.rcv (BitVec.ofNat 32 a)
    let (ws, h, d2) := d1.readWins k t
    match w with
    | some x => ((a, x) :: ws, h, d2)
    | none => (ws, h ||| holdIn p, d2)

/-- Spread word addresses over the enabled ports, two to a port (R93). -/
def spread (ports : List Nat) (addrs : List Nat) : List (Nat × Nat) :=
  (List.range addrs.length).map (fun j =>
    ((ports[j / 2]?).getD (ports.getLastD 0), addrs.getD j 0))

/-- The output row that the core computes: line and member (R67). -/
def Core.rowNow (k : Core) (rows : List (Nat × Nat)) : Nat × Nat := rows.getD k.rowCount (0, 0)

/-- A word that a core took from a queue in a data read: its port, its place in the frame and the word. -/
structure Taken where
  port : Nat
  at_ : Nat
  word : QWord
  deriving Repr

/-- What the reads of a tap gave: the lanes' words and headers by address, the words in order and the headers new to
the header slot; the words that came from a queue, and whether a null tile of zero-point codes stands in. -/
structure TapRead where
  words : List (Nat × QWord) := []
  fresh : List (Nat × QWord) := []
  taken : List Taken := []
  null : Bool := false
  deriving Repr

/-- The key under which a header is kept: its address generator and its address. -/
def headerKey (ag a : Nat) : Nat := ag * 4294967296 + a

/-- The words that came from the queues, of what (port, address) pairs gave. -/
def Core.takenOf (k : Core) (ps : List (Nat × Nat)) (ws : List (Nat × QWord)) : List Taken :=
  ((ps.zip ws).filter (fun e => !k.isNull e.1.1 && !k.isLost e.1.1)).map (fun e => ⟨e.1.1, e.2.1, e.2.2⟩)

/-- Read the words and headers of lane places through an address generator; a cycle that enables no port reads nothing (R97). -/
def Dev.readPlaces (d : Dev) (k : Core) (ag : Nat) (ports : List Nat) (pl : List (Option Place)) :
    TapRead × BitVec 6 × Dev :=
  match ports with
  | [] => ({}, 0#6, d)
  | port0 :: _ =>
    let ps := pl.filterMap id
    let hs := (distinct (ps.filterMap (fun p => p.header))).filter (fun a => !k.headers.any (fun e => e.1 == headerKey ag a))
    let hp := hs.map (fun a => (port0, a))
    let wp := spread ports (distinct (ps.map (fun p => p.word)))
    let (hw, hh, d1) := d.readWins k hp
    let (ww, wh, d2) := d1.readWins k wp
    ({ words := ww, fresh := hw, taken := k.takenOf hp hw ++ k.takenOf wp ww, null := k.nullZero && ports.any k.isNull }, hh ||| wh, d2)

/-- The header payload of a row, from the header slot's store. -/
def Core.headerAt (k : Core) (ag : Nat) (a : Option Nat) : Option W64 := a.map (fun x => tblGet 0#64 k.headers (headerKey ag x))

/-- Keep the headers just read; a void header is a row of zeros (R81). At most 64 are kept, of each address generator; the one
at the lowest address leaves. Assumption 143 (DESIGN CHOICE): unsafe. -/
def Core.keepHeaders (k : Core) (ag : Nat) (hw : List (Nat × QWord)) : Core :=
  { k with headers := hw.foldl (fun t e =>
      let t1 := tblPut (headerKey ag e.1) (if e.2.kind == .void then 0#64 else e.2.payload) t
      let mine := t1.filter (fun x => x.1 / 4294967296 == ag)
      if 64 < mine.length then (match mine with | x :: _ => tblDrop x.1 t1 | [] => t1) else t1) k.headers }

/-- A word that no data read may meet (R206): a marker. -/
def badWord (ws : List Taken) : Option Taken := ws.find? (fun e => e.word.kind == .marker)

/-- The core voids the rest of its frame and gives up the port's words up to the next frame-start marker; a framing error, which
a gap marker is not, is counted and voids the next frame too (R106, R206, R231). -/
def Core.voidRest (k : Core) (p : Nat) (w : QWord) : Core :=
  let k1 := { k with voiding := true, flags := k.flags ||| 2#8, lost := k.lost ||| (1#4 <<< p) }
  if w.isGap then k1 else { k1 with framErr := k1.framErr + 1, voidNext := true }

/-- The record output whose records an input port carries (R64). -/
def Dev.recordAt (d : Dev) (k : Core) (p : Nat) : Option RecordImg :=
  match k.inPort p, (d.net k.net).img with
  | some ip, some im => (im.edges.find? (fun e => e.q == ip.q)).bind (fun e => im.records.find? (fun r => r.stage == e.src && !r.rows))
  | _, _ => none

/-- A data word read sets VOID_PART when it is void (R81), but for the empty entries of a record, the words after its VALID
entries (R64). `width` is the record's width, none on other edges. Assumption 148 (DEDUCED): unsafe. -/
def Core.noteWord (k : Core) (width : Option Nat) (e : Taken) : Core :=
  match width with
  | none => if e.word.kind == .void then { k with flags := k.flags ||| 2#8 } else k
  | some w =>
    let v := if e.at_ == 1 && e.word.kind != .void then (e.word.payload.extractLsb' 0 16).toNat else tblGet 0 k.recValid e.port
    { k with recValid := tblSet 0 k.recValid e.port v,
             flags := if e.word.kind == .void && e.at_ < 2 + v * w then k.flags ||| 2#8 else k.flags }

/-- Note the words of a data read. -/
def Dev.noteWords (d : Dev) (c : CoreId) (ws : List Taken) : Dev :=
  ws.foldl (fun d e =>
    let width := (d.recordAt (d.core c) e.port).map (fun r => r.width)
    d.modCore c (fun k => k.noteWord width e)) d

/-- The value of a lane: its code expanded; a void word is real zero (R113). -/
def laneX19 (k : Core) (ag : Nat) (d : WinDesc) (ws : List (Nat × QWord)) (p : Option Place) : X19 :=
  match p with
  | none => 0#19
  | some p =>
    match ws.find? (fun e => e.1 == p.word) with
    | none => 0#19
    | some e => if e.2.kind == .void then 0#19
      else expandCode d.fmt (k.headerAt ag p.header) k.zp16 (codeAt e.2.payload p.bit (fmtBits d.fmt))

def laneJoin (k : Core) (d : WinDesc) (ws : List (Nat × QWord)) (p : Option Place) : W32 :=
  match p with
  | none => 0#32
  | some p =>
    match ws.find? (fun e => e.1 == p.word) with
    | none => 0#32
    | some e => if e.2.kind == .void then 0#32
      else joinCode d.fmt (k.headerAt 3 p.header) k.zp16 (codeAt e.2.payload p.bit (fmtBits d.fmt))

/-- Places of the 16 lanes of a read tap. -/
def lanePlaces (d : WinDesc) (mem r c g : Nat) : List (Option Place) :=
  (List.range 16).map (fun t => d.lanePlace mem r c g t)

/-! ## The MAC array (R115 to R118) -/

/-- Key of an accumulator value: bank, pixel slot, channel. -/
def accKey (bank : Bool) (slot o : Nat) : Nat := ((if bank then 64 else 0) + slot) * 16 + o

/-- One MAC cycle: the 16 sums of the mode, added to the slot or written to it. -/
def Core.macCycle (k : Core) (mode slot : Nat) (act : List X19) : Core :=
  if mode == 0 then k
  else
    let w := (k.buf k.active1).vals
    let sums : List W32 := (List.range 16).map (fun o =>
      if mode == 1 || mode == 2 then
        addTree ((List.range 16).map (fun i => mulX19 (act.getD i 0#19) (w.getD (o * 16 + i) 0#19)))
      else mulX19 (act.getD o 0#19) (w.getD o 0#19))
    let init := mode == 2 || mode == 4
    { k with
      acc := (List.range 16).foldl (fun t o =>
        let key := accKey k.bank1 slot o
        let s := sums.getD o 0#32
        tblSet 0#32 t key (if init then s else add32 (tblGet 0#32 t key) s)) k.acc,
      filledFrom := min k.filledFrom slot, filled := max k.filled (slot + 1) }

/-- The values that a stage without a MAC run hands over (join-only and regroup stages, Table 3-8, Table 4-4): the lanes that AG0
reads enter the slot as they are. Assumption 148 (DEDUCED): unsafe. -/
def Core.slotTake (k : Core) (slot : Nat) (act : List X19) : Core :=
  { k with
    acc := (List.range 16).foldl (fun t o => tblSet 0#32 t (accKey k.bank1 slot o) (to32 (ofX19 (act.getD o 0#19)))) k.acc,
    filledFrom := min k.filledFrom slot, filled := max k.filled (slot + 1) }

/-- A FIRE whose run fills its slots from AG0 and not from the array. Assumption 148 (DEDUCED): unsafe. -/
def Core.takesAg0 (k : Core) (f : FireOp) : Bool :=
  f.mac == 0#3 && (f.fin == 1#3 || f.fin == 2#3) && f.abswap == 1#1 && (k.joinsAt f.dsel.toNat || k.opk 0 f.dsel.toNat == 4)

/-! ## The finishing queue (R125) -/

/-- FP32 values two to a word. -/
def packPairs : List W32 → List W64
  | [] => []
  | [a] => [0#32 ++ a]
  | a :: b :: t => (b ++ a) :: packPairs t

/-- The finishing queue lacks credit for `n` values of pass 1. -/
def Dev.finqLack (d : Dev) (k : Core) (n : Nat) : Bool :=
  match k.finq with
  | none => false
  | some q => let p := (d.queue q).prod 0; decide (p.credits + p.scredits < (n + 1) / 2)

/-- Pass 1 writes values of its row; at the row's first value it sets a mark, unless an earlier row still waits there.
Assumption 27 (DESIGN CHOICE): unsafe. -/
def Dev.finqPut (d : Dev) (c : CoreId) (vs : List W32) : Dev :=
  let k := d.core c
  match k.finq, k.row1, packPairs vs with
  | some q, some r, w :: ws =>
    let p := (d.queue q).tail
    let d1 := d.writeAll q 0#10 ((w :: ws).map (fun x => { payload := x, epoch := k.epoch }))
    let d2 := if r.pos.isNone && ((d1.queue q).rcv 0#10).any (fun x => x.r == p) then d1.modQueue q (fun x => x.mark 0#10) else d1
    d2.modCore c (fun k => { k with row1 := k.row1.map (fun r =>
      { r with pos := some (r.pos.getD p), words := r.words + ws.length + 1 }) })
  | _, _, _ => d

/-- What pass 2 did to the finishing queue in a cycle, from the rows before and after it: it rewound to the mark and read the row
when it began to convert it, and released it after its last word, with the mark at the next row.
Assumption 27 (DESIGN CHOICE): unsafe. -/
def Dev.finqPass (d : Dev) (c : CoreId) (before : List Row2) : Dev :=
  let k := d.core c
  match k.finq, before with
  | some q, r :: _ =>
    match r.pos with
    | none => d
    | some p =>
      let e := p + BitVec.ofNat 32 r.words
      let ended := decide (k.row2.length < before.length)
      let begins := !r.begun && (ended || k.row2.head?.any (fun x => x.begun))
      let d1 := if begins then d.modQueue q (fun x => (x.rewind 0#10).modRcv 0#10 (fun y => { y with r := e })) else d
      if !ended then d1
      else
        let d2 := d1.putQueue q ((d1.queue q).release 0#10 e)
        if k.row2.any (fun x => x.pos.isSome) || k.row1.any (fun x => x.pos.isSome) then d2.modQueue q (fun x => x.mark 0#10) else d2
  | _, _ => d

/-! ## Pass 1 (R120, R121, R125) -/

/-- A value enters the row in pass 1. -/
def Core.row1Set (k : Core) (dsel key : Nat) (v : W32) : Core :=
  let r := k.row1.getD { vals := [], dsel := dsel }
  { k with row1 := some { r with vals := tblSet 0#32 r.vals key v } }

/-- Width of the rows that pass 1 sees: that of the window when pooling is fused. -/
def Core.rowWidth (k : Core) (dsel : Nat) : Nat :=
  if (k.finD dsel).pool != 0 && k.opk 0 dsel != 3 then (k.win 0 dsel).ow else (k.outD dsel).ow

/-- Ports of the join operand (R565). -/
def joinPorts (f : Fmt) : List Nat := match f with | .bf16 | .fp16 | .u16 => [3, 2] | _ => [3]

/-- The pixel and channel at which lane `o` of pixel place `x`, output group `g` enters its row; none beyond it. -/
def Core.laneOut (k : Core) (dsel x g o : Nat) : Option (Nat × Nat) :=
  let od := k.outD dsel
  if k.opk 0 dsel == 4 then flatValue od.ow od.co (16 * x + o)
  else if 16 * g + o < od.co && x < k.rowWidth dsel then some (x, 16 * g + o) else none

/-- The output group of the bank that drains, with its descriptor index. -/
def Core.drainAddrs (k : Core) : List Nat :=
  match k.drains with
  | [] => []
  | dr :: _ => k.biasAddrs dr.dsel (fieldCounter dr.loops (k.outD dr.dsel).lout)

/-- Does a finishing descriptor fuse pooling into its rows. -/
def Core.fusesPool (k : Core) (dsel : Nat) : Bool := (k.finD dsel).pool != 0 && k.opk 0 dsel != 3

/-- Drain one pixel slot of the bank in hand, when one drains: none when the cycle goes, what it holds on otherwise (no bit when
the finishing queue lacks credit), and the device after it. Assumption 21 (DEDUCED): unsafe. -/
def Dev.drainCycle (d : Dev) (c : CoreId) : Option (BitVec 6) × Dev :=
  let k := d.core c
  match k.drains with
  | [] => (none, d)
  | dr :: rest =>
    let f := k.finD dr.dsel
    let od := k.outD dr.dsel
    let x := fieldCounter dr.loops od.lpix * od.pbw + (dr.next - dr.first)
    let g := fieldCounter dr.loops od.lout
    let jd := k.win 3 dr.dsel
    let (y, mem) := k.rowNow (jd.rows (k.frames - 1))
    let joins := f.join == 1 || f.join == 2
    let tap : TapClass := if !joins then .zero else
      (let v : Int := (y * jd.sh : Nat) - (jd.pt : Int)
       let u : Int := (x * jd.sw : Nat) - (jd.pl : Int)
       if v < 0 || v > ((jd.ih - 1) * jd.zh : Nat) || u < 0 || u > ((jd.iw - 1) * jd.zw : Nat) then .pad
       else if v.toNat % jd.zh != 0 || u.toNat % jd.zw != 0 then .zero
       else .read (v.toNat / jd.zh) (u.toNat / jd.zw))
    let pl := match tap with | .read r cc => lanePlaces jd mem r cc g | _ => []
    let (tr, h, d1) := d.readPlaces k 3 (joinPorts jd.fmt) pl
    let lanes := (List.range 16).filterMap (fun o => (k.laneOut dr.dsel x g o).map (fun e => (o, e)))
    let spool := k.fusesPool dr.dsel
    if h != 0#6 || (!spool && d.finqLack k lanes.length) then (some h, d)
    else
      let d2 := (d1.modCore c (fun k =>
        let k0 := k.keepHeaders 3 tr.fresh
        match badWord tr.taken with | some w => k0.voidRest w.port w.word | none => k0)).noteWords c tr.taken
      let k2 := d2.core c
      let vals := lanes.map (fun e =>
        let j := match tap with
          | .read _ _ => laneJoin k2 jd tr.words (pl.getD e.1 none)
          | .pad => to32 (ofX19 jd.padX19)
          | .zero => 0#32
        (e.2.1 * od.co + e.2.2, k2.finishValue f e.2.2 j (tblGet 0#32 k2.acc (accKey dr.bank dr.next e.1))))
      let d3 := d2.modCore c (fun k =>
        { vals.foldl (fun k e => k.row1Set dr.dsel e.1 e.2) k with
          drains := if dr.next + 1 < dr.len then { dr with next := dr.next + 1 } :: rest else rest })
      (none, if spool then d3 else d3.finqPut c (vals.map (fun e => e.2)))

/-! ## Pooling from AG0 (FIN 3, R149) -/

/-- Where the lanes of a pooling FIRE enter the row. -/
def Core.poolLanes (k : Core) (f : FireOp) (run : Nat) : List (Nat × Nat × Nat) :=
  let dsel := f.dsel.toNat
  let od := k.outD dsel
  (List.range 16).filterMap (fun o => (k.laneOut dsel (fieldCounter k.loops od.lpix * od.pbw + run)
    (fieldCounter k.loops (k.win 0 dsel).lgrp) o).map (fun e => (o, e)))

/-- One tap of a pooling window for pixel slot `slot`; at the last tap the pooled values enter pass 1.
Assumption 141 (DESIGN CHOICE): unsafe. -/
def Core.poolTap (k : Core) (f : FireOp) (slot run : Nat) (isPad : Bool) (act : List X19) : Core :=
  let dsel := f.dsel.toNat
  let wd := k.win 0 dsel
  let fd := k.finD dsel
  let od := k.outD dsel
  let t := fieldCounter k.loops wd.ltap
  let avg := fd.pool == 2
  let skip := isPad && !avg && !wd.padsrc
  let k1 := { k with pacc := (List.range 16).foldl (fun m o =>
      let key := slot * 16 + o
      let old := if t == 0 then none else tblGet none m key
      let v := to32 (ofX19 (act.getD o 0#19))
      let new := if skip then old
        else match old with | none => some v | some a => some (if avg then add32 a v else max32 a v)
      tblSet none m key new) k.pacc }
  if t + 1 == wd.kh * wd.kw then
    (k.poolLanes f run).foldl (fun k e =>
      let a := (tblGet none k.pacc (slot * 16 + e.1)).getD 0#32
      let v := if avg then div32 a (nat32 (wd.kh * wd.kw)) else a
      k.row1Set dsel (e.2.1 * od.co + e.2.2) (k.finishValue fd e.2.2 0#32 v)) k1
  else k1

/-- The values that a tap of a pooling window completes, as they stand in the row in pass 1. -/
def Core.poolDone (k : Core) (f : FireOp) (run : Nat) : List W32 :=
  let dsel := f.dsel.toNat
  let wd := k.win 0 dsel
  if fieldCounter k.loops wd.ltap + 1 == wd.kh * wd.kw then
    (k.poolLanes f run).map (fun e => tblGet 0#32 ((k.row1.map (fun r => r.vals)).getD []) (e.2.1 * (k.outD dsel).co + e.2.2))
  else []

/-! ## Words written -/

/-- The words of a cycle as they go out: EOR and EOF in the last cycle, the epoch of the frame, void words while the
frame is voided. -/
def Core.dress (k : Core) (eor eof : Bool) (ws : List (Kind × W64)) : List QWord :=
  ws.map (fun e =>
    if k.voiding then voidWord k.epoch eor eof
    else { payload := e.2, kind := e.1, eor := eor, eof := eof, epoch := k.epoch })

/-- The words of pass 2 as they go out: those of a row that FRAME has overtaken belong to its own frame. -/
def Core.dressRow (k : Core) (r : Option Row2) (eor eof : Bool) (ws : List (Kind × W64)) : List QWord :=
  match r.bind (fun x => x.left) with
  | some (e, v) => Core.dress { k with epoch := e, voiding := v } eor eof ws
  | none => k.dress eor eof ws

/-- The words that pass 2 has for this cycle, with the core after converting the row when it begins (R126, R178).
Assumption 27 (DESIGN CHOICE): unsafe. -/
def Core.pass2Now (k : Core) (cal : Bool) : Core × List (Kind × W64) :=
  match k.row2 with
  | [] => (k, [])
  | r :: t =>
    if !r.fixed then (k, [])
    else
      let (k1, r1) := if r.begun then (k, r) else k.convert cal r
      ({ k1 with row2 := r1 :: t }, pass2Words (k.finD r.dsel).ofmt r1.out)

/-- Pass 2 has written `n` words; a row without words left is released (R125). -/
def Core.pass2Done (k : Core) (n : Nat) : Core :=
  match k.row2 with
  | [] => k
  | r :: t => if r.out.length ≤ n then { k with row2 := t } else { k with row2 := { r with out := r.out.drop n } :: t }

/-! ## One cycle of a compute stage -/

/-- The addresses that AG3's linear descriptor gives in a cycle of a FIRE that steps it (R140). -/
def Core.ag3Linear (k : Core) (f : FireOp) (run : Nat) : List Nat :=
  let ds := f.dsel.toNat
  if f.agstep.getLsbD 3 && k.opk 3 ds == 7 then
    (List.range (bits (k.descWord 3 ds 0) 14 3 + 1)).map (fun j => k.linear 3 ds k.loops run + j)
  else []
/-- Local-store words that AG3 asks in a cycle. -/
def Core.ag3Addrs (k : Core) (f : FireOp) (run : Nat) : List Nat :=
  if k.inWindow 3 f.dsel.toNat then [] else (k.ag3Linear f run).map (fun a => a % 8192)
/-- Words that AG3 asks in a cycle of the window of the port's queue (SPACE 1): that of the highest port enabled.
Assumption 148 (DEDUCED): unsafe. -/
def Core.ag3Reads (k : Core) (f : FireOp) (run : Nat) : List (Nat × Nat) :=
  if k.inWindow 3 f.dsel.toNat then
    match (portsOf f.rden).getLast? with
    | some p => (k.ag3Linear f run).map (fun a => (p, a))
    | none => []
  else []

/-- The words of a weight block that lies in a queue's window, once they are all there (SPACE 1): read through the highest port
that the FIRE enables. -/
def Dev.feedWeights (d : Dev) (c : CoreId) (f : FireOp) : Dev :=
  let k := d.core c
  match k.wload, (portsOf f.rden).getLast? with
  | some l, some p =>
    if !k.inWindow 1 l.dsel || !k.wwin.isEmpty || l.gone + 1 < l.cycles then d
    else
      let base := k.linear 1 l.dsel l.loops 0
      let (ws, h, d1) := d.readWins k ((List.range (blockWords k.wfmt l.depthwise)).map (fun i => (p, base + i)))
      if h != 0#6 then d
      else d1.modCore c (fun k => { k with wwin := ws.map (fun e => if e.2.kind == .void then 0#64 else e.2.payload) })
  | _, _ => d

/-- Local-store words of the null tile that a FIRE's cycle reads (R103, R128). -/
def Core.nullAddrs (k : Core) (seq : List Nat) (wins : List (Nat × Nat)) : List Nat :=
  if k.nullZero then []
  else ((seq.filter k.isNull).map (fun _ => (k.nullAddr + k.nullPos) % 8192)
    ++ (wins.filter (fun e => k.isNull e.1)).map (fun e => (k.nullAddr + e.2) % 8192)).eraseDups

/-- Words of a tile of the reference group that comes to a port. -/
def Dev.nullTileWords (d : Dev) (k : Core) (port : Nat) : Option Nat :=
  match k.inPort port with
  | none => none
  | some ip => d.route.groups.findSome? (fun e => match e.2 with
      | some g => if g.net == k.net && g.img.route.contains ip.q then some (64 * g.img.tsize) else none
      | none => none)

/-- `n` words of the null tile have been read in turn; a tile whose words are all read no longer stands in (R103).
Assumption 148 (DEDUCED): unsafe. -/
def Core.nullTook (k : Core) (tile : Option Nat) (n : Nat) : Core :=
  if n == 0 then k
  else if tile.any (fun t => decide (t ≤ k.nullPos + n)) then { k with nullTile := false, nullPos := 0 }
  else { k with nullPos := k.nullPos + n }

/-- Two words of one bank in one cycle (R128). -/
def bankClash (l : List Nat) : Bool :=
  let b := (distinct l).map (fun a => a % 8)
  (distinct b).length != b.length

/-- The candidate slot of a comparison stage (R352): the tag word ahead of each slot and the words of the policy. -/
def candWords (k : Core) (slotWords : Nat) (ws : List (Kind × W64)) : List (Kind × W64) × Nat :=
  let upol := (k.refTag.extractLsb' 58 2).toNat
  let tag : W64 := (k.refTag &&& 0xFCFFFFFFFFFFFFFF#64) ||| (if upol == 0 then 0x0100000000000000#64 else 0#64)
  ws.foldl (fun acc w =>
    let (out, n) := acc
    let pre := if n % max slotWords 1 == 0 then [(Kind.data, tag)] else []
    let v := match upol with
      | 1 => w.2
      | 2 => Config.blendWord (k.lsWord (n % max slotWords 1)) w.2
      | _ => 0#64
    (out ++ pre ++ [(Kind.data, v)], n + 1)) ([], k.candPos)

/-- The sequencer watchdog: one more unheld cycle would pass ROWMAX (R108). -/
def Core.rowOver (k : Core) : Bool := k.wdogEn && decide (k.rowmax < k.cycCount + 1)

/-- What ends a cycle that is not held: the watchdog, two words of one bank, or an uncorrectable word (R108, R128, R129). -/
def Core.cycleFault (k : Core) (banks reads : List Nat) : Option CycleRes :=
  if k.rowOver then some (.fault .rowCycle none)
  else if bankClash banks then some (.fault .bankConflict none)
  else (k.lsRead (banks ++ reads)).2.map (fun a => .fault .localStore (some a))

/-- One cycle of a FIRE on a stage that computes rows: what it holds on, then what ends it, then its effect (R100, R101).
Assumption 140 (DESIGN CHOICE): unsafe. -/
def Dev.computeCycle (dev : Dev) (c : CoreId) (f : FireOp) (i : Nat) : CycleRes :=
  let d := dev.feedWeights c f
  let k := d.core c
  let ds := f.dsel.toNat
  let ls := k.loops
  let slot := f.accbase.toNat + i
  let wd := k.win 0 ds
  let ag0 := f.agstep.getLsbD 0 && k.opk 0 ds ≤ 4
  let (y, mem) := k.rowNow (wd.rows (k.frames - 1))
  let tap : TapClass := if !ag0 then .zero else if wd.opk == 4 then .read y 0 else wd.tap ls y i
  let g := fieldCounter ls wd.lgrp
  let pl := match tap with
    | .read r cc => if wd.opk == 4 then wd.regroupPlaces mem y (fieldCounter ls wd.lpix * wd.pbw + i) else lanePlaces wd mem r cc g
    | _ => []
  let ports := portsOf f.rden
  let (tr, hin, d1) := d.readPlaces k 0 ports pl
  let seqPorts := if ag0 then [] else ports
  let looks := seqPorts.map (fun p =>
    if k.isNull p then (p, Look.word { payload := k.nullWord k.nullPos, epoch := k.epoch })
    else if k.isLost p then (p, Look.word (voidWord k.epoch false false))
    else match k.inPort p with | none => (p, Look.empty) | some ip => (p, d.peek ip.q ip.rcv))
  let hseq := looks.foldl (fun h e => match e.2 with
    | .word _ => h | .gap _ => h | _ => h ||| holdIn e.1) (0#6 : BitVec 6)
  let lin := k.ag3Reads f i
  let (lw, hlin, d1') := d1.readWins k lin
  if hin ||| hseq ||| hlin != 0#6 then .held (hin ||| hseq ||| hlin)
  else
    let real := seqPorts.filter (fun p => !k.isNull p && !k.isLost p)
    let d2 := real.foldl (fun d p => match k.inPort p with | none => d | some ip => d.seqRead ip.q ip.rcv) d1'
    let seqWords := looks.filterMap (fun e => match e.2 with | .word w => some (e.1, w) | .gap w => some (e.1, w) | _ => none)
    let taken := tr.taken ++ k.takenOf lin lw
      ++ (seqWords.filter (fun e => real.contains e.1)).map (fun e => (⟨e.1, tblGet 0 k.recPos e.1, e.2⟩ : Taken))
    let fin := f.fin.toNat
    let drains := fin == 1 || fin == 2
    let (hj, d3) := if drains then d2.drainCycle c else (none, d2)
    let pooled := if fin == 3 then k.poolLanes f i else []
    match hj with
    | some h => .held h
    | none =>
      if (fin == 3 && d.finqLack k pooled.length) then .held 0#6
      else
        let d4 := (d3.noteWords c taken).modCore c (fun k =>
          let k0 := { k.keepHeaders 0 tr.fresh with recPos := real.foldl (fun t p => tblMod 0 t p (fun n => n + 1)) k.recPos }
          let k1 := match badWord taken with | some w => k0.voidRest w.port w.word | none => k0
          let act := match tap with
            | .read _ _ => pl.map (laneX19 k1 0 wd tr.words)
            | .pad => List.replicate 16 wd.padX19
            | .zero => List.replicate 16 0#19
          let k2 := if k1.takesAg0 f then k1.slotTake slot act else k1.macCycle (macMode ls f) slot act
          if fin == 3 then k2.poolTap f slot i (tap == .pad) act else k2)
        let d4 := if fin == 3 then d4.finqPut c ((d4.core c).poolDone f i) else d4
        let k4 := d4.core c
        let (k5, p2) := if fin == 2 && f.wren != 0#2 then k4.pass2Now d.cal.en else (k4, [])
        let through : List (Kind × W64) := if fin == 4 then
            (tr.fresh.map (fun e => (e.2.kind, e.2.payload)))
              ++ (tr.words.map (fun e => (if tr.null then Kind.data else e.2.kind, e.2.payload)))
              ++ (seqWords.map (fun e => (e.2.kind, e.2.payload)))
          else []
        let cand := k.kind == .comparison && fin == 4 && f.wren == 2#2
        let tsz := 64 * max (((d.net k.net).img.map (fun n => (n.refs.map (fun r => r.tsize)).headD 1)).getD 1) 1
        let (thr, cpos) := if cand then candWords k5 tsz through else (through, k5.candPos)
        let out := p2 ++ thr
        let hc := d.lackCredit k f.wren out.length
        if hc != 0#6 && !out.isEmpty then .held hc
        else
          let banks := k.loadAddrs ++ k.ag3Addrs f i
            ++ k.nullAddrs seqPorts (spread ports (distinct ((pl.filterMap id).map (fun p => p.word))))
          let reads := k.loadParams ++ (if drains then k.drainAddrs else []) ++ (if fin == 3 && !(k.poolDone f i).isEmpty then k.biasAddrs ds g else [])
          match k.cycleFault banks reads with
          | some r => r
          | none =>
            let lastc := i == f.rpt.toNat && lastActs ls f
            let eor := lastc && f.eor == 1#1
            let eof := lastc && f.eof == 1#1
            let ws := k5.dressRow k5.row2.head? eor eof p2 ++ k5.dress eor eof thr
            let d5 := d4.modCore c (fun _ =>
              let k6 := ((k5.pass2Done p2.length).lsRead (banks ++ reads)).1
              { (k6.nullTook (d.nullTileWords k k.nullPort) (seqPorts.filter k.isNull).length).tick with
                cycCount := k.cycCount + 1, candPos := cpos })
            let d6 := if fin == 2 then d5.finqPass c k4.row2 else d5
            .fired (d6.emit (d6.core c) f.wren ws)

/-! ## Admission stages (R71, R425, R433) -/

/-- Wire bits of four pixels of a format (Table 12-2). Assumption 28 (PRESUMED): unsafe. -/
def fourBits (fmt : Nat) : Nat := match fmt with | 0 => 32 | 5 => 48 | 6 => 48 | 7 => 40 | 8 => 48 | _ => 64

/-- Four pixels from their wire bits, significant bits low (Table 12-2). The bit order of the packed formats is that
of the GenICam names (PRESUMED). -/
def unpack4 (fmt b : Nat) : List Nat :=
  let at_ (lo n : Nat) : Nat := b / 2 ^ lo % 2 ^ n
  match fmt with
  | 0 => [at_ 0 8, at_ 8 8, at_ 16 8, at_ 24 8]
  | 5 => [at_ 0 8 * 4 + at_ 8 2, at_ 16 8 * 4 + at_ 12 2, at_ 24 8 * 4 + at_ 32 2, at_ 40 8 * 4 + at_ 36 2]
  | 6 => [at_ 0 8 * 16 + at_ 8 4, at_ 16 8 * 16 + at_ 12 4, at_ 24 8 * 16 + at_ 32 4, at_ 40 8 * 16 + at_ 36 4]
  | 7 => [at_ 0 10, at_ 10 10, at_ 20 10, at_ 30 10]
  | 8 => [at_ 0 12, at_ 12 12, at_ 24 12, at_ 36 12]
  | 1 => [at_ 0 10, at_ 16 10, at_ 32 10, at_ 48 10]
  | 2 => [at_ 0 12, at_ 16 12, at_ 32 12, at_ 48 12]
  | 3 => [at_ 0 14, at_ 16 14, at_ 32 14, at_ 48 14]
  | _ => [at_ 0 16, at_ 16 16, at_ 32 16, at_ 48 16]

/-- The admission group whose member writes a queue. -/
def Dev.groupOfQueue (d : Dev) (n : NetId) (q : QueueId) : Option GroupImg :=
  match (d.net n).img with
  | none => none
  | some im => im.groups.find? (fun g => g.dests.contains q)

/-- One cycle of an admission stage: a packed word read when the pixels at hand do not fill a word, and a word of four
U16 pixels written when they do. -/
def Dev.admitCycle (d : Dev) (c : CoreId) (f : FireOp) (i : Nat) : CycleRes :=
  let k := d.core c
  match portsOf f.rden with
  | [] =>
    if k.rowOver then .fault .rowCycle none
    else .fired (d.modCore c (fun k => { k.loadCycle with cycCount := k.cycCount + 1 }))
  | p :: _ =>
    match k.inPort p with
    | none => .held (holdIn p)
    | some ip =>
      let g := d.groupOfQueue k.net ip.q
      let fmt := (g.map (fun g => g.pixfmt.toNat)).getD 4
      let zp := (g.map (fun g => g.zp)).getD 0#16
      let need := fourBits fmt
      let read := k.ulen < need && !k.isLost p
      let look := d.peek ip.q ip.rcv
      let got : Option QWord := if !read then none else (match look with | .word w => some w | .gap w => some w | _ => none)
      if read && got.isNone then .held (holdIn p)
      else
        let bad := match got with | some w => w.kind == .marker | none => false
        let lost := k.isLost p || bad
        let buf := match got with
          | some w => if bad then k.ubuf else k.ubuf + w.payload.toNat * 2 ^ k.ulen
          | none => k.ubuf
        let len := (if got.isSome && !bad then k.ulen + 64 else k.ulen)
        let isVoid := match got with | some w => w.kind == .void | none => k.uvoid
        let writes := lost || need ≤ len
        let px := if isVoid then List.replicate 4 zp.toNat else unpack4 fmt (buf % 2 ^ need)
        let word : W64 := BitVec.ofNat 64 (px.foldr (fun v acc => 65536 * acc + v) 0)
        let hc := if writes then d.lackCredit k f.wren 1 else 0#6
        if hc != 0#6 then .held hc
        else if k.rowOver then .fault .rowCycle none
        else
          let lastc := i == f.rpt.toNat && lastActs k.loops f
          let d1 := if got.any (fun w => !bad || w.isGap) then d.seqRead ip.q ip.rcv else d
          let d2 := d1.modCore c (fun k =>
            let k1 := { k with cycCount := k.cycCount + 1, uvoid := isVoid && !bad,
                               ubuf := if lost then 0 else if writes then buf / 2 ^ need else buf,
                               ulen := if lost then 0 else if writes then len - need else len,
                               flags := if isVoid && got.isSome then k.flags ||| 1#8 else k.flags }
            match got with | some w => if bad then k1.voidRest p w else k1 | none => k1)
          .fired (if writes then
              d2.emit (d2.core c) f.wren ((d2.core c).dress (lastc && f.eor == 1#1) (lastc && f.eof == 1#1) [(.data, word)])
            else d2)

/-! ## Output stages (R62 to R66, R439, R566, R567) -/

/-- The record output of a stage. -/
def Dev.recordOf (d : Dev) (k : Core) : Option RecordImg :=
  match (d.net k.net).img with
  | none => none
  | some im => im.records.find? (fun r => r.stage == k.stage)

/-- The two header words of a record (Table 2-2). -/
def recordHeader (r : RecordImg) (k : Core) (valid dropped : Nat) : List QWord :=
  let w0 : W64 := (if r.rows then 0xFF#8 else r.rtype) ++ k.flags ++ 0#6 ++ k.ctx ++ k.frame
  let w1 : W64 := if r.rows then 0#64
    else BitVec.ofNat 16 dropped ++ 0#12 ++ BitVec.ofNat 4 (r.width - 1) ++ BitVec.ofNat 16 r.cap ++ BitVec.ofNat 16 valid
  [{ payload := w0, kind := .header, epoch := k.epoch }, { payload := w1, kind := .header, epoch := k.epoch }]

/-- The words of a finished record: headers, entries, void entries; end of row and frame on the last word. -/
def recordWords (r : RecordImg) (k : Core) : List QWord :=
  let b := k.recb
  let pad := if r.rows then [] else List.replicate ((r.cap - b.valid) * r.width) (voidWord k.epoch false false)
  let ws := recordHeader r k b.valid b.dropped ++ b.entries ++ pad
  match ws.reverse with
  | [] => []
  | w :: t => (({ w with eor := true, eof := true } : QWord) :: t).reverse

/-- A word of the input edge enters the record (R566). -/
def Core.recordTake (k : Core) (r : RecordImg) (w : QWord) : Core :=
  let w0 : QWord := { w with eor := false, eof := false, epoch := k.epoch }
  if r.rows then { k with recb := { k.recb with entries := k.recb.entries ++ [w0] } }
  else
    let b := k.recb
    let e := b.entry ++ [w0]
    if e.length < r.width then { k with recb := { b with entry := e } }
    else
      let first := e.headD w0
      let produced := first.kind != .void && first.payload.getLsbD r.pbit
      let b1 := { b with entry := [], seen := b.seen + 1 }
      if !produced then { k with recb := b1 }
      else if b.valid < r.cap then { k with recb := { b1 with valid := b.valid + 1, entries := b.entries ++ e } }
      else { k with recb := { b1 with dropped := min 65535 (b.dropped + 1) }, flags := k.flags ||| 32#8 }

/-- The context of member 0 of the network's groups that an incomplete drop names. -/
def Dev.memberZero (d : Dev) (n : NetId) : Option (BitVec 10) :=
  (d.ing.ctxs.find? (fun e => e.2.en && e.2.net == n && e.2.member == 0#4)).map (fun e => BitVec.ofNat 10 e.1)

/-- The frame's last word has come: the record is finished, or the incomplete frame is dropped (R439). A maquette
frame's results go to the checker and never to the record stream (R79). -/
def Dev.recordEnd (d : Dev) (c : CoreId) (r : RecordImg) : Dev :=
  let k := d.core c
  let host := match d.lowestPart k.net with | some p => d.hostMode p 8 | none => false
  let end_ (out : List (Option QWord)) : Dev := d.modCore c (fun k => { k with inFrame := false, recb := { out := out } })
  if k.flags.getLsbD 6 then end_ k.recb.out
  else if host && k.flags.getLsbD 0 then
    match d.memberZero k.net with
    | some x => ((end_ k.recb.out).modCtx x (fun t => { t with dropinc := satInc t.dropinc })).raise 0x8001#16
        (partOfCore c) [arg32 x, k.frame]
    | none => (end_ k.recb.out).raise 0x8001#16 (partOfCore c) [arg32 k.ctx, k.frame]
  else end_ (k.recb.out ++ (recordWords r k).map some)

/-- The rest of an output stage's frame is voided (R81, R566): the candidates still to come count as absent, the words of a row
record still to come are void words, and the record carries VOID_PART. -/
def Dev.recordVoid (d : Dev) (c : CoreId) (r : RecordImg) : Dev :=
  let k := d.core c
  let e := ((k.inPort 0).bind (fun p => (d.net k.net).img.bind (fun im => im.edges.find? (fun e => e.q == p.q))))
  let words := match e with | some e => e.prodRows * e.prodWords | none => 0
  let gone := List.replicate (if r.rows then words - k.recb.entries.length else 0) (voidWord k.epoch false false)
  (d.modCore c (fun k => { k with flags := k.flags ||| 2#8, recb := { k.recb with entries := k.recb.entries ++ gone, entry := [] } })).recordEnd c r

/-- Records whose turn has come to be closed bad on the core's outputs: those ahead of which nothing is left to write. -/
def Dev.closeRefused (d : Dev) (c : CoreId) : Dev :=
  let k := d.core c
  let n := (k.recb.out.takeWhile (fun w => w.isNone)).length
  if n == 0 then d
  else [0, 1].foldl (fun d i => match k.outPort i with
    | none => d
    | some o => (List.range n).foldl (fun d _ => d.putQueue o.q ((d.queue o.q).refuseRecord o.port.toNat k.epoch)) d)
    (d.modCore c (fun k => { k with recb := { k.recb with out := k.recb.out.drop n } }))

/-- The record that an output stage is building is closed as a bad packet on its outputs, after the words of a finished record
that it has not yet written (R567); port `p` goes on at the marker. Assumption 23 (DEDUCED): unsafe. -/
def Dev.recordBad (d : Dev) (c : CoreId) (p : Nat) : Dev :=
  (d.modCore c (fun k => { k with framErr := k.framErr + 1, voiding := true, inFrame := false, lost := k.lost ||| (1#4 <<< p),
                                  recb := { out := k.recb.out ++ [none] } })).closeRefused c

/-- A FRAME of an output stage meets a record that is still open: a voided frame's is ended, another's is closed bad. -/
def Dev.recordOpen (d : Dev) (c : CoreId) : Dev :=
  let k := d.core c
  match d.recordOf k with
  | none => d
  | some r => if !k.inFrame || k.kind != .output then d else if k.voiding then d.recordVoid c r else d.recordBad c 0

/-- One cycle of an output stage: a word of a finished record written when an output is enabled, and a word of the
input edge read when an input is enabled. -/
def Dev.outputCycle (d : Dev) (c : CoreId) (f : FireOp) : CycleRes :=
  let k := d.core c
  match d.recordOf k with
  | none => if k.rowOver then .fault .rowCycle none else .fired (d.modCore c (fun k => { k with cycCount := k.cycCount + 1 }))
  | some r =>
    let port := (portsOf f.rden).headD 0
    let lost := k.isLost port
    let d := if lost && k.inFrame then d.recordVoid c r else d
    let k := d.core c
    let wr := if f.wren != 0#2 then (k.recb.out.take 1).filterMap id else []
    let hc := if wr.isEmpty then 0#6 else d.lackCredit k f.wren 1
    let rd := if lost || !k.inFrame then none else (portsOf f.rden).head?.bind k.inPort
    let look := match rd with | some ip => d.peek ip.q ip.rcv | none => .empty
    let hin : BitVec 6 := match rd with
      | none => 0#6
      | some _ => match look with | .word _ => 0#6 | .gap _ => 0#6 | _ => holdIn port
    if hc ||| hin != 0#6 then .held (hc ||| hin)
    else if k.rowOver then .fault .rowCycle none
    else
      let d1 := ((d.emit k f.wren wr).modCore c (fun k =>
        { k with recb := { k.recb with out := k.recb.out.drop wr.length }, cycCount := k.cycCount + 1 })).closeRefused c
      match rd, look with
      | some ip, .word w =>
        if w.isStart then .fired (d1.recordBad c port)
        else if w.kind == .marker then .fired (d1.modCore c (fun k => k.voidRest port w))
        else
          let d2 := ((d1.seqRead ip.q ip.rcv).noteWords c [⟨port, tblGet 0 k.recPos port, w⟩]).modCore c (fun k =>
            ({ k with recPos := tblMod 0 k.recPos port (fun n => n + 1) } : Core).recordTake r
              (if k.voiding then { w with kind := .void, payload := 0#64 } else w))
          .fired (if w.eof then d2.recordEnd c r else d2)
      | some ip, .gap w => .fired ((d1.seqRead ip.q ip.rcv).modCore c (fun k => k.voidRest port w))
      | _, _ => .fired d1

/-- One cycle of a FIRE by the kind of the core's stage (Table 2-1, R568). -/
def Dev.fireCycle (d : Dev) (c : CoreId) (f : FireOp) (i : Nat) : CycleRes :=
  let d1 := d.hearFlags c
  match (d1.core c).kind with
  | .admission => d1.admitCycle c f i
  | .output => d1.outputCycle c f
  | _ => d1.computeCycle c f i

/-! ## The run -/

/-- A sequencer fault or an uncorrectable error: the core stops, with its cause (R109). -/
def Dev.faultCore (d : Dev) (c : CoreId) (f : CFault) (ue : Option Nat) : Dev :=
  let d1 := d.modCore c (fun k => { k with state := .faulted, fault := f, wait := .none,
                                           lsUe := match ue with | some a => some (BitVec.ofNat 13 a) | none => k.lsUe })
  if (d.core c).state == .waitd then d1.censusBack (partOfCore c) else d1

/-- The core is held by its enabled reads and writes. -/
def Dev.holdCore (d : Dev) (c : CoreId) (src : BitVec 6) : Dev :=
  (d.markWants (d.core c) src).modCore c (fun k => { k with state := .held, holdsrc := src })

/-- The schedule address after another: the entry after the last instruction of the stage program (R156).
Assumption 148 (DEDUCED): unsafe. -/
def nextAddr (plen : Nat) (pc : BitVec 11) : BitVec 11 :=
  if 0x100 ≤ pc.toNat && pc.toNat + 1 == 0x100 + plen then 0x100#11 else pc + 1#11

/-- The end of a FIRE's run: WSWAP, ABSWAP, the next instruction (R119, R120). -/
def Core.fireEnd (k : Core) (f : FireOp) : Core :=
  if f.wswap == 1#1 && k.wload.isSome then { k with wait := .wswap, state := .running, holdsrc := 0#6 }
  else
    let k1 := if f.wswap == 1#1 then
        { k with active1 := !k.active1,
                 wload := some { toActive := false, cycles := loadCycles k.wfmt (2 < f.mac.toNat), gone := 0,
                                 loops := advance (advance k.loops), dsel := f.dsel.toNat, depthwise := 2 < f.mac.toNat } }
      else k
    let k2 := if f.abswap == 1#1 && lastActs k.loops f then
        let full : List Drain := if k1.filled == 0 then []
          else [{ bank := k1.bank1, first := k1.filledFrom, next := k1.filledFrom, len := k1.filled, loops := k1.loops, dsel := f.dsel.toNat }]
        { k1 with drains := k1.drains ++ full, bank1 := !k1.bank1, filledFrom := 64, filled := 0 }
      else k1
    { k2 with pc := nextAddr k2.plen k2.pc, at_ := 0, zrun := 0, wait := .none, state := .running, holdsrc := 0#6 }

/-- Fire the cycles of a run until it is done, held or faulted. Assumption 8 (DESIGN CHOICE): unsafe. -/
def Dev.fireRun (d : Dev) (c : CoreId) (f : FireOp) : Nat → Dev
  | 0 => d.modCore c (fun k => k.fireEnd f)
  | n + 1 =>
    match d.fireCycle c f (d.core c).at_ with
    | .held src => d.holdCore c src
    | .fault x ue => d.faultCore c x ue
    | .fired d1 => (d1.modCore c (fun k => { k with at_ := k.at_ + 1 })).fireRun c f n

/-- What a FIRE waits for at its start (R119, R120, R126, R178). -/
def Core.fireWait (k : Core) (f : FireOp) : Wait :=
  let mac := f.mac != 0#3
  let fin := f.fin == 1#3 || f.fin == 2#3
  if mac && !(k.buf k.active1).loaded then .weights
  else if mac && k.drains.any (fun x => x.bank == k.bank1) then .drain
  else if fin && k.row1.isNone && !k.drains.isEmpty && 2 ≤ k.row2.length then .pass2
  else if f.fin == 2#3 && (match k.row2 with | r :: _ => !r.fixed | [] => false) then .scale
  else .none

/-- The load of the active buffer that a FIRE waits for after a LOAD (R119). -/
def Core.startLoad (k : Core) (f : FireOp) : Core :=
  { k with wload := some { toActive := true, cycles := loadCycles k.wfmt (2 < f.mac.toNat), gone := 0, loops := k.loops,
                           dsel := f.dsel.toNat, depthwise := 2 < f.mac.toNat } }

/-- Execute a FIRE from where it stands: a nesting fault, a wait at its start, or its cycles. -/
def Dev.fireFrom (d : Dev) (c : CoreId) (f : FireOp) : Dev :=
  let k := d.core c
  if !levelOk k.loops f.flev || !levelOk k.loops f.llev then d.faultCore c .nesting none
  else
    let w := if k.at_ == 0 then k.fireWait f else .none
    match w with
    | .none =>
      (d.modCore c (fun k => { k with wait := .none, state := .running, holdsrc := 0#6, zrun := 0, dselRow := f.dsel.toNat })).fireRun
        c f (f.rpt.toNat + 1 - k.at_)
    | .weights => d.modCore c (fun k => { k.startLoad f with wait := .weights, state := .running })
    | x => d.modCore c (fun k => { k with wait := x, state := .running })

end Sys2Proof.Machine
end

