-- ==== Sys2Proof/Machine/Sequencer.lean ====
section
/-! DEFINITION. The sequencer (chapter 03): entry into the stage program, the schedule instructions, held and waiting
cycles, WAITD and the null tile, frame start and row close, and the commands of the core family. -/
namespace Sys2Proof.Machine

open Sys2Proof

/-! ## Entry into the program (R67, R119, R132, R246) -/

/-- The first FIRE with a MAC mode other than idle on the path from an address, with the loops active there. -/
def firstMac (sched : Tbl W64) (plen : Nat) : Nat → BitVec 11 → List LoopFrame → List (BitVec 11) → Option (FireOp × List LoopFrame)
  | 0, _, _, _ => none
  | n + 1, pc, ls, cs =>
    let next := nextAddr plen pc
    match decodeSeq (tblGet 0#64 sched pc.toNat) with
    | some (.fire f) => if f.mac != 0#3 then some (f, ls) else firstMac sched plen n next ls cs
    | some (.loop t l _) => firstMac sched plen n next (⟨l, t.toNat, 0⟩ :: ls) cs
    | some (.endl _ _) => firstMac sched plen n next ls.tail cs
    | some (.call t) => firstMac sched plen n t ls (next :: cs)
    | some .ret => (match cs with | c :: t => firstMac sched plen n c ls t | [] => none)
    | some .halt => none
    | some (.load _ _ _) => none
    | some _ => firstMac sched plen n next ls cs
    | none => none

/-- Load both weight buffers for the first two runs from an address; this takes no schedule cycle (R119). A block that the local
store cannot give is a local-store fault (R129). -/
def Core.preload (k : Core) : Core :=
  let k0 := { k with buf0 := {}, buf1 := {}, active1 := false, wload := none }
  match firstMac k.sched k.plen 2048 k.pc k.loops k.calls with
  | none => k0
  | some (f, ls) =>
    let l : WLoad := { toActive := true, cycles := 0, gone := 0, loops := ls, dsel := f.dsel.toNat, depthwise := 2 < f.mac.toNat }
    let l2 := { l with loops := advance ls }
    if k.inWindow 1 l.dsel then k0
    else
      let (k1, ue) := k0.lsRead (k.blockAddrs l ++ k.paramAddrs l ++ k.blockAddrs l2 ++ k.paramAddrs l2)
      match ue with
      | some a => { k1 with state := .faulted, fault := .localStore, lsUe := some (BitVec.ofNat 13 a) }
      | none => { k1 with buf0 := ⟨true, k0.weights l⟩, buf1 := ⟨true, k0.weights l2⟩ }

/-- The core at its stage program's entry, empty, waiting for a frame-start marker. -/
def Core.restart (k : Core) : Core :=
  Core.preload { k with
    state := .running, holdsrc := 0#6, pc := 0x100#11, loops := [], calls := [], zrun := 0, at_ := 0, wait := .none,
    rowCount := 0, cycCount := 0, waitd := none, gated := false, acc := [], bank1 := false, filledFrom := 64, filled := 0, drains := [],
    row1 := none, pool := [], pacc := [], row2 := [], nullTile := false, nullPos := 0, lost := 0#4, recPos := [], recValid := [],
    wwin := [], loadFrom := none, refSkip := 0, headers := [],
    inFrame := false, voiding := false, voidNext := false, frames := 0, frameLog := [], dselRow := 0, ubuf := 0, ulen := 0, uvoid := false,
    recb := {}, refs := [], candPos := 0 }

/-! ## The instruction in hand -/

/-- The partition's schedules run: it is live and not frozen (R136, R247), and the core's cluster is not in reset. -/
def Dev.runs (d : Dev) (c : CoreId) : Bool :=
  (d.part (partOfCore c)).live && !(d.part (partOfCore c)).frozen && !(d.cluster (clusterOfCore c)).inReset

/-- The instruction that a core has reached: none unless it runs and nothing is in progress.
Assumption 2 (DESIGN CHOICE): safe. -/
def Dev.reached (d : Dev) (c : CoreId) : Option SeqInstr :=
  let k := d.core c
  if d.runs c && k.state == .running && k.wait == .none && k.at_ == 0 && k.loadFrom.isNone then
    decodeSeq (tblGet 0#64 k.sched k.pc.toNat)
  else none

/-- The instruction of a core that stands in it, held. -/
def Dev.heldAt (d : Dev) (c : CoreId) : Option SeqInstr :=
  let k := d.core c
  if d.runs c && k.state == .held && !k.gated then decodeSeq (tblGet 0#64 k.sched k.pc.toNat) else none

/-- Upsets strike local-store words: one bit wrong, or two. Assumption 3 (DESIGN CHOICE): safe. -/
def Core.strike (k : Core) (us : List Upset) : Core :=
  { k with lsErr := us.foldl (fun t u => tblSet 0 t u.addr.toNat (if u.double then 2 else 1)) k.lsErr }

/-- Go on to the next instruction. -/
def Core.nextPc (k : Core) : Core := { k with pc := nextAddr k.plen k.pc }

/-- A zero-cycle instruction: the 17th in a row is a fault (R562). -/
def Dev.zeroCycle (d : Dev) (c : CoreId) (f : Core → Core) : Dev :=
  if 16 ≤ (d.core c).zrun then d.faultCore c .zeroRun none
  else d.modCore c (fun k => f { k with zrun := k.zrun + 1 })

/-- An instruction that took cycles is done. -/
def Core.done (k : Core) : Core :=
  { k.nextPc with at_ := 0, zrun := 0, wait := .none, state := .running, holdsrc := 0#6, loadFrom := none }

/-- An unheld cycle in which the array and the ports do nothing: the weight unit reads the local store and goes on. -/
def Core.quietCycle (k : Core) : Core × Option Nat :=
  let (k1, ue) := k.lsRead (k.loadAddrs ++ k.loadParams)
  ({ k1.tick with cycCount := k.cycCount + 1 }, ue)

/-- `n` quiet cycles, or the fault that ends them: an uncorrectable word, or more cycles than ROWMAX (R108). -/
def Dev.quiet (d : Dev) (c : CoreId) : Nat → Dev
  | 0 => d
  | n + 1 =>
    if (d.core c).rowOver then d.faultCore c .rowCycle none
    else match (d.core c).quietCycle with
    | (_, some a) => d.faultCore c .localStore (some a)
    | (k, none) => (d.modCore c (fun _ => k)).quiet c n

/-! ## Loops and calls (R99) -/

/-- LOOP. -/
def Dev.doLoop (d : Dev) (c : CoreId) (trip : BitVec 12) (l : BitVec 3) : Dev :=
  if (d.core c).loops.any (fun f => f.level == l) then d.faultCore c .nesting none
  else d.zeroCycle c (fun k => { k.nextPc with loops := ⟨l, trip.toNat, 0⟩ :: k.loops })

/-- ENDL. -/
def Dev.doEndl (d : Dev) (c : CoreId) (l : BitVec 3) (start : BitVec 11) : Dev :=
  match (d.core c).loops with
  | [] => d.faultCore c .nesting none
  | f :: t =>
    if f.level != l then d.faultCore c .nesting none
    else if f.count < f.tripM1 then
      d.zeroCycle c (fun k => { k with pc := start, loops := { f with count := f.count + 1 } :: t })
    else d.zeroCycle c (fun k => { k.nextPc with loops := t })

/-- CALL. -/
def Dev.doCall (d : Dev) (c : CoreId) (t : BitVec 11) : Dev :=
  if 2 ≤ (d.core c).calls.length || 0xFF < t.toNat then d.faultCore c .nesting none
  else d.zeroCycle c (fun k => { k with pc := t, calls := (nextAddr k.plen k.pc) :: k.calls })

/-- RET. -/
def Dev.doRet (d : Dev) (c : CoreId) : Dev :=
  match (d.core c).calls with
  | [] => d.faultCore c .nesting none
  | r :: t => d.zeroCycle c (fun k => { k with pc := r, calls := t })

/-! ## The null tile and reference tiles (R103, R104, R346, R347) -/

/-- The reference group whose tiles come to an input port of a comparison core. -/
def Dev.refGroupAt (d : Dev) (k : Core) (port : Nat) : Option RefGroup :=
  if k.kind != .comparison then none
  else match k.inPort port with
    | none => none
    | some ip => d.route.groups.findSome? (fun e => match e.2 with
        | some g => if g.net == k.net && g.img.route.contains ip.q then some g else none
        | none => none)

/-- A frame number is earlier than another, modulo 2^32. -/
def frameEarlier (a b : W32) : Bool := earlier a b

/-- Release the words of a served tile that have come. -/
def Dev.skipWords (d : Dev) (c : CoreId) (ip : PortIn) : Nat → Dev
  | 0 => d
  | n + 1 =>
    if (d.core c).refSkip == 0 then d
    else match d.peek ip.q ip.rcv with
      | .word _ => ((d.seqRead ip.q ip.rcv).modCore c (fun k => { k with refSkip := k.refSkip - 1 })).skipWords c ip n
      | _ => d

/-- Release unused every tile of an earlier frame at the front of a reference port, as far as its words have come.
Assumption 25 (DESIGN CHOICE): safe. -/
def Dev.skipServed (d : Dev) (c : CoreId) (ip : PortIn) (tile : Nat) : Nat → Dev
  | 0 => d
  | n + 1 =>
    let d1 := d.skipWords c ip (d.core c).refSkip
    if (d1.core c).refSkip != 0 then d1
    else match d1.peek ip.q ip.rcv with
      | .word w =>
        if w.kind == .data && frameEarlier (w.payload.extractLsb' 0 32) (d1.core c).frame then
          ((d1.seqRead ip.q ip.rcv).modCore c (fun k => { k with refSkip := tile })).skipServed c ip tile n
        else d1
      | _ => d1

/-- Prepare a reference port for the tile in hand. -/
def Dev.prepRef (d : Dev) (c : CoreId) (port : Nat) : Dev :=
  match d.refGroupAt (d.core c) port, (d.core c).inPort port with
  | some g, some ip =>
    if (d.core c).flags.getLsbD 6 then d
    else d.skipServed c ip (64 * g.img.tsize) ((d.queue ip.q).total + 1)
  | _, _ => d

/-- WAITD finds its port valid. On a maquette frame nothing is read from a reference port and nothing is waited for. -/
def Dev.waitdValid (d : Dev) (c : CoreId) (port : Nat) : Bool :=
  let k := d.core c
  (k.flags.getLsbD 6 && (d.refGroupAt k port).isSome) ||
    (k.refSkip == 0 && (match k.inPort port with
      | none => false
      | some ip => match d.peek ip.q ip.rcv with | .word _ => true | .gap _ => true | _ => false))

/-- A null tile stands in: REF_NULL on every output of the frame, one null substitution counted. -/
def Core.nullSub (k : Core) : Core :=
  { k.nextPc with state := .running, waitd := none, zrun := 0, gated := false, nullTile := true, nullPos := 0, flags := k.flags ||| 8#8, nullSubs := k.nullSubs + 1 }

/-- WAITD proceeds in the cycle in which it is reached: its port is valid, or its deadline is 0 (R103, R104). -/
def Dev.waitdNow (d : Dev) (c : CoreId) (port : Nat) (dl : BitVec 20) : Bool := d.waitdValid c port || dl == 0#20

/-- WAITD reached. -/
def Dev.doWaitd (d : Dev) (c : CoreId) (port : BitVec 2) (dl : BitVec 20) (nz : BitVec 1) (na : BitVec 13) : Dev :=
  let d1 := (d.modCore c (fun k => { k with nullZero := nz == 1#1, nullAddr := na.toNat, nullPort := port.toNat, nullTile := false })).prepRef
    c port.toNat
  if d1.waitdValid c port.toNat then d1.zeroCycle c Core.nextPc
  else if dl == 0#20 then d1.zeroCycle c (fun k => { k.nullSub with zrun := k.zrun })
  else d1.modCore c (fun k => { k with state := .waitd, waitd := some dl })

/-- The port in a WAITD, and its deadline. -/
def Dev.inWaitd (d : Dev) (c : CoreId) : Option (Nat × BitVec 20) :=
  let k := d.core c
  if d.runs c && k.state == .waitd then k.waitd.map (fun dl => (k.nullPort, dl)) else none

/-! ## LOAD (R130, R131) -/

/-- How the LOAD begins at its port: the device with the source of its words, or held. -/
def Dev.loadBegin (d : Dev) (c : CoreId) (port : Nat) : Dev × Bool :=
  let set (d : Dev) (f : Core → Core) (m : LoadFrom) : Dev × Bool :=
    (d.modCore c (fun k => { f k with loadFrom := some m }), true)
  let k := d.core c
  match d.refGroupAt k port, k.inPort port with
  | some _, some ip =>
    if k.flags.getLsbD 6 then set d id .null
    else if k.isNull port then set d id .null
    else
      let d1 := d.prepRef c port
      if (d1.core c).refSkip != 0 then (d1, false)
      else match d1.peek ip.q ip.rcv with
        | .word w =>
          if w.kind == .marker || w.kind == .header then
            set d1 (fun k => k.voidRest port w) .port
          else if w.kind == .void then
            set (d1.seqRead ip.q ip.rcv) (fun k => { k with flags := k.flags ||| 2#8 }) .nullOver
          else if w.payload.extractLsb' 0 32 != (d1.core c).frame then
            set d1 (fun k => { k with flags := k.flags ||| 8#8, nullSubs := k.nullSubs + 1 }) .null
          else
            let st := w.payload.extractLsb' 56 2
            set (d1.seqRead ip.q ip.rcv)
              (fun k => { k with refTag := w.payload, refStat := st, candPos := 0,
                                 refs := k.refs ++ [⟨k.frame, w.payload.extractLsb' 60 4⟩] })
              (if st == 0#2 then .port else .nullOver)
        | .gap w => set (d1.seqRead ip.q ip.rcv) (fun k => k.voidRest port w) .port
        | _ => (d1, false)
  | _, _ =>
    if k.isNull port then set d id .null else set d id .port

/-- Put a word of a LOAD at its local-store address; a whole word written is no longer in error. -/
def Core.loadPut (k : Core) (addr : Nat) (v : W64) : Core :=
  { k with ls := tblSet 0#64 k.ls (addr % 8192) v, lsErr := tblSet 0 k.lsErr (addr % 8192) 0,
           lsFix := k.lsFix.erase (BitVec.ofNat 13 addr), at_ := k.at_ + 1 }

/-- Up to `n` words of a LOAD in one cycle; none when a word is not valid. A void word is payload 0; a marker or a header is a
framing error, after which the rest of the LOAD is payload 0 (R131, R106, R206). -/
def Dev.loadWords (d : Dev) (c : CoreId) (port addr : Nat) : Nat → Option Dev
  | 0 => some d
  | n + 1 =>
    let k := d.core c
    let i := k.at_
    match k.loadFrom with
    | some .null => (d.modCore c (fun k => k.loadPut (addr + i) (k.nullWord i))).loadWords c port addr n
    | m =>
      if k.isLost port then (d.modCore c (fun k => k.loadPut (addr + i) 0#64)).loadWords c port addr n
      else match k.inPort port with
      | none => none
      | some ip =>
        match d.peek ip.q ip.rcv with
        | .word w =>
          if w.kind == .marker || w.kind == .header then
            (d.modCore c (fun k => (k.voidRest port w).loadPut (addr + i) 0#64)).loadWords c port addr n
          else
            let d1 := ((d.seqRead ip.q ip.rcv).noteWords c [⟨port, tblGet 0 k.recPos port, w⟩]).modCore c (fun k =>
              ({ k with recPos := tblMod 0 k.recPos port (fun n => n + 1) } : Core).loadPut (addr + i)
                (if w.kind == .void then 0#64 else if m == some .nullOver then k.nullWord i else w.payload))
            d1.loadWords c port addr n
        | .gap w => ((d.seqRead ip.q ip.rcv).modCore c (fun k => (k.voidRest port w).loadPut (addr + i) 0#64)).loadWords
            c port addr n
        | _ => none

/-- The local-store words of a LOAD's next cycle that come from the null tile. -/
def Core.loadNull (k : Core) (n : Nat) : List Nat :=
  if k.nullZero || k.loadFrom == some .port then [] else (List.range n).map (fun j => (k.nullAddr + k.at_ + j) % 8192)

/-- A stage's image load holds the stage in a frame: counted once for the frame (ASTG_LATE). -/
def Adapt.countLate (a : Adapt) (q : QueueId) (f : W32) : Adapt :=
  match a.stages.findIdx? (fun s => s.q == q) with
  | none => a
  | some j =>
    if tblGet 0#32 a.late j != 0#32 && tblGet 0#32 a.lateFrame j == f then a
    else { a with late := tblMod 0#32 a.late j satInc, lateFrame := tblSet 0#32 a.lateFrame j f }
/-- Assumption 76 (DESIGN CHOICE): unsafe. -/
def Dev.imageLate (d : Dev) (c : CoreId) (port : Nat) : Dev :=
  let k := d.core c
  match k.inPort port with
  | none => d
  | some ip => { d with adapt := tblMap {} d.adapt (fun _ a => if a.net == some k.net then a.countLate ip.q k.frame else a) }

/-- A LOAD is done: a null tile that stood in at its port no longer does (R103). -/
def Core.loadDone (k : Core) (port : Nat) : Core :=
  { k.done with nullTile := k.nullTile && port != k.nullPort, nullPos := 0 }

/-- The cycles of a LOAD from where it stands: two words a cycle, held on V = 0. -/
def Dev.loadRun (d : Dev) (c : CoreId) (port addr words : Nat) : Nat → Dev
  | 0 => d.modCore c (fun k => k.loadDone port)
  | n + 1 =>
    let k := d.core c
    let w := min 2 (words - k.at_)
    if words ≤ k.at_ then d.modCore c (fun k => k.loadDone port)
    else match d.loadWords c port addr w with
      | none => (d.imageLate c port).holdCore c (holdIn port)
      | some d1 =>
        if k.rowOver then d.faultCore c .rowCycle none
        else match (k.lsRead (k.loadNull w)).2 with
          | some a => d.faultCore c .localStore (some a)
          | none => (d1.modCore c (fun x => { ((x.lsRead (k.loadNull w)).1).tick with cycCount := x.cycCount + 1 })).loadRun c port addr words n

/-- LOAD from where it stands; with its first cycle both weight buffers are left empty (R119), and the tag of a reference tile is
read. A LOAD held before its first cycle has changed nothing (R101). -/
def Dev.doLoad (d : Dev) (c : CoreId) (words : BitVec 13) (port : BitVec 2) (addr : BitVec 13) : Dev :=
  let d0 := d.modCore c (fun k => { k with state := .running, holdsrc := 0#6 })
  let n := words.toNat + 1
  if (d0.core c).loadFrom.isSome then d0.loadRun c port.toNat addr.toNat n n
  else
    let d1 := d0.prepRef c port.toNat
    let (d2, go) := d1.loadBegin c port.toNat
    if go && (d2.loadWords c port.toNat addr.toNat (min 2 n)).isSome then
      (d2.modCore c (fun k => { k with buf0 := {}, buf1 := {}, wload := none, wwin := [] })).loadRun c port.toNat addr.toNat n n
    else (d1.imageLate c port.toNat).holdCore c (holdIn port.toNat)

/-! ## FRAME (R105, R106, R76, R181, R191) -/

/-- A finishing descriptor is in use: it is written, or a FIRE of the program selects it. -/
def Core.usesFin (k : Core) (i : Nat) : Bool :=
  tblGet 0#64 k.fin i != 0#64 || k.sched.any (fun e => 256 ≤ e.1 && (match decodeSeq e.2 with
    | some (.fire f) => f.mac != 0#3 && f.dsel.toNat % 8 == i
    | _ => false))

/-- What a core's caliper slots report at the close of a frame (R188, R189, R191): one report for each finishing descriptor in
use. -/
def Core.calReports (k : Core) : List CalReport :=
  ((List.range 8).filter (fun i => k.usesFin i)).map (fun i =>
    let s := tblGet {} k.cal i
    { net := k.net, stage := k.stage, tensor := BitVec.ofNat 12 (k.finD i).tensor, pos := k.cidx, frame := k.frame,
      maquette := k.flags.getLsbD 6, sse := addTree s.sse, ssv := addTree s.ssv, sumv := addTree s.sumv, count := s.count, sat := s.sat,
      nan := s.nan, const := s.const, kmaxn := s.kmaxn.getD (-32768), kmin := s.kmin, kmax := s.kmax })

/-- Close the caliper slots. -/
def Core.closeCal (k : Core) : Core :=
  if k.inFrame then { k with sent := k.calReports, cal := [], inFrame := false } else { k with cal := [] }

/-- What a core reports when its slots close now. -/
def Core.lastReports (k : Core) : List CalReport := if k.inFrame then k.calReports else []

/-- A core closes its caliper slots, and its reports go out (R191). -/
def Dev.closeSlots (d : Dev) (c : CoreId) : Dev :=
  { d.modCore c Core.closeCal with reports := d.reports ++ (d.core c).lastReports }

/-- Release words at a port up to the next frame-start marker, as far as they have come: a gap marker is counted and passed
(R231); the first other word is a framing error, which voids the frame to come, unless the port's words are given up already
(R106). -/
def Dev.toStart (d : Dev) (c : CoreId) (i : Nat) (ip : PortIn) : Nat → Dev
  | 0 => d
  | n + 1 =>
    match d.peek ip.q ip.rcv with
    | .gap _ => ((d.seqRead ip.q ip.rcv).modCore c (fun k => { k with gapsRead := k.gapsRead + 1 })).toStart c i ip n
    | .word w =>
      if w.isStart then d
      else ((d.seqRead ip.q ip.rcv).modCore c (fun k =>
        if k.isLost i then k else { k with framErr := k.framErr + 1, voidNext := true, lost := k.lost ||| (1#4 <<< i) })).toStart c i ip n
    | _ => d

/-- The start marker at a port, when it is there. -/
def Dev.startAt (d : Dev) (k : Core) (i : Nat) : Option QWord :=
  match k.inPort i with
  | none => none
  | some ip => match d.peek ip.q ip.rcv with | .word w => if w.isStart then some w else none | _ => none

/-- A port reads V = 0. -/
def Dev.noWord (d : Dev) (k : Core) (i : Nat) : Bool :=
  match k.inPort i with
  | none => true
  | some ip => match d.peek ip.q ip.rcv with | .word _ => false | .gap _ => false | _ => true

/-- Flags that the stage itself raises at a frame's start: DEGRADED while it runs a degraded variant, RATE_REDUCED while a
partition of the network runs below its /4 rate or when one did since the frame was admitted, VOID_PART for a voided frame (Table 2-5). -/
def Dev.stageFlags (d : Dev) (k : Core) (f : W32) : Byte :=
  (if (d.net k.net).degraded.contains k.stage then 16#8 else 0#8)
    ||| (if (d.partsOfNet k.net).any (fun p => (d.part p).div != .d4) || (d.net k.net).slow.contains f then 128#8 else 0#8)
    ||| (if k.voidNext then 2#8 else 0#8)

/-- The window descriptors that the FIREs of the core's schedule memory read a port with: that of AG0 by DSEL and RDEN, and that
of AG3 for a join operand. -/
def Core.windowsAt (k : Core) (port : Nat) : List WinDesc :=
  let fs := k.sched.filterMap (fun e => match decodeSeq e.2 with | some (.fire f) => some f | _ => none)
  let own := ((fs.filter (fun f => f.rden.getLsbD port)).map (fun f => f.dsel.toNat)).eraseDups
  let all := (fs.map (fun f => f.dsel.toNat)).eraseDups
  (own.filter (fun s => decide (k.opk 0 s ≤ 4))).map (fun s => k.win 0 s)
    ++ ((all.filter (fun s => k.joinsAt s)).map (fun s => k.win 3 s)).filter (fun w => (joinPorts w.fmt).contains port)

/-- Output rows of the core in its frame `f`, from the window of AG0 or else the output descriptor of AG2. -/
def Core.rowsOf (k : Core) (dsel f : Nat) : List (Nat × Nat) :=
  if k.opk 0 dsel ≤ 4 then (k.win 0 dsel).rows f else (k.outD dsel).rows f

/-- The first stored row that the first of some output rows needs; past the frame when there is none (R158). -/
def WinDesc.firstOf (d : WinDesc) (rows : List (Nat × Nat)) : Nat :=
  match rows with | e :: _ => d.firstRow e.1 e.2 | [] => d.storedRows

/-- Release what the output rows still to come in the frame no longer need: at each port that is read windowed, up to the first
stored row that a descriptor reading it needs (R158). Assumption 26 (DESIGN CHOICE): safe. -/
def Dev.releaseRows (d : Dev) (c : CoreId) (next : List (Nat × Nat)) : Dev :=
  let k := d.core c
  [0, 1, 2, 3].foldl (fun d i => match k.inPort i with
    | none => d
    | some ip =>
      match (d.queue ip.q).rcv ip.rcv, k.windowsAt i with
      | some r, w :: ws =>
        if r.windowed then
          let word := ws.foldl (fun m x => min m (x.rpitch * x.firstOf next)) (w.rpitch * w.firstOf next)
          d.putQueue ip.q ((d.queue ip.q).releaseTo ip.rcv (r.b + BitVec.ofNat 32 word))
        else d
      | _, _ => d) d

/-- A pass-2 row that FRAME overtakes is converted under the frame that it belongs to, whose caliper slot takes it, and keeps that
frame's epoch (R181, R182, R190). Assumption 148 (DEDUCED): unsafe. -/
def Core.overtake (k : Core) (cal : Bool) : Core :=
  k.row2.foldl (fun k r =>
    let (k1, r1) := if r.begun then (k, r) else k.convert cal r
    { k1 with row2 := k1.row2 ++ [{ r1 with left := some (r1.left.getD (k.epoch, k.voiding)) }] }) { k with row2 := [] }

/-- FRAME from where it stands: held with nothing changed while a port reads V = 0 or an output lacks credit (R101). -/
def Dev.doFrame (d : Dev) (c : CoreId) (rden : BitVec 4) (wren : BitVec 2) : Dev :=
  let k := d.core c
  let ports := portsOf rden
  let hin0 := ports.foldl (fun h i => if d.noWord k i then h ||| holdIn i else h) (0#6 : BitVec 6)
  let hout := d.lackCredit k wren 1
  let d1 := ports.foldl (fun d i => match k.inPort i with
    | none => d | some ip => d.toStart c i ip ((d.queue ip.q).total + 2)) d
  let ms := ports.map (fun i => (i, d1.startAt k i))
  let hin := ms.foldl (fun h e => if e.2.isNone then h ||| holdIn e.1 else h) (0#6 : BitVec 6)
  if hin0 ||| hout != 0#6 then d.holdCore c (hin0 ||| hout)
  else if hin != 0#6 then d1.holdCore c hin
  else if k.rowOver then d.faultCore c .rowCycle none
  else
    let d2 := (ports.foldl (fun d i => match k.inPort i with | none => d | some ip => d.seqRead ip.q ip.rcv) d1).recordOpen c
    let first : QWord := (ms.findSome? (fun e => e.2)).getD (startMarker k.frame k.ctx 0#8 k.epoch)
    let fl := ms.foldl (fun f e => match e.2 with | some w => f ||| w.flags | none => f) (d2.stageFlags (d2.core c) first.frame)
    let d2 := (d2.modCore c (fun k => k.overtake d.cal.en)).closeSlots c
    let d3 := d2.modCore c (fun k =>
      let k1 := k.tick.done
      { k1 with frame := first.frame, ctx := first.ctx, flags := fl, epoch := first.epoch, inFrame := true,
                voiding := k1.voidNext, voidNext := false, frames := k1.frames + 1, rowCount := 0,
                frameLog := if fl.getLsbD 6 then k1.frameLog else ((first.frame, k1.frames) :: k1.frameLog).take 4, cycCount := 0,
                headers := [], calFrame := first.frame,
                s2 := k1.s2next.foldl (fun t e => tblPut e.1 e.2 t) k1.s2, s2next := [], nullTile := false, nullPos := 0, refStat := 0#2,
                lost := 0#4, recPos := [], recValid := [],
                candPos := 0, ubuf := 0, ulen := 0, uvoid := false, recb := { out := k1.recb.out } })
    let d4 := (d3.emit (d3.core c) wren [startMarker first.frame first.ctx fl first.epoch]).closePassed c
    if (d4.core c).kind != .admission && (d4.core c).kind != .output then
      d4.releaseRows c ((d4.core c).rowsOf (d4.core c).dselRow ((d4.core c).frames - 1))
    else if (d4.core c).kind == .admission then d4.recheckNet k.net
    else d4

/-! ## Block reports (R528) -/

/-- The rows in hand enter the caliper slots of the block that ends with them; each still goes through its pass 2. -/
def Core.countRows (k : Core) (cal : Bool) : Core :=
  k.row2.foldl (fun k r =>
    if r.begun then { k with row2 := k.row2 ++ [r] }
    else { (k.convert cal r).1 with row2 := k.row2 ++ [{ r with counted := true }] }) { k with row2 := [] }

/-- Index of the block of an output row within its frame. -/
def Core.frameBlock (k : Core) (r : Nat × Nat) : Nat :=
  let ds := k.dselRow
  let (m, rb) := if k.opk 0 ds ≤ 4 then (let w := k.win 0 ds; (w.m, w.rb)) else (let o := k.outD ds; (o.m, o.rb))
  r.1 / max rb 1 * m + r.2

/-- The block reports of a core whose slots close at the end of a block. -/
def Core.blockReports (k : Core) (block : Nat) : List (NetId × BlockRep) :=
  ((List.range 8).filter (fun i => k.usesFin i)).map (fun i =>
    let s := tblGet {} k.cal i
    (k.net, { stage := k.stage, cidx := k.cidx, block := block, tensor := BitVec.ofNat 12 (k.finD i).tensor, count := s.count,
              sumv := addTree s.sumv, ssv := addTree s.ssv }))

/-- In a maquette frame, the ROWEND that ends a block, or a channel group, closes the caliper slots and sends their reports to the
checker (R528). -/
def Dev.blockClose (d : Dev) (c : CoreId) (row : Nat × Nat) (next : Option (Nat × Nat)) : Dev :=
  let k := d.core c
  let grouped := (d.net k.net).img.any (fun im => im.stages.any (fun s => s.num == k.stage && s.channelGroups))
  let ends := match next with | none => true | some e => !grouped && k.frameBlock e != k.frameBlock row
  if !k.flags.getLsbD 6 || !ends then d
  else
    let k1 := k.countRows d.cal.en
    { d.modCore c (fun _ => { k1 with cal := [] }) with
      blockReps := d.blockReps ++ k1.blockReports (if grouped then k.cidx.toNat else k.frameBlock row) }

/-! ## ROWEND (R107, R108, R158) -/

/-- The values of a pooled row that has just closed enter the finishing queue. Assumption 27 (DESIGN CHOICE): unsafe. -/
def Dev.finqRow (d : Dev) (c : CoreId) : Dev :=
  let k := d.core c
  match k.finq, k.row2.getLast? with
  | some q, some r =>
    let ws := packPairs ((List.range (r.width * r.chans)).map (fun i => tblGet 0#32 r.vals i))
    if r.pos.isSome || ws.isEmpty || (k.finD r.dsel).pool == 0 then d
    else
      let p := (d.queue q).tail
      let d1 := d.writeAll q 0#10 (ws.map (fun x => { payload := x, epoch := k.epoch }))
      let d2 := if ((d1.queue q).rcv 0#10).any (fun x => x.r == p) then d1.modQueue q (fun x => x.mark 0#10) else d1
      d2.modCore c (fun k => { k with row2 := k.row2.dropLast ++ [{ r with pos := some p, words := ws.length }] })
  | _, _ => d

/-- The row closes: the check of the row's cycles, pass 1 closed, a pooled row written to the finishing queue, a block's end in a
maquette frame, rows released. -/
def Dev.rowClose (d : Dev) (c : CoreId) (rowcyc : BitVec 28) : Dev :=
  let k := d.core c
  let d0 := d.modCore c (fun k => { k with rowcycLast := satOf 28 k.cycCount })
  if k.wdogEn && k.cycCount != rowcyc.toNat then d0.faultCore c .rowCycle none
  else
    let rows := k.rowsOf k.dselRow (k.frames - 1)
    let (y, mem) := rows.getD k.rowCount (0, 0)
    let d1 := d0.modCore c (fun k =>
      { (k.closeRow y mem k.sinceDrain).done with rowCount := k.rowCount + 1, cycCount := 0, sinceDrain := 0 })
    ((d1.finqRow c).blockClose c (y, mem) (rows[k.rowCount + 1]?)).releaseRows c (rows.drop (k.rowCount + 1))

/-- The cycles of a row close from where it stands: what a cycle holds on first, then an uncorrectable word. -/
def Dev.closeRun (d : Dev) (c : CoreId) (rowcyc : BitVec 28) : Nat → Dev
  | 0 => d.rowClose c rowcyc
  | n + 1 =>
    let k := d.core c
    let reads := k.loadAddrs ++ k.loadParams ++ k.drainAddrs
    match d.drainCycle c, (k.lsRead reads).2 with
    | (some h, _), _ => d.holdCore c h
    | _, some a => d.faultCore c .localStore (some a)
    | (none, d1), none =>
      (d1.modCore c (fun x => { ((x.lsRead reads).1).tick with
        cycCount := x.cycCount + 1, at_ := x.at_ + 1,
        sinceDrain := if k.drains.isEmpty then x.sinceDrain + 1 else 0 })).closeRun c rowcyc n

/-- ROWEND from where it stands. -/
def Dev.doRowend (d : Dev) (c : CoreId) (close : BitVec 14) (rowcyc : BitVec 28) : Dev :=
  (d.modCore c (fun k => { k with state := .running, holdsrc := 0#6 })).closeRun c rowcyc
    (close.toNat + 1 - (d.core c).at_)

/-! ## Waits that end (R119, R120, R126, R178) -/

/-- The FIRE that a core waits in, for a reason. -/
def Dev.waitsFor (d : Dev) (c : CoreId) (w : Wait) : Option FireOp :=
  let k := d.core c
  if d.runs c && k.wait == w && (k.state == .running || k.state == .held) then
    match decodeSeq (tblGet 0#64 k.sched k.pc.toNat) with | some (.fire f) => some f | _ => none
  else none

/-- A wait is over: the FIRE goes on, unless a fault ended the wait. -/
def Dev.goOn (d : Dev) (c : CoreId) (f : FireOp) : Dev :=
  if (d.core c).state == .faulted then d
  else (d.modCore c (fun k => { k with wait := .none, state := .running, holdsrc := 0#6 })).fireFrom c f

/-- Schedule cycles that the load under way still takes. -/
def Core.loadLeft (k : Core) : Nat := match k.wload with | some l => l.cycles - l.gone | none => 0

/-- The load of a weight buffer completes. -/
def weightLoadDone (c : CoreId) (d : Dev) : Dev :=
  let left := (d.core c).loadLeft
  match d.waitsFor c .weights, d.waitsFor c .wswap with
  | some f, _ => (d.quiet c left).goOn c f
  | none, some f =>
    let d1 := d.quiet c left
    if (d1.core c).state == .faulted then d1 else d1.modCore c (fun k => k.fireEnd f)
  | none, none => d

/-- Drain what is left, holding on a join operand. -/
def Dev.drainRest (d : Dev) (c : CoreId) (f : FireOp) : Nat → Dev
  | 0 => d.goOn c f
  | n + 1 =>
    if !(d.core c).drains.any (fun x => x.bank == (d.core c).bank1) then d.goOn c f
    else
      let k := d.core c
      let reads := k.loadAddrs ++ k.loadParams ++ k.drainAddrs
      match d.drainCycle c with
      | (some h, _) => d.holdCore c h
      | (none, d1) =>
        match (if k.rowOver then some (CycleRes.fault .rowCycle none) else (k.lsRead reads).2.map (fun a => .fault .localStore (some a))) with
        | some (.fault x ue) => d.faultCore c x ue
        | _ => (d1.modCore c (fun x => { ((x.lsRead reads).1).tick with cycCount := x.cycCount + 1 })).drainRest c f n

/-- More cycles than the drains of a core's banks can take. -/
def Core.drainBound (k : Core) : Nat := (k.drains.map (fun x => x.len)).sum + 1

/-- ACCUMULATOR_DRAIN_DONE: the bank that the FIRE waits for is drained. -/
def drainDone (c : CoreId) (d : Dev) : Dev :=
  match d.waitsFor c .drain with
  | some f => d.drainRest c f (d.core c).drainBound
  | none => d

/-- Cycles until the scales of the oldest row are fixed: 4 after the last value of pass 1 (R178). -/
def Core.scaleLeft (k : Core) : Nat := match k.row2 with | r :: _ => 4 - r.age | [] => 0

/-- SCALE_SELECTION_DONE. -/
def scaleDone (c : CoreId) (d : Dev) : Dev :=
  match d.waitsFor c .scale with
  | some f => (d.quiet c (d.core c).scaleLeft).goOn c f
  | none => d

/-- The output ports that a waiting FIRE writes. -/
def Core.waitOuts (k : Core) (f : FireOp) : BitVec 2 :=
  if f.wren != 0#2 then f.wren
  else (if (k.outPort 0).isSome then 1#2 else 0#2) ||| (if (k.outPort 1).isSome then 2#2 else 0#2)

/-- Pass 2 writes what is left of the oldest row, holding on a credit. -/
def Dev.pass2Rest (d : Dev) (c : CoreId) (f : FireOp) : Nat → Dev
  | 0 => d
  | n + 1 =>
    let k := d.core c
    let (k1, out) := k.pass2Now d.cal.en
    let h := d.lackCredit k (k.waitOuts f) out.length
    if h != 0#6 && !out.isEmpty then d.holdCore c h
    else if k.rowOver then d.faultCore c .rowCycle none
    else
      let rows := k.row2.length
      let ws := k1.dressRow k1.row2.head? false false out
      let d1 := ((d.modCore c (fun _ => { (k1.pass2Done out.length).tick with cycCount := k.cycCount + 1 })).finqPass c k.row2).emit
        k (k.waitOuts f) ws
      if (d1.core c).row2.length < rows then d1.goOn c f else d1.pass2Rest c f n

/-- More cycles than pass 2 of the oldest row can take. -/
def Core.pass2Bound (k : Core) : Nat :=
  match k.row2 with | r :: _ => r.out.length + r.vals.length + r.width * 4 * (r.chans + 64) + 8 | [] => 0

/-- PASS2_ROW_DONE: what is left of the oldest row is written. -/
def pass2RowDone (c : CoreId) (d : Dev) : Dev :=
  match d.waitsFor c .pass2 with
  | some f => d.pass2Rest c f (d.core c).pass2Bound
  | none => d

/-! ## Held cycles (R100, R101, R110) -/

/-- A held core tries its cycle again after `n` held cycles. -/
def heldRetry (c : CoreId) (n : W32) (d : Dev) : Dev :=
  match d.heldAt c with
  | none => d
  | some i =>
    let d1 := d.modCore c (fun k => { k with holdCyc := satAdd k.holdCyc n.toNat })
    match (d.core c).wait with
    | .drain => drainDone c d1
    | .pass2 => pass2RowDone c d1
    | _ =>
      match i with
      | .fire f => d1.fireFrom c f
      | .load w p a => d1.doLoad c w p a
      | .frame r w => d1.doFrame c r w
      | .rowend cl rc => d1.doRowend c cl rc
      | _ => d1

/-! ## The commands of the core family -/

/-- HALT (Table 3-3). -/
def halt (c : CoreId) (d : Dev) : Dev :=
  match d.reached c with
  | some .halt => d.modCore c (fun k => { k with state := .halted })
  | _ => d
def execHalt (c : CoreId) (s : State) : Ans := .next { s with dev := halt c s.dev }

/-- FIRE (Table 3-4, R97 to R101). -/
def fire (c : CoreId) (us : List Upset) (d : Dev) : Dev :=
  match d.reached c with
  | some (.fire f) => (d.modCore c (fun k => k.strike us)).fireFrom c f
  | _ => d
def execFire (c : CoreId) (us : List Upset) (s : State) : Ans := .next { s with dev := fire c us s.dev }

/-- LOOP (R99). -/
def loop (c : CoreId) (d : Dev) : Dev :=
  match d.reached c with
  | some (.loop t l _) => d.doLoop c t l
  | _ => d
def execLoop (c : CoreId) (s : State) : Ans := .next { s with dev := loop c s.dev }

/-- ENDL (R99). -/
def endl (c : CoreId) (d : Dev) : Dev :=
  match d.reached c with
  | some (.endl l a) => d.doEndl c l a
  | _ => d
def execEndl (c : CoreId) (s : State) : Ans := .next { s with dev := endl c s.dev }

/-- LOAD (R130, R131). -/
def load (c : CoreId) (us : List Upset) (d : Dev) : Dev :=
  match d.reached c with
  | some (.load w p a) => (d.modCore c (fun k => k.strike us)).doLoad c w p a
  | _ => d
def execLoad (c : CoreId) (us : List Upset) (s : State) : Ans := .next { s with dev := load c us s.dev }

/-- FRAME (R105). -/
def frame (c : CoreId) (d : Dev) : Dev :=
  match d.reached c with
  | some (.frame r w) => d.doFrame c r w
  | _ => d
def execFrame (c : CoreId) (s : State) : Ans := .next { s with dev := frame c s.dev }

/-- ROWEND (R107). -/
def rowend (c : CoreId) (us : List Upset) (d : Dev) : Dev :=
  match d.reached c with
  | some (.rowend cl rc) => (d.modCore c (fun k => { k.strike us with sinceDrain := 0 })).doRowend c cl rc
  | _ => d
def execRowend (c : CoreId) (us : List Upset) (s : State) : Ans := .next { s with dev := rowend c us s.dev }

/-- WAITD (R103). -/
def waitd (c : CoreId) (d : Dev) : Dev :=
  match d.reached c with
  | some (.waitd p dl nz na) => d.doWaitd c p dl nz na
  | _ => d
def execWaitd (c : CoreId) (s : State) : Ans := .next { s with dev := waitd c s.dev }

/-- CALL (R99). -/
def call (c : CoreId) (d : Dev) : Dev :=
  match d.reached c with
  | some (.call t) => d.doCall c t
  | _ => d
def execCall (c : CoreId) (s : State) : Ans := .next { s with dev := call c s.dev }

/-- RET (R99). -/
def ret (c : CoreId) (d : Dev) : Dev :=
  match d.reached c with
  | some .ret => d.doRet c
  | _ => d
def execRet (c : CoreId) (s : State) : Ans := .next { s with dev := ret c s.dev }

/-- ILLEGAL_INSTRUCTION (R96): a word with an opcode from 0xA to 0xF reaches the sequencer, from the schedule memory
or by an upset. -/
def illegal (c : CoreId) (w : W64) (d : Dev) : Dev :=
  let k := d.core c
  if d.runs c && k.state == .running && 10 ≤ (w.extractLsb' 60 4).toNat then d.faultCore c .illegal none else d
def execIllegalInstruction (c : CoreId) (w : W64) (s : State) : Ans := .next { s with dev := illegal c w s.dev }

/-- HELD_CYCLE_FIRE (R100, R101). -/
def execHeldCycleFire (c : CoreId) (held : W32) (s : State) : Ans := .next { s with dev := heldRetry c held s.dev }

/-- The wake cycles of a gated core, which are held cycles (R110). -/
def Core.wakeCycles (k : Core) : Nat := if k.gated then 2 else 0

/-- WAITD_PORT_VALID (R103): the port is valid `n` cycles after the WAITD was reached. -/
def waitdPortValid (c : CoreId) (n : BitVec 20) (d : Dev) : Dev :=
  match d.inWaitd c with
  | none => d
  | some (port, dl) =>
    let d1 := d.prepRef c port
    if n.toNat ≤ dl.toNat && d1.waitdValid c port then
      (d1.modCore c (fun k => { k.nextPc with state := .running, waitd := none, zrun := 0, gated := false,
                                              holdCyc := satAdd k.holdCyc (n.toNat + k.wakeCycles) })).censusBack (partOfCore c)
    else d1
def execWaitdPortValid (c : CoreId) (n : BitVec 20) (s : State) : Ans := .next { s with dev := waitdPortValid c n s.dev }

/-- WAITD_DEADLINE (R103). -/
def waitdDeadline (c : CoreId) (d : Dev) : Dev :=
  match d.inWaitd c with
  | none => d
  | some (port, dl) =>
    let d1 := d.prepRef c port
    if d1.waitdValid c port then d1
    else (d1.modCore c (fun k => { k.nullSub with holdCyc := satAdd k.holdCyc (dl.toNat + k.wakeCycles) })).censusBack (partOfCore c)
def execWaitdDeadline (c : CoreId) (s : State) : Ans := .next { s with dev := waitdDeadline c s.dev }

/-- An instruction that takes no cycle when it is reached; a WAITD that holds takes some. -/
def Dev.zeroInstr (d : Dev) (c : CoreId) (i : SeqInstr) : Bool :=
  match i with
  | .loop _ _ _ | .endl _ _ | .call _ | .ret => true
  | .waitd p dl _ _ => (d.prepRef c p.toNat).waitdNow c p.toNat dl
  | _ => false

/-- ZERO_CYCLE_RUN_FAULT (R562). -/
def zeroRunFault (c : CoreId) (d : Dev) : Dev :=
  match d.reached c with
  | some i => if d.zeroInstr c i && 16 ≤ (d.core c).zrun then d.faultCore c .zeroRun none else d
  | none => d
def execZeroCycleRunFault (c : CoreId) (s : State) : Ans := .next { s with dev := zeroRunFault c s.dev }

/-- ROWMAX_EXCEEDED (R108). -/
def rowmaxExceeded (c : CoreId) (d : Dev) : Dev :=
  let k := d.core c
  if d.runs c && (k.state == .running || k.state == .held || k.state == .waitd) && k.wdogEn && k.rowmax < k.cycCount then
    d.faultCore c .rowCycle none
  else d
def execRowmaxExceeded (c : CoreId) (s : State) : Ans := .next { s with dev := rowmaxExceeded c s.dev }

/-- The local-store words that the address generators ask in the core's next cycle. -/
def Dev.nextAddrs (d : Dev) (c : CoreId) : List Nat :=
  let k := d.core c
  if !d.runs c || (k.state != .running && k.state != .held) then []
  else k.loadAddrs ++ (match decodeSeq (tblGet 0#64 k.sched k.pc.toNat) with | some (.fire f) => k.ag3Addrs f k.at_ | _ => [])

/-- LS_WRITEBACK (R129): a corrected word is written back in a cycle in which no address generator uses its bank, a held cycle
not among them; a word that a second upset has struck since is uncorrectable. -/
def lsWriteback (c : CoreId) (a : BitVec 13) (d : Dev) : Dev :=
  let k := d.core c
  if !k.lsFix.contains a || (k.state != .held && (d.nextAddrs c).any (fun x => x % 8 == a.toNat % 8)) then d
  else
    let d1 := d.modCore c (fun k => { k with lsFix := k.lsFix.erase a })
    if tblGet 0 k.lsErr a.toNat == 2 then d1.faultCore c .localStore (some a.toNat)
    else d1.modCore c (fun k => { k with lsErr := tblSet 0 k.lsErr a.toNat 0 })
def execLsWriteback (c : CoreId) (a : BitVec 13) (s : State) : Ans := .next { s with dev := lsWriteback c a s.dev }

/-- STAGE_IDLE_GATE (R110): 64 held cycles in a row, those of a WAITD among them. -/
def idleGate (c : CoreId) (d : Dev) : Dev :=
  let k := d.core c
  if (k.state == .held || k.state == .waitd) && k.gateEn then d.modCore c (fun k => { k with gated := true }) else d
def execStageIdleGate (c : CoreId) (s : State) : Ans := .next { s with dev := idleGate c s.dev }

/-- The cycle in which a core is held can fire now. -/
def Dev.canFire (d : Dev) (c : CoreId) : Bool :=
  match d.inWaitd c with
  | some (port, _) => (d.prepRef c port).waitdValid c port
  | none => ((heldRetry c 0#32 (d.modCore c (fun k => { k with gated := false }))).core c).state != .held

/-- STAGE_IDLE_UNGATE (R110): at the first cycle that can fire, two more held cycles. -/
def idleUngate (c : CoreId) (d : Dev) : Dev :=
  if (d.core c).gated && d.canFire c then d.modCore c (fun k => { k with gated := false, holdCyc := satAdd k.holdCyc 2 }) else d
def execStageIdleUngate (c : CoreId) (s : State) : Ans := .next { s with dev := idleUngate c s.dev }

/-- WEIGHT_BUFFER_LOAD_DONE (R119). -/
def execWeightBufferLoadDone (c : CoreId) (s : State) : Ans := .next { s with dev := weightLoadDone c s.dev }

/-- ACCUMULATOR_DRAIN_DONE (R120). -/
def execAccumulatorDrainDone (c : CoreId) (s : State) : Ans := .next { s with dev := drainDone c s.dev }

/-- SCALE_SELECTION_DONE (R178). -/
def execScaleSelectionDone (c : CoreId) (s : State) : Ans := .next { s with dev := scaleDone c s.dev }

/-- PASS2_ROW_DONE (R126). -/
def execPass2RowDone (c : CoreId) (s : State) : Ans := .next { s with dev := pass2RowDone c s.dev }

/-- The host may write XCFG: no schedule of the partition runs (R136). -/
def Partition.xcfgOpen (p : Partition) : Bool :=
  p.frozen || !(p.cast == .released || p.cast == .draining)

/-- XCFG_WRITE (R136, R464). -/
def xcfgWrite (c : CoreId) (v : W32) (d : Dev) : Dev :=
  if d.xptWen && (d.part (partOfCore c)).xcfgOpen then
    d.modCore c (fun k => { k with wdogEn := v.getLsbD 0, gateEn := v.getLsbD 1 })
  else { d with xptRej := satInc d.xptRej }
def execXcfgWrite (c : CoreId) (v : W32) (s : State) : Ans := .next (hostWriteDie (dieOfCore c) (xcfgWrite c v) s)

end Sys2Proof.Machine
end

