-- ==== Sys2Proof/Machine/Census.lean ====
section
/-! DEFINITION. The deadlock census (R241 to R248), the drop of R246 and what every emptying of a network shares. -/
namespace Sys2Proof.Machine

open Sys2Proof

/-! ## Emptying a network's queues and restarting its cores -/

/-- A core that a drop or a flush restarts: one that runs its program. -/
def Core.restartable (k : Core) : Bool :=
  k.assigned && (k.state == .running || k.state == .held || k.state == .waitd)

/-- Cancel what the memory controllers have in hand for some queues: weight, image and spill bursts not yet granted and reference
tiles (R134, Table 9-6). -/
def Dev.cancelFor (d : Dev) (qs : List QueueId) : Dev :=
  (d.cancelBursts (fun b => b.brings qs || (match b.who with | .spill q => qs.contains q | _ => false))).modRoute
    (fun r => { r with groups := tblMap none r.groups (fun _ o => o.map (fun g =>
        { g with tiles := g.tiles.filter (fun t => !qs.contains t.q) })) })

/-- A queue's words come from cores, from the ingest engine or from a chain link, not from a memory controller. -/
def Dev.laneFed (d : Dev) (q : QueueId) : Bool :=
  d.cores.any (fun e => e.2.outs.any (fun o => match o with | some p => p.q == q | none => false)) ||
    (d.net (d.queue q).net).groups.any (fun e => match e.2 with | some g => g.img.dests.contains q | none => false) ||
    d.ing.chans.any (fun c => c.img.q == q)

/-- Receivers of the queue that are taken over wait for a frame-start marker: it carries frames (R250, R490). -/
def Dev.awaits (d : Dev) (q : QueueId) : Bool := (d.queue q).pmode == .plain && d.laneFed q

/-- A queue is emptied. A memory controller keeps only the credits for the words of its bursts under way.
Assumption 149 (DEDUCED): unsafe. -/
def Dev.emptyQueue (d : Dev) (q : QueueId) : Dev :=
  let fed := d.laneFed q
  let k := 64 * d.underWay q
  d.moveQueue q (fun x => if fed then x.empty else x.empty.modProd 0 (fun p => { p with credits := k }))

/-- In one partition: its queues emptied, its cores restarted at their entry, waiting at FRAME (Table 6-8). -/
def Dev.dropPart (d : Dev) (p : PartId) : Dev :=
  let qs := (d.queuesOfPart p).filter (fun q => (d.queue q).cap != 0)
  let d1 := (d.cancelFor qs).modPart p (fun x => { x with dlkCnt := 0#17 })
  let d2 := qs.foldl (fun d q => d.emptyQueue q) d1
  (d2.coreIds.filter (fun c => partOfCore c == p && (d2.core c).restartable)).foldl
    (fun d c => d.modCore c (fun k => { k.restart with cal := [], sent := [] })) d2

/-- The network's epoch advances by one and every receiver's E follows (R246, R250). -/
def Dev.nextEpoch (d : Dev) (n : NetId) : Dev :=
  let e := (d.net n).epoch + 1#3
  ((d.queuesOfNet n).filter (fun q => !d.companion n (partOfQueue q))).foldl (fun d q => d.modQueue q (fun x => x.setEpoch e))
    (d.modNet n (fun x => { x with epoch := e }))

/-- The group frames in progress end: their remaining lines are discarded as they arrive. -/
def Network.endFrames (x : Network) : Network :=
  { x with groups := tblMap none x.groups (fun _ o => o.map (fun g =>
      { g with live := g.live.map (fun e => (e.1, Adm.refused)), buf := [] })) }

/-- Stop admission to a network. -/
def Network.close (x : Network) : Network := { x with open_ := false, openAt := false }

/-- Trial frames whose check is discarded are sent again (Table 10-4). -/
def Dev.trialAgain (d : Dev) (n : NetId) (k : Nat) : Dev :=
  { d with adapt := tblMap {} d.adapt (fun _ a => if a.net == some n && a.state == .trial then { a with trialLeft := a.trialLeft + k } else a) }

/-- The adaptation epoch of a network advances by one and the receivers of its companions' queues follow (R365). -/
def Dev.nextAepoch (d : Dev) (n : NetId) : Dev :=
  let e := (d.net n).aepoch + 1#3
  ((d.queuesOfNet n).filter (fun q => d.companion n (partOfQueue q))).foldl (fun d q => d.modQueue q (fun x => x.setEpoch e))
    (d.modNet n (fun x => { x with aepoch := e }))

/-- The epoch change of a drop in the partitions that act with one (R246, R365). -/
def Dev.dropEpoch (d : Dev) (n : NetId) (p : PartId) : Dev := if d.companion n p then d.nextAepoch n else d.nextEpoch n

/-- A companion drop has reached every companion partition: open frames of the companions' tensors close, and the feeder goes on
(R365). -/
def Dev.dropEndCompanion (d : Dev) (n : NetId) : Dev :=
  (d.dropCalipers n true).modNet n (fun x => { x with aclosed := false })

/-- The drop has reached every partition: frames counted, epoch advanced, the predictor's lists forgotten, the maquette
frame in flight discarded (R82), admission at the next boundary. Assumption 45 (DESIGN CHOICE): unsafe. -/
def Dev.dropEnd (d : Dev) (n : NetId) (by_ : PartId) : Dev :=
  if d.companion n by_ then d.dropEndCompanion n
  else
  let k := (d.framesIn n).length
  let d := d.trialAgain n (if (d.net n).maq.trial then (d.net n).maq.inFlight.length else 0)
  let d1 := (d.dropCalipers n false).modPart by_ (fun p => { p with dlkDrop := satAdd p.dlkDrop k })
  let d2 := d1.modNet n (fun x =>
    { x.endFrames with inFlight := [], slow := [], openAt := true,
                       maq := { x.maq with inFlight := [], voided := [], reports := [], outs := [], calReps := [],
                                           due := x.maq.due || (!x.maq.inFlight.isEmpty && !x.maq.trial) } })
  d2.modRoute (fun r => { r with groups := tblMap none r.groups (fun _ o => o.map (fun g =>
    if g.net == n then { g with lists := [], tiles := [], lastFrame := none, offered := none, firstOff := none } else g)) })

/-! ## The census (R242 to R247) -/

/-- Queues that the census of a partition watches. -/
def Dev.watchedOf (d : Dev) (p : PartId) : List QueueId := (d.queuesOfPart p).filter (fun q => (d.queue q).watched)

/-- A class 0 packet carries the drop to every partition of the network (Table 6-8). -/
def Dev.dropNotices (d : Dev) (p : PartId) (ps : List PartId) : Dev :=
  ps.foldl (fun d q => d.notice p (epPart q) opcDrop) d

/-- CENSUS_FIRE (R243, R245 to R247): the count has reached 65,536, and stays there without a full and a non-empty queue. A
resolution in progress in the partition's network goes on. Assumption 150 (DEDUCED): unsafe. -/
def censusFire (p : PartId) (d : Dev) : Dev :=
  if d.censusHeld p then d
  else
  let qs := d.watchedOf p
  match qs.find? (fun q => (d.queue q).full), qs.find? (fun q => (d.queue q).nonEmpty) with
  | some fq, some nq =>
      let n := (d.part p).net
      let host := d.hostMode p 4
      let d1 := d.modPart p (fun x =>
        { x with dlkCnt := 65536#17, fullq := fq, neq := nq, dlkFires := satInc x.dlkFires, frozen := host,
                 scrubbing := x.scrubbing && !host })
      let d2 := d1.raise 0x4001#16 p [arg32 fq, arg32 nq, (d.net n).frameNow, (if host then 1#32 else 0#32)]
      let d3 := if d.companion n p then (d2.batchLost n).modNet n (fun x => { x with aclosed := true }) else d2.modNet n Network.close
      if host || (d.domain n p).any (fun q => (d.net n).dropPend.contains q) then d3
      else (d3.modNet n (fun x => { x with dropPend := x.dropPend ++ d.domain n p, dropBy := if d.companion n p then x.dropBy else p })).dropNotices
        p ((d.domain n p).erase p)
  | _, _ => d.modPart p (fun x => { x with dlkCnt := 65536#17 })
def execCensusFire (p : PartId) (s : State) : Ans := .next { s with dev := censusFire p s.dev }

/-- DEADLOCK_DROP (Table 6-8): the drop reaches one partition of the network; with the first the epoch changes.
Assumption 150 (DEDUCED): unsafe. -/
def deadlockDrop (p : PartId) (d : Dev) : Dev :=
  let n := (d.part p).net
  if !(d.net n).dropPend.contains p then d
  else
    let d0 := if (d.domain n p).all (fun q => (d.net n).dropPend.contains q) then d.dropEpoch n p else d
    let d1 := ((d0.trimFlights n).dropPart p).modNet n (fun x => { x with dropPend := x.dropPend.erase p })
    if (d1.domain n p).any (fun q => (d1.net n).dropPend.contains q) then d1
    else d1.dropEnd n (if d1.companion n p then p else (d.net n).dropBy)
def execDeadlockDrop (p : PartId) (s : State) : Ans := .next { s with dev := deadlockDrop p s.dev }

/-- A rejected expert write (R464). -/
def Dev.xptReject (d : Dev) : Dev := { d with xptRej := satInc d.xptRej }

/-- The steps of Table 6-8 from the drop onward, in every partition, at a census that is frozen.
Assumption 46 (DESIGN CHOICE): safe. -/
def Dev.dropResume (d : Dev) (p : PartId) : Dev :=
  let n := (d.part p).net
  let d1 := (d.domain n p).foldl (fun d q => d.dropPart q)
    (((d.trimFlights n).modPart p (fun x => { x with frozen := false, dlkCnt := 0#17, scrubbing := true, scrubPos := 0 })).dropEpoch n p)
  ((if d.companion n p then d1 else d1.modNet n Network.close).dropEnd n p).censusBackNet n

/-- DLK_DROP_AND_RESUME (R248). -/
def dlkDropResume (p : PartId) (d : Dev) : Dev := if !d.xptWen || !(d.part p).frozen then d.xptReject else d.dropResume p
def execDlkDropAndResume (p : PartId) (s : State) : Ans := .next (hostWriteDie (dieOfPart p) (dlkDropResume p) s)

/-- DLK_CONTINUE (R248): unfrozen with contents unchanged; the admission that the freeze stopped opens again. -/
def dlkContinue (p : PartId) (d : Dev) : Dev :=
  if !d.xptWen || !(d.part p).frozen then d.xptReject
  else
    let n := (d.part p).net
    ((d.modPart p (fun x => { x with frozen := false, dlkCnt := 0#17, scrubbing := true, scrubPos := 0 })).modNet n (fun x =>
      if d.companion n p then { x with aclosed := false } else { x with openAt := x.stoppedBy.isNone && !x.held })).censusBackNet n
def execDlkContinue (p : PartId) (s : State) : Ans := .next (hostWriteDie (dieOfPart p) (dlkContinue p) s)

end Sys2Proof.Machine
end

