-- ==== Sys2Proof/Machine/Position.lean ====
section
/-! DEFINITION. The position that the predictor gives a frame of a reference group (R340 to R344), and the lists that go on when a
partition of the group's destinations is in service again (Table 9-6). -/
namespace Sys2Proof.Machine

open Sys2Proof

/-! ## Position (R340 to R344), in nanometres -/

/-- Direction of travel: −1 when REV is set (R342). -/
def dirOf (rev : Bool) : Int := if rev then -1 else 1

/-- The position at PTP time `t` ns that a record predicts (R342). -/
def PosRec.at (r : PosRec) (t : Int) : Int :=
  r.rdist.toNat * 1000000000 + dirOf r.rev * (r.speed.toNat * (t - r.time.toNat))

/-- A position in mm, as a register or an event carries it. -/
def mm32 (nm : Int) : W32 := BitVec.ofInt 32 (nm / 1000000000)

/-- Bin length in mm: BINLEN steps of 0.25 m, 0 reading as 64. -/
def Route.binMm (r : Route) : Nat := (if r.binlen == 0#6 then 64 else r.binlen.toNat) * 250

/-- HORIZON in frames, 0 reading as 1. -/
def Route.ahead (r : Route) : Nat := if r.horizon == 0#6 then 1 else r.horizon.toNat

/-- Frames from `a` to `f`, which may be negative. -/
def framesFrom (a f : W32) : Int := (f - a).toInt

/-- The position of a frame of a group (R344): that of its first line when it has been offered, else ahead of the latest offered. -/
def Dev.framePos (d : Dev) (x : RefGroup) (f : W32) : Int :=
  let r := d.route.last
  let starts := ((tblGet none (d.net x.net).groups x.img.grp.toNat).map (fun g => g.starts)).getD []
  match starts.find? (fun e => e.1 == f), x.offered with
  | some (_, t), _ => r.at t.toNat
  | none, some (a, t) =>
    if x.img.tmode then r.at (t.toNat + framesFrom a f * (x.img.dt * 1000))
    else r.at t.toNat + dirOf r.rev * framesFrom a f * (x.img.dt * 1000000000)
  | none, none => r.at r.time.toNat

/-- The first bin of a frame's list (R344). -/
def Dev.firstBin (d : Dev) (x : RefGroup) (f : W32) : Int :=
  let r := d.route.last
  let xc := d.framePos x f + dirOf r.rev * x.img.offset * 1000000000
  let u : Int := x.img.u * 1000000000
  (if r.rev then xc + u else xc - u) / (d.route.binMm * 1000000000)

/-! ## Destinations in service again (Table 9-6) -/

/-- The destination of a place of a list. -/
def RefGroup.dest (x : RefGroup) (pos : Nat) : QueueId := x.img.route.getD (pos % max x.img.tpb 1) 0#13

/-- The list of a frame ahead of the latest offered one, with the places in a partition due again. -/
def Dev.resumeList (d : Dev) (p : PartId) (x : RefGroup) (f : W32) : RefList :=
  let old := x.lists.find? (fun l => l.frame == f)
  { frame := f, first := match old with | some l => l.first | none => d.firstBin x f, rev := d.route.last.rev,
    todo := (List.range (x.img.nbin * x.img.tpb)).filter (fun i => !x.tiles.any (fun t => t.frame == f && t.pos == i) &&
      (partOfQueue (x.dest i) == p || (match old with | some l => l.todo.contains i | none => false))) }

/-- A group with destinations in a partition that is released again: it issues to them from the first frame that can be admitted
now, and nothing of earlier frames. -/
def Dev.resumeRef (d : Dev) (p : PartId) (x : RefGroup) : RefGroup :=
  match x.offered, x.lastFrame with
  | some (a, _), some f =>
    let old := (x.lists.filter (fun l => framesFrom a l.frame ≤ 0)).map (fun l =>
      { l with todo := l.todo.filter (fun i => partOfQueue (x.dest i) != p) })
    let ahead := (List.range (framesFrom a f).toNat).map (fun i => d.resumeList p x (a + 1#32 + BitVec.ofNat 32 i))
    { x with lists := (old ++ ahead).filter (fun l => !l.todo.isEmpty || x.tiles.any (fun t => t.frame == l.frame && t.got == 0)) }
  | _, _ => x

/-- The predictor goes on with the destinations in a partition. -/
def Dev.resumeRefs (d : Dev) (p : PartId) : Dev :=
  d.modRoute (fun r => { r with groups := tblMap none r.groups (fun _ o => o.map (fun x =>
    if x.img.route.any (fun q => partOfQueue q == p) then d.resumeRef p x else x)) })

end Sys2Proof.Machine
end

