-- ==== Sys2Proof/Machine/ResetOps.lean ====
section
/-! DEFINITION. What the resets, the fence engine and the recovery actions share: the outputs and receivers of a core that
is taken out (R163, R490, Table 4-6, Table 6-9), the programs and local stores that a core loads (R132, R310, R311),
the uncast partition (R308, R326) and the stopped network (R85). -/
namespace Sys2Proof.Machine

open Sys2Proof

/-! ## Images -/

/-- The image of a stage of a cast network. -/
def Dev.stageImg (d : Dev) (n : NetId) (st : StageId) : Option StageImg :=
  (d.net n).img.bind (fun im => im.stages.find? (fun s => s.num == st))

/-- Words placed from a key upward. -/
def tblOf (base : Nat) (ws : List W64) : Tbl W64 :=
  (ws.zipIdx base).foldl (fun t e => tblSet 0#64 t e.2 e.1) []

/-- A core writes its own CIDX into descriptors of kinds 0 to 4 and 8 (R311): four words of one descriptor. -/
def patchCidx (cidx : BitVec 10) (ws : List W64) : List W64 :=
  let opk := bits (ws.headD 0#64) 45 4
  if opk ≤ 4 || opk == 8 then
    ws.modify 3 (fun w => w.extractLsb' 52 12 ++ cidx ++ w.extractLsb' 0 42)
  else ws

/-- The descriptors of one address generator as the configuration memory holds them. -/
def agWords (cidx : BitVec 10) (l : List (List W64)) : List W64 :=
  (List.range 16).flatMap (fun i =>
    let ws := patchCidx cidx ((l[i]?).getD [])
    (List.range 4).map (fun j => (ws[j]?).getD 0#64))

/-- A core with the stage program, descriptors, finishing descriptors and activation table of a program; the common
microcode stays (R310). -/
def Core.loadProg (k : Core) (p : Prog) : Core :=
  { k with
    sched := k.sched.filter (fun e => e.1 < 256) ++ tblOf 256 p.words,
    desc := tblOf 0 (agWords k.cidx p.ag0 ++ agWords k.cidx p.ag1 ++ agWords k.cidx p.ag2 ++ agWords k.cidx p.ag3),
    fin := tblOf 0 p.fin, act := tblOf 0 p.act, rowmax := p.rowmax, plen := p.words.length }

/-- The casting image holds an alternate-lane variant of a stage and alternate lanes between two clusters (R512). -/
def hasAlt (im : NetImg) (st : StageId) (a b : ClusterId) : Bool :=
  im.stages.any (fun s => s.num == st && s.alt.isSome) && im.segs.any (fun g => g.stage == st && g.alt == some (a, b))

/-- The alternate lanes of a stage between two clusters are enabled (Table 15-2, phase 3). -/
def Dev.enableAlt (d : Dev) (n : NetId) (st : StageId) (a b : ClusterId) : Dev :=
  if a == b then d
  else (((d.net n).img.map (fun im => im.segs)).getD []).foldl (fun d g =>
    if g.stage == st && g.alt == some (a, b) then
      { d with parts := tblMod {} d.parts (g.id.extractLsb' 19 5).toNat (fun x =>
          { x with segs := tblMod {} x.segs g.id.toNat (fun y => { y with en := 1#4 <<< y.drv.toNat }) }) }
    else d) d

/-- The program that a core of a stage runs: the degraded variant while the stage is degraded, the alternate-lane variant on
alternate lanes, else the stage's own. -/
def Dev.progOf (d : Dev) (k : Core) (s : StageImg) : Prog :=
  if (d.net k.net).degraded.contains s.num then s.degraded.getD s.prog
  else if k.alt then s.alt.getD s.prog
  else s.prog

/-- The 512-byte bursts of a stage's shadow that a reload reads may all run; the first address that may not. -/
def Dev.shadowFault (d : Dev) (p : PartId) (s : StageImg) : Option Nat :=
  ((List.range ((8 * s.lstore.length + 511) / 512)).map (fun i => s.shadow.toNat + 512 * i)).find?
    (fun a => (d.burstCause p a false false).isSome)

/-- The parameter blocks that a program uses: first word and output channels. -/
def usedParams (p : Prog) : List (Nat × Nat) :=
  p.words.filterMap (fun w => match decodeSeq w with
    | some (.fire f) =>
      if f.mac == 0#3 then none
      else
        let o := (p.ag2[f.dsel.toNat]?).getD []
        some ((finDesc ((p.fin[f.dsel.toNat % 8]?).getD 0#64)).lsparam, if o == [] then 16 else (outDesc (o.getD 0 0#64) (o.getD 1 0#64) (o.getD 3 0#64)).co)
    | _ => none)

/-- Local-store words of the parameter blocks: 12 bytes for each output channel. -/
def paramWords (p : Prog) : List Nat :=
  ((usedParams p).flatMap (fun e => (List.range ((3 * e.2 + 1) / 2)).map (fun i => (e.1 + i) % 8192))).eraseDups

/-- The local store of a core is loaded from the stage's shadow; false when the reload meets a translation fault (Table 11-7).
A reload's bursts are of class 0 (R395). A stage whose weights stream has no shadow: at its casting its section loads it, at a reload only the parameter blocks (R132). -/
def Dev.loadStore (d : Dev) (c : CoreId) (s : StageImg) (reload : Bool) : Dev × Bool :=
  if s.streamed then
    let some_ := if reload then paramWords (d.progOf (d.core c) s) else List.range s.lstore.length
    (d.modCore c (fun k => some_.foldl (fun k a => { k with
      ls := tblSet 0#64 k.ls a (s.lstore.getD a 0#64), lsErr := tblSet 0 k.lsErr a 0, lsFix := k.lsFix.erase (BitVec.ofNat 13 a) }) k), true)
  else match d.shadowFault (partOfCore c) s with
  | some a => (d.tfault (.shadow c) (partOfCore c) a, false)
  | none =>
    let ws := (List.range s.lstore.length).map (fun i => BitVec.ofNat 64 (leNat (d.readBytes (s.shadow.toNat + 8 * i) 8)))
    let d1 := if reload then d.countBursts (some (partOfCore c)) 0#2 (granulesOf s.shadow.toNat (8 * s.lstore.length)) else d
    (d1.modCore c (fun k => { k with ls := tblOf 0 ws, lsErr := [], lsFix := [] }), true)

/-- Schedule memory, from the program cache, and local store reloaded (R132). -/
def Dev.reloadCore (d : Dev) (c : CoreId) : Dev × Bool :=
  let k := d.core c
  match d.stageImg k.net k.stage with
  | none => (d, true)
  | some s => ((d.cacheRead (clusterOfCore c)).modCore c (fun k => k.loadProg (d.progOf k s))).loadStore c s true

/-! ## A core that is taken out: its outputs (Table 4-6, Table 6-9) -/

/-- Words of a position's slots in a frame. -/
def slotWordsIn (s : SlotImg) (p f : Nat) : Nat := (slotRowsOf s p f).length * s.words

/-- The end of the run of lengths that reaches past `r`. -/
def runEnd : List Nat → Nat → Nat → Nat
  | [], acc, _ => acc
  | n :: t, acc, r => if r < acc + n then acc + n else runEnd t (acc + n) r

/-- Words of a position's slots up to the end of the block that holds its row of index `r`; all of them when the cores hold
channel groups (R515). -/
def slotBlockEnd (s : SlotImg) (p f r : Nat) : Nat :=
  if s.grouped then slotWordsIn s p f
  else
    let own := (List.range (slotBlocks s)).filter (fun b => ((f - s.base) * slotBlocks s + b) % max s.ncore 1 == p)
    runEnd (own.map (fun b => min s.rb (slotLines s - b / max s.members 1 * s.rb))) 0 r * s.words

/-- A producer end gives up its frame: its open packet is closed bad or aborted; its slots from where it stands are left to
the queue manager to void, up to the end of the block of row `r` or of the frame; a queue without slots gets the rest of
the frame void. -/
def Queue.giveUp (q : Queue) (port : Nat) (edge : Option (Nat × Nat)) (inFrame : Bool) (r : Option Nat) : Queue :=
  let p := q.prod port
  let q1 := q.closeBad port false
  if !inFrame then q1
  else match q.slot with
    | some s =>
      if p.slotFrame == 0 then q1
      else
        let f := p.slotFrame - 1
        let sf := q.slotFor s f
        let last := match r with | some r => slotBlockEnd sf port f r | none => slotWordsIn sf port f
        if p.slotWord < last then
          { q1.modProd port (fun x => { x with slotWord := last }) with voids := q1.voids ++ [⟨port, f, p.slotWord, last⟩] }
        else q1
    | none =>
      match q.pmode, edge with
      | .plain, some (rows, words) => q1.modProd port (fun x => { x with voidLeft := rows * words - p.slotWord, voidRow := words })
      | _, _ => q1

/-- Rows and words per row of the edge that a queue carries (R60). -/
def Dev.edgeOf (d : Dev) (n : NetId) (q : QueueId) : Option (Nat × Nat) :=
  (d.net n).img.bind (fun im => (im.edges.find? (fun e => e.q == q)).map (fun e => (e.prodRows, e.prodWords)))

/-- The outputs of a core are given up, those to the queues that `f` chooses. -/
def Dev.giveUpOuts (d : Dev) (c : CoreId) (r : Option Nat) (f : QueueId → Bool) : Dev :=
  let k := d.core c
  k.outs.foldl (fun d o => match o with
    | none => d
    | some o =>
      if f o.q && (d.queue o.q).cap != 0 then d.putQueue o.q ((d.queue o.q).giveUp o.port.toNat (d.edgeOf k.net o.q) k.inFrame r) else d) d

/-- The words of a unit of an input whose queue carries no frame-start markers: a tile with its tag, or what one LOAD of the
port takes of a weight stream or an image; none for an edge of frames (R132, R134, R338, R364).
Assumption 149 (DEDUCED): unsafe. -/
def Dev.unitAt (d : Dev) (k : Core) (port : Nat) (q : QueueId) : Option Nat :=
  match d.refGroupAt k port with
  | some g => some (1 + 64 * g.img.tsize)
  | none =>
    if (d.queue q).stream.isSome || d.adapt.any (fun e => e.2.net == some k.net && e.2.stages.any (fun s => s.q == q)) then
      some ((k.sched.findSome? (fun e => match decodeSeq e.2 with
        | some (.load w p _) => if p.toNat == port && 256 ≤ e.1 then some w.toNat else none
        | _ => none)).getD 1)
    else none

/-- The input receivers of a core that `f` chooses move to the next frame-start marker, or to the next unit of a stream
(Table 4-6, R132, R264). -/
def Dev.giveUpIns (d : Dev) (c : CoreId) (f : QueueId → Bool) : Dev :=
  let k := d.core c
  k.ins.zipIdx.foldl (fun d e => match e.1 with
    | none => d
    | some o =>
      if f o.q && (d.queue o.q).cap != 0 then
        let q := d.queue o.q
        d.putQueue o.q (q.modRcv o.rcv (match d.unitAt k e.2 o.q with | some u => q.toNextUnit u | none => q.toNextStart))
      else d) d

/-- A recovery action reached a network's frame: the check of a maquette frame in flight is discarded (R82). -/
def Dev.voidMaq (d : Dev) (n : NetId) : Dev :=
  d.modNet n (fun x => { x with maq := { x.maq with voided := x.maq.inFlight } })

/-! ## The core reset (Table 14-4) -/

/-- Flip-flops, logic cells, counters and sequencer cleared; the rotation and the frames begun go on. -/
def Core.cleared (k : Core) : Core :=
  { k.restart with
    state := if k.spare then .uncast else .transferring, frames := k.frames, frameLog := k.frameLog, buf0 := {}, buf1 := {}, fault := .none, holdCyc := 0#32,
    lsCe := 0#16, lsUe := none, rowcycLast := 0#28, framErr := 0, nullSubs := 0, ff := 0#32, snoopReg := 0#32,
    snoopStrobe := 0#8, snoopTime := none, patch := none, sent := [] }

/-- The counters and flip-flops of a core that runs nothing are cleared; its state stays. -/
def Core.clearedIdle (k : Core) : Core :=
  { k with fault := .none, holdCyc := 0#32, lsCe := 0#16, lsUe := none, rowcycLast := 0#28, framErr := 0, nullSubs := 0, ff := 0#32,
           snoopReg := 0#32, snoopStrobe := 0#8, snoopTime := none, patch := none }

/-- A core reset at its boundary. Assumption 33 (DEDUCED): unsafe. -/
def Dev.coreResetStart (d : Dev) (c : CoreId) : Dev :=
  let k := d.core c
  if !k.assigned || k.spare then d.modCore c Core.clearedIdle
  else
    ((((((d.giveUpOuts c none (fun _ => true)).giveUpIns c (fun _ => true)).voidMaq k.net).resetCalipers c).modCore c
      Core.cleared)).censusBack (partOfCore c)

/-- Its end: reloaded and at its entry, waiting for the next frame-start marker; a reload that meets a translation fault is a
core fault as for a local-store error (Table 11-7). -/
def Dev.coreResetEnd (d : Dev) (c : CoreId) : Dev :=
  if (d.core c).state != .transferring || !(d.core c).assigned || (d.core c).spare then d
  else match d.reloadCore c with
    | (d1, true) => d1.modCore c (fun k => { k.restart with frames := k.frames, frameLog := k.frameLog })
    | (d1, false) => d1.faultCore c .localStore none

/-! ## Fences (R511, R513) -/

/-- The core whose port a segment is; none for another segment (Table 7-3). -/
def coreOfSeg (s : SegId) : Option CoreId :=
  if s.extractLsb' 16 3 == 0#3 then some (s.extractLsb' 19 5 ++ s.extractLsb' 14 2 ++ s.extractLsb' 10 4) else none
/-- The partition at whose switch a segment starts. -/
def partOfSeg (s : SegId) : PartId := s.extractLsb' 19 5

/-- The partition at a side of another in the 4 × 4 grid of a die: column p mod 4, row p div 4, rows counted from the north and columns
from the west. Assumption 135 (PRESUMED): unsafe. -/
def sideOf (p : PartId) (side : BitVec 2) : Option PartId :=
  match side.toNat with
  | 0 => if p.toNat % 16 / 4 == 0 then none else some (p - 4#5)
  | 1 => if p.toNat % 4 == 3 then none else some (p + 1#5)
  | 2 => if p.toNat % 16 / 4 == 3 then none else some (p + 4#5)
  | _ => if p.toNat % 4 == 0 then none else some (p - 1#5)

/-- The partition at the other end of a segment between two partitions: a neighbour, or partition 15 of the other die.
Assumption 135 (PRESUMED): unsafe. -/
def segFar (s : SegId) : Option PartId :=
  match (s.extractLsb' 16 3).toNat with
  | 2 => sideOf (partOfSeg s) (s.extractLsb' 14 2)
  | 3 => if (partOfSeg s).toNat % 16 == 15 then some (partOfSeg s ^^^ 16#5) else none
  | _ => none

/-- The point of a segment exists: a neighbour at that side, the die bridge at partition 15, the plinth bridge at partition 0.
Assumption 135 (PRESUMED): unsafe. -/
def segPoint (s : SegId) : Bool :=
  match (s.extractLsb' 16 3).toNat with
  | 2 | 3 => (segFar s).isSome
  | 4 => (partOfSeg s).toNat % 16 == 0
  | _ => true

/-- The partitions of a segment. -/
def segParts (s : SegId) : List PartId := partOfSeg s :: (segFar s).toList

/-- The core leaves service for good: fenced, off the lists of assigned cores and spares, its six port segments undriven. -/
def Dev.isolate (d : Dev) (c : CoreId) : Dev :=
  (d.modCore c (fun k => { k with state := .fenced, assigned := false, spare := false, wait := .none })).modPart (partOfCore c) (fun x =>
    { x with segs := tblMap {} x.segs (fun i g => if coreOfSeg (BitVec.ofNat 24 i) == some c then { g with en := 0#4 } else g) })

/-- A fence is written to the fence log with the map generation, or counted when the log is full (R511). -/
def Dev.logFence (d : Dev) (c : CoreId) (cause : BitVec 3) : Dev :=
  d.modHealth (fun h =>
    if h.flog.length < 64 then { h with flog := h.flog ++ [⟨c, cause, h.mapgen⟩] } else { h with flogFull := true })

/-- A core that has passed its re-test leaves the fence list and is an unassigned good core (R523). -/
def Dev.freed (d : Dev) (c : CoreId) : Dev :=
  ((d.modHealth (fun h => { h with
    fences := h.fences.filter (fun f => f.phys != c), flog := h.flog.filter (fun f => f.phys != c),
    passed := h.passed.filter (fun x => x != c) })).modCore c (fun k => { ({} : Core) with wdogEn := k.wdogEn, gateEn := k.gateEn })).bumpMap

/-- The releases that wait for the casting of some partitions apply (Table 15-3). -/
def Dev.freePassed (d : Dev) (ps : List PartId) : Dev :=
  (d.health.passed.filter (fun c => ps.contains (partOfCore c))).foldl (fun d c => d.freed c) d

/-- A core without a logical ID is fenced: nothing is interrupted (R517). -/
def Dev.fenceIdle (d : Dev) (c : CoreId) (cause : BitVec 3) : Dev := (d.logFence c cause).isolate c

/-- Queues elsewhere whose receivers lie in a partition: those follow T while its boundary is down (R46, R308). -/
def Dev.boundaryDown (d : Dev) (p : PartId) : Dev :=
  (d.queueIds.filter (fun q => (d.queue q).cap != 0 && (d.queue q).rcvs.any (fun r => r.part == some p))).foldl
    (fun d q => d.putQueue q (d.queue q)) d

/-! ## Casting that aborts (R327) and drains that begin (R324) -/

/-- CODE of CAST_ERR for a check or happening: not 0, else unnumbered by the manual.
Assumption 14 (DESIGN CHOICE): unsafe. -/
def castCode (k : Nat) : W16 := (Config.castErrCode k).setWidth 16 + 1#16

/-- The result with which a long mailbox command in flight will end. -/
def Dev.longResult (d : Dev) (tag : Option Byte) (res : W16) : Dev :=
  match tag with
  | none => d
  | some t => d.modMbx (fun m => { m with longs := m.longs.map (fun l => if l.tag == t then { l with result := res } else l) })

/-- An abort leaves every partition of the network held and raises the casting event. -/
def Dev.castAbort (d : Dev) (n : NetId) (code : Nat) (res : W32) : Dev :=
  match (d.net n).casting with
  | none => d
  | some k =>
    let ps := d.partsOfNet n
    let d1 := ps.foldl (fun d p => d.boundaryDown p) (d.modParts ps (fun x =>
      { x with cast := .heldAbort, scrubbing := false, castErr := castCode code, castStep := BitVec.ofNat 4 k.step, castRes := res }))
    let d2 := (d1.modNet n (fun x => { x with casting := none, held := true })).longResult k.tag 8#16
    match ps with
    | p :: _ => d2.raise 0x5002#16 p [BitVec.ofNat 32 k.step, arg32 (castCode code), res, d2.health.mapgen]
    | [] => d2.raise0 0x5002#16 [BitVec.ofNat 32 k.step, arg32 (castCode code), res, d2.health.mapgen]

/-- Admission stops and the network drains (R324, R326). -/
def Dev.startDrain (d : Dev) (n : NetId) (why : DrainFor) (tag : Option Byte) : Dev :=
  (d.modNet n (fun x => { x.close with drain := some why, drainTag := tag })).modParts (d.partsOfNet n)
    (fun x => if x.cast == .released || x.cast == .stopped then { x with cast := .draining } else x)

/-! ## Queues of a cluster or a partition in reset (Table 6-9) -/

/-- A queue's page counters are cleared (Table 14-6, row 8). -/
def Queue.clearCounts (q : Queue) : Queue :=
  { q with epdisc := 0#32, gaps := 0#32, gapw := 0#32, badpkt := 0#16, winerr := 0#16, winEvt := none, qhold := 0#32,
           spwords := 0#32, sperr := 0#16, markerr := 0#16, ringFull := false }

/-- Contents discarded, pointers at T; receivers accept the epoch in force and wait for the next frame-start marker; a packet
queue carries none, and its receivers go on at T. -/
def Dev.resetQueue (d : Dev) (id : QueueId) : Dev :=
  let e := d.epochOf id
  let w := d.awaits id
  (d.emptyQueue id).modQueue id (fun q =>
    let q1 := q.clearCounts
    { q1 with rcvs := q1.rcvs.map (fun r => { r with await := w, e := e }) })

/-- The cores that `f` chooses void the rest of their frames (R265). -/
def Dev.voidFrames (d : Dev) (cs : List CoreId) : Dev :=
  d.modCores cs (fun k => if k.inFrame then { k with voiding := true, flags := k.flags ||| 2#8 } else k)

/-- A core reads a queue. -/
def Core.reads (k : Core) (q : QueueId) : Bool := k.ins.any (fun o => match o with | some p => p.q == q | none => false)

/-- Queues reset, and the frames in progress of the cores outside that read them voided. -/
def Dev.resetQueues (d : Dev) (qs : List QueueId) (inside : CoreId → Bool) : Dev :=
  let d1 := (d.cancelFor qs)
  let d2 := qs.foldl (fun d q => d.resetQueue q) d1
  d2.voidFrames (d2.coreIds.filter (fun c => !inside c && qs.any (fun q => (d2.core c).reads q)))

/-! ## Stopped and uncast -/

/-- A partition stops its network (R85): admission stops and an event is raised; its other partitions run empty. A companion
partition stops the replay feeder and its open batch, and nothing forward (R365, Table 10-4).
Assumption 51 (DESIGN CHOICE): safe. -/
def Dev.stopNet (d : Dev) (n : NetId) (p : PartId) (why : Nat) : Dev :=
  let d1 := if d.companion n p then (d.batchLost n).modNet n (fun x => { x with aclosed := true })
    else d.modNet n (fun x => { x.close with stoppedBy := some (Config.stopCause why) })
  (d1.modPart p (fun x =>
    if x.cast == .released || x.cast == .draining then { x with cast := .stopped } else x)).raise 0x2004#16 p
      [arg32 n, Config.stopCause why]

/-- A core with nothing loaded: its place in the map and its configuration are gone; XCFG and the fenced state stay.
Assumption 117 (DEDUCED): unsafe. -/
def Core.unloaded (k : Core) : Core :=
  { ({} : Core) with
    state := if k.state == .fenced then .fenced else .uncast, wdogEn := k.wdogEn, gateEn := k.gateEn }

/-- The segments that carry lanes of a network leave, wherever they lie (R256). -/
def Dev.dropSegs (d : Dev) (n : NetId) : Dev :=
  { d with parts := tblMap {} d.parts (fun _ x => { x with segs := x.segs.filter (fun e => e.2.net != n) }) }

/-- Nothing is loaded in a partition any more: its cores are unassigned and their logical IDs leave the map, and its queues
and configuration are gone. -/
def Dev.unload (d : Dev) (p : PartId) : Dev :=
  let cs := (coresOfPart p).filter (fun c => (d.core c).assigned)
  let d1 := cs.foldl (fun d c =>
    let k := d.core c
    let d1 := d.modCore c Core.unloaded
    if k.spare then d1
    else d1.mapTo k.logical none) d
  let d2 := { d1 with
    cores := tblMap {} d1.cores (fun i k => if partOfCore (BitVec.ofNat 11 i) == p then k.unloaded else k),
    queues := tblMap {} d1.queues (fun i q => if partOfQueue (BitVec.ofNat 13 i) == p then { rsel := q.rsel } else q),
    clusters := tblMap {} d1.clusters (fun i c => if partOfCluster (BitVec.ofNat 7 i) == p then { c with cacheChunks := [], map := [] } else c) }
  d2.modPart p (fun x => { x with segs := if x.cast == .uncast then x.segs else x.segs.filter (fun e => e.2.net != x.net), cfgChunks := [], relAck := false, act := none, faultWait := none,
                                  frozen := false, dlkCnt := 0#17, scrubbing := false, reload := none, cfgUe := [] })

/-- Memory work of a partition that has not been granted is cancelled: every class but DMA and the host (Table 11-8). -/
def Dev.cancelPart (d : Dev) (p : PartId) : Dev :=
  d.cancelBursts (fun b => b.part == p && (match b.who with | .dma _ | .host => false | _ => true))

/-! ## Contexts (R428) -/

/-- A context whose NET, GRP and MEMBER name a member of a group of a cast network is bound and loaded; an unbound one holds
nothing that casting loads (Table 14-6, row 3). Assumption 151 (DEDUCED): unsafe. -/
def Dev.bindCtx (d : Dev) (c : BitVec 10) : Dev :=
  let x := d.ctx c
  let g := if (d.partsOfNet x.net).isEmpty then none
    else (d.net x.net).img.bind (fun im => im.groups.find? (fun g => g.grp == x.grp && x.member.toNat < g.members))
  match g with
  | none => d.modCtx c (fun x => { x with bound := false, widthM1 := 0#14, linesM1 := 0#14, lscan := false, pixfmt := 0#4, zp := 0#16,
                                           dest := 0#13 })
  | some g => d.modCtx c (fun x =>
      { x.restream (((d.group x.net g.grp).map (fun y => y.counter)).getD 0#32) with
               bound := true, widthM1 := BitVec.ofNat 14 (g.width - 1), linesM1 := BitVec.ofNat 14 (g.lines - 1), lscan := g.lscan,
               pixfmt := g.pixfmt, zp := g.zp, dest := (g.dests[x.member.toNat]?).getD 0#13 })

/-- Every context that names a network, bound or unbound as its groups now are. -/
def Dev.bindNet (d : Dev) (n : NetId) : Dev :=
  (((List.range 1024).map (BitVec.ofNat 10)).filter (fun c => (d.ctx c).net == n)).foldl (fun d c => d.bindCtx c) d

/-- The network's plinth side leaves service when its last partition is uncast: tensors, groups, reference groups and record
outputs go, and its contexts are unbound; frame counters and the epoch stay (R322). -/
def Dev.netGone (d : Dev) (n : NetId) : Dev :=
  let d1 := d.modNet n (fun x =>
    { x.close with img := none, tensors := [], casting := none, drain := none, drainTag := none, maq := { counter := x.maq.counter },
                   held := false, probation := false, degraded := [], switchAt := [], inFlight := [], slow := [], dropPend := [],
                   stoppedBy := none, groups := tblMap none x.groups (fun _ o => o.map (fun g => { g with live := [], buf := [], displace := false, taken := false })) })
  let d2 := (d1.dropSegs n).modRoute (fun r => { r with groups := r.groups.filter (fun e => match e.2 with | some g => g.net != n | none => true) })
  let d3 := { d2 with
    reports := d2.reports.filter (fun r => r.net != n), blockReps := d2.blockReps.filter (fun r => r.1 != n),
    routs := tblMap {} d2.routs (fun _ r => if r.net == n then { r with valid := false, net := 0#5, stage := 0#11 } else r),
    adapt := tblMap {} d2.adapt (fun _ a => if a.net == some n then {} else a),
    ing := { d2.ing with chans := d2.ing.chans.filter (fun c => c.net != n) } }
  d3.bindNet n

/-- The receivers of a partition, and those of its queues, are taken over at its release (Table 6-9, R250). -/
def Dev.takeOver (d : Dev) (p : PartId) : Dev :=
  d.queueIds.foldl (fun d q =>
    if (d.queue q).cap != 0 && (partOfQueue q == p || (d.queue q).rcvs.any (fun r => r.part == some p)) then
      let e := d.epochOf q
      let w := d.awaits q
      d.modQueue q (fun x => { x with rcvs := x.rcvs.map (fun r =>
        if partOfQueue q == p || r.part == some p then { r with e := e, await := w } else r) })
    else d) d

/-- A stopped partition is released again; one whose boundary retention has shut is taken over (R46). -/
def Dev.reopen (d : Dev) (p : PartId) : Dev :=
  let d1 := d.modPart p (fun x =>
    { x with cast := if x.cast == .stopped then .released else x.cast, shut := false, scrubbing := true, scrubPos := 0 })
  ((if (d.part p).shut then d1.takeOver p else d1).censusBack p).resumeRefs p

/-- A partition becomes uncast at once: by a die reset, or at the end of a drain for UNCAST. What its cores hold open elsewhere is
given up first (R222, R225), and their collectors are lost (R186, R194). -/
def Dev.uncastPart (d : Dev) (p : PartId) : Dev :=
  let n := (d.part p).net
  let was := (d.part p).cast != .uncast
  let d0 := ((coresOfPart p).filter (fun c => (d.core c).assigned && !(d.core c).spare)).foldl (fun d c =>
    (d.giveUpOuts c none (fun q => partOfQueue q != p)).resetCalipers c) d
  let d1 := (((d0.unload p).cancelPart p).modPart p (fun x =>
    { x with cast := .uncast, net := 0#5, slot := 0#3, slotValid := false, rounds := 0#2, shut := false })).boundaryDown p
  if was && (d1.partsOfNet n).isEmpty then d1.netGone n
  else if was && d.companion n p then { d1 with adapt := tblMap {} d1.adapt (fun _ a => if a.net == some n then {} else a) }
  else d1

end Sys2Proof.Machine
end

