-- ==== Sys2Proof/Machine/Armature.lean ====
section
/-! DEFINITION. The circuit layer's recovery (chapter 07): contention, its notice and the lifting of a force (R263 to
R267), and the scrubber (R268 to R271). -/
namespace Sys2Proof.Machine

open Sys2Proof

def Dev.seg (d : Dev) (s : SegId) : Seg := tblGet {} (d.part (partOfSeg s)).segs s.toNat
def Dev.modSeg (d : Dev) (s : SegId) (f : Seg → Seg) : Dev :=
  d.modPart (partOfSeg s) (fun x => { x with segs := tblMod {} x.segs s.toNat f })

/-- Drive enables set. -/
def enCount (en : BitVec 4) : Nat := ((List.range 4).filter (fun i => en.getLsbD i)).length
/-- The condition of a contention detector (R263). -/
def contended (own : Bool) (en : BitVec 4) : Bool := 2 ≤ enCount en || (en != 0#4 && !own)
/-- The drive enables that casting gives a segment: its one driver's, or none (R261). -/
def Seg.ownEn (g : Seg) : BitVec 4 := if g.own then 1#4 <<< g.drv.toNat else 0#4

/-- The receiving end of a forced lane takes no word until a frame-start marker has come after the force (R264): the queue manager's
end of a write lane, for the port whose words it carries, or the receiver of a read lane, when its queue carries frames.
Assumption 150 (DEDUCED): unsafe. -/
def Dev.dropLane (d : Dev) (g : Seg) : Dev :=
  match g.q, g.rcv with
  | some q, none => d.modQueue q (fun x => match g.port with
    | none => { x with prods := tblMap {} x.prods (fun _ p => { p with dropToMarker := true }) }
    | some i => x.modProd i.toNat (fun p => { p with dropToMarker := true }))
  | some q, some r => if d.awaits q then d.modQueue q (fun x => x.modRcv r (fun y => { y with await := true })) else d
  | none, _ => d

/-- Force a segment to zero in both directions, and notify every core of the stage affected (R263, R265). -/
def Dev.force (d : Dev) (s : SegId) (en : BitVec 4) : Dev :=
  let g := d.seg s
  let d1 := (d.modSeg s (fun g => { g with en := en, forced := true })).dropLane g
  if g.q.isNone then d1
  else (d1.coresOfStage g.net g.stage).foldl (fun d c => d.notice (partOfSeg s) (epCore c) opcContention) d1

/-- Partitions whose lanes cross a segment: the owner of its queue, and those of the cores at the lane's other end. -/
def Dev.laneParts (d : Dev) (s : SegId) : List PartId :=
  match (d.seg s).q with
  | none => [partOfSeg s]
  | some q =>
    let ends := d.coreIds.filter (fun c =>
      let k := d.core c
      k.assigned && (match (d.seg s).rcv with
        | none => k.outs.any (fun o => match o with | some p => p.q == q | none => false)
        | some r => k.ins.any (fun o => match o with | some p => p.q == q && p.rcv == r | none => false)))
    (partOfQueue q :: ends.map partOfCore).eraseDups

/-- A segment that contends again within 100 ms of its release is a hard fault (R267): of its core, or of the partitions whose
lanes cross it, and the segment is recorded. -/
def Dev.hardFault (d : Dev) (s : SegId) : Dev :=
  let d1 := d.raise 0x2008#16 (partOfSeg s) [arg32 s]
  match coreOfSeg s with
  | some c => if (d.core c).assigned then d1.faultCore c .none none else d1.fenceIdle c 5#3
  | none =>
    (d.laneParts s).foldl (fun d p => d.stopNet (d.part p).net p 1)
      (d1.modHealth (fun h => { h with badSegs := if h.badSegs.contains s then h.badSegs else h.badSegs ++ [s] }))

/-- CONTENTION_DETECT. -/
def contentionDetect (s : SegId) (en : BitVec 4) (d : Dev) : Dev :=
  let g := d.seg s
  if g.forced || !contended g.own en then d
  else
    let again : Bool := match g.liftedAt with | some t => decide ((d.time - t).toNat < 30000000) | none => false
    let d1 := (d.force s en).modPart (partOfSeg s) (fun x => { x with contSeg := s, contCnt := satInc x.contCnt })
    let d2 := d1.raise 0x3001#16 (partOfSeg s) [arg32 s]
    if again then d2.hardFault s else d2
def execContentionDetect (s : SegId) (en : BitVec 4) (st : State) : Ans :=
  .next { st with dev := contentionDetect s en st.dev }

/-- The ports of a core whose queues carry frames. -/
def Dev.framePorts (d : Dev) (k : Core) : BitVec 4 :=
  [0, 1, 2, 3].foldl (fun m i => match k.inPort i with | some p => if d.awaits p.q then m ||| (1#4 <<< i) else m | none => m) 0#4

/-- CONTENTION_NOTICE (R265): the frame in progress is voided on every output, and nothing more of it is read: FRAME releases what
is left at each input, up to the next frame-start marker. Assumption 150 (DEDUCED): unsafe. -/
def contentionNotice (c : CoreId) (d : Dev) : Dev :=
  if (d.core c).assigned && (d.core c).inFrame then
    let m := d.framePorts (d.core c)
    ((d.voidFrames [c]).modCore c (fun k => { k with lost := k.lost ||| m })).voidMaq (d.core c).net
  else d
def execContentionNotice (c : CoreId) (s : State) : Ans := .next { s with dev := contentionNotice c s.dev }

/-- The reload of a configuration frame in progress holds a segment. Assumption 48 (DESIGN CHOICE): safe. -/
def Dev.reloadHolds (d : Dev) (s : SegId) : Bool :=
  match (d.part (partOfSeg s)).reload with | some w => Config.segFrame s == w.toNat / 64 | none => false

/-- A segment is released with the drive enables that casting gave it. Assumption 49 (DEDUCED): unsafe. -/
def Dev.lift (d : Dev) (s : SegId) : Dev := d.modSeg s (fun g => { g with en := g.ownEn, forced := false, liftedAt := some d.time })

/-- FORCE_LIFT (R266): the scrubber has corrected the upset word, which counts as any single-bit error it finds. -/
def forceLift (s : SegId) (d : Dev) : Dev :=
  if !(d.seg s).forced || d.reloadHolds s || d.health.badSegs.contains s then d
  else (d.lift s).modPart (partOfSeg s) (fun x => { x with scrubCe := satInc x.scrubCe })
def execForceLift (s : SegId) (st : State) : Ans := .next { st with dev := forceLift s st.dev }

/-! ## The scrubber -/

/-- Words of a partition's configuration memory, and of its 64 cores' (Table 7-5). -/
def cfgWords : Nat := 188416
def cfgCoreWords : Nat := 164416

/-- The scrubber works on a partition that is cast and running (R271). -/
def Partition.scrubs (x : Partition) : Bool := x.live && !x.frozen

/-- SCRUB_PASS_START. -/
def scrubStart (p : PartId) (d : Dev) : Dev :=
  if (d.part p).scrubs && !(d.part p).scrubbing then d.modPart p (fun x => { x with scrubbing := true, scrubPos := 0 }) else d
def execScrubPassStart (p : PartId) (s : State) : Ans := .next { s with dev := scrubStart p s.dev }

/-- An uncorrectable word of a core's configuration (R270, R509, R517): the core-reset path, a fault when it is the core's
second within an hour, and a fence for a core without a logical ID. Assumption 50 (DESIGN CHOICE): unsafe. -/
def Dev.cfgError (d : Dev) (p : PartId) (c : CoreId) : Dev :=
  let k := d.core c
  if !k.assigned || k.spare then (if k.state == .fenced then d else d.fenceIdle c 4#3)
  else
    let hour := (d.part p).cfgUe.filter (fun e => decide ((d.time - e.2).toNat < 1080000000000))
    let d1 := d.modPart p (fun x => { x with cfgUe := (c, d.time) :: hour.filter (fun e => e.1 != c) })
    if hour.any (fun e => e.1 == c) then d1.faultCore c .none none
    else (d1.coreResetStart c).modPart p (fun x => { x with rstCore := satInc x.rstCore })

/-- SCRUB_READ (R268 to R270). -/
def scrubRead (p : PartId) (found : Finding) (d : Dev) : Dev :=
  let x := d.part p
  if !x.scrubs || !x.scrubbing then d
  else
    let i := x.scrubPos
    let d1 := d.modPart p (fun x =>
      if i + 1 < cfgWords then { x with scrubPos := i + 1 } else { x with scrubPos := 0, scrubbing := false, scrubPass := satInc x.scrubPass })
    match found with
    | .clean => d1
    | .single => d1.modPart p (fun x => { x with scrubCe := satInc x.scrubCe })
    | .double =>
      let d2 := (d1.modPart p (fun x => { x with scrubUe := satInc x.scrubUe, scrubUeAddr := some (BitVec.ofNat 18 i) })).raise
        0x3002#16 p [BitVec.ofNat 32 i]
      if i < cfgCoreWords then d2.cfgError p (BitVec.ofNat 11 (p.toNat * 64 + i / 2569))
      else
        let hit := (x.segs.map (fun e => BitVec.ofNat 24 e.1)).filter (fun s => Config.segFrame s == i / 64)
        (hit.foldl (fun d s => d.force s (d.seg s).en) d2).modPart p (fun x => { x with reload := some (BitVec.ofNat 18 i) })
def execScrubRead (p : PartId) (f : Finding) (s : State) : Ans := .next { s with dev := scrubRead p f s.dev }

/-- CONFIG_FRAME_RELOAD_DONE: the frame is rewritten from the shadow and its forces are lifted (R270). -/
def reloadDone (p : PartId) (d : Dev) : Dev :=
  match (d.part p).reload with
  | none => d
  | some w =>
    let hit := ((d.part p).segs.map (fun e => BitVec.ofNat 24 e.1)).filter (fun s => Config.segFrame s == w.toNat / 64)
    (hit.foldl (fun d s => if (d.seg s).forced then d.lift s else d) d).modPart p (fun x => { x with reload := none })
def execConfigFrameReloadDone (p : PartId) (s : State) : Ans := .next { s with dev := reloadDone p s.dev }

end Sys2Proof.Machine
end

