-- ==== Sys2Proof/Machine/Resets.lean ====
section
/-! DEFINITION. The six resets (R490 to R493, Table 14-4, Table 14-6): arming, what each does at its boundary, and the return
to service; RESET_N (R551); and the arithmetic division of a partition (R48, R50). -/
namespace Sys2Proof.Machine

open Sys2Proof

/-! ## Arithmetic division (R48, R50) -/

/-- The slowest division that an active cause requests. -/
def Partition.divWanted (x : Partition) : Div := if x.bow then .d8 else if x.derated then .d5 else .d4
/-- A change of division is requested when the causes want another than the one in force. -/
def Partition.request (x : Partition) : Partition :=
  { x with divNext := if x.divWanted = x.div then none else some x.divWanted }

/-- A partition of a network runs below /4: its frames in flight carry RATE_REDUCED, in the cores that have begun one at once
(Table 2-5, Table 2-6, R502). -/
def Dev.slowed (d : Dev) (n : NetId) : Dev :=
  let d1 := d.trimFlights n
  (d1.modNet n (fun x => { x with slow := x.slow.filter (fun f => x.inFlight.contains f) ++ x.inFlight.filter (fun f => !x.slow.contains f) })).modCores
    ((d1.coresOfNet n).filter (fun c => (d1.core c).inFrame)) (fun k => { k with flags := k.flags ||| 128#8 })

/-- DIVISION_CHANGE (R50): at the alignment boundary. A partition in retention takes it at exit (Table 15-3).
Assumption 150 (DEDUCED): unsafe. -/
def divisionChange (p : PartId) (d : Dev) : Dev :=
  match (d.part p).divNext with
  | none => d
  | some v =>
    if (d.part p).power == .on then
      let x := d.part p
      let d1 := d.modPart p (fun x => { x with div := v, divNext := none })
      if x.cast == .uncast || (v == .d4 && x.div == .d4) then d1 else d1.slowed x.net
    else d
def execDivisionChange (p : PartId) (s : State) : Ans := .next { s with dev := divisionChange p s.dev }

/-! ## Arming (R492) -/

def Dev.rstReject (d : Dev) : Dev := d.modPwr (fun w => { w with rej := satInc w.rej })

/-- RST_ARM_WRITE: 0xA5 arms one command; another value arms nothing. -/
def rstArm (v : W32) (d : Dev) : Dev :=
  if v.extractLsb' 0 8 == 0xA5#8 then d.modPwr (fun w => { w with armed := true }) else d
def execRstArmWrite (v : W32) (s : State) : Ans := .next (hostWritePwr (rstArm v) s)

/-- RST_ARM_EXPIRE. -/
def execRstArmExpire (s : State) : Ans := .next { s with dev := s.dev.modPwr (fun w => { w with armed := false }) }

/-! ## Strength (R493) -/

/-- The strength of a reset in the order of Table 14-4. -/
def rank (k : ResetKind) : Nat :=
  match k with | .core _ => 1 | .cluster _ => 2 | .partition _ => 3 | .die _ => 4 | .warm => 5

/-- The partition of a reset's resource; none of a die or the package. -/
def kindPart (k : ResetKind) : Option PartId :=
  match k with | .core c => some (partOfCore c) | .cluster c => some (partOfCluster c) | .partition p => some p | _ => none

/-- The resource of a reset is that of the other, or contains it. -/
def within (a b : ResetKind) : Bool :=
  match a, b with
  | .warm, _ => true
  | .die i, .die j => i == j
  | .die i, k => (match kindPart k with | some p => dieOfPart p == i.val | none => false)
  | .partition p, .partition q => p == q
  | .partition p, .cluster c => partOfCluster c == p
  | .partition p, .core c => partOfCore c == p
  | .cluster c, .cluster e => c == e
  | .cluster c, .core e => clusterOfCore e == c
  | .core c, .core e => c == e
  | _, _ => false

/-- A reset begins: weaker ones within its resource end unfinished, and hold its clusters no longer. -/
def Dev.begin_ (d : Dev) (k : ResetKind) (src : BitVec 3) : Dev :=
  let d1 := d.pwr.busy.foldl (fun d b => match b with
    | .cluster c => if within k b then d.modCluster c (fun x => { x with inReset := false }) else d
    | _ => d) d
  d1.modPwr (fun w => { w with busy := k :: w.busy.filter (fun b => !within k b), lastKind := BitVec.ofNat 3 (rank k), lastSrc := src })

/-! ## What each reset does -/

/-- Core reset (Table 14-4). -/
def Dev.resetCoreNow (d : Dev) (c : CoreId) (src : BitVec 3) : Dev :=
  ((d.begin_ (.core c) src).coreResetStart c).modPart (partOfCore c) (fun x => { x with rstCore := satInc x.rstCore })

/-- The frames in progress of every stage that has a core among some are voided. -/
def Dev.voidStages (d : Dev) (cs : List CoreId) : Dev :=
  let st := (cs.filter (fun c => (d.core c).assigned && !(d.core c).spare)).map (fun c => ((d.core c).net, (d.core c).stage))
  d.voidFrames (d.coreIds.filter (fun c =>
    (d.core c).assigned && !cs.contains c && st.any (fun e => e.1 == (d.core c).net && e.2 == (d.core c).stage)))

/-- Cluster reset. -/
def Dev.resetClusterNow (d : Dev) (cl : ClusterId) (src : BitVec 3) : Dev :=
  let p := partOfCluster cl
  let cs := coresOfCluster cl
  let d1 := ((d.begin_ (.cluster cl) src).modCluster cl (fun x => { x with inReset := true })).modPart p
    (fun x => { x with rstCluster := satInc x.rstCluster })
  let d2 := d1.voidStages cs
  let qs := d2.queueIds.filter (fun q => clusterOfQueue q == cl && (d2.queue q).cap != 0)
  let d3 := cs.foldl (fun d c => d.coreResetStart c) d2
  d3.resetQueues qs (fun c => clusterOfCore c == cl)

/-- Counters of a partition that its reset clears: those kept through a cluster reset (Table 14-6, row 9). -/
def Partition.clearCounts (x : Partition) : Partition :=
  { x with dlkFires := 0#32, dlkDrop := 0#32, fullq := 0#13, neq := 0#13, contSeg := 0#24, contCnt := 0#32, scrubPass := 0#32,
           scrubCe := 0#32, scrubUe := 0#32, scrubUeAddr := none, pktCrc := 0#16, pktResend := 0#16, pktBlk0 := 0#32,
           snoopMiss := 0#16, patchMiss := 0#16, absorb := 0#32, flushDrop := 0#32, castRep := 0#16,
           castFenced := 0#16, fcnt := 0#16, degCnt := 0#16 }

/-- Partition reset. Assumption 151 (DEDUCED): unsafe. -/
def Dev.resetPartNow (d : Dev) (p : PartId) (src : BitVec 3) : Dev :=
  let n := (d.part p).net
  let wasFrozen := (d.part p).frozen
  let cs := (coresOfPart p).filter (fun c => (d.core c).assigned)
  let d1 := (d.begin_ (.partition p) src).modPart p (fun x =>
    { x.clearCounts with inReset := true, rstPart := satInc x.rstPart, frozen := false, dlkCnt := 0#17, act := none,
                         faultWait := none, scrubbing := false, cfgUe := [], reload := none,
                         segs := tblMap {} x.segs (fun i g =>
                           if g.forced && !d.health.badSegs.contains (BitVec.ofNat 24 i) then { g with en := g.ownEn, forced := false } else g) })
  let d2 := cs.foldl (fun d c => d.giveUpOuts c none (fun q => partOfQueue q != p)) d1
  let idle := d2.coreIds.filter (fun c => partOfCore c == p && !(d2.core c).assigned)
  let d3 := cs.foldl (fun d c => (d.resetCalipers c).modCore c Core.cleared) (d2.modCores idle Core.clearedIdle)
  let d4 := ((d3.cancelPart p).resetQueues (d3.queuesOfPart p) (fun c => partOfCore c == p)).voidMaq n
  let d4 := if d4.companion n p then d4.batchLost n else d4
  let d5 := d4.boundaryDown p
  let d6 := if !wasFrozen then d5
    else if d5.companion n p then d5.modNet n (fun x => { x with aclosed := false })
    else d5.modNet n (fun x => { x with openAt := x.stoppedBy.isNone && !x.held })
  d6.censusBackNet n

/-- A partition as a compute-die reset leaves it: uncast, its casting fields and modes at their reset values; regions, DMA,
clock, power and health fields stay (Table 14-6). Assumption 60 (DEDUCED): unsafe. -/
def Partition.dieReset (x : Partition) : Partition :=
  { x.clearCounts with segs := [], mode := 0x0C0#10, drainTo := 50#10, inReset := false, rstCore := 0#16, rstCluster := 0#16,
                       power := if x.power == .retention then .on else x.power, powerTo := none,
                       pwrReq := if x.power == .retention then 0#2 else x.pwrReq }

/-- Networks with a partition on a die. -/
def Dev.netsOfDie (d : Dev) (i : Nat) : List NetId :=
  allNets.filter (fun n => (d.partsOfNet n).any (fun p => dieOfPart p == i))

/-- Memory requests whose source or destination lies on a die are cancelled; DMA continues (R35, Table 11-8). -/
def Dev.cancelDie (d : Dev) (i : Nat) : Dev :=
  d.cancelBursts (fun b => dieOfPart b.part == i && (match b.who with | .dma _ | .host => false | _ => true))

/-- Compute-die reset: every network with a partition on the die stops under R85, a casting aborts (Table 8-13), and the
die's partitions become uncast. -/
def Dev.resetDieNow (d : Dev) (i : Nat) (src : BitVec 3) : Dev :=
  let ns := d.netsOfDie i
  let d1 := (d.begin_ (.die (if i == 0 then 0 else 1)) src).modPwr (fun w => { w with dieCnt := satInc w.dieCnt })
  let d2 := ns.foldl (fun d n =>
    let here := ((d.partsOfNet n).filter (fun p => dieOfPart p == i)).head?
    let d1 := if (d.net n).casting.isSome then d.castAbort n 101 (arg32 (here.getD 0#5))
      else match here with | some p => d.stopNet n p 2 | none => d
    let d2 := match (d.net n).drain with | some (.recast _) => d1.longResult (d.net n).drainTag 8#16 | _ => d1
    (d2.voidMaq n).modNet n (fun x => { x with drain := none, drainTag := none })) d1
  let d3 := (d2.cancelDie i).modDie i (fun x => { x with inReset := true })
  let d4 := (partsOfDie i).foldl (fun d p =>
    if (d.part p).power == .off then d.modPart p Partition.dieReset else (d.uncastPart p).modPart p Partition.dieReset) d3
  { d4 with
    cores := tblMap {} d4.cores (fun c k => if dieOfCore (BitVec.ofNat 11 c) == i then k.unloaded else k),
    packets := { d4.packets with routers := d4.packets.routers.filter (fun e => !(e.1 / 16 == i && e.1 < 32) && e.1 != 32 + i) },
    doms := ((partsOfDie i).map (fun p => p.toNat) ++ [32 + i]).foldl (fun t k =>
      tblMod {} t k (fun x => { x with gated := true, gates := satInc x.gates })) d4.doms }

/-! ## Package resets -/

/-- The health record and block through a package reset: the record is kept; registers go as Table 15-4 says. -/
def Health.package (h : Health) (cold : Bool) : Health :=
  { h with
    flog := if cold then [] else h.flog, flogFull := if cold then false else h.flogFull, fsel := 0#11, wdHeld := false,
    wdCnt := if cold then 0#16 else h.wdCnt, bankChg := if cold then 0#16 else h.bankChg, wdSig := if cold then 0#32 else h.wdSig,
    wdTimes := [], wdSwitched := false, fwDown := false, mqInt := 10#12, mqRun := 0#32, mqMis := 0#16, mqTrans := 0#16,
    mqUnloc := 0#16, mqFenced := 0#16, rtPassed := 0#12, rtFailed := 0#12, rtSegs := 0#8, retest := [], retestAll := false,
    restarted := false, boots := satInc h.boots, bootlog := [] :: h.bootlog.take 3 }

/-- Bring-up takes the warm fast path (R487, R511). -/
def Dev.fastPath (d : Dev) : Bool :=
  !d.pwr.nofast && !d.health.restarted && d.health.trained && !d.health.flogFull

/-- A package reset: everything but what Table 14-6 keeps. The map is emptied, each entry a change (R37). While a loss of the root
clock lasts, the compute dies stay in reset (R54). Bring-up begins at stage 1. Assumption 137 (DESIGN CHOICE): unsafe. -/
def Dev.packageReset (d : Dev) (cold : Bool) (src : BitVec 3) : Dev :=
  { l := d.l, die1 := d.die1, pll := d.pll, pins := { d.pins with rails := 0xF#4 }, fresh := d.fresh, hot := d.hot,
    psram := if cold then [] else d.psram,
    chans := tblMap {} d.chans (fun _ c => { failed := c.failed }),
    route := { index := if cold then [] else d.route.index },
    parts := tblMap {} d.parts (fun _ x => (({ margin := x.margin, derated := x.derated } : Partition)).request),
    dies := tblMap {} d.dies (fun _ x =>
      { avs := x.avs, monitorAvs := x.avs, unackedAvs := x.unackedAvs, vbase := x.vbase, vmax := x.vmax,
        inReset := d.pll.lossOn }),
    health := { d.health.package cold with mapgen := d.health.mapgen + BitVec.ofNat 32 d.mapped },
    doms := if d.pll.lossOn then ((List.range 32) ++ [32, 33]).foldl (fun t k => tblMod {} t k (fun x => { x with gated := true })) [] else [],
    pwr := { lastKind := if cold then 6#3 else 5#3, lastSrc := src, warmCnt := if cold then 0#16 else satInc d.pwr.warmCnt,
             dieCnt := if cold then 0#16 else d.pwr.dieCnt, nofast := !cold && d.pwr.nofast, stage := 1#4,
             fast := !cold && d.fastPath } }

/-- Power-on (Table 14-4): RESET_N low, or the supplies. -/
def Dev.powerOn (d : Dev) : Dev := d.packageReset true 4#3

/-- Package warm reset. -/
def Dev.warmReset (d : Dev) (src : BitVec 3) : Dev := d.packageReset false src

/-! ## Host commands (R492, R493, Table 14-9) -/

/-- A resource that a host reset names is present, and its partition is cast and powered; a core is not fenced.
Assumption 63 (DEDUCED): unsafe. -/
def Dev.resetTarget (d : Dev) (k : ResetKind) : Bool :=
  match k with
  | .warm => true
  | .die i => d.diePresent i.val && (d.die i.val).railOn
  | k =>
    match kindPart k with
    | none => false
    | some p =>
      let x := d.part p
      d.diePresent (dieOfPart p) && x.power == .on && x.powerTo.isNone && x.cast != .uncast && x.cast != .partly && x.cast != .heldAbort &&
        (match k with | .core c => !d.fenced c && !d.health.defects.contains c | _ => true)

/-- The device runs enough of its bring-up for the reset: in stages 1 to 6 only a warm reset is accepted. -/
def Dev.resetStage (d : Dev) (k : ResetKind) : Bool := k == .warm || 7 ≤ d.pwr.stage.toNat

/-- No reset at least as strong is in progress on the resource or on one that contains it. -/
def Dev.resetFree (d : Dev) (k : ResetKind) : Bool := !d.pwr.busy.any (fun b => within b k)

/-- A write of RST_CMD: it consumes the arming, and is ignored and counted unless the reset may start. -/
def Dev.hostReset (d : Dev) (k : ResetKind) (f : Dev → Dev) : Dev :=
  let d1 := d.modPwr (fun w => { w with armed := false })
  if d.pwr.armed && d.resetTarget k && d.resetStage k && d.resetFree k then f d1 else d1.rstReject

def resetCore (c : CoreId) (d : Dev) : Dev := d.hostReset (.core c) (fun d => d.resetCoreNow c 0#3)
def execResetCore (c : CoreId) (s : State) : Ans := .next (hostWritePwr (resetCore c) s)
def resetCluster (c : ClusterId) (d : Dev) : Dev := d.hostReset (.cluster c) (fun d => d.resetClusterNow c 0#3)
def execResetCluster (c : ClusterId) (s : State) : Ans := .next (hostWritePwr (resetCluster c) s)
def resetPartition (p : PartId) (d : Dev) : Dev := d.hostReset (.partition p) (fun d => d.resetPartNow p 0#3)
def execResetPartition (p : PartId) (s : State) : Ans := .next (hostWritePwr (resetPartition p) s)
def resetComputeDie (i : Fin 2) (d : Dev) : Dev := d.hostReset (.die i) (fun d => d.resetDieNow i.val 0#3)
def execResetComputeDie (i : Fin 2) (s : State) : Ans := .next (hostWritePwr (resetComputeDie i) s)
def resetWarm (d : Dev) : Dev := d.hostReset .warm (fun d => d.warmReset 0#3)
def execResetPackageWarm (s : State) : Ans := .next (hostWritePwr (resetWarm) s)

/-! ## Back in service (Table 14-4) -/

/-- The cores of a list that were reset come back. -/
def Dev.coresBack (d : Dev) (cs : List CoreId) : Dev := cs.foldl (fun d c => d.coreResetEnd c) d

/-- A partition that a fault stopped is released with its reset; the network resumes when no partition of it is stopped (R85). -/
def Dev.partBack (d : Dev) (p : PartId) : Dev :=
  let n := (d.part p).net
  let d1 := d.modPart p (fun x => { x with inReset := false, scrubbing := true, scrubPos := 0 })
  let d3 := (((d1.takeOver p).coresBack (coresOfPart p)).censusBack p).resumeRefs p
  if d3.companion n p then
    let d4 := d3.reopen p
    if (d4.domain n p).all (fun q => (d4.part q).cast == .released) then d4.modNet n (fun x => { x with aclosed := false }) else d4
  else if (d3.net n).stoppedBy.isSome && (d3.part p).cast == .stopped then
    let d4 := d3.reopen p
    if (d4.domain n p).all (fun q => (d4.part q).cast == .released) then
      d4.modNet n (fun x => { x with stoppedBy := none, openAt := true })
    else d4
  else d3

/-- The domains of a die that open with it: its armature's, and those of its partitions that are not powered off (Table 1-7). -/
def Dev.dieWakes (d : Dev) (i : Nat) : List Nat :=
  ((partsOfDie i).filter (fun p => (d.part p).power != .off)).map (fun p => p.toNat) ++ [32 + i]

/-- RESET_COMPLETE: the reset in progress on the resource ends. A die stays in reset at the brown-out reset level, until its
armature test has ended, and through a clock loss. -/
def resetComplete (k : ResetKind) (d : Dev) : Dev :=
  if !d.pwr.busy.contains k then
    (match k with | .core c => d.coreResetEnd c | _ => d)
  else
    let d1 := d.modPwr (fun w => { w with busy := w.busy.erase k })
    match k with
    | .core c => d1.coreResetEnd c
    | .cluster c => (d1.modCluster c (fun x => { x with inReset := false })).coresBack (coresOfCluster c)
    | .partition p => d1.partBack p
    | .die i =>
      if (d.die i.val).resetLvl || (d.die i.val).testing || d.pll.lossOn then d
      else { d1.modDie i.val (fun x => { x with inReset := false }) with
        doms := (d1.dieWakes i.val).foldl (fun t j => tblMod {} t j (fun x => { x with gated := false })) d1.doms }
    | .warm => d1
def execResetComplete (k : ResetKind) (s : State) : Ans := .next { s with dev := resetComplete k s.dev }

/-! ## RESET_N (R551, R552, R553) -/

/-- RESET_N_ASSERT: shorter than 1 µs it is ignored, from 10 µs on it is a power-on reset, in between either (the choice is
a free value). Assumption 112 (DESIGN CHOICE): safe. -/
def resetNAssert (lowNs : Nat) (d : Dev) : Dev :=
  if lowNs < 1000 then d
  else
    let held (d : Dev) : Dev := (d.powerOn).modPwr (fun w => { w with resetHeld := true, supplyFail := d.pwr.supplyFail })
    let low (d : Dev) : Dev := { held d with pins := { d.pins with resetN := false } }
    if 10000 ≤ lowNs then low d
    else
      let (b, d1) := d.free 1
      if b == 1#1 then low d1 else d1
def execResetNAssert (n : Nat) (s : State) : Ans := .next { s with dev := resetNAssert n s.dev }

/-- RESET_N_RELEASE: the straps are sampled once, and bring-up begins at stage 1. -/
def resetNRelease (strap : BitVec 2) (testN : Bool) (d : Dev) : Dev :=
  if !d.pwr.resetHeld then d
  else { d.modPwr (fun w => { w with resetHeld := false }) with
    pins := { d.pins with resetN := true, strap := strap, testN := testN } }
def execResetNRelease (strap : BitVec 2) (testN : Bool) (s : State) : Ans :=
  .next { s with dev := resetNRelease strap testN s.dev }

end Sys2Proof.Machine
end

