-- ==== Sys2Proof/Machine/Fence.lean ====
section
/-! DEFINITION. Fencing (R509 to R517), the second-fault policy and degraded variants (R518 to R522), the fence log (R511), and
re-tests (R523). -/
namespace Sys2Proof.Machine

open Sys2Proof

/-- FAULT of CORE_STAT (Table 3-13). -/
def faultCode (f : CFault) : Nat :=
  match f with
  | .none => 0 | .localStore => 1 | .rowCycle => 2 | .illegal => 3 | .bankConflict => 4 | .nesting => 5 | .zeroRun => 6

/-- CAUSE of a fence for a core fault (Table 15-4); a fault without a FAULT code has the cause that its detector names. -/
def causeOf (f : CFault) (given : BitVec 3) : BitVec 3 :=
  match f with | .none => given | .localStore => 1#3 | .rowCycle => 2#3 | _ => 3#3

/-! ## Spares (R512) -/

/-- A core can take over a logical ID: good, in a cast partition, with no logical ID. -/
def Dev.usableSpare (d : Dev) (c : CoreId) : Bool :=
  let k := d.core c
  d.good c && (!k.assigned || k.spare) && k.state != .faulted

/-- The spare for a fenced core: the lowest of its cluster, else the lowest of its partition when the stage has an
alternate-lane variant and pre-routed alternate lanes between the two clusters. -/
def Dev.chooseSpare (d : Dev) (c : CoreId) : Option CoreId :=
  match (coresOfCluster (clusterOfCore c)).find? (fun s => s != c && d.usableSpare s) with
  | some s => some s
  | none =>
    match (d.net (d.core c).net).img with
    | some im => (coresOfPart (partOfCore c)).find? (fun s =>
        s != c && d.usableSpare s && hasAlt im (d.core c).stage (clusterOfCore c) (clusterOfCore s))
    | none => none

/-! ## Phases 1 to 3 (Table 15-2) -/

/-- The block of an output row, of row blocks of `rb` rows. -/
def blockOf (rb : Nat) (r : Nat × Nat) : Nat × Nat := (r.1 / max rb 1, r.2)

/-- The output rows of a core's frame after the block in progress. -/
def Core.nextRows (k : Core) : List (Nat × Nat) :=
  let rows := k.rowsOf k.dselRow (k.frames - 1)
  let rb := if k.opk 0 k.dselRow ≤ 4 then (k.win 0 k.dselRow).rb else (k.outD k.dselRow).rb
  match rows[k.rowCount]? with
  | none => []
  | some r => (rows.drop k.rowCount).dropWhile (fun x => blockOf rb x == blockOf rb r)

/-- The stage of a core holds channel groups. -/
def Dev.groupedStage (d : Dev) (k : Core) : Bool :=
  match d.stageImg k.net k.stage with | some s => s.channelGroups | none => false

/-- The core's receivers and producer slots under Table 4-6 and Table 6-9: with a spare its block in progress is voided and its
windowed receivers move to its next block; without one the rest of its frame is.
Assumption 32 (DESIGN CHOICE): unsafe. -/
def Dev.leavePorts (d : Dev) (c : CoreId) (spare : Bool) : Dev :=
  let k := d.core c
  let next := if d.groupedStage k then [] else k.nextRows
  if spare && k.inFrame && !next.isEmpty then (d.giveUpOuts c (some k.rowCount) (fun _ => true)).releaseRows c next
  else (d.giveUpOuts c none (fun _ => true)).giveUpIns c (fun _ => true)

/-- Its receivers are never waited for again. -/
def Dev.dropRcvs (d : Dev) (c : CoreId) : Dev :=
  (d.core c).ins.foldl (fun d o => match o with
    | none => d
    | some o => d.putQueue o.q ((d.queue o.q).modRcv o.rcv (fun r => { r with gone := true }))) d

/-- Its receivers pass the frames before a switch frame. -/
def Dev.passRcvs (d : Dev) (c : CoreId) (f : W32) : Dev :=
  (d.core c).ins.foldl (fun d o => match o with
    | none => d
    | some o => d.putQueue o.q ((d.queue o.q).modRcv o.rcv (fun r => { r with upTo := some f }))) d

/-- Its receivers that have passed those frames are removed with the switch (Table 4-6). -/
def Dev.endRcvs (d : Dev) (c : CoreId) (f : W32) : Dev :=
  (d.core c).ins.foldl (fun d o => match o with
    | none => d
    | some o => d.putQueue o.q ((d.queue o.q).modRcv o.rcv (fun r =>
        if r.upTo == some f then { r with gone := true, upTo := none } else r))) d

/-- Event 0x2001, the class 0 notices to the stage's cores, the fence log and the count of fences in service. -/
def Dev.fenceReport (d : Dev) (c : CoreId) (cause : BitVec 3) : Dev :=
  let k := d.core c
  let p := partOfCore c
  let d1 := (d.raise 0x2001#16 p [arg32 c, arg32 k.logical, d.health.mapgen, BitVec.ofNat 32 (faultCode k.fault)]).logFence c cause
  let d2 := d1.modPart p (fun x => { x with fcnt := satInc x.fcnt })
  (d2.coresOfStage k.net k.stage).foldl (fun d s => if s == c then d else d.notice p (epCore s) opcFault) d2

/-! ## No spare (R518 to R521) -/

/-- The stage has a degraded variant that it may use (R521, R522). -/
def Dev.canDegrade (d : Dev) (n : NetId) (st : StageId) : Bool :=
  !(d.net n).degraded.contains st && !(d.net n).switchAt.any (fun e => e.1 == st) &&
    (match d.stageImg n st with | some s => s.degraded.isSome | none => false)

/-- The switch frame: the first that no core of the stage has begun. Assumption 124 (DEDUCED): unsafe. -/
def Dev.switchFrame (d : Dev) (n : NetId) (st : StageId) (failed : CoreId) : W32 :=
  let ks := (failed :: d.coresOfStage n st).map d.core
  match ks.foldl (fun m k => if m.frames < k.frames then k else m) (d.core failed) with
  | k => if k.frames == 0 then (d.net n).frameNow else k.frame + 1#32

/-- Slots of a vacant position in every frame that the stage has begun are voided. -/
def Dev.voidVacant (d : Dev) (c : CoreId) : Dev :=
  let k := d.core c
  k.outs.foldl (fun d o => match o with
    | none => d
    | some o => d.modQueue o.q (fun q => match q.slot with
      | none => q
      | some s =>
        let p := q.prod o.port.toNat
        let top := q.prods.foldl (fun m e => max m e.2.slotFrame) 0
        let fs := (List.range (top - p.slotFrame)).map (fun i => p.slotFrame + i)
        { q.modProd o.port.toNat (fun x => { x with slotFrame := top }) with
          voids := q.voids ++ fs.map (fun f => ⟨o.port.toNat, f, 0, slotWordsIn (q.slotFor s f) o.port.toNat f⟩) })) d

/-- The stage is to switch to its degraded variant: the vacant position's blocks of frames begun are voided, its logical ID is
marked vacant, its receivers pass the frames before S and go with S. -/
def Dev.degrade (d : Dev) (n : NetId) (st : StageId) (c : CoreId) : Dev :=
  let f := d.switchFrame n st c
  (((d.voidVacant c).passRcvs c f).mapTo (d.core c).logical none).modNet n (fun x => { x with switchAt := x.switchAt ++ [(st, f)] })

/-- The second-fault policy of the partition that holds the fault (R518 to R520). -/
def Dev.secondFault (d : Dev) (c : CoreId) : Dev :=
  let k := d.core c
  let p := partOfCore c
  if (d.net k.net).degraded.contains k.stage || (d.net k.net).switchAt.any (fun e => e.1 == k.stage) then d.stopNet k.net p 0
  else if d.hostMode p 1 then (d.stopNet k.net p 0).modPart p (fun x => { x with faultWait := some (k.stage, c) })
  else if d.canDegrade k.net k.stage then d.degrade k.net k.stage c
  else d.stopNet k.net p 0

/-! ## A core fault (R510, R513, R516, R517, Table 8-13) -/

/-- The fence of a core in service, or of a core without a logical ID. Assumption 97 (DEDUCED): unsafe.
Assumption 146 (DEDUCED): unsafe. -/
def Dev.fence (d : Dev) (c : CoreId) (cause : BitVec 3) : Dev :=
  let k := d.core c
  let p := partOfCore c
  if !k.assigned || k.spare then d.fenceIdle c cause
  else
    let n := k.net
    let d1 := ((d.fenceReport c cause).resetCalipers c).voidMaq n
    if (d.part p).act.isSome then (((d1.leavePorts c false).isolate c).mapTo k.logical none).stopNet n p 0
    else if (d.net n).casting.isSome then
      ((d1.leavePorts c false).isolate c).castAbort n 102 (arg32 k.logical)
    else if (d.part p).cast == .draining then (((d1.leavePorts c false).dropRcvs c).isolate c).mapTo k.logical none
    else match d.chooseSpare c with
      | some s =>
        ((((d1.leavePorts c true).isolate c).mapTo k.logical (some s)).enableAlt n k.stage (clusterOfCore c) (clusterOfCore s)).modPart p
          (fun x => { x with act := some ⟨c, s, .check⟩ })
      | none => ((d1.leavePorts c false).isolate c).secondFault c

/-- FENCE_START: the fence engine acts on a core that has stopped by a fault (R109, R510). -/
def fenceStart (c : CoreId) (cause : BitVec 3) (d : Dev) : Dev :=
  let k := d.core c
  if k.state != .faulted then d else d.fence c (causeOf k.fault cause)
def execFenceStart (c : CoreId) (cause : BitVec 3) (s : State) : Ans := .next { s with dev := fenceStart c cause s.dev }

/-! ## Phases 4 to 7 (R514, R515) -/

/-- A fault during activation: the spare is fenced with CAUSE 7 and the partition stops (R514, R516). -/
def Dev.actFail (d : Dev) (p : PartId) (a : Activation) : Dev :=
  let n := (d.core a.failed).net
  (((d.fenceIdle a.spare 7#3).modPart p (fun x => { x with act := none })).stopNet n p 0).censusBackNet n

/-- SPARE_CHECK_COMPLETE. -/
def spareCheck (p : PartId) (ok : Bool) (d : Dev) : Dev :=
  match (d.part p).act with
  | some a =>
    if a.phase != .check then d
    else if ok then d.modPart p (fun x => { x with act := some { a with phase := .reload } })
    else d.actFail p a
  | none => d
def execSpareCheckComplete (p : PartId) (ok : Bool) (s : State) : Ans := .next { s with dev := spareCheck p ok s.dev }

/-- The spare with the identity, ports, logic configuration and common microcode of the core that it replaces (R27, R311). -/
def spareOf (old spare : Core) (alt : Bool) : Core :=
  { spare with
    logical := old.logical, assigned := true, spare := false, net := old.net, stage := old.stage, kind := old.kind, cidx := old.cidx,
    alt := alt, groups := old.groups, expect := old.expect, bitmap := old.expect, state := .transferring, fault := .none,
    sched := old.sched.filter (fun e => e.1 < 256), wfmt := old.wfmt, zp16 := old.zp16, s2 := old.s2init, s2init := old.s2init,
    ins := old.ins, outs := old.outs, finq := old.finq, luts := old.luts, tshift := old.tshift, snoopQ := old.snoopQ,
    snoopKinds := old.snoopKinds, snoopIdx := old.snoopIdx, snoopHigh := old.snoopHigh, patchQ := old.patchQ,
    patchIdx := old.patchIdx, patchHigh := old.patchHigh }

/-- SPARE_RELOAD_COMPLETE: assignment record, core image from the program cache, local store from the shadow. -/
def spareReload (p : PartId) (ok : Bool) (d : Dev) : Dev :=
  match (d.part p).act with
  | some a =>
    if a.phase != .reload then d
    else
      let old := d.core a.failed
      let alt := old.alt || clusterOfCore a.spare != clusterOfCore a.failed
      let (d1, good) := (d.modCore a.spare (fun k => spareOf old k alt)).reloadCore a.spare
      if ok && good then d1.modPart p (fun x => { x with act := some { a with phase := .chase } })
      else (d1.modCore a.spare (fun k => { k with assigned := false })).actFail p a
  | none => d
def execSpareReloadComplete (p : PartId) (ok : Bool) (s : State) : Ans := .next { s with dev := spareReload p ok s.dev }

/-- The trip count minus 1 of the loop of a level that encloses an address: that of the nearest LOOP before it. -/
def tripBefore (sched : Tbl W64) (lev : BitVec 3) : Nat → Nat
  | 0 => 0
  | n + 1 =>
    match decodeSeq (tblGet 0#64 sched n) with
    | some (.loop t l _) => if l == lev then t.toNat else tripBefore sched lev n
    | _ => tripBefore sched lev n

/-- Index of the block of an output row within the L frames of R156. -/
def Core.blockIndex (k : Core) (r : Nat × Nat) : Nat :=
  let ds := k.dselRow
  let (oh, m, rb, n) := if k.opk 0 ds ≤ 4 then (let w := k.win 0 ds; (w.oh, w.m, w.rb, w.ncore))
    else (let o := k.outD ds; (o.oh, o.m, o.rb, o.ncore))
  let bf := (oh + rb - 1) / max rb 1 * m
  (k.frames - 1) % (n / Nat.gcd (max bf 1) n) * bf + r.1 / max rb 1 * m + r.2

/-- The spare takes up the block of an output row in the frame in progress (R515). -/
def takeOver (old spare : Core) (e : BlockEntry) (idx : Nat) (rowIdx : Nat) : Core :=
  let k := spare.restart
  Core.preload { k with
    pc := e.addr, loops := (e.levels.map (fun l => ⟨l.1, tripBefore spare.sched l.1 e.addr.toNat, l.2⟩)).reverse,
    frames := old.frames, frameLog := old.frameLog, frame := old.frame, ctx := old.ctx, flags := old.flags ||| 2#8, epoch := old.epoch,
    calFrame := old.frame, inFrame := true, rowCount := rowIdx, dselRow := old.dselRow, bentry := BitVec.ofNat 19 idx }

/-- SPARE_CHASE_COMPLETE: phase 7. While the partition is frozen the spare waits (Table 15-3). -/
def spareChase (p : PartId) (ok : Bool) (d : Dev) : Dev :=
  match (d.part p).act with
  | some a =>
    if a.phase != .chase || (d.part p).frozen then d
    else if !ok then (d.modCore a.spare (fun k => { k with assigned := false })).actFail p a
    else
      let old := d.core a.failed
      let next := if d.groupedStage old then [] else old.nextRows
      let rows := old.rowsOf old.dselRow (old.frames - 1)
      let prog := (d.stageImg old.net old.stage).map (fun s => d.progOf (d.core a.spare) s)
      let entry := match next, prog with
        | r :: _, some g => if old.inFrame then (g.blocks[old.blockIndex r]?).map (fun e => (e, old.blockIndex r)) else none
        | _, _ => none
      let d1 := d.modCore a.spare (fun k => match entry with
        | some (e, i) => takeOver old k e i (rows.length - next.length)
        | none => { k.restart with frames := old.frames, frameLog := old.frameLog, bentry := 0x7FFFF#19 })
      ((d1.modPart p (fun x => { x with act := none })).censusBackNet old.net).raise 0x2002#16 p
        [arg32 a.failed, arg32 old.logical, d1.health.mapgen, arg32 a.spare]
  | none => d
def execSpareChaseComplete (p : PartId) (ok : Bool) (s : State) : Ans := .next { s with dev := spareChase p ok s.dev }

/-! ## The host's decision (R520) -/

/-- A stopped partition's network resumes: admission opens at the next frame boundary. -/
def Dev.resumeNet (d : Dev) (n : NetId) (p : PartId) : Dev :=
  ((d.domain n p).foldl (fun d q => if (d.part q).cast == .stopped then d.reopen q else d) d).modNet n
    (fun x => if d.companion n p then { x with aclosed := false } else { x with stoppedBy := none, openAt := true })

/-- The stage switches to its degraded variant and admission resumes. -/
def Dev.degradeWaiting (d : Dev) (p : PartId) (st : StageId) (c : CoreId) : Dev :=
  let n := (d.part p).net
  ((d.modPart p (fun x => { x with faultWait := none })).degrade n st c).resumeNet n p

/-- FAULT_DEGRADE_RESUME. -/
def faultDegrade (p : PartId) (d : Dev) : Dev :=
  match (d.part p).faultWait with
  | some (st, c) => if d.canDegrade (d.part p).net st then d.degradeWaiting p st c else d.rstReject
  | none => d.rstReject
def execFaultDegradeResume (p : PartId) (s : State) : Ans := .next (hostWritePart p (faultDegrade p) s)

/-- FAULT_KEEP_STOPPED. -/
def faultKeep (p : PartId) (d : Dev) : Dev :=
  match (d.part p).faultWait with
  | some _ => d.modPart p (fun x => { x with faultWait := none })
  | none => d.rstReject
def execFaultKeepStopped (p : PartId) (s : State) : Ans := .next (hostWritePart p (faultKeep p) s)

/-- A waiting case resolved as hardware mode would (R479, R520). -/
def Dev.faultWaitHw (d : Dev) (p : PartId) : Dev :=
  match (d.part p).faultWait with
  | some (st, c) =>
    if d.canDegrade (d.part p).net st then d.degradeWaiting p st c else d.modPart p (fun x => { x with faultWait := none })
  | none => d

/-! ## The switch (R521) -/

/-- The core stands at FRAME. -/
def Core.atFrame (k : Core) : Bool :=
  k.at_ == 0 && (k.state == .running || k.state == .held) && k.wait == .none &&
    (match decodeSeq (tblGet 0#64 k.sched k.pc.toNat) with | some (.frame _ _) => true | _ => false)

/-- Cores in ascending order of logical ID. -/
def Dev.byLogical (d : Dev) (l : List CoreId) : List CoreId :=
  l.mergeSort (fun a b => (d.core a).logical.toNat ≤ (d.core b).logical.toNat)

/-- Slots of an edge under the degraded rotation, from frame index `f` on. -/
def degradedSlots (s : SlotImg) (n rb f : Nat) : SlotImg :=
  { s with ncore := n, rb := if s.grouped then s.rb else rb, words := if s.grouped then s.words * s.ncore / max n 1 else s.words, base := f }

/-- The output edges of a stage take the rotation of its remaining cores. -/
def Dev.reslot (d : Dev) (q : QueueId) (n rb : Nat) : Dev :=
  d.modQueue q (fun x => match x.slot with
    | none => x
    | some s =>
      let f := x.prods.foldl (fun m e => max m e.2.slotFrame) 0
      { x with oldSlot := some s, slot := some (degradedSlots s n rb f),
               prods := tblMap {} x.prods (fun _ p => { p with slotFrame := f, slotWord := 0 }) })

/-- DEGRADED_SWITCH: every remaining core has done its frames before S and stands at FRAME.
Assumption 147 (DESIGN CHOICE): unsafe. -/
def degradedSwitch (n : NetId) (st : StageId) (d : Dev) : Dev :=
  match (d.net n).switchAt.find? (fun e => e.1 == st), d.stageImg n st with
  | some (_, f), some im =>
    let cs := d.byLogical (d.coresOfStage n st)
    if cs.isEmpty || !cs.all (fun c => (d.core c).atFrame) then d
    else
      let prog := im.degraded.getD im.prog
      let d1 := d.modNet n (fun x => { x with switchAt := x.switchAt.filter (fun e => e.1 != st), degraded := x.degraded ++ [st] })
      let d2 := cs.zipIdx.foldl (fun d e =>
        d.modCore e.1 (fun k =>
          let k1 := ({ k with cidx := BitVec.ofNat 10 e.2,
                              outs := k.outs.map (fun o => o.map (fun p =>
                                if (d.queue p.q).slot.isSome then { p with port := BitVec.ofNat 10 e.2 } else p)) } : Core).loadProg prog
          { k1.restart with sent := k1.sent })) (cs.foldl (fun d c => d.closeSlots c) d1)
      let d2 := (d2.coreIds.filter (fun c => (d2.core c).net == n && (d2.core c).stage == st && (d2.core c).state == .fenced)).foldl
        (fun d c => d.endRcvs c f) d2
      let qs := (cs.flatMap (fun c => (d.core c).outs.filterMap (fun o => o.map (fun p => p.q)))).eraseDups
      let rb := match cs with | c :: _ => ((d2.core c).outD 0).rb | [] => 1
      let d3 := qs.foldl (fun d q => d.reslot q cs.length rb) d2
      let p := match cs with | c :: _ => partOfCore c | [] => 0#5
      (d3.modPart p (fun x => { x with degCnt := satInc x.degCnt })).raise 0x2003#16 p [arg32 n, arg32 st, d3.health.mapgen, f]
  | _, _ => d
def execDegradedSwitch (n : NetId) (st : StageId) (s : State) : Ans := .next { s with dev := degradedSwitch n st s.dev }

/-! ## The fence log and re-tests (R300, R511, R523) -/

/-- FENCE_LOG_COMMIT: firmware moves the oldest entry to the fence list; the health record gets its next generation. -/
def fenceCommit (s : State) : State :=
  match s.dev.health.flog with
  | [] => s
  | f :: t =>
    if s.dev.health.fwDown then s
    else { s with dev := s.dev.modHealth (fun h => { h with flog := t, fences := h.fences ++ [f] }),
                  store := { s.store with hgen := s.store.hgen + 1#64 } }
def execFenceLogCommit (s : State) : Ans := .next (fenceCommit s)

/-- The further steps of RETEST with 0xFFFF: recorded segments of uncast partitions and margins of uncast partitions are
measured anew; what the measurement finds is not the device's to know beforehand. -/
def Dev.retestRest (d : Dev) : Dev :=
  let d1 := (d.health.badSegs.filter (fun s => (segParts s).all (fun p => (d.part p).cast == .uncast))).foldl (fun d s =>
    let (b, d1) := d.free 1
    if b == 1#1 then d1.modHealth (fun h => { h with badSegs := h.badSegs.erase s, rtSegs := satInc h.rtSegs }) else d1) d
  allParts.foldl (fun d p =>
    if (d.part p).cast != .uncast || !d.diePresent (dieOfPart p) then d
    else
      let (m, d1) := d.free 8
      let die := d1.die (dieOfPart p)
      if die.vbase.toNat + m.toNat ≤ die.vmax.toNat then
        d1.modPart p (fun x => ({ x with margin := m, derated := false } : Partition).request)
      else d1) d1

/-- RETEST_CORE_DONE: a core that passes leaves the fence list, and the map generation moves; one of a partition in retention or off
does so at the next casting (Table 15-3). -/
def retestDone (c : CoreId) (passed : Bool) (d : Dev) : Dev :=
  if !d.health.retest.contains c then d
  else
    let d1 := d.modHealth (fun h => { h with retest := h.retest.erase c })
    let d2 := if passed then
        let d3 := d1.modHealth (fun h => { h with rtPassed := satInc h.rtPassed })
        if (d.part (partOfCore c)).power == .on then d3.freed c
        else d3.modHealth (fun h => { h with passed := if h.passed.contains c then h.passed else h.passed ++ [c] })
      else d1.modHealth (fun h => { h with rtFailed := satInc h.rtFailed })
    if d2.health.retest.isEmpty && d2.health.retestAll then (d2.modHealth (fun h => { h with retestAll := false })).retestRest else d2
def execRetestCoreDone (c : CoreId) (passed : Bool) (s : State) : Ans := .next { s with dev := retestDone c passed s.dev }

end Sys2Proof.Machine
end

