-- ==== Sys2Proof/Machine/Memory.lean ====
section
/-! DEFINITION. The memory commands (chapter 11): arbitration of a channel and of lane 8 (R394 to R397), a burst's end,
the stacks' temperature (R389), self-refresh in package standby (R497) and region descriptors (R402, R403, R418). -/
namespace Sys2Proof.Machine

open Sys2Proof

/-! ## Arbitration (R395 to R397) -/

/-- The service of class 0 that a burst belongs to: weight streaming, spill, reload. -/
def service0 (b : BurstReq) : Nat := match b.who with | .weights _ => 0 | .spill _ => 1 | _ => 2

/-- The waiting burst of class 0 that the round robin serves next: the oldest of the first service that waits, from the
service whose turn it is. -/
def Channel.pick0 (c : Channel) : Option BurstReq :=
  [0, 1, 2].findSome? (fun k => c.waiting.find? (fun b => b.cls == 0#2 && service0 b == (c.rr0 + k) % 3))

/-- The oldest waiting burst of a class. -/
def Channel.oldest (c : Channel) (cls : BitVec 2) : Option BurstReq := c.waiting.find? (fun b => b.cls == cls)

/-- The burst that the next grant takes, and whether the guard chose it (R396, R397). -/
def Channel.pick (c : Channel) : Option (BurstReq × Bool) :=
  match c.pick0 with
  | some b => some (b, false)
  | none =>
    match (if 15 ≤ c.guard2 then c.oldest 2#2 else none), (if 15 ≤ c.guard3 then c.oldest 3#2 else none) with
    | some b, _ => some (b, true)
    | none, some b => some (b, true)
    | none, none => ([1#2, 2#2, 3#2].findSome? c.oldest).map (fun b => (b, false))

/-- A guard count after a grant: restarted when its class was served by the guard or no longer waits, one more at a grant
to a class below its own, class 0 apart, while its class waits. -/
def guardAfter (count : Nat) (own granted : BitVec 2) (guarded waits : Bool) : Nat :=
  if !waits || (guarded && granted == own) then 0
  else if granted != 0#2 && granted.toNat < own.toNat then count + 1
  else count

/-- The channel after granting `b`. -/
def Channel.granted (c : Channel) (b : BurstReq) (guarded : Bool) : Channel :=
  let w := c.waiting.erase b
  let waits (k : BitVec 2) : Bool := w.any (fun x => x.cls == k)
  { c with waiting := w, busy := some b, selfRefresh := false,
           guard2 := guardAfter c.guard2 2#2 b.cls guarded (waits 2#2),
           guard3 := guardAfter c.guard3 3#2 b.cls guarded (waits 3#2),
           rr0 := if b.cls == 0#2 then (service0 b + 1) % 3 else c.rr0 }

/-- MEMORY_BURST_GRANT (R396): the burst is checked (R400) and occupies the channel. How long a class 0 burst had waited is
a measured time: the largest seen is a free value. Assumption 77 (DESIGN CHOICE): safe. -/
def burstGrant (ch : Fin 192) (d : Dev) : Dev :=
  let c := d.chan ch.val
  let die := ch.val / 96
  if c.busy.isSome || !(d.ring die).up then d
  else match c.pick with
    | none => d
    | some (b, g) =>
      let (b1, d1) := d.checked b
      let d2 := d1.modChan ch.val (fun c => let c1 := c.granted b g; { c1 with busy := some b1 })
      let d3 := d2.countBurst die b.cls
      let d4 := if g then d3.modRing die (fun r => { r with guard := satInc r.guard }) else d3
      if b.cls == 0#2 then
        let (v, d5) := d4.free 16
        d5.modRing die (fun r => { r with c0wait := if r.c0wait.toNat < v.toNat then v else r.c0wait })
      else d4

def execMemoryBurstGrant (ch : Fin 192) (s : State) : Ans := .next { s with dev := burstGrant ch s.dev }

/-- MEMORY_BURST_DONE (R388): the burst's data is delivered or written. -/
def burstDone (ch : Fin 192) (d : Dev) : Dev :=
  match (d.chan ch.val).busy with
  | none => d
  | some b => (d.modChan ch.val (fun c => { c with busy := none })).burstEnd b

def execMemoryBurstDone (ch : Fin 192) (s : State) : Ans := .next { s with dev := burstDone ch s.dev }

/-- FAR_LANE_GRANT (R394): lane 8 toward a die's ring takes the waiting burst of the lowest class, the oldest within it.
A burst toward a ring that does not run is a translation fault of its requester (R414). -/
def farGrant (dir : Fin 2) (d : Dev) : Dev :=
  match [0#2, 1#2, 2#2, 3#2].findSome? (fun k => (d.ring dir.val).lane8.find? (fun b => b.cls == k)) with
  | none => d
  | some b =>
    let d1 := d.modRing dir.val (fun r => { r with lane8 := r.lane8.erase b })
    match locate d.die1 b.addr.toNat with
    | none => d1
    | some pl =>
      if (d.ring dir.val).up then d1.modChan pl.1 (fun c => { c with waiting := c.waiting ++ [b] })
      else
        match b.who with
        | .dma _ => d1.burstEnd { b with cause := 5 }
        | w => (d1.tfault w b.part b.addr.toNat).burstEnd { b with cause := 5 }

def execFarLaneGrant (dir : Fin 2) (s : State) : Ans := .next { s with dev := farGrant dir s.dev }

/-- STACK_HOT (R389). -/
def execStackHot (st : Fin 12) (s : State) : Ans :=
  .next { s with dev := { s.dev with hot := s.dev.hot ||| 1#12 <<< st.val } }

/-- STACK_COOL (R389). -/
def execStackCool (st : Fin 12) (s : State) : Ans :=
  .next { s with dev := { s.dev with hot := s.dev.hot &&& ~~~(1#12 <<< st.val) } }

/-- SELF_REFRESH_RETURN (R497): in package standby an idle channel returns to self-refresh. -/
def selfRefreshReturn (ch : Fin 192) (d : Dev) : Dev :=
  let c := d.chan ch.val
  if d.pwr.state == .standby && c.busy.isNone && c.waiting.isEmpty then
    d.modChan ch.val (fun c => { c with selfRefresh := true })
  else d
def execSelfRefreshReturn (ch : Fin 192) (s : State) : Ans := .next { s with dev := selfRefreshReturn ch s.dev }

/-! ## Region descriptors -/

/-- The view of Table 11-2 that holds an address, and the end of its range. -/
def viewEnd (die1 : Bool) (a : Nat) : Option Nat :=
  if a < spanEnd die1 then some (spanEnd die1)
  else if isIndexAddr a then some 0x400200000
  else if 0x800000000 ≤ a && a < dieViewEnd die1 then some (dieViewEnd die1)
  else if 0xC00000000 ≤ a && a < chanViewEnd die1 then some (chanViewEnd die1)
  else none

/-- The range lies within one view of Table 11-2 (R402, first condition). -/
def rangeOk (die1 : Bool) (start len : Nat) : Bool :=
  match viewEnd die1 start with | some e => start + len ≤ e | none => false

/-- A descriptor after a write of one of its registers. -/
def Region.write (r : Region) (reg : BitVec 2) (v : W32) : Region :=
  match reg.toNat with
  | 0 => { r with base := v.setWidth 31 }
  | 1 => { r with lenM1 := v.setWidth 25 }
  | 2 => { r with v := v.getLsbD 0, rd := v.getLsbD 1, wr := v.getLsbD 2, dma := v.getLsbD 3 }
  | _ => r

/-- REGION_DESCRIPTOR_WRITE (R403, R464): ignored and counted while the descriptor is locked (in MEM_REJ, and in XPT_REJ as an
expert write that a rule rejects) or expert writes are off (in XPT_REJ);
a valid descriptor whose range leaves a view is stored with V at 0 and counted. -/
def regionWrite (p : PartId) (j : BitVec 6) (reg : BitVec 2) (v : W32) (d : Dev) : Dev :=
  let r := tblGet {} (d.part p).regions j.toNat
  if !d.diePresent (dieOfPart p) then d
  else if !d.xptWen then { d with xptRej := satInc d.xptRej }
  else if reg == 3#2 then d
  else if r.lock then { d with memRej := satInc d.memRej, xptRej := satInc d.xptRej }
  else
    let r1 := r.write reg v
    let bad := r1.v && !rangeOk d.die1 r1.start r1.bytes
    let r2 := if bad then { r1 with v := false } else r1
    let d1 := d.modPart p (fun x => { x with regions := tblSet {} x.regions j.toNat r2 })
    if bad then { d1 with memRej := satInc d1.memRej } else d1
def execRegionDescriptorWrite (p : PartId) (j : BitVec 6) (reg : BitVec 2) (v : W32) (s : State) : Ans :=
  .next (hostWriteDie (dieOfPart p) (regionWrite p j reg v) s)

end Sys2Proof.Machine
end

