-- ==== Sys2Proof/Machine/Loader.lean ====
section
/-! DEFINITION. The casting loader (Table 8-9, step 1): the verification of a casting set (R297, R298), every check that a
rule assigns to the loader, the placement of logical cores (R40 to R42) and the translation of PADENC (R150). A check
answers nothing when the set passes it, and else which check failed, the resource that the error names, and the partition
when the check is one of a partition. -/
namespace Sys2Proof.Machine

open Sys2Proof

/-! ## Verification (R297, R298) -/

/-- The mailbox result of verifying a signed item: its signer is the owner's key and its owner serial the record's (R297);
its version is not below the floor (R298). -/
def verifyOwned (st : Store) (signer : Nat) (ownser version floor : W32) : W16 :=
  match st.owner with
  | none => 6#16
  | some o =>
    if o.ownkey == 0 then 6#16
    else if signer != o.ownkey || ownser != o.ownser then 4#16
    else if version.toNat < floor.toNat then 5#16
    else 0#16

/-- The verification of a casting set. -/
def verifySet (st : Store) (s : SetImg) : W16 := verifyOwned st s.signer s.ownser s.setver st.setFloor

/-! ## Errors -/

/-- A rejection: which check, the resource named, and the partition named. -/
structure LErr where
  code : Nat
  res : W32
  part : Option PartId
  deriving DecidableEq, Repr

/-- Outcome of a check: none when it passes. -/
abbrev Chk := Option LErr

/-- Reject unless `ok`. -/
def need (ok : Bool) (code res : Nat) (part : Option PartId := none) : Chk :=
  if ok then none else some ⟨code, BitVec.ofNat 32 res, part⟩

/-- The first rejection of a list of checks. -/
def firstErr (l : List Chk) : Chk := l.findSome? id

/-- The first rejection over a list. -/
def errOf {α : Type} (l : List α) (f : α → Chk) : Chk := l.findSome? f

/-! ## Translation of the forerunner's padding (R150) and ROWMAX (R108) -/

/-- A window descriptor's kinds. -/
def isWindow (ws : List W64) : Bool := bits (ws.headD 0#64) 45 4 ≤ 4

/-- Word `i` of a descriptor. -/
def dw (ws : List W64) (i : Nat) : W64 := (ws[i]?).getD 0#64

/-- A window descriptor's fields. -/
def winOf (grad : Bool) (ws : List W64) : WinDesc := winDesc grad (dw ws 0) (dw ws 1) (dw ws 2) (dw ws 3)

/-- The padding of both sides under PADENC 2: the total of R150 split. -/
def samePad (i s ke zi : Nat) : Nat × Nat :=
  let p := ((i + s - 1) / s - 1) * s + ke - zi
  (p / 2, p - p / 2)

/-- The native padding (top, bottom, left, right) that a descriptor's PADENC stands for. -/
def nativePad (ws : List W64) : Nat × Nat × Nat × Nat :=
  let d := winOf false ws
  match bits (dw ws 2) 32 2 with
  | 1 => (d.pt, d.pt, d.pl, d.pl)
  | 2 =>
    let r := samePad d.ih d.sh d.keh d.zih
    let c := samePad d.iw d.sw d.kew d.ziw
    (r.1, r.2, c.1, c.2)
  | _ => (d.pt, d.pb, d.pl, d.pr)

/-- A descriptor with native padding and PADENC 0. -/
def translateDesc (ws : List W64) : List W64 :=
  if isWindow ws && ws.length == 4 then
    let p := nativePad ws
    [dw ws 0, dw ws 1,
     (dw ws 2).extractLsb' 34 30 ++ 0#2 ++ BitVec.ofNat 8 p.2.2.2 ++ BitVec.ofNat 8 p.2.2.1 ++ BitVec.ofNat 8 p.2.1 ++ BitVec.ofNat 8 p.1,
     dw ws 3]
  else ws

/-- The largest ROWCYC of any ROWEND of a program; the largest that the field holds for a program without one, whose rows
never end (DESIGN CHOICE). Assumption 20 (DESIGN CHOICE): safe. -/
def rowmaxOf (ws : List W64) : Nat :=
  match ws.filterMap (fun w => match decodeSeq w with | some (.rowend _ r) => some r.toNat | _ => none) with
  | [] => 268435455
  | l => l.foldl max 0

/-- A program as the loader writes it. -/
def translateProg (p : Prog) : Prog :=
  { p with ag0 := p.ag0.map translateDesc, ag1 := p.ag1.map translateDesc, ag2 := p.ag2.map translateDesc,
           ag3 := p.ag3.map translateDesc, rowmax := rowmaxOf p.words }

/-- The shadow of a stage: bank 0 of an adapted head stage, whose banks lie in its shadow region (R363).
Assumption 153 (DEDUCED): unsafe. -/
def shadowOf (im : NetImg) (s : StageImg) : DevAddr :=
  match im.adapt.bind (fun a => a.stages.find? (fun x => x.stage == s.num)) with
  | some x => BitVec.ofNat 40 (512 * x.base.toNat)
  | none => s.shadow

/-- A network's image as the loader writes it. -/
def translateNet (im : NetImg) : NetImg :=
  { im with stages := im.stages.map (fun s =>
      { s with shadow := shadowOf im s, prog := translateProg s.prog, degraded := s.degraded.map translateProg, alt := s.alt.map translateProg }) }

/-! ## Stage programs (R93 to R98, R105, R119, R561, R562, R565) -/

/-- The successors of a zero-cycle instruction at an address with a call stack; none for one that takes a cycle. -/
def zeroNext (sched : Tbl W64) (a : Nat) (st : List Nat) : List (Nat × List Nat) :=
  match decodeSeq (tblGet 0#64 sched a) with
  | some (.loop _ _ _) => [(a + 1, st)]
  | some (.endl _ s) => [(s.toNat, st), (a + 1, st)]
  | some (.call t) => [(t.toNat, (a + 1) :: st)]
  | some .ret => (match st with | r :: t => [(r, t)] | [] => [])
  | some (.waitd _ _ _ _) => [(a + 1, st)]
  | _ => []

/-- Every step of execution from a place, zero-cycle or not. -/
def anyNext (sched : Tbl W64) (a : Nat) (st : List Nat) : List (Nat × List Nat) :=
  match zeroNext sched a st with
  | [] => (match decodeSeq (tblGet 0#64 sched a) with | some .halt | some .ret | none => [] | _ => [(a + 1, st)])
  | l => l

/-- The places that execution reaches from the entry, explored with fuel. -/
def reachable (sched : Tbl W64) : Nat → List (Nat × List Nat) → List (Nat × List Nat) → List (Nat × List Nat)
  | 0, seen, _ => seen
  | _ + 1, seen, [] => seen
  | n + 1, seen, x :: todo =>
    if seen.contains x || 2048 ≤ x.1 || 2 < x.2.length then reachable sched n seen todo
    else reachable sched n (x :: seen) (anyNext sched x.1 x.2 ++ todo)

/-- A run of `n` further zero-cycle instructions begins at a place. -/
def zeroRun (sched : Tbl W64) : Nat → Nat × List Nat → Bool
  | 0, _ => true
  | n + 1, x => (zeroNext sched x.1 x.2).any (fun y => zeroRun sched n y)

/-- The place where a path begins that reaches a 17th consecutive zero-cycle instruction (R562). -/
def zeroPath (sched : Tbl W64) : Option Nat :=
  ((reachable sched 65536 [] [(256, [])]).find? (fun x => zeroRun sched 17 x)).map (fun x => x.1)

/-- The innermost loop whose body holds an address: the addresses of its LOOP and of its end. -/
def innerLoop (ws : List W64) (a : Nat) : Option (Nat × Nat) :=
  (ws.zipIdx 256).foldl (fun m e => match decodeSeq e.1 with
    | some (.loop _ _ end_) => if e.2 < a && a < end_.toNat then some (e.2, end_.toNat) else m
    | _ => m) none

/-- The address of a FIRE with WSWAP whose innermost loop body holds another FIRE that uses the MAC array, in a loop within it too
(R119). -/
def sharedSwap (ws : List W64) : Option Nat :=
  let fs := (ws.zipIdx 256).filterMap (fun e => match decodeSeq e.1 with | some (.fire f) => some (e.2, f) | _ => none)
  (fs.find? (fun x => x.2.wswap == 1#1 && (match innerLoop ws x.1 with
    | none => false
    | some (a, b) => fs.any (fun y => y.1 != x.1 && y.2.mac != 0#3 && a < y.1 && y.1 < b)))).map (fun x => x.1)

/-- The most words that one tap of a window reads (R93, R145). -/
def tapWords (d : WinDesc) : Nat :=
  ((List.range ((d.ch + 63) / 64)).map (fun q =>
    let cp := padChans (rowChans d.ch q)
    (min cp 16 * fmtBits d.fmt + 63) / 64)).foldl max 1

/-- A format takes both join ports (R565). -/
def joinWide (f : Fmt) : Bool := f == .bf16 || f == .fp16 || f == .u16

/-- The resource of an error that names a stage and a place in it. Assumption 14 (DESIGN CHOICE): unsafe. -/
def stageRes (t x : Nat) : Nat := t + 2048 * x

/-- One instruction of a stage program, at its schedule address: its opcode (R96), its reserved bits and values (R97, R561), the
accumulator slots (R98), the ports of a FRAME (R105). The error names the stage, the address and the field. -/
def instrOk (t : Nat) (part : Option PartId) (a : Nat) (w : W64) : Chk :=
  let at_ (field : Nat) : Nat := stageRes t (a + 2048 * field)
  firstErr [
    need (decodeSeq w).isSome 11 (at_ 0) part,
    need (reservedClear w) 11 (at_ 1) part,
    (match decodeSeq w with
      | some (.fire f) => firstErr [
          need (f.mac.toNat ≤ 4) 11 (at_ 2) part,
          need (f.fin.toNat ≤ 4) 11 (at_ 3) part,
          need (f.mac == 0#3 || f.accbase.toNat + f.rpt.toNat ≤ 63) 11 (at_ 4) part]
      | some (.frame r _) => need (r != 0#4) 11 (at_ 5) part
      | _ => none)]

/-- The words that a FIRE reads on its input ports in one cycle, and those that FIN 4 writes on its output ports, are at most two
for each, a header apart (R92, R93, R143). The error names the stage and the port, output ports from 4 up. -/
def portsOk (t : Nat) (part : Option PartId) (p : Prog) (w : W64) : Chk :=
  match decodeSeq w with
  | some (.fire f) =>
    match (p.ag0[f.dsel.toNat]?).getD [] with
    | [] => none
    | ds =>
      if !isWindow ds || f.rden == 0#4 then none
      else
        let n := tapWords (winOf false ds)
        firstErr [
          need (n ≤ 2 * (portsOf f.rden).length) 12 (stageRes t ((portsOf f.rden).getLastD 0)) part,
          need (f.fin != 4#3 || f.wren == 0#2 || n ≤ 2) 12 (stageRes t (4 + (if f.wren.getLsbD 0 then 0 else 1))) part]
  | _ => none

/-- No FIRE of a program with a join enables a join port (R565). The error names the stage and the port. -/
def joinsOk (t : Nat) (part : Option PartId) (p : Prog) : Chk :=
  if !p.fin.any (fun w => (finDesc w).join == 1 || (finDesc w).join == 2) then none
  else errOf p.words (fun w => match decodeSeq w with
    | some (.fire f) => firstErr [
        need (!f.rden.getLsbD 3) 15 (stageRes t 3) part,
        need (!(f.rden.getLsbD 2 && p.ag3.any (fun ds => isWindow ds && ds != [] && joinWide (winOf false ds).fmt))) 15 (stageRes t 2) part]
    | _ => none)

/-- The loop levels that a program opens. -/
def levelsOf (ws : List W64) : List Nat :=
  ws.filterMap (fun w => match decodeSeq w with | some (.loop _ l _) => some l.toNat | _ => none)

/-! ## Descriptors (R138, R141, R155, R167, R561) -/

/-- A loop-level field is unused or names a level that the program opens. -/
def levelOpen (ls : List Nat) (f : Nat) : Bool := f < 8 || ls.contains (f - 8)

/-- The size after fused pooling (Table 3-9). -/
def pooled (f : FinDesc) (oh ow : Nat) : Nat × Nat :=
  if f.pool == 0 then (oh, ow)
  else match f.pk with
    | 0 => ((oh - 2) / 2 + 1, (ow - 2) / 2 + 1)
    | 1 => ((oh - 3) / 2 + 1, (ow - 3) / 2 + 1)
    | _ => (oh, (ow - 2) / 2 + 1)

/-- The reserved fields of a window descriptor are 0, and no field holds a reserved value. -/
def winReserved (ws : List W64) : Bool :=
  let d := winOf false ws
  bits (dw ws 0) 63 1 == 0 && d.regrp != 3 && (d.opk == 2 || d.g == 1) && bits (dw ws 2) 32 2 != 3 &&
    bits (dw ws 2) 51 13 == 0 && bits (dw ws 3) 52 12 == 0

/-- The conditions of R155: a regrouping on read meets all of them; one that runs as kind 4 regroups, and maps whole blocks.
Assumption 130 (DEDUCED): unsafe. -/
def regroupOk (d : WinDesc) : Bool :=
  match d.regrp with
  | 1 =>
    let cp := d.ch / (d.bh * d.bw)
    (d.ih * d.bh + d.pt + d.pb) % d.bh == 0 && d.ch % (d.bh * d.bw) == 0 && (d.opk == 4 || d.bw * cp * fmtBits d.fmt % 64 == 0)
  | 2 => (d.opk == 4 || d.ch % 16 == 0) && d.ih % d.bh == 0 && d.iw % d.bw == 0
  | _ => d.opk != 4

/-- A window descriptor of address generator `ag`, before translation: the first condition of R141 that fails, by its place in the
list there. `cidx` is one more than the highest CIDX of the stage. -/
def winOk (p : Prog) (ls : List Nat) (rows : Option Nat) (cidx : Nat) (out : Option OutDesc) (fd : FinDesc) (ag : Nat) (ws : List W64) : Option Nat :=
  let d := winOf false ws
  let n := winOf false (translateDesc ws)
  let pad := nativePad ws
  let sz := if d.opk == 3 then (n.oh, n.ow) else pooled fd n.oh n.ow
  let no (c : Bool) (k : Nat) : Option Nat := if c then none else some k
  [no (ag == 0 || d.opk == 0) 0,
   no (winReserved ws && levelOpen ls d.lpix && levelOpen ls d.ltap && levelOpen ls d.lgrp) 1,
   no (n.keh ≤ n.zih + n.pt + n.pb && n.kew ≤ n.ziw + n.pl + n.pr && 1 ≤ sz.1 && 1 ≤ sz.2) 2,
   no ((match rows with | some r => sz.1 * d.m == r | none => true) &&
     (match out with | some o => o.oh == sz.1 && o.ow == sz.2 && o.m == d.m | none => true)) 3,
   no (cidx ≤ d.ncore) 4,
   no ((bits (dw ws 2) 32 2 != 1 || (d.pb == 0 && d.pr == 0)) && pad.1 ≤ 255 && pad.2.1 ≤ 255 && pad.2.2.1 ≤ 255 && pad.2.2.2 ≤ 255) 5,
   no (regroupOk d) 6,
   no (d.opk != 2 || (d.ch % d.g == 0 && (match out with | some o => o.co % d.g == 0 | none => true))) 7,
   no (!(ag == 3 && d.fmt == .fp32 && p.fin.any (fun w => (finDesc w).join == 1 || (finDesc w).join == 2))) 8].findSome? id

/-- A linear descriptor. -/
def linearOk (ls : List Nat) (ws : List W64) : Bool :=
  bits (dw ws 0) 17 28 == 0 && bits (dw ws 0) 49 15 == 0 && bits (dw ws 2) 14 50 == 0 && bits (dw ws 3) 0 64 == 0 &&
    (List.range 4).all (fun e =>
      let s := bits (dw ws 1) (16 * e) 4
      (s < 8 && ls.contains s) || s == 8 || s == 15)

/-- A row-output descriptor. -/
def outOk (ls : List Nat) (ws : List W64) : Bool :=
  let o := outDesc (dw ws 0) (dw ws 1) (dw ws 3)
  bits (dw ws 0) 38 3 == 0 && bits (dw ws 0) 57 7 == 0 && bits (dw ws 1) 13 51 == 0 && bits (dw ws 2) 0 64 == 0 &&
    bits (dw ws 3) 0 18 == 0 && bits (dw ws 3) 52 12 == 0 && levelOpen ls o.lpix && levelOpen ls o.lout

/-- A descriptor of an address generator: a kind that Table 4-1 allows it, and the conditions of R141. The error names the stage, the
address generator, the descriptor index and the condition, 0 for the kind. -/
def descOk (t : Nat) (part : Option PartId) (p : Prog) (rows : Option Nat) (cidx : Nat) (ag idx : Nat) (ws : List W64) : Chk :=
  let ls := levelsOf p.words
  let opk := bits (dw ws 0) 45 4
  let out := match (p.ag2[idx]?).getD [] with
    | [] => none
    | o => if bits (dw o 0) 45 4 == 8 then some (outDesc (dw o 0) (dw o 1) (dw o 3)) else none
  let fd := finDesc ((p.fin[idx % 8]?).getD 0#64)
  let bad : Option Nat :=
    if ws == [] then none
    else if opk ≤ 4 && (ag == 0 || ag == 3) then winOk p ls rows cidx out fd ag ws
    else if opk == 7 && (ag == 1 || ag == 3) then (if linearOk ls ws then none else some 1)
    else if opk == 8 && ag == 2 then
      (if !outOk ls ws then some 1 else if cidx ≤ (outDesc (dw ws 0) (dw ws 1) (dw ws 3)).ncore then none else some 4)
    else some 0
  match bad with
  | none => none
  | some c => need false 16 (stageRes t (idx + 16 * (ag + 4 * c))) part

/-- A finishing descriptor: no reserved bit or value, and an output format (R167, R561). The error names the stage, the descriptor
index and the field. -/
def finOk (t : Nat) (part : Option PartId) (i : Nat) (w : W64) : Chk :=
  let f := finDesc w
  let at_ (field : Nat) : Nat := stageRes t (i + 8 * field)
  firstErr [
    need (bits w 13 7 == 0 && bits w 45 19 == 0) 17 (at_ 1) part,
    need (bits w 0 3 != 7) 17 (at_ 2) part,
    need (f.join != 3) 17 (at_ 3) part,
    need (f.act != 3) 17 (at_ 4) part,
    need (f.pool != 3) 17 (at_ 5) part,
    need (f.pk != 3) 17 (at_ 6) part]

/-- The header of an activation table: LO and HI finite, LO below HI (R123). -/
def actOk (ws : List W64) : Bool :=
  match ws with
  | [] => true
  | w :: _ => isFin32 (w.extractLsb' 0 32) && isFin32 (w.extractLsb' 32 32) && lt32 (w.extractLsb' 0 32) (w.extractLsb' 32 32)

/-- A program, from its length to its activation table. `t` is the stage, which the error names. -/
def progOk (common : List W64) (t : Nat) (part : Option PartId) (rows : Option Nat) (cidx : Nat) (p : Prog) : Chk :=
  firstErr [
    need (p.words.length ≤ 1792) 10 t part,
    errOf (p.words.zipIdx 256) (fun e => instrOk t part e.2 e.1),
    errOf p.words (portsOk t part p),
    (match zeroPath (tblOf 0 common ++ tblOf 256 p.words) with | some a => need false 13 (stageRes t a) part | none => none),
    (match sharedSwap p.words with | some a => need false 14 (stageRes t a) part | none => none),
    joinsOk t part p,
    errOf [p.ag0, p.ag1, p.ag2, p.ag3].zipIdx (fun a => firstErr [
      need (a.1.length ≤ 16) 16 (stageRes t (16 * a.2)) part,
      errOf a.1.zipIdx (fun e => descOk t part p rows cidx a.2 e.2 e.1)]),
    errOf p.fin.zipIdx (fun e => finOk t part e.2 e.1),
    need (actOk p.act) 18 t part]

/-! ## A stage -/

/-- The parameter block of a finishing descriptor in the stage's local-store image (R168, R564): the first output channel that breaks
it. -/
def paramsOk (wfmt : Fmt) (ls : List W64) (lsparam chans : Nat) : Option Nat :=
  let half (i : Nat) : W32 :=
    let w := (ls[lsparam + i / 2]?).getD 0#64
    if i % 2 == 0 then w.extractLsb' 0 32 else w.extractLsb' 32 32
  if wfmt != .a4 && wfmt != .a8 then none
  else (List.range chans).find? (fun c => !(isPosNormal32 (half (3 * c + 1)) && (half (3 * c + 2)).toNat ≤ fmtQ wfmt))

/-- The queue configurations of an image, by number. -/
def queueImg (qs : List QueueImg) (q : QueueId) : Option QueueImg := qs.find? (fun x => x.q == q)

/-- The queue is used: configured with a capacity (R200). -/
def queueUsed (qs : List QueueImg) (q : QueueId) : Bool := match queueImg qs q with | some x => x.cap != 0 | none => false

/-- The input queues of a stage's cores. -/
def stageIns (s : StageImg) : List QueueId :=
  (s.cores.flatMap (fun c => c.ins.filterMap (fun o => o.map (fun p => p.q)))).eraseDups
def stageOuts (s : StageImg) : List QueueId :=
  (s.cores.flatMap (fun c => c.outs.filterMap (fun o => o.map (fun p => p.q)))).eraseDups

/-- The finishing queues hold two output rows of FP32 values (R179): the queue of the first core that has none such. -/
def finqOk (qs : List QueueImg) (s : StageImg) (p : Prog) : Option Nat :=
  let outs := p.ag2.filterMap (fun o => if o == [] then none else some (outDesc (dw o 0) (dw o 1) (dw o 3)))
  s.cores.findSome? (fun c => outs.findSome? (fun o =>
    let q := (c.finq.map (fun q => q.toNat)).getD o.finq
    let ok : Bool := match c.finq.bind (fun q => queueImg qs q) with | some x => 2 * ((o.ow * o.co + 1) / 2) ≤ x.cap | none => false
    if ok then none else some q))

/-- What the FIREs of a program read with a window: the descriptor of AG0 at the ports of RDEN, that of AG3 at the join ports. -/
def windowReads (p : Prog) : List (Nat × List W64) :=
  p.words.flatMap (fun w => match decodeSeq w with
    | some (.fire f) =>
      let a := (p.ag0[f.dsel.toNat]?).getD []
      let b := (p.ag3[f.dsel.toNat]?).getD []
      (if a != [] && isWindow a then (portsOf f.rden).map (fun i => (i, a)) else []) ++
        (if b != [] && isWindow b then (if joinWide (winOf false b).fmt then [(2, b), (3, b)] else [(3, b)]) else [])
    | _ => [])

/-- The windowed input queues of a stage hold the stored rows of one block (R162): the first that does not. -/
def blockFits (qs : List QueueImg) (s : StageImg) (p : Prog) : Option Nat :=
  (windowReads p).findSome? (fun e =>
    let d := winOf false (translateDesc e.2)
    let need := (((d.rb - 1) * d.sh + d.keh - 1) * d.m + 1) * d.rpitch
    s.cores.findSome? (fun c => match (c.ins[e.1]?).join with
      | some ip => (match queueImg qs ip.q with
          | some x => if !x.rcvs.any (fun r => r.windowed) || need ≤ x.cap then none else some ip.q.toNat
          | none => none)
      | none => none))

/-- The formats of a stage (R167, Table 5-3): no U16 weights, and U16 input only where the queue of the port carries an edge from an
admission stage. The error names the stage and the descriptor, that of the weights last. -/
def formatsOk (im : NetImg) (low : Option PartId) (s : StageImg) : Chk :=
  let fed (i : Nat) : Bool := s.cores.all (fun c => match (c.ins[i]?).join with
    | some ip => im.edges.any (fun e => e.q == ip.q && e.dst == s.num && im.stages.any (fun t => t.num == e.src && t.kind == .admission))
    | none => true)
  firstErr [
    need (s.wfmt != .u16) 22 (stageRes s.num.toNat 64) low,
    errOf ([some s.prog, s.degraded, s.alt].filterMap id) (fun p => errOf (windowReads p) (fun e =>
      let ag3 := p.ag3.idxOf? e.2
      need ((winOf false e.2).fmt != .u16 || fed e.1) 22
        (stageRes s.num.toNat (match p.ag0.idxOf? e.2, ag3 with | some i, _ => i | none, some i => 48 + i | none, none => 0)) low))]

/-- A stage of a network. -/
def stageOk (common : List W64) (im : NetImg) (low : Option PartId) (s : StageImg) : Chk :=
  let t := s.num.toNat
  let rows := (im.edges.find? (fun e => e.src == s.num)).map (fun e => e.prodRows)
  let vs := [some s.prog, s.degraded, s.alt].filterMap id
  let top := (s.cores.map (fun c => c.cidx + 1)).foldl max 0
  let named (c : Option Nat) (code : Nat) : Chk := match c with | some x => need false code (stageRes t x) low | none => none
  firstErr [
    need (1 ≤ s.cores.length && s.cores.length ≤ 1024) 20 t low,
    need ((s.cores.map (fun c => c.cidx)).Nodup) 21 t low,
    formatsOk im low s,
    errOf ([some s.prog, s.alt].filterMap id) (progOk common t low rows top),
    errOf s.degraded.toList (progOk common t low rows (s.cores.length - 1)),
    errOf vs (fun p => errOf (usedParams p) (fun e => named (paramsOk s.wfmt s.lstore e.1 e.2) 23)),
    errOf (stageIns s ++ stageOuts s) (fun q => need (queueUsed im.queues q) 24 (stageRes t q.toNat) low),
    errOf vs (fun p => named (finqOk im.queues s p) 25),
    errOf (stageIns s) (fun q => need (s.cores.length ≤ 1 || s.channelGroups || (match queueImg im.queues q with
      | some x => !(x.rcvs.any (fun r => r.windowed) && x.rcvs.any (fun r => r.detach))
      | none => true)) 26 q.toNat low),
    errOf vs (fun p => match blockFits im.queues s p with | some q => need false 27 q low | none => none)]

/-! ## Queues, lanes and logic blocks -/

/-- One queue configuration (R200, R217, R220, R226, R232, R234, R257). -/
def queueOk (d : Dev) (parts : List PartId) (regs : PartId → List Region) (striped : List QueueId) (pool : Nat) (x : QueueImg) : Chk :=
  let p := partOfQueue x.q
  let n := x.q.toNat
  firstErr [
    need (d.diePresent (dieOfPart p)) 1 n (some p),
    need (parts.contains p) 30 n (some p),
    need (x.floor % 8 == 0 && x.cap % 8 == 0 && x.cap - x.floor ≤ pool * 7 / 8 / 8 * 8) 31 (8192 * (clusterOfQueue x.q).toNat + n) (some p),
    need (x.pmode == .plain || !x.rcvs.any (fun r => r.windowed)) 32 n (some p),
    need (x.pmode != .lengthPrefix || x.nprod == 1) 32 n (some p),
    need (x.pmode != .commit || (x.pktmax * x.nprod ≤ x.floor && x.elastic == 0)) 33 n (some p),
    errOf x.rcvs.zipIdx (fun r =>
      need (!r.1.detach || (r.1.laglim + 64 ≤ x.cap && x.elastic == 0 && !striped.contains x.q)) 34 (8192 * r.2 + n) (some p)),
    errOf x.rcvs.zipIdx (fun r =>
      need (!r.1.windowed || (match r.1.part with | some rp => dieOfPart rp == dieOfPart p | none => true)) 35 (8192 * r.2 + n) (some p)),
    need (x.elastic == 0 || (x.nprod == 1 && !x.rcvs.isEmpty && (regs p).any (fun r => r.rd && r.wr &&
      (List.range x.elastic).all (fun i => match locate d.die1 (x.spillBase.toNat + 512 * i) with | some pl => r.covers pl | none => false)))) 36 n (some p)]

/-- The queues of one cluster: floors, receiver entries, stagers (R217, R228, R235). -/
def clusterOk (qs : List QueueImg) (cl : ClusterId) : Chk :=
  let mine := qs.filter (fun x => clusterOfQueue x.q == cl)
  let p := some (partOfCluster cl)
  firstErr [
    (match (mine.zipIdx.find? (fun e => 32768 < ((mine.take (e.2 + 1)).map (fun x => x.floor)).sum)) with
      | some e => need false 37 (8192 * cl.toNat + e.1.q.toNat) p
      | none => none),
    need ((mine.map (fun x => x.rcvs.length)).sum ≤ 1024) 38 cl.toNat p,
    need ((mine.filter (fun x => x.elastic != 0)).length ≤ 4) 39 cl.toNat p]

/-- Lanes of a link in each direction (Table 7-2). -/
def lanesOf (id : SegId) : Nat :=
  match (id.extractLsb' 16 3).toNat with | 0 => 6 | 1 => 16 | 2 => 32 | 3 => 9 | 4 => 5 | 5 => 4 | _ => 0

/-- Segments: present lanes that no test found bad, lane 8 of the die bridge apart (Table 7-2), one driver and one lane each (R259, R261, R483). -/
def segsOk (d : Dev) (others : List SegId) (im : NetImg) : Chk :=
  errOf im.segs (fun g => firstErr [
    need (segPoint g.id && (g.id.extractLsb' 0 8).toNat < (if (g.id.extractLsb' 16 3).toNat == 3 then 8 else lanesOf g.id) &&
      !d.health.badSegs.contains g.id && (segParts g.id).all (fun p => d.diePresent (dieOfPart p))) 40 g.id.toNat,
    need (im.segs.all (fun h => h.id != g.id || h == g) && !others.contains g.id) 41 g.id.toNat])

/-- A logic block lies on a core that the image places; a patch acts on packet queues only (R288): the error names the block and the
queue. -/
def logicOk (im : NetImg) : Chk :=
  errOf im.logic (fun l => match l.patchQ with
    | none => none
    | some q => need (match queueImg im.queues q with | some x => x.pmode != .plain | none => false) 42 (8192 * l.core.toNat + q.toNat))

/-! ## Regions (R402, R483) -/

/-- Master weights as 64-bit words, four BF16 values in each, the first lowest. -/
def weightWords : List (BitVec 16) → List W64
  | a :: b :: c :: d :: t => (d ++ c ++ b ++ a) :: weightWords t
  | [] => []
  | l => [l.getD 3 0#16 ++ l.getD 2 0#16 ++ l.getD 1 0#16 ++ l.getD 0 0#16]

/-- A region descriptor as the image gives it, valid and locked. -/
def regionOf (r : RegionImg) : Region := { base := r.base, lenM1 := r.lenM1, v := true, rd := r.rd, wr := r.wr, dma := r.dma, lock := true }

/-- The regions of a partition in an image. -/
def regionsOf (im : NetImg) (p : PartId) : List Region := (im.regions.filter (fun e => e.1 == p)).flatMap (fun e => e.2.map regionOf)

/-- The storage granules of a region. -/
def Region.granules (die1 : Bool) (r : Region) : List (Nat × Nat) :=
  (List.range (r.bytes / 512)).filterMap (fun i => locate die1 (r.start + 512 * i))

/-- Every granule of a range of addresses is covered with the grant asked for. -/
def coveredBy (die1 : Bool) (rs : List Region) (a bytes : Nat) (write : Bool) : Bool :=
  (List.range ((a % 512 + bytes + 511) / 512)).all (fun i => match locate die1 (a - a % 512 + 512 * i) with
    | some pl => rs.any (fun r => r.covers pl && (if write then r.wr else r.rd))
    | none => false)

/-- The partition of a stage: that of its first core. -/
def stagePart (s : StageImg) : Option PartId := (s.cores.head?).map (fun c => partOfCluster c.cluster)

/-- Region descriptors: within one view, off failed channels, apart from the writable regions of other networks, those of the set included; and the
sections that need them covered (R402). -/
def regionsOk (d : Dev) (n : NetId) (others : List NetImg) (im : NetImg) : Chk :=
  let foreign := allParts.flatMap (fun p =>
    if (d.part p).cast != .uncast && (d.part p).net != n then ((d.part p).regions.filter (fun e => e.2.lock && e.2.wr)).map (fun e => e.2) else [])
    ++ others.flatMap (fun o => o.regions.flatMap (fun e => (e.2.map regionOf).filter (fun g => g.wr)))
  let both (p : PartId) (a bytes : Nat) : Bool :=
    coveredBy d.die1 (regionsOf im p) a bytes true && coveredBy d.die1 (regionsOf im p) a bytes false
  firstErr [
    errOf im.regions (fun e => need (d.diePresent (dieOfPart e.1)) 1 e.1.toNat (some e.1)),
    errOf im.regions (fun e => errOf (e.2.zipIdx) (fun r =>
      let g := regionOf r.1
      firstErr [
        need (rangeOk d.die1 g.start g.bytes && e.2.length ≤ 64) 50 (e.1.toNat * 256 + r.2) (some e.1),
        need ((g.granules d.die1).all (fun pl => !(d.chan pl.1).failed)) 51 (e.1.toNat * 256 + r.2) (some e.1),
        need (!g.wr || (g.granules d.die1).all (fun pl => !foreign.any (fun f => f.covers pl))) 52 (e.1.toNat * 256 + r.2) (some e.1)])),
    errOf im.stages (fun s => match stagePart s with
      | none => none
      | some p => need (s.streamed || s.lstore.isEmpty || both p (shadowOf im s).toNat (8 * s.lstore.length)) 53 s.num.toNat (some p)),
    errOf im.streams (fun x => need (coveredBy d.die1 (regionsOf im (partOfQueue x.q)) x.addr.toNat (8 * x.words) false) 54 x.stage.toNat
      (some (partOfQueue x.q))),
    errOf im.records (fun r => need (coveredBy d.die1 (regionsOf im (partOfQueue r.q)) r.ringBase.toNat r.ringBytes true) 55 r.rout.toNat
      (some (partOfQueue r.q))),
    match im.adapt with
    | none => none
    | some a => firstErr [
        errOf a.stages (fun x => need (both x.part (512 * x.base.toNat) (24 * x.imgWords.toNat)) 56 x.stage.toNat (some x.part)),
        errOf im.companions.head?.toList (fun p => need (both p (512 * a.wbase.toNat) (8 * (weightWords a.weights).length)) 56 p.toNat (some p)),
        errOf a.chains.zipIdx (fun c => need (both (partOfQueue c.1.first) (512 * c.1.rbase.toNat)
          (512 * c.1.slotb.toNat * (a.replayM1.toNat + 1))) 57 c.2 (some (partOfQueue c.1.first)))]]

/-! ## Reference groups, adaptation, chain channels -/

/-- A reference group: its number free and its fields in range (R336). -/
def refOk (d : Dev) (n : NetId) (g : RefGroupImg) : Chk :=
  let l := (if d.route.binlen == 0#6 then 64 else d.route.binlen.toNat) * 250
  need ((match d.refGroup g.g with | some x => x.net == n | none => true) &&
    1 ≤ g.tsize && g.tsize ≤ 65535 && 1 ≤ g.tpb && g.tpb ≤ 255 && g.u ≤ 65535 && 1 ≤ g.nbin && g.nbin ≤ 4096 &&
    1 ≤ g.dt && g.dt ≤ 65535 && (g.tmode || (g.dt + 2 * g.u + l - 1) / l + 1 ≤ g.nbin) &&
    decide (-32768 ≤ g.offset) && decide (g.offset ≤ 32767) && g.route.length == g.tpb) 60 g.g.toNat

/-- The adaptation of a network (R361, R362, R366, R374). A stage that may not be adapted is named with the condition that it
breaks: 1 kind or weight streaming, 2 stripes, 3 size, 4 format. -/
def adaptOk (im : NetImg) (a : AdaptImg) : Chk :=
  let stage (n : StageId) : Option StageImg := im.stages.find? (fun s => s.num == n)
  firstErr [
    errOf im.parts (fun p => need ((a.stages.filter (fun s => s.part == p)).length ≤ 8) 61 p.toNat (some p)),
    errOf (im.parts ++ im.companions) (fun p =>
      let here (s : StageImg) : Bool := s.cores.any (fun c => partOfCluster c.cluster == p)
      need (!(im.companions.contains p || im.stages.any (fun s => s.kind == .companion && here s)) ||
        im.stages.all (fun s => s.kind == .companion || !here s)) 62 p.toNat (some p)),
    errOf a.stages (fun x => match stage x.stage with
      | none => need false 63 x.stage.toNat
      | some s => firstErr [
          need (s.kind == .compute && !s.streamed) 63 (stageRes x.stage.toNat 1),
          need (!s.channelGroups) 63 (stageRes x.stage.toNat 2),
          need (s.lstore.length ≤ 4096 && x.imgWords.toNat == s.lstore.length) 63 (stageRes x.stage.toNat 3),
          need (s.wfmt != .fp32 && s.wfmt != .u16) 63 (stageRes x.stage.toNat 4),
          need (match stage x.gradStage with | some g => x.values ≤ 8192 * g.cores.length | none => x.values == 0) 64 x.gradStage.toNat]),
    errOf a.chains.zipIdx (fun c =>
      let first := (a.stages.find? (fun s => s.chain.toNat == c.2)).bind (fun s => stage s.stage)
      let producer (s : StageImg) (t : StageImg) : Bool := im.edges.any (fun e => e.src == t.num && e.dst == s.num)
      need (match queueImg im.queues c.1.tap, first with
        | some q, some s => q.rcvs.any (fun r => r.detach && !r.windowed) &&
            (if s.cores.length ≤ 1 then (stageIns s).contains c.1.tap
             else !(stageIns s).contains c.1.tap && im.stages.any (fun t => producer s t && (stageOuts t).contains c.1.tap))
        | _, _ => false) 65 c.2)]

/-- A chain channel's peer lies on a trained port (R445). -/
def chanOk (d : Dev) (c : ChanImg) : Chk := need (if c.east then d.ing.eup else d.ing.wup) 66 c.chan.toNat

/-! ## Placement (R40 to R42) -/

/-- A logical ID put into a list in ascending order. -/
def insertId (l : LogicalId) : List LogicalId → List LogicalId
  | [] => [l]
  | x :: t => if l.toNat ≤ x.toNat then l :: x :: t else x :: insertId l t

/-- A logical core of an image, with its stage. -/
def coreImgOf (im : NetImg) (l : LogicalId) : Option (StageId × CoreImg) :=
  im.stages.findSome? (fun s => (s.cores.find? (fun c => c.logical == l)).map (fun c => (s.num, c)))

/-- Logical cores that a cluster asks for, in ascending order: they take its good cores in ascending order (DESIGN CHOICE). -/
def wantsOf (im : NetImg) (cl : ClusterId) : List LogicalId :=
  (im.stages.flatMap (fun s => (s.cores.filter (fun c => c.cluster == cl)).map (fun c => c.logical))).foldr insertId []

/-- Physical cores of a cluster that are good. -/
def Dev.goodOf (d : Dev) (cl : ClusterId) : List CoreId := (coresOfCluster cl).filter (fun c => d.good c)

/-- Own cluster first; what does not fit stays. Assumption 52 (DEDUCED): unsafe. -/
def placeOwn (d : Dev) (im : NetImg) (cls : List ClusterId) : List (LogicalId × CoreId) × List (ClusterId × LogicalId) :=
  cls.foldl (fun acc cl =>
    let w := wantsOf im cl
    let g := d.goodOf cl
    (acc.1 ++ w.zip g, acc.2 ++ (w.drop g.length).map (fun l => (cl, l)))) ([], [])

/-- The rest on good, unassigned cores of other clusters of the same partition, over alternate lanes; the cluster for which none is
left. -/
def placeRest (d : Dev) (im : NetImg) :
    List (LogicalId × CoreId) → List (ClusterId × LogicalId) → List (LogicalId × CoreId) × Option ClusterId
  | done, [] => (done, none)
  | done, (cl, l) :: t =>
    let st := ((coreImgOf im l).map (fun e => e.1)).getD 0#11
    match (coresOfPart (partOfCluster cl)).find? (fun c =>
        d.good c && !done.any (fun e => e.2 == c) && hasAlt im st cl (clusterOfCore c)) with
    | some c => placeRest d im (done ++ [(l, c)]) t
    | none => (done, some cl)

/-- The placement of a network's logical cores, or the cluster that has no place for one. -/
def Dev.placeNet (d : Dev) (im : NetImg) : List (LogicalId × CoreId) × Option ClusterId :=
  let o := placeOwn d im (im.parts.flatMap clustersOfPart)
  placeRest d im o.1 o.2

/-- The reserved spare of a cluster after placement: its lowest good core without a logical ID (R42). -/
def Dev.spareOfCluster (d : Dev) (place : List (LogicalId × CoreId)) (cl : ClusterId) : Option CoreId :=
  (d.goodOf cl).find? (fun c => !place.any (fun e => e.2 == c))

/-- Logical IDs: each once, none of another network's, at most the good cores of a partition; and a place for each. -/
def placeOk (d : Dev) (n : NetId) (im : NetImg) : Chk :=
  let all := im.stages.flatMap (fun s => s.cores.map (fun c => (c.logical, c.cluster)))
  firstErr [
    errOf all (fun e => firstErr [
      need (d.diePresent (dieOfPart (partOfCluster e.2))) 1 e.2.toNat,
      need (im.parts.contains (partOfCluster e.2)) 70 e.2.toNat (some (partOfCluster e.2)),
      need ((all.filter (fun x => x.1 == e.1)).length == 1 &&
        (match (d.map.lookup e.1.toNat).join with | some c => (d.core c).net == n | none => true)) 71 (partOfCluster e.2).toNat (some (partOfCluster e.2))]),
    errOf im.parts (fun p => need ((all.filter (fun e => partOfCluster e.2 == p)).length ≤ ((coresOfPart p).filter (fun c => d.good c)).length) 71 p.toNat (some p)),
    (match (d.placeNet im).2 with | some cl => need false 72 cl.toNat (some (partOfCluster cl)) | none => none)]

/-! ## Bridges (R86, R281) -/

/-- Payload bytes per second of words carried once per frame. -/
def byteRate (clkMhz interval words : Nat) : Nat := 1000000 * (8 * (words * clkMhz)) / max interval 1

/-- The die of a stage. -/
def stageDie (im : NetImg) (st : StageId) : Option Nat :=
  ((im.stages.find? (fun s => s.num == st)).bind stagePart).map dieOfPart

/-- Bytes per second of a network's edges from one die to the other. -/
def dieTraffic (clk : Nat) (im : NetImg) (src : Nat) : Nat :=
  (im.edges.map (fun e => match stageDie im e.src, stageDie im e.dst with
    | some a, some b => if a == src && b != src then byteRate clk im.interval (e.prodRows * e.prodWords + 1) else 0
    | _, _ => 0)).sum

/-- Bytes per second that a network takes from the plinth into a die: admission rows and received chain words. -/
def plinthIn (clk : Nat) (im : NetImg) (die : Nat) : Nat :=
  (im.groups.map (fun g => (g.dests.map (fun q => if dieOfPart (partOfQueue q) == die then byteRate clk im.interval (g.lines * lineBytes g / 8) else 0)).sum)).sum +
    (im.chans.map (fun c => if !c.sends && dieOfPart (partOfQueue c.q) == die then byteRate clk im.interval c.frameWords else 0)).sum

/-- Bytes per second that a network sends from a die to the plinth. -/
def plinthOut (clk : Nat) (im : NetImg) (die : Nat) : Nat :=
  (im.chans.map (fun c => if c.sends && dieOfPart (partOfQueue c.q) == die then byteRate clk im.interval c.frameWords else 0)).sum

/-! ## The whole check -/

/-- Images of the cast networks, apart from those in a list. -/
def Dev.otherImgs (d : Dev) (ns : List NetId) : List NetImg :=
  allNets.filterMap (fun n => if ns.contains n then none else (d.net n).img)

/-- Table 2-3 (R69). -/
def paramRanges (low : Option PartId) (im : NetImg) : Chk :=
  firstErr [
    need (4096 ≤ im.interval && im.interval < 2 ^ 32) 80 0 low,
    errOf im.groups (fun g => firstErr [
      need (1 ≤ g.members && g.members ≤ 16 && g.dests.length == g.members) 80 1 low,
      need (!g.lscan || (g.lines % 16 == 0 && 16 ≤ g.lines && g.lines ≤ 16384)) 80 2 low]),
    need (1 ≤ im.maqInterval && im.maqInterval ≤ 3600) 80 3 low]

/-- The program bytes of a stage in one cluster: its program, its degraded variant, and its alternate-lane variant (R95). -/
def stageBytes (s : StageImg) : Nat :=
  8 * (s.prog.words.length + (match s.degraded with | some p => p.words.length | none => 0) + (match s.alt with | some p => p.words.length | none => 0))

/-- One network of the set. -/
def netOk (d : Dev) (common : List W64) (all : List NetImg) (im : NetImg) : Chk :=
  let n := im.num
  let low := im.parts.head?
  let striped := (im.stages.filter (fun s => 2 ≤ s.cores.length && !s.channelGroups)).flatMap stageIns
  let rest := all.filter (fun x => x.num != n)
  let others := rest.flatMap (fun x => x.segs.map (fun g => g.id))
  let cls := im.parts.flatMap clustersOfPart
  let pool (x : QueueImg) : Nat := 32768 - ((im.queues.filter (fun y => clusterOfQueue y.q == clusterOfQueue x.q)).map (fun y => y.floor)).sum
  firstErr [
    need (!im.parts.isEmpty) 2 n.toNat,
    errOf im.parts (fun p => firstErr [
      need (d.diePresent (dieOfPart p)) 1 p.toNat (some p),
      need ((d.part p).cast == .uncast || (d.part p).cast == .heldAbort || (d.part p).net == n) 3 p.toNat (some p)]),
    paramRanges low im,
    need (im.stages.map (fun s => s.num)).Nodup 4 0 low,
    errOf im.edges (fun e => need (e.prodRows == e.consRows && e.prodWords == e.consWords) 5 (65536 * e.src.toNat + e.dst.toNat) low),
    errOf im.records (fun r => need (r.rows || (1 ≤ r.cap && r.cap ≤ 4096 && 1 ≤ r.width && r.width ≤ 16)) 6 r.rout.toNat low),
    placeOk d n im,
    errOf im.stages (fun s => need ((s.cores.map (fun c => dieOfPart (partOfCluster c.cluster))).eraseDups.length ≤ 1) 7 s.num.toNat low),
    errOf im.stages (stageOk common im low),
    need (im.queues.map (fun x => x.q)).Nodup 30 0 low,
    errOf im.queues (fun x => queueOk d im.parts (regionsOf im) striped (pool x) x),
    errOf cls (clusterOk im.queues),
    errOf cls (fun cl => need (8 * common.length + ((im.stages.filter (fun s => s.cores.any (fun c => c.cluster == cl))).map stageBytes).sum ≤ 131072) 8 cl.toNat
      (some (partOfCluster cl))),
    errOf im.tensors (fun t => need (s2Min.toNat ≤ t.s2.toNat && t.s2.toNat ≤ s2Max.toNat) 9 (4096 * t.stage.toNat + t.num.toNat) low),
    segsOk d others im, logicOk im, regionsOk d n rest im,
    errOf im.refs (refOk d n),
    (match im.adapt with | some a => adaptOk im a | none => none),
    errOf im.chans (chanOk d)]

/-- What a bridge check names: the direction, and the total in thousands of bytes per second.
Assumption 14 (DESIGN CHOICE): unsafe. -/
def bridgeRes (dir total : Nat) : Nat := 2147483648 * dir + min 2147483647 (total / 1000)

/-- The die bridge and the plinth bridges carry the traffic of every cast network (R86, R281): the first direction that does not. -/
def bridgesOk (clk : Nat) (ims : List NetImg) (low : Option PartId) : Chk :=
  let sum (f : NetImg → Nat) : Nat := (ims.map f).sum
  errOf [0, 1] (fun die => firstErr [
    need (sum (fun x => dieTraffic clk x die) ≤ 76800000000) 81 (bridgeRes die (sum (fun x => dieTraffic clk x die))) low,
    need (sum (fun x => plinthIn clk x die) ≤ 48000000000) 82 (bridgeRes 0 (sum (fun x => plinthIn clk x die))) low,
    need (sum (fun x => plinthOut clk x die) ≤ 48000000000) 82 (bridgeRes 1 (sum (fun x => plinthOut clk x die))) low])

/-- A network of the set names no resource of a die that is absent (R6). -/
def diesOk (d : Dev) (im : NetImg) : Chk :=
  let ok (p : PartId) : Chk := need (d.diePresent (dieOfPart p)) 1 p.toNat (some p)
  firstErr [
    errOf im.parts ok, errOf im.companions ok,
    errOf im.stages (fun s => errOf s.cores (fun c => ok (partOfCluster c.cluster))),
    errOf im.queues (fun x => firstErr [ok (partOfQueue x.q), errOf x.rcvs (fun r => match r.part with | some p => ok p | none => none)]),
    errOf im.segs (fun g => ok (partOfSeg g.id)), errOf im.regions (fun e => ok e.1), errOf im.groups (fun g => errOf g.dests (fun q => ok (partOfQueue q)))]

/-- A logical ID goes to one core of the networks of a set (R40): the partition of the first that does not. -/
def idsOk (ims : List NetImg) : Chk :=
  let all := ims.flatMap (fun im => im.stages.flatMap (fun s => s.cores.map (fun c => (c.logical, partOfCluster c.cluster))))
  errOf all (fun e => need ((all.filter (fun x => x.1 == e.1)).length == 1) 71 e.2.toNat (some e.2))

/-- The set as a whole: capabilities (R7), manifest (R304, R305, R318), ingest quotas (R436), record outputs (R473) and
reference groups (R336) over the networks named and those already cast. The resource exceeded is 1 for good cores, 2 for ingest lanes
and 3 for arithmetic clock. Assumption 13 (DESIGN CHOICE): unsafe. Assumption 14 (DESIGN CHOICE): unsafe.
Assumption 153 (DEDUCED): unsafe. -/
def setOk (d : Dev) (f : Factory) (common : List W64) (s : SetImg) (ns : List NetId) : Chk :=
  let ims := s.nets.filter (fun im => ns.contains im.num)
  let others := d.otherImgs ns
  let all := ims ++ others
  let routs := all.flatMap (fun im => im.records.map (fun r => r.rout))
  let refs := all.flatMap (fun im => im.refs.map (fun g => g.g))
  let parts := ims.flatMap (fun im => im.parts)
  firstErr [
    need (s.coresreq ≤ f.goodCores) 90 1,
    need (s.lanemask.toNat < 2 ^ f.lanes) 90 2,
    need (s.clkreq ≤ f.clkMhz) 90 3,
    need (s.length ≤ 62914560 && s.sections.length ≤ 408) 91 0,
    errOf s.sections.zipIdx (fun e =>
      let x := e.1
      need (1 ≤ x.kind.toNat && x.kind.toNat ≤ 10 && 65536 ≤ x.offset && x.offset % 256 == 0 && x.offset + x.length ≤ s.length &&
        (6 ≤ x.kind.toNat || x.length ≤ 196608) &&
        s.sections.zipIdx.all (fun o => o.2 == e.2 || o.1.offset + o.1.length ≤ x.offset || x.offset + x.length ≤ o.1.offset)) 91 e.2),
    errOf s.nets (diesOk d),
    need parts.Nodup 3 0,
    idsOk ims,
    errOf ims (fun im => need ((all.map (fun x => (x.groups.map (fun g => g.aquota)).sum)).sum ≤ 6291456) 92 im.num.toNat im.parts.head?),
    need ((all.filter (fun im => im.adapt.isSome)).length ≤ 4) 67 4,
    errOf routs (fun r => need ((routs.filter (fun x => x == r)).length ≤ 1) 93 r.toNat),
    errOf refs (fun g => need ((refs.filter (fun x => x == g)).length ≤ 1) 60 g.toNat),
    need (common.length ≤ 256) 10 0,
    errOf ims (netOk d common all),
    bridgesOk f.clkMhz all (ims.head?.bind (fun im => im.parts.head?))]

end Sys2Proof.Machine
end

