-- ==== Sys2Proof/Machine/Casting.lean ====
section
/-! DEFINITION. Casting (chapter 08): the sequence of Table 8-9 from step 2 on, chunks and acknowledgements (R309 to R312),
completion and repair (R313 to R315), sections (R316 to R318), chasing (R319, R320), release (R84, R321, R322), and the
drains of STOP, RECAST, UNCAST and standby (R324 to R326). The structured content of the casting set takes effect where
the section that carries it does. -/
namespace Sys2Proof.Machine

open Sys2Proof

/-! ## The casting in hand -/

/-- Change the casting in progress of a network. -/
def Dev.modCasting (d : Dev) (n : NetId) (f : Casting → Casting) : Dev :=
  d.modNet n (fun x => { x with casting := x.casting.map f })

/-- The lowest-numbered partition of the network that is cast or being cast. -/
def Dev.castPart (d : Dev) (n : NetId) : PartId :=
  ((d.lowestPart n).orElse (fun _ => (d.net n).img.bind (fun im => im.parts.head?))).getD 0#5

/-- Step 1 has passed: the placement is made and the image kept. -/
def Dev.castBegin (d : Dev) (n : NetId) (slot : BitVec 3) (im : NetImg) (tag : Option Byte) (noChase recast : Bool) : Dev :=
  d.modNet n (fun x => { x with
    img := some (translateNet im), slot := slot,
    casting := some { step := 1, slot := slot, tag := tag, place := (d.placeNet im).1, t0 := d.time, noChase := noChase,
                      recast := recast } })

/-! ## Step 2: the partly cast state (R308) -/

/-- DRAIN_TO in its range (R330). -/
def drainMs (n : Nat) : BitVec 10 := BitVec.ofNat 10 (max 1 (min 1000 n))

/-- One partition becomes partly cast, with nothing loaded, its descriptors cleared and its DMA channels idle. -/
def Dev.partly (d : Dev) (n : NetId) (im : NetImg) (slot : BitVec 3) (p : PartId) : Dev :=
  ((((d.unload p).cancelPart p).dmaCasting p).modPart p (fun x =>
    { x with cast := .partly, net := n, slot := slot, slotValid := true, rounds := 0#2, relAck := false, regions := [], shut := false,
             mode := im.modes, drainTo := drainMs im.drainTo, cfgUe := [] })).boundaryDown p

/-- The network's epoch at a casting (R322): 0 at the first since the package reset, else one more; a RECAST has advanced
it already. -/
def Network.castEpoch (x : Network) (recast : Bool) : Network :=
  let e := if x.everCast && !recast then x.epoch + 1#3 else x.epoch
  let a := if x.everCast then x.aepoch + 1#3 else x.aepoch
  { x with epoch := e, aepoch := a, everCast := true, open_ := false, openAt := false, stoppedBy := none, held := false, degraded := [],
           switchAt := [], inFlight := [], slow := [], dropPend := [], aclosed := false }

/-- Every partition of the network becomes partly cast. -/
def Dev.enterPartly (d : Dev) (n : NetId) (k : Casting) (im : NetImg) : Dev :=
  (im.parts.foldl (fun d p => d.partly n im k.slot p) ((d.dropSegs n).modNet n (fun x => x.castEpoch k.recast))).bindNet n

/-! ## The partition configuration takes effect (step 3) -/

/-- A receiver as the image gives it. -/
def rcvOf (r : RcvImg) : Rcv := { detach := r.detach, laglim := r.laglim, windowed := r.windowed, part := r.part }

/-- A queue as the image gives it. -/
def queueOf (n : NetId) (streams : List StreamImg) (x : QueueImg) : Queue :=
  { floor := x.floor, cap := x.cap, pmode := x.pmode, pktmax := x.pktmax, nprod := x.nprod, elastic := x.elastic,
    spillBase := x.spillBase, slot := x.slot, net := n, rcvs := x.rcvs.map rcvOf,
    stream := (streams.find? (fun s => s.q == x.q)).map (fun s => (s.addr, s.words)) }

/-- A segment that a lane of the image uses: its one driver enabled (R261), that of an alternate lane when it is used
(R30). -/
def segOf (n : NetId) (g : SegImg) : Seg :=
  { own := true, drv := g.drv, en := if g.alt.isSome then 0#4 else 1#4 <<< g.drv.toNat, stage := g.stage, net := n, q := some g.q, rcv := g.rcv,
    port := g.port }

/-- Queues, segments, region descriptors with LOCK (R402) and logic blocks. -/
def Dev.configure (d : Dev) (n : NetId) (im : NetImg) : Dev :=
  let d1 := im.queues.foldl (fun d x => d.setQueue x.q { queueOf n im.streams x with rsel := (d.queue x.q).rsel }) d
  let d2 := im.segs.foldl (fun d g => d.modPart (partOfSeg g.id) (fun x => { x with segs := tblSet {} x.segs g.id.toNat (segOf n g) })) d1
  let d3 := im.parts.foldl (fun d p => d.modPart p (fun x =>
    { x with regions := ((regionsOf im p).zipIdx).foldl (fun t e => tblSet {} t e.2 e.1) [] })) d2
  im.logic.foldl (fun d l => match (((d.net n).casting.map (fun k => k.place)).getD []).find? (fun e => e.1 == l.core) with
    | none => d
    | some e => d.modCore e.2 (fun k =>
    { k with luts := (l.luts.zipIdx).foldl (fun t e => tblSet 0#16 t e.2 e.1) [], tshift := l.tshift, snoopQ := l.snoopQ,
             snoopKinds := l.snoopKinds, snoopIdx := l.snoopIdx, snoopHigh := l.snoopHigh, patchQ := l.patchQ,
             patchIdx := l.patchIdx, patchHigh := l.patchHigh })) d3

/-- The placed logical IDs enter the map, each a change of it (R36, R37), and clusters without a local spare are recorded (R42). -/
def Dev.mapPlaced (d : Dev) (im : NetImg) (k : Casting) : Dev :=
  let d0 := k.place.foldl (fun d e => d.mapTo e.1 (some e.2)) d
  let d1 := k.place.foldl (fun d e => match coreImgOf im e.1 with
    | some (st, c) => d.enableAlt im.num st c.cluster (clusterOfCore e.2)
    | none => d) d0
  (im.parts.flatMap clustersOfPart).foldl (fun d cl => d.modCluster cl (fun x => { x with noSpare := (d.spareOfCluster k.place cl).isNone })) d1

/-! ## Completion (R311, R313) -/

/-- A placed core holds its record and every chunk that it expects. -/
def Dev.coreComplete (d : Dev) (l : LogicalId) (c : CoreId) : Bool :=
  let k := d.core c
  k.assigned && !k.spare && k.logical == l && k.expect &&& ~~~k.bitmap == 0#81

/-- Placed cores that are incomplete, or that did not answer. -/
def Dev.incompleteOf (d : Dev) (k : Casting) (silent : List CoreId) : List CoreId :=
  (k.place.filter (fun e => !d.coreComplete e.1 e.2 || silent.contains e.2)).map (fun e => e.2)

/-- A reduction starts: each good, non-spare core answers, its own bit set when it is incomplete. -/
def Dev.startReduction (d : Dev) (k : Casting) : Dev :=
  k.place.foldl (fun d e =>
    d.reduceIn e.2 0x14#8 (BitVec.ofNat 20 k.round) (if d.coreComplete e.1 e.2 then 0#2048 else 1#2048 <<< e.2.toNat)) d

/-! ## Steps (Table 8-9) -/

/-- Every section of some kinds that the manifest gives the network has been read. -/
def sectionsDone (s : SetImg) (n : NetId) (k : Casting) (kinds : List Nat) : Bool :=
  s.sections.zipIdx.all (fun e => !(e.1.net == n && kinds.contains e.1.kind.toNat) || k.sectionsRead.contains e.2)

/-- A set with nothing in it. -/
def noSet : SetImg :=
  { setver := 0#32, ownser := 0#32, signer := 0, digest := 0#512, length := 0, lanemask := 0#32, coresreq := 0, clkreq := 0,
    sections := [], nets := [] }

/-- Chunks of a section of 256 bytes (R309), and whether those of a partition configuration or of a program cache have all come. -/
def sectionChunks (x : SectionImg) : Nat := (x.length + 255) / 256
def Dev.delivered (d : Dev) (x : SectionImg) : Bool :=
  match x.kind.toNat with
  | 2 => sectionChunks x ≤ (d.part x.part).cfgChunks.length
  | 5 => sectionChunks x ≤ (d.cluster (x.stage.setWidth 7)).cacheChunks.length
  | _ => true

/-- Every partition configuration of a network has been read, and written whole: step 3 goes on to the program caches (Table 8-9).
Assumption 153 (DEDUCED): unsafe. -/
def Dev.configsDone (d : Dev) (st : Store) (n : NetId) (k : Casting) : Bool :=
  sectionsDone ((tblGet none st.slots k.slot.toNat).getD noSet) n k [2] && k.hashed.all (fun x => x.kind.toNat != 2 || d.delivered x)

/-- The sections of step 8 may be read: in that step, or in steps 6 and 7 once every stage section has been (R307). -/
def sectionTime (s : SetImg) (n : NetId) (k : Casting) : Bool :=
  k.step == 8 || ((k.step == 6 || k.step == 7) && sectionsDone s n k [4])

/-- The units that report in chasing: cores with content, partition controls and queue managers. -/
def chaseUnits (im : NetImg) (k : Casting) : List ChaseUnit :=
  k.place.map (fun e => .core e.2) ++ im.parts.map .partition ++ (im.parts.flatMap clustersOfPart).map .queueManager

/-- The step in progress may end. -/
def Dev.stepReady (d : Dev) (st : Store) (n : NetId) (k : Casting) (im : NetImg) : Bool :=
  let s := (tblGet none st.slots k.slot.toNat).getD noSet
  match k.step with
  | 3 => k.unacked.isEmpty && sectionsDone s n k [1, 2, 5] && k.hashed.all d.delivered
  | 6 => sectionsDone s n k [3, 4]
  | 7 => (d.incompleteOf k []).isEmpty && k.incomplete.isEmpty && !k.paused
  | 8 => sectionsDone s n k [6, 7, 8, 9, 10]
  | 9 => (chaseUnits im k).all (fun u => k.chased.contains u)
  | 10 => false
  | _ => true

/-- The cores of a stage load their local stores from its shadow, in bursts of class 2 (R317). -/
def Dev.castLoad (d : Dev) (n : NetId) (s : StageImg) : Dev :=
  match (d.net n).casting with
  | none => d
  | some k =>
    let d0 := if s.streamed then d else d.countBursts (stagePart s) 2#2 (granulesOf s.shadow.toNat (8 * s.lstore.length))
    (k.place.filter (fun e => s.cores.any (fun c => c.logical == e.1))).foldl (fun d e =>
      if (d.net n).casting.isNone then d
      else
        let (d1, ok) := d.loadStore e.2 s false
        if ok then d1 else (d1.faultCore e.2 .localStore none).fence e.2 1#3) d0

/-- What the start of a step does; at step 8 the stages whose image is in the shadow already load it. -/
def Dev.stepStart (d : Dev) (n : NetId) (im : NetImg) : Dev :=
  match (d.net n).casting with
  | none => d
  | some k =>
    match k.step with
    | 2 => d.enterPartly n k im
    | 4 => (d.configure n im).mapPlaced im k
    | 7 => d.startReduction k
    | 8 => im.stages.foldl (fun d s => if k.shadowed.contains s.num then d.castLoad n s else d) d
    | _ => d

/-- CASTING_STEP_END. A local-store uncorrectable error that a core meets in step 8 or 9 fences it and aborts (Table 8-13).
Assumption 58 (DEDUCED): unsafe. -/
def stepEnd (n : NetId) (fault : Option CoreId) (s : State) : State :=
  let d := s.dev
  match (d.net n).casting, (d.net n).img with
  | some k, some im =>
    match fault with
    | some c =>
      if (k.step == 8 || k.step == 9) && k.place.any (fun e => e.2 == c) then { s with dev := (d.faultCore c .localStore none).fence c 1#3 } else s
    | none =>
      if !d.stepReady s.store n k im then s
      else
        let next := if k.step == 8 && k.noChase then 10 else k.step + 1
        { s with dev := (d.modCasting n (fun k => { k with step := next })).stepStart n im }
  | _, _ => s
def execCastingStepEnd (n : NetId) (fault : Option CoreId) (s : State) : Ans := .next (stepEnd n fault s)

/-! ## Chunks (R309 to R312) -/

/-- A chunk that failed its CRC is discarded and counted. -/
def Dev.badChunk (d : Dev) (p : PartId) : Dev := d.modPart p (fun x => { x with pktCrc := satInc x.pktCrc })

/-- An acknowledged chunk is in flight: at most 64 are. None when the sender may not send it. -/
def Casting.send (k : Casting) (dst : Endpoint) (seq : BitVec 20) : Option Casting :=
  if k.unacked.any (fun e => e.1 == (dst, seq)) then some k
  else if k.unacked.length < 64 then some { k with unacked := k.unacked ++ [((dst, seq), 0)] } else none

/-- An acknowledgement of a chunk (Table 8-10). -/
def Dev.ackChunk (d : Dev) (src : Endpoint) (seq : BitVec 20) : Dev :=
  d.sendPacket { cls := 2#2, src := src, dst := epMgmt, opc := 0x18#8, seq := seq, crc := 0#32 }

/-- A section of a kind has been hashed whole, and its digest matched: its chunks may leave the plinth (R318). -/
def Casting.has (k : Casting) (kind : Nat) (f : SectionImg → Bool) : Bool := k.hashed.any (fun x => x.kind.toNat == kind && f x)

/-- The casting of a partition in step 3 that sends a chunk of a section that it has hashed. -/
def Dev.sendChunk (d : Dev) (p : PartId) (has : Casting → Bool) (dst : Endpoint) (seq : BitVec 20) : Option Dev :=
  let n := (d.part p).net
  match (d.net n).casting with
  | some k => if k.step == 3 && has k && (d.part p).cast == .partly then (k.send dst seq).map (fun k1 => d.modCasting n (fun _ => k1)) else none
  | none => none

/-- PARTITION_CONFIG_CHUNK: taken and acknowledged with a good CRC. -/
def configChunk (p : PartId) (idx : BitVec 10) (ws : Words) (crcOk : Bool) (d : Dev) : Dev :=
  match d.sendChunk p (fun k => k.has 2 (fun x => x.part == p)) (epPart p) (idx.setWidth 20) with
  | none => d
  | some d1 =>
    if !crcOk then d1.badChunk p
    else (d1.modPart p (fun x => { x with cfgChunks := tblSet [] x.cfgChunks idx.toNat ws })).ackChunk (epPart p) (idx.setWidth 20)
/-- Assumption 10 (DESIGN CHOICE): safe. -/
def execPartitionConfigChunk (p : PartId) (idx : BitVec 10) (ws : Words) (crcOk : Bool) (s : State) : Ans :=
  if ws.length != 32 || 750 ≤ idx.toNat then .refused .illFormed else .next { s with dev := configChunk p idx ws crcOk s.dev }

/-- PROGRAM_CACHE_CHUNK: once the partition configurations have been written (Table 8-9, step 3). -/
def cacheChunk (cl : ClusterId) (idx : BitVec 9) (ws : Words) (crcOk : Bool) (st : Store) (d : Dev) : Dev :=
  let n := (d.part (partOfCluster cl)).net
  match d.sendChunk (partOfCluster cl) (fun k => k.has 5 (fun x => x.stage == cl.setWidth 11) && d.configsDone st n k) (epCluster cl)
    (idx.setWidth 20) with
  | none => d
  | some d1 =>
    if !crcOk then d1.badChunk (partOfCluster cl)
    else (d1.modCluster cl (fun x => { x with cacheChunks := tblSet [] x.cacheChunks idx.toNat ws })).ackChunk (epCluster cl) (idx.setWidth 20)
def execProgramCacheChunk (cl : ClusterId) (idx : BitVec 9) (ws : Words) (crcOk : Bool) (s : State) : Ans :=
  if ws.length != 32 then .refused .illFormed else .next { s with dev := cacheChunk cl idx ws crcOk s.store s.dev }

/-- CASTING_ACK. -/
def castingAck (n : NetId) (src : Endpoint) (seq : BitVec 20) (d : Dev) : Dev :=
  d.modCasting n (fun k => { k with unacked := k.unacked.filter (fun e => e.1 != (src, seq)) })
def execCastingAck (n : NetId) (src : Endpoint) (seq : BitVec 20) (s : State) : Ans := .next { s with dev := castingAck n src seq s.dev }

/-- Chunks resent, counted. -/
def Dev.countResent (d : Dev) (p : PartId) (k : Nat) : Dev := d.modPart p (fun x => { x with castRep := satAdd x.castRep k })

/-- CASTING_ACK_TIMEOUT: the chunk is resent, up to three times; then the casting aborts. -/
def ackTimeout (n : NetId) (dst : Endpoint) (seq : BitVec 20) (d : Dev) : Dev :=
  match (d.net n).casting with
  | none => d
  | some k =>
    match k.unacked.find? (fun e => e.1 == (dst, seq)) with
    | none => d
    | some e =>
      if e.2 < 3 then
        (d.modCasting n (fun k => { k with unacked := k.unacked.map (fun x => if x.1 == (dst, seq) then (x.1, x.2 + 1) else x) })).countResent (d.castPart n) 1
      else d.castAbort n 100 (arg32 (d.castPart n))
def execCastingAckTimeout (n : NetId) (dst : Endpoint) (seq : BitVec 20) (s : State) : Ans := .next { s with dev := ackTimeout n dst seq s.dev }

/-! ## Assignment records and core images (R310, R311) -/

/-- What the image gives a logical core beside its record: ports, weight format, scales. -/
def Core.imaged (k : Core) (im : NetImg) (r : AssignRec) : Core :=
  match im.stages.find? (fun s => s.num == r.stage) with
  | none => k
  | some s =>
    let c := s.cores.find? (fun c => c.logical == r.logical)
    let sc := (im.tensors).foldl (fun t x => tblSet 0#32 t x.num.toNat x.s2) []
    let prog := if k.alt then s.alt.getD s.prog else s.prog
    { k with plen := prog.words.length, kind := s.kind, wfmt := s.wfmt, zp16 := s.zp16, s2 := sc, s2init := sc, s2next := [],
             ins := (c.map (fun c => c.ins)).getD [], outs := (c.map (fun c => c.outs)).getD [], finq := c.bind (fun c => c.finq) }

/-- ASSIGNMENT_RECORD: a good core of a partly cast partition takes its identity and what it expects. -/
def assignRecord (c : CoreId) (r : AssignRec) (d : Dev) : Dev :=
  let x := d.part (partOfCore c)
  if x.cast != .partly || x.net != r.net || !d.good c then d
  else match (d.net r.net).img with
    | none => d
    | some im => d.modCore c (fun k =>
        ({ k with logical := r.logical, assigned := true, spare := r.spare, cidx := r.cidx, net := r.net, stage := r.stage,
                  alt := (match coreImgOf im r.logical with | some e => e.2.cluster != clusterOfCore c | none => r.alt),
                  groups := r.groups, expect := r.expect, bitmap := 0#81, rowmax := r.rowmax.toNat, bentry := r.bentry,
                  state := if r.spare then .uncast else .transferring } : Core).imaged im r)
def execAssignmentRecord (c : CoreId) (r : AssignRec) (s : State) : Ans := .next { s with dev := assignRecord c r s.dev }

/-- Words put into a table from a key upward. -/
def tblPutAll (t : Tbl W64) (base : Nat) (ws : List W64) : Tbl W64 := (ws.zipIdx base).foldl (fun t e => tblSet 0#64 t e.2 e.1) t

/-- The words of descriptors with the core's own CIDX written in (R311). -/
def patchDescs (cidx : BitVec 10) : Nat → List W64 → List W64
  | 0, ws => ws
  | n + 1, ws => patchCidx cidx (ws.take 4) ++ patchDescs cidx n (ws.drop 4)

/-- A core image chunk in its place in the configuration memory. -/
def Core.takeChunk (k : Core) (idx : Nat) (ws : List W64) : Core :=
  let k1 := { k with bitmap := k.bitmap ||| (1#81 <<< idx) }
  if idx < 64 then { k1 with sched := tblPutAll k.sched (32 * idx) ws }
  else if idx < 72 then { k1 with desc := tblPutAll k.desc (32 * (idx - 64)) (patchDescs k.cidx 8 ws) }
  else
    let ws := if idx == 80 then ws.take 9 else ws
    if idx == 72 then { k1 with fin := tblPutAll k.fin 0 (ws.take 8), act := tblPutAll k.act 0 (ws.drop 8) }
    else { k1 with act := tblPutAll k.act (32 * (idx - 72) - 8) ws }

/-- The casting sends a core this chunk of its image: the common microcode from step 5 on, and the chunks of its stage's section from
step 6 on, once that section has been hashed (R307, R318). -/
def Dev.imageSent (d : Dev) (c : CoreId) (idx : Nat) : Bool :=
  match (d.net (d.part (partOfCore c)).net).casting with
  | none => false
  | some k => if idx < 8 then decide (5 ≤ k.step) else decide (6 ≤ k.step) && k.has 4 (fun x => x.stage == (d.core c).stage)

/-- CORE_IMAGE_CHUNK: one core of the multicast receives a chunk; a spare takes the common microcode alone, chunks 0 to 7 (R94). -/
def imageChunk (c : CoreId) (idx : BitVec 7) (ws : Words) (crcOk : Bool) (d : Dev) : Dev :=
  if !d.imageSent c idx.toNat || (d.part (partOfCore c)).cast != .partly || !(d.core c).assigned || ((d.core c).spare && 8 ≤ idx.toNat) then d
  else if !crcOk then d.badChunk (partOfCore c)
  else d.modCore c (fun k => k.takeChunk idx.toNat ws)
def execCoreImageChunk (c : CoreId) (idx : BitVec 7) (ws : Words) (crcOk : Bool) (s : State) : Ans :=
  if ws.length != 32 || 81 ≤ idx.toNat then .refused .illFormed else .next { s with dev := imageChunk c idx ws crcOk s.dev }

/-! ## Repair (R313 to R315, R466) -/

/-- The next repair round begins. -/
def Dev.nextRound (d : Dev) (n : NetId) (inc : List CoreId) : Dev :=
  match (d.net n).casting with
  | none => d
  | some k =>
    (d.modCasting n (fun k => { k with round := k.round + 1, incomplete := inc, paused := false })).modParts (d.partsOfNet n)
      (fun x => { x with rounds := if x.rounds.toNat < k.round + 1 then BitVec.ofNat 2 (k.round + 1) else x.rounds })

/-- A core that three rounds left incomplete is fenced, and its logical ID goes to a spare, which has three rounds of its
own; without one the casting aborts. CAUSE of such a fence is left open. Assumption 57 (DESIGN CHOICE): safe.
Assumption 151 (DEDUCED): unsafe. -/
def Dev.castRespare (d : Dev) (n : NetId) (c : CoreId) : Dev :=
  match (d.net n).casting with
  | none => d
  | some k =>
    let l := ((k.place.find? (fun e => e.2 == c)).map (fun e => e.1)).getD 0#11
    let p := partOfCore c
    let (cause, d0) := d.free 3
    let d1 := (((d0.logFence c cause).isolate c).mapTo l none).modPart p (fun x => { x with castFenced := satInc x.castFenced })
    let ok (s : CoreId) : Bool := d1.good s && !k.place.any (fun e => e.2 == s)
    let home := ((((d.net n).img.bind (fun im => coreImgOf im l)).map (fun e => e.2.cluster))).getD (clusterOfCore c)
    let st := (d.core c).stage
    let far (s : CoreId) : Bool := ok s && (match (d.net n).img with | some im => hasAlt im st home (clusterOfCore s) | none => false)
    let s := ((coresOfCluster home).find? ok).orElse (fun _ => (coresOfPart p).find? far)
    if k.respared.contains c then d1.castAbort n 103 (arg32 l)
    else match s with
      | none => d1.castAbort n 103 (arg32 l)
      | some s => ((d1.mapTo l (some s)).enableAlt n st home (clusterOfCore s)).modCasting n (fun k =>
          { k with place := k.place.map (fun e => if e.2 == c then (l, s) else e), respared := k.respared ++ [s], round := 0,
                   incomplete := [s], paused := false })

/-- COMPLETION_REDUCTION. -/
def completion (n : NetId) (silent : List CoreId) (d : Dev) : Dev :=
  match (d.net n).casting with
  | none => d
  | some k =>
    if k.step != 7 || k.paused then d
    else
      let inc := d.incompleteOf k silent
      if inc.isEmpty then d.modCasting n (fun k => { k with incomplete := [] })
      else if 3 ≤ k.round then inc.foldl (fun d c => d.castRespare n c) d
      else if d.hostMode (d.castPart n) 3 then
        (d.modCasting n (fun k => { k with incomplete := inc, paused := true })).raise 0x5003#16 (d.castPart n)
          [arg32 n, BitVec.ofNat 32 k.round, BitVec.ofNat 32 inc.length]
      else d.nextRound n inc
def execCompletionReduction (n : NetId) (silent : List CoreId) (s : State) : Ans := .next { s with dev := completion n silent s.dev }

/-- BITMAP_REQUEST: the core answers with its received-chunk bitmap (Table 8-10). -/
def bitmapRequest (c : CoreId) (d : Dev) : Dev :=
  let k := d.core c
  match (d.net (d.part (partOfCore c)).net).casting with
  | none => d
  | some g =>
    if !g.incomplete.contains c then d
    else d.sendPacket { cls := 2#2, src := epCore c, dst := epMgmt, opc := 0x16#8, seq := BitVec.ofNat 20 g.round,
                        payload := [k.bitmap.setWidth 128], crc := 0#32 }
def execBitmapRequest (c : CoreId) (s : State) : Ans := .next { s with dev := bitmapRequest c s.dev }

/-- BITMAP_REPLY: the missing chunks are resent by unicast, and counted. -/
def bitmapReply (c : CoreId) (bitmap : BitVec 81) (d : Dev) : Dev :=
  match (d.net (d.part (partOfCore c)).net).casting with
  | none => d
  | some g =>
    if !g.incomplete.contains c then d
    else
      let missing := ((List.range 81).filter (fun i => (d.core c).expect.getLsbD i && !bitmap.getLsbD i)).length
      d.countResent (partOfCore c) missing
def execBitmapReply (c : CoreId) (bitmap : BitVec 81) (s : State) : Ans := .next { s with dev := bitmapReply c bitmap s.dev }

/-! ## Sections (R316 to R318) -/

/-- The first burst of a write of words that may not run. -/
def Dev.writeFault (d : Dev) (p : PartId) (a words : Nat) : Option Nat :=
  ((List.range ((a % 512 + 8 * words + 511) / 512)).map (fun i => a - a % 512 + 512 * i)).find? (fun x => (d.burstCause p x true false).isSome)

/-- Words written into PSRAM for a casting, in bursts of class 2 (R316), or the abort that a translation fault is (Table 8-13). -/
def Dev.castWrite (d : Dev) (n : NetId) (p : PartId) (a : Nat) (ws : List W64) : Dev :=
  if (d.net n).casting.isNone then d
  else match d.writeFault p a ws.length with
    | some x => (d.tfault (.casting n) p x).castAbort n 105 (addrHi x)
    | none => (d.memWrite a (ws.flatMap bytes64)).countBursts none 2#2 (granulesOf a (8 * ws.length))

/-- A section of step 8 takes effect; a local-store image that comes in step 6 or 7 waits in the shadow. -/
def Dev.castSection (d : Dev) (n : NetId) (im : NetImg) (x : SectionImg) : Dev :=
  match x.kind.toNat with
  | 6 => im.stages.foldl (fun d s =>
      if s.num != x.stage then d
      else
        let d1 := if s.streamed then d else d.castWrite n ((stagePart s).getD 0#5) s.shadow.toNat s.lstore
        match (d1.net n).casting with
        | some k => if k.step == 8 then d1.castLoad n s else d1.modCasting n (fun k => { k with shadowed := k.shadowed ++ [s.num] })
        | none => d1) d
  | 7 => im.streams.foldl (fun d s => if s.stage != x.stage then d else d.castWrite n (partOfQueue s.q) s.addr.toNat s.data) d
  | 9 => im.groups.foldl (fun d g => d.castWrite n (d.castPart n) g.maqAddr.toNat g.maqFrames.flatten) d
  | 10 => (match im.adapt with
    | some a => d.castWrite n ((im.companions.head?).getD (d.castPart n)) (512 * a.wbase.toNat) (weightWords a.weights)
    | none => d)
  | _ => d

/-- SECTION_READ_DONE: a section has been read and hashed; one whose digest differs aborts the casting. -/
def sectionRead (n : NetId) (entry : Nat) (s : State) : State :=
  let d := s.dev
  match (d.net n).casting, (d.net n).img with
  | some k, some im =>
    match (tblGet none s.store.slots k.slot.toNat).bind (fun t => t.sections[entry]?) with
    | none => s
    | some x =>
      if x.net != n || k.sectionsRead.contains entry then s
      else if !x.digestOk then { s with dev := d.castAbort n 104 (BitVec.ofNat 32 entry) }
      else if 6 ≤ x.kind.toNat && !sectionTime ((tblGet none s.store.slots k.slot.toNat).getD noSet) n k then s
      else { s with dev := (d.modCasting n (fun k =>
        { k with sectionsRead := k.sectionsRead ++ [entry], hashed := k.hashed ++ [x] })).castSection n im x }
  | _, _ => s
def execSectionReadDone (n : NetId) (entry : Nat) (s : State) : Ans := .next (sectionRead n entry s)

/-! ## Chasing (R319, R320) -/

/-- CHASE_REPORT: a core that does not agree is sent its image again and loads its local store again (R320). -/
def chaseReport (n : NetId) (u : ChaseUnit) (agree : Bool) (d : Dev) : Dev :=
  match (d.net n).casting with
  | none => d
  | some k =>
    if k.step != 9 then d
    else if agree then d.modCasting n (fun k => { k with chased := if k.chased.contains u then k.chased else k.chased ++ [u] })
    else match u with
      | .core c =>
        if !k.place.any (fun e => e.2 == c) then d
        else if k.round < 3 then
          let d1 := d.nextRound n []
          match d1.stageImg (d1.core c).net (d1.core c).stage with | some s => (d1.loadStore c s false).1 | none => d1
        else
          let d1 := d.castRespare n c
          d1.modCasting n (fun k => { k with step := 7 })
      | _ =>
        let tries := ((k.badChase.find? (fun e => e.1 == u)).map (fun e => e.2)).getD 0
        if tries < 3 then
          (d.modCasting n (fun k => { k with badChase := (u, tries + 1) :: k.badChase.filter (fun e => e.1 != u) })).countResent (d.castPart n) 1
        else d.castAbort n 106 (match u with | .partition p => arg32 p | .queueManager c => arg32 c | .core c => arg32 c)
def execChaseReport (n : NetId) (u : ChaseUnit) (agree : Bool) (s : State) : Ans := .next { s with dev := chaseReport n u agree s.dev }

/-! ## Release (R84, R321, R322) -/

/-- A queue at its release: every position 0, the receivers at the network's epoch. -/
def Queue.released0 (q : Queue) (e : BitVec 3) : Queue :=
  { q with
    store := [], stager := [], ring := [], held := [], lenSlot := none, spilling := false, old := 0#32, slotF := 0, slotO := 0,
    voids := [], wordIdx := 0, frameFlags := [], streamPos := 0, prods := [], spillSeq := 0#32, retSeq := 0#32, lastEpoch := e,
    rcvs := q.rcvs.map (fun r => { r with h := 0#32, m := none, r := 0#32, b := 0#32, e := e, await := false, gap := none, skip := 0, stale := [],
                                          last := none, owed := none, began := none, upTo := none }) }

/-- One partition is released. -/
def Dev.releasePart (d : Dev) (n : NetId) (p : PartId) : Dev :=
  let e := if d.companion n p then (d.net n).aepoch else (d.net n).epoch
  let d1 := (d.queuesOfPart p).foldl (fun d q => d.modQueue q (fun x => x.released0 e)) d
  let d2 := ((coresOfPart p).filter (fun c => (d1.core c).assigned && !(d1.core c).spare)).foldl (fun d c => d.modCore c Core.restart) d1
  d2.modPart p (fun x => { x with cast := .released, shut := false, relAck := true, dlkCnt := 0#17, scrubbing := true, scrubPos := 0 })

/-- An admission group in service; its frame counter goes on from an earlier casting. -/
def castGroup (old : Option Group) (g : GroupImg) : Group :=
  { img := g, counter := match old with | some o => o.counter | none => 0#32 }

/-- A record output in service; its sequence and counters go on (R473). -/
def castRout (n : NetId) (r : RecordImg) (old : Rout) : Rout :=
  { old with net := n, stage := r.stage, valid := true, q := r.q, rcv := r.rcv, part := partOfQueue r.q, ringBase := r.ringBase,
             ringBytes := r.ringBytes, cap := r.cap, width := r.width, rtype := r.rtype, left := 0, held := [],
             items := if old.ringBase == r.ringBase && old.ringBytes == r.ringBytes then old.items else [],
             readOff := if old.ringBase == r.ringBase && old.ringBytes == r.ringBytes then old.readOff else 0 }

/-- An adaptation unit with the values of section 0x0A (R383, R385, R386). -/
def castAdapt (n : NetId) (a : AdaptImg) (old : Adapt) : Adapt :=
  { old with
    net := some n, en := a.en, ncommit := a.ncommit, ntrial := a.ntrial, xmask := a.xmask, batch := a.batch, replayM1 := a.replayM1,
    lr := a.lr, b1 := a.b1, b2 := a.b2, eps := a.eps, clip := a.clip, state := if a.en then .accumulating else .off, active := 0#2,
    cand := 0#2, pending := false, batches := 0#8, stepsInBatch := 0, busyBank := none, trialLeft := 0,
    wbase := a.wbase, chains := (a.chains.zipIdx).foldl (fun t c => tblSet none t c.2 (some { img := c.1 })) [], stages := a.stages,
    weights := (a.weights.zipIdx).foldl (fun t w => tblSet {} t w.2 { w := w.1 }) [] }

/-- The adaptation unit of a network: the one that it has, else the lowest that is free. -/
def Dev.unitOf (d : Dev) (n : NetId) : Option (BitVec 2) :=
  let us : List (BitVec 2) := [0#2, 1#2, 2#2, 3#2]
  (us.find? (fun u => (d.adaptU u).net == some n)).orElse (fun _ => us.find? (fun u => (d.adaptU u).net.isNone))

/-- The plinth's side of a network takes service: groups, tensors, reference groups, record outputs, chain channels, adaptation. -/
def Dev.netService (d : Dev) (n : NetId) (im : NetImg) : Dev :=
  let d1 := d.modNet n (fun x => { x with
    groups := im.groups.foldl (fun t g => tblSet none t g.grp.toNat (some (castGroup (tblGet none x.groups g.grp.toNat) g))) x.groups,
    tensors := im.tensors.foldl (fun t i => tblSet {} t i.num.toNat (tensorOfImg i)) [] })
  let d2 := d1.modRoute (fun r => { r with groups := im.refs.foldl (fun t g => tblSet none t g.g.toNat (some { img := g, net := n })) r.groups })
  let d3 := im.records.foldl (fun d r => d.modRout r.rout (castRout n r)) d2
  let d4 := d3.modIng (fun g => { g with chans := g.chans ++ im.chans.map (fun c => { img := c, net := n }) })
  let d5 := d4.rearm n
  match im.adapt, d5.unitOf n with
  | some a, some u => d5.modAdapt u (castAdapt n a)
  | _, _ => d5

/-- A released network: admission opens at the next frame boundary, or after a maquette frame has passed where bring-up or a
brown-out recovery asks for one (R481, R504); a network without maquette frames passes. -/
def Network.released (x : Network) (stage : BitVec 4) (noMaq : Bool) : Network :=
  let x1 := { x with casting := none, held := false, stoppedBy := none }
  if !x.probation then { x1 with openAt := true }
  else if noMaq then
    { x1 with openAt := stage == 15#4, probation := stage != 15#4, maq := { x.maq with passed := true } }
  else { x1 with openAt := false, maq := { x.maq with due := true } }

/-- Every partition has acknowledged: the network is in service. -/
def Dev.netReleased (d : Dev) (n : NetId) (im : NetImg) (k : Casting) : Dev :=
  let us := (d.time - k.t0).toNat / 300
  let low := d.castPart n
  let d1 := ((d.netService n im).bindNet n).modNet n (fun x =>
    x.released d.pwr.stage (im.groups.all (fun g => g.maqFrames.isEmpty)))
  let d2 := d1.modParts im.parts (fun x => { x with castTime := satOf 32 us })
  d2.raise 0x5001#16 low [arg32 n, arg32 k.slot, arg32 (d2.part low).rounds]

/-- NETWORK_RELEASE: one partition takes the release packet and acknowledges it. -/
def networkRelease (p : PartId) (s : State) : State :=
  let d := s.dev
  let n := (d.part p).net
  match (d.net n).casting, (d.net n).img with
  | some k, some im =>
    if k.step != 10 || (d.part p).cast != .partly then s
    else
      let d1 := d.releasePart n p
      if im.parts.all (fun q => (d1.part q).relAck) then
        { s with dev := d1.netReleased n im k, store := { s.store with lastSet := some k.slot } }
      else { s with dev := d1 }
  | _, _ => s
def execNetworkRelease (p : PartId) (s : State) : Ans := .next (networkRelease p s)

/-! ## Drains (R324 to R326) -/

/-- Every watched queue of a draining network is empty and every core of it waits at FRAME; no spare activation runs.
Assumption 61 (DESIGN CHOICE): unsafe. -/
def Dev.drained (d : Dev) (n : NetId) : Bool :=
  (d.queuesOfNet n).all (fun q => !(d.queue q).watched || !(d.queue q).nonEmpty) &&
    (d.coresOfNet n).all (fun c => (d.core c).spare || (d.core c).atFrame || (d.core c).state == .halted) &&
    (d.partsOfNet n).all (fun p => (d.part p).act.isNone)

/-- Partitions of a network leave it: their descriptors are cleared (R402). -/
def Dev.uncastNet (d : Dev) (n : NetId) : Dev :=
  ((d.partsOfNet n).foldl (fun d p => (d.uncastPart p).modPart p (fun x => { x with regions := [] })) d).bindNet n

/-- Candidates of the network's adaptation are discarded (Table 10-4). -/
def Dev.candGone (d : Dev) (n : NetId) : Dev :=
  { d with adapt := tblMap {} d.adapt (fun _ a =>
      if a.net == some n && (a.pending || a.state == .trial || a.state == .marked) then
        { a with pending := false, trialLeft := 0, state := if a.en then .accumulating else .off, cand := a.active } else a) }

/-- The casting that a RECAST goes on with: the epoch advances, the old content leaves, step 2 begins. -/
def Dev.recastOn (d : Dev) (n : NetId) (slot : BitVec 3) (im : NetImg) (tag : Option Byte) (noChase : Bool) : Dev :=
  let ps := (d.partsOfNet n).filter (fun p => !im.parts.contains p)
  let d1 := d.nextEpoch n
  let d2 := ps.foldl (fun d p => (d.uncastPart p).modPart p (fun x => { x with regions := [] })) d1
  let d2 := { d2 with reports := d2.reports.filter (fun r => r.net != n) }
  let d3 := d2.modNet n (fun x => { x with drain := none, drainTag := none, tensors := [], maq := { counter := x.maq.counter } })
  let d4 := { d3.modRoute (fun r => { r with groups := r.groups.filter (fun e => match e.2 with | some g => g.net != n | none => true) }) with
    routs := tblMap {} d3.routs (fun _ r => if r.net == n then { r with valid := false, net := 0#5, stage := 0#11 } else r),
    ing := { d3.ing with chans := d3.ing.chans.filter (fun c => c.net != n) } }
  ((d4.castBegin n slot im tag noChase true).modCasting n (fun k => { k with step := 2 })).stepStart n (translateNet im)

/-- The drain of a network has ended: caliper slots close and report (R191), and what it was for comes about. -/
def drainEnd (n : NetId) (s : State) : State :=
  let d := (s.dev.coresOfNet n).foldl (fun d c => d.closeSlots c) (s.dev.candGone n)
  let x := d.net n
  match x.drain with
  | none => s
  | some .stop =>
    { s with dev := (d.modNet n (fun x => { x with drain := none, drainTag := none })).modParts (d.partsOfNet n) (fun x => { x with cast := .stopped }) }
  | some .uncast => { s with dev := d.uncastNet n }
  | some .standby =>
    { s with dev := (d.modNet n (fun x => { x with drain := none, drainTag := none })).modParts (d.partsOfNet n) (fun x => { x with cast := .stopped }) }
  | some (.recast slot) =>
    match (tblGet none s.store.slots slot.toNat).bind (fun t => t.nets.find? (fun im => im.num == n)) with
    | some im => { s with dev := d.recastOn n slot im x.drainTag false }
    | none => { s with dev := d.uncastNet n }

/-- DRAIN_COMPLETE. -/
def drainComplete (n : NetId) (s : State) : State := if s.dev.drained n then drainEnd n s else s
def execDrainComplete (n : NetId) (s : State) : Ans := .next (drainComplete n s)

/-- FORCED_FLUSH: DRAIN_TO has elapsed first; the network is emptied and its frames in flight dropped (Table 6-8 without
admission). Where no new epoch follows, bursts of the streams under way bring nothing (R134). -/
def forcedFlush (n : NetId) (s : State) : State :=
  if (s.dev.net n).drain.isNone then s
  else
    let d := s.dev
    let k := (d.framesIn n).length
    let d0 := match (d.net n).drain with
      | some (.recast _) => d
      | _ => d.cancelBusy (fun b => b.brings (d.queuesOfNet n))
    let d1 := (((d.partsOfNet n).foldl (fun d p => d.dropPart p) d0).dropCalipers n false).dropCalipers n true
    let d2 := d1.modParts (d.partsOfNet n) (fun x => { x with flushDrop := satAdd x.flushDrop k })
    let d3 := d2.modNet n (fun x => { x.endFrames with inFlight := [], slow := [], dropPend := [],
                                                       maq := { x.maq with inFlight := [], voided := [], reports := [], outs := [], calReps := [] } })
    drainEnd n { s with dev := d3 }
def execForcedFlush (n : NetId) (s : State) : Ans := .next (forcedFlush n s)

end Sys2Proof.Machine
end

