-- ==== Sys2Proof/Machine/Queues.lean ====
section
/-! DEFINITION. The queue commands (chapter 06). -/
namespace Sys2Proof.Machine

open Sys2Proof

/-- QUEUE_WRITE (R204). -/
def execQueueWrite (q : QueueId) (port : BitVec 10) (w : QWord) (s : State) : Ans :=
  .next { s with dev := s.dev.write q port w }

/-- CREDIT_GRANT (R215 to R218, R236): a core port asks for one credit, a memory controller for a burst's worth,
granted together or not at all. A frozen or dead queue and a forced lane grant none (R247, R263). -/
def creditGrant (q : QueueId) (port : BitVec 10) (n : Nat) (d : Dev) : Dev :=
  if n == 0 || !d.queueLive q || (d.part (partOfQueue q)).frozen || d.portForced q port then d
  else
    let d1 := d.grant q port n
    let got := ((d1.queue q).prod port.toNat).credits == ((d.queue q).prod port.toNat).credits + n
    let d2 := if n == 64 && got then (d1.streamBurst q).imageBurst q else d1
    (if got then d2.tileBurst q else d2).ingestCredit q

def execCreditGrant (q : QueueId) (port : BitVec 10) (n : Nat) (s : State) : Ans :=
  .next { s with dev := creditGrant q port n s.dev }

/-- A chain port has trained. -/
def Dev.portUp (d : Dev) (east : Bool) : Bool := if east then d.ing.eup else d.ing.wup

/-- The chain channel that a queue's receiver sends (R445). -/
def Dev.chanSending (d : Dev) (q : QueueId) (r : BitVec 10) : Option Chan :=
  d.ing.chans.find? (fun c => c.img.sends && c.img.q == q && c.img.rcv == r)

/-- A word that a receiver reads goes out over the chain channel that it sends (R447). While the port is down, and then until a
frame-start marker is read, the sending end discards what it reads (R449). Assumption 153 (DEDUCED): unsafe. -/
def Dev.chainSend (d : Dev) (q : QueueId) (r : BitVec 10) : Dev :=
  match d.chanSending q r, d.peek q r with
  | some c, .word w =>
    if !d.portUp c.img.east || (c.broken && !w.isStart) then d
    else d.modIng (fun g => { g with forwarded := g.forwarded ++ [(c.img.east, c.img.chan, w)],
                                     chans := g.chans.map (fun x => if x == c then { x with broken := false } else x) })
  | _, _ => d

/-- SEQUENTIAL_READ (R209), by a chain channel where one reads the queue. -/
def execSequentialRead (q : QueueId) (r : BitVec 10) (s : State) : Ans :=
  .next { s with dev := (s.dev.chainSend q r).seqRead q r }

/-- WINDOWED_READ (R210). -/
def windowedRead (q : QueueId) (r : BitVec 10) (a : W32) (d : Dev) : Dev :=
  let (w, d1) := d.winRead q r a
  d1.modQueue q (fun x => x.modRcv r (fun y => { y with last := w }))

def execWindowedRead (q : QueueId) (r : BitVec 10) (a : W32) (s : State) : Ans :=
  .next { s with dev := windowedRead q r a s.dev }

/-- MARK (R212). -/
def mark (q : QueueId) (r : BitVec 10) (d : Dev) : Dev := if d.queueFrozen q then d else d.setQueue q ((d.queue q).mark r)
def execMark (q : QueueId) (r : BitVec 10) (s : State) : Ans := .next { s with dev := mark q r s.dev }

/-- REWIND (R212). -/
def rewind (q : QueueId) (r : BitVec 10) (d : Dev) : Dev := if d.queueFrozen q then d else d.setQueue q ((d.queue q).rewind r)
def execRewind (q : QueueId) (r : BitVec 10) (s : State) : Ans := .next { s with dev := rewind q r s.dev }

/-- RELEASE (R212, R213). -/
def release (q : QueueId) (r : BitVec 10) (p : W32) (d : Dev) : Dev :=
  if d.queueFrozen q then d else d.putQueue q ((d.queue q).release r p)
def execRelease (q : QueueId) (r : BitVec 10) (p : W32) (s : State) : Ans := .next { s with dev := release q r p s.dev }

/-- BAD_PACKET_SKIP (R223): the skip ends and the word that follows is delivered. -/
def badPacketSkip (q : QueueId) (r : BitVec 10) (d : Dev) : Dev :=
  match (d.queue q).rcv r with
  | none => d
  | some x => if x.skip == 0 || d.queueFrozen q then d else (d.endSkip q r).seqRead q r

def execBadPacketSkip (q : QueueId) (r : BitVec 10) (s : State) : Ans :=
  .next { s with dev := badPacketSkip q r s.dev }

/-- SPILL_RETURN (R236): a burst when the on-chip part can take 56 more words, words of the stager when the ring
is empty, and Normal state when both are empty. -/
def spillReturn (q : QueueId) (d : Dev) : Dev :=
  let x := d.queue q
  if !d.queueLive q || d.queueFrozen q || !x.spilling then d
  else
    let d1 :=
      if x.spillBusy then d
      else if x.ring.isEmpty then d.drainStager q x.stager.length
      else if d.canTake q 56 then d.returnBurst q
      else d
    (d1.spillOut q).normal q

def execSpillReturn (q : QueueId) (s : State) : Ans := .next { s with dev := spillReturn q s.dev }

/-- EPOCH_DISCARD (R251): one word per armature cycle. -/
def execEpochDiscard (q : QueueId) (r : BitVec 10) (s : State) : Ans :=
  .next { s with dev := s.dev.epochDrop q r }

/-- A queue without slots: the void words that end the frame of a reset producer, as room allows (R490). -/
def voidTail (q : QueueId) (d : Dev) : Dev :=
  let x := d.queue q
  match x.prods.find? (fun e => e.2.voidLeft != 0) with
  | none => d
  | some (p, pr) =>
    let st := x.elastic != 0 && (x.spilling || x.cap ≤ x.occ)
    let n := min pr.voidLeft (if st then 112 - x.stager.length else d.roomOf q)
    let ws := (List.range n).map (fun i =>
      let left := pr.voidLeft - i - 1
      voidWord x.lastEpoch (left % max pr.voidRow 1 == 0) (left == 0))
    (d.putQueue q ((x.append st (ws.map some)).modProd p (fun y =>
      { y with voidLeft := pr.voidLeft - n, slotWord := y.slotWord + n }))).spillOut q

/-- The turn of a voided run has come: the first unfilled cell is one of its slots. -/
def Queue.voidTurn (q : Queue) (s : SlotImg) (v : VoidRun) : Bool :=
  ((List.range (v.last - v.first)).map (fun k => v.first + k)).any (fun j =>
    match slotPlace (q.slotFor s v.frame) v.pos v.frame j with
    | some o => q.slotOff s v.frame o == some (leading q.store)
    | none => false)

/-- VOID_SLOT_FILL (R163): the voided run to which the first unfilled cell belongs. -/
def voidSlotFill (q : QueueId) (d : Dev) : Dev :=
  let x := d.queue q
  if d.queueFrozen q then d
  else match x.slot with
  | none => voidTail q d
  | some sl =>
    match x.voids.find? (fun v => x.voidTurn sl v) with
    | none => d
    | some v =>
      let (y, fits) := x.fillVoid sl v (x.store.length + d.roomOf q)
      d.putQueue q { y with voids := if fits then y.voids.erase v else y.voids }

def execVoidSlotFill (q : QueueId) (s : State) : Ans := .next { s with dev := voidSlotFill q s.dev }

end Sys2Proof.Machine
end

