-- ==== Sys2Proof/Machine/Ingest.lean ====
section
/-! DEFINITION. The commands of the optical ports (chapter 12): MAC frames, GVSP packets, timeouts, lane links, PTP, chain
links, and the ING block's registers that have rows of their own. -/
namespace Sys2Proof.Machine

open Sys2Proof

/-! ## Lanes (R419 to R422, R483, R491) -/

/-- The lane exists: I16 to I31 are absent on the HK-W9620. -/
def Dev.lanePresent (d : Dev) (l : PartId) : Bool := d.die1 || l.toNat < 16

/-- Light and lane PLLs are there: no clock loss, no power-on reset, not in deep standby. -/
def Dev.opticsUp (d : Dev) : Bool :=
  !d.pll.lossOn && !d.pwr.resetHeld && !d.pwr.supplyFail && d.pwr.state != .deep

/-- The lane receives packets. -/
def Dev.laneUp (d : Dev) (l : PartId) : Bool := d.lanePresent l && (d.lane l).en && (d.lane l).link && d.opticsUp

/-- A frame with a bad FCS or a discarded datagram (LN_DROP [31:16]). -/
def Dev.laneBad (d : Dev) (l : PartId) : Dev := d.modLane l (fun x => { x with dropBad := satInc x.dropBad })

/-- A packet of the lane reaches the engine: the oldest of its FIFO, or one that arrives now.
Assumption 90 (DESIGN CHOICE): safe. -/
def Dev.lanePacket (d : Dev) (l : PartId) : Dev :=
  d.modLane l (fun x => match x.fifo with
    | [] => { x with rxpkt := satInc x.rxpkt }
    | _ :: t => { x with fifo := t })

/-- The bytes of a lane's receive FIFO. -/
def fifoBytes : Nat := 65536

/-- An IPv4 address is a multicast group (224.0.0.0/4). -/
def isMulticast (a : W32) : Bool := a.extractLsb' 28 4 == 14#4

/-- A datagram's destination port is one that the lane takes: an enabled context's, the position port on its lane, or PTP's. -/
def Dev.takesPort (d : Dev) (l : PartId) (src : W32) (port : W16) : Bool :=
  d.ing.ctxs.any (fun e => e.2.en && e.2.lane == l && e.2.udpport == port && (!e.2.srcf || e.2.srcip == src)) ||
    (d.route.poslane == l && d.ing.posport != 0#16 && d.ing.posport == port) ||
    ((d.lane l).ptpEn && (port == 319#16 || port == 320#16))

/-- ETH_FRAME_RECEIVE (R419 to R422). Assumption 129 (DESIGN CHOICE): unsafe. -/
def ethFrame (l : PartId) (f : EthFrame) (d : Dev) : Dev :=
  if !d.laneUp l then d
  else if !f.fcsOk || 9216 < f.length then d.laneBad l
  else match f.body with
    | .pause => d
    | .arpRequest ip => if ip == (d.lane l).ip then d.modLane l (fun x => { x with tx := x.tx ++ [EthBody.arpRequest ip] }) else d
    | .igmpQuery =>
      if (d.lane l).ptpEn || d.ing.ctxs.any (fun e => e.2.en && e.2.lane == l) then
        d.modLane l (fun x => { x with tx := x.tx ++ [EthBody.igmpQuery] })
      else d
    | .ptp => d
    | .other => d
    | .ipv4 src dst fragment port =>
      if fragment || (dst != (d.lane l).ip && !isMulticast dst) || !d.takesPort l src port then d.laneBad l
      else if fifoBytes < (d.lane l).fifo.sum + f.length then d.modLane l (fun x => { x with dropFifo := satInc x.dropFifo })
      else d.modLane l (fun x => { x with fifo := x.fifo ++ [f.length], rxpkt := satInc x.rxpkt })
def execEthFrameReceive (l : PartId) (f : EthFrame) (s : State) : Ans := .next { s with dev := ethFrame l f s.dev }

/-! ## GVSP packets (R423 to R431) -/

/-- The enabled context that a packet belongs to (R426). -/
def Dev.packetCtx (d : Dev) (l : PartId) (port : W16) (src : W32) : Option (BitVec 10) :=
  (d.ing.ctxs.find? (fun e => e.2.en && e.2.lane == l && e.2.udpport == port && (!e.2.srcf || e.2.srcip == src))).map
    (fun e => BitVec.ofNat 10 e.1)

/-- The context's network lies in partitions and has the context's admission group, which numbers its frames (R73); where a partition
is partly cast, gated or held, admission refuses the frame and its number is consumed (R308, R437, R439).
Assumption 153 (DEDUCED): unsafe. -/
def Dev.ctxServed (d : Dev) (c : BitVec 10) : Bool :=
  let x := d.ctx c
  (d.group x.net x.grp).isSome && !(d.partsOfNet x.net).isEmpty

/-- A GVSP packet of a lane in hand: the context that delivers it; none when it is discarded, `start` telling that it is a leader,
which is refused and counted where no admission group numbers it. -/
def Dev.gvsp (d : Dev) (l : PartId) (port : W16) (src : W32) (start : Bool) (f : BitVec 10 → Dev → Dev) : Dev :=
  if !d.laneUp l then d
  else match d.packetCtx l port src with
    | none => d.laneBad l
    | some c =>
      let d1 := d.lanePacket l
      if !(d1.ctx c).bound then d1
      else if !d1.ctxServed c then (if start then d1.modCtx c (fun x => { x with refused := satInc x.refused }) else d1)
      else (f c d1).recheck (d1.ctx c).net (d1.ctx c).grp

/-- GVSP_LEADER (R429). -/
def leader (l : PartId) (port : W16) (src : W32) (h : Leader) (d : Dev) : Dev :=
  d.gvsp l port src true (fun c d =>
    match d.toBlock c h.block h.tstamp with
    | none => d
    | some d1 =>
      let x := d1.ctx c
      match x.block with
      | none => d1
      | some b =>
        if b.lastPid != 0 || b.pos != 0 || b.bad then d1
        else
          let d2 := d1.modBlock c (fun b => { b with tstamp := h.tstamp })
          if !h.supported || h.pixfmt != x.pixfmt || h.width != x.widthM1.toNat + 1 || h.height != b.lines then
            ((d2.modCtx c (fun x => { x with fmterr := satInc x.fmterr })).blockData c (b.lines * x.lineBytes) none).modBlock c
              (fun b => { b with bad := true })
          else if !x.begun then d2.memberBegin c
          else d2)
def execGvspLeader (l : PartId) (port : W16) (src : W32) (h : Leader) (s : State) : Ans := .next { s with dev := leader l port src h s.dev }

/-- The first packet of a member frame's first line gives the start time, not the leader (R442).
Assumption 89 (DESIGN CHOICE): safe. -/
def Dev.firstPacket (d : Dev) (c : BitVec 10) : Dev :=
  let x := d.ctx c
  match x.block, d.group x.net x.grp with
  | some b, some g =>
    if x.begun && !x.tssrc && x.line == 0 && b.pos == 0 && g.first == x.member && (g.starts.head?.map (fun e => e.1)) == some x.memFrame then
      d.setStart x.net x.grp x.memFrame d.ptpNow
    else d
  | _, _ => d

/-- GVSP_DATA_PACKET (R429, R430). A block whose leader is missing has no leader timestamp: it is free. -/
def dataPacket (l : PartId) (port : W16) (src : W32) (block : W64) (pid : Nat) (bytes : List Byte) (d : Dev) : Dev :=
  d.gvsp l port src false (fun c d =>
    let (t, d0) := d.free 64
    match d0.toBlock c block t with
    | none => d
    | some d1 =>
      let x := d1.ctx c
      match x.block with
      | none => d1
      | some b =>
        if pid ≤ b.lastPid || b.bad then d1
        else
          let d2 := (d1.firstPacket c).modCtx c (fun x => { x with pktlost := satAdd x.pktlost (pid - b.lastPid - 1) })
          let d3 := d2.blockData c ((pid - 1) * x.pktpay.toNat - b.pos) none
          let ws := bytes.take x.pktpay.toNat
          (d3.modBlock c (fun b => { b with lastPid := pid })).blockData c ws.length (some ws))
def execGvspDataPacket (l : PartId) (port : W16) (src : W32) (block : W64) (pid : Nat) (bytes : List Byte) (s : State) : Ans :=
  .next { s with dev := dataPacket l port src block pid bytes s.dev }

/-- GVSP_TRAILER (R430). -/
def trailer (l : PartId) (port : W16) (src : W32) (block : W64) (d : Dev) : Dev :=
  d.gvsp l port src false (fun c d => match d.toBlock c block 0#64 with | none => d | some d1 => d1.closeBlock c)
def execGvspTrailer (l : PartId) (port : W16) (src : W32) (block : W64) (s : State) : Ans :=
  .next { s with dev := trailer l port src block s.dev }

/-- A change of a context's frames, after which the waiting decisions of its group are taken. -/
def Dev.onCtx (d : Dev) (c : BitVec 10) (f : Dev → Dev) : Dev := (f d).recheck (d.ctx c).net (d.ctx c).grp

/-- BLOCK_TIMEOUT (R430): BLKTO milliseconds have passed without a packet of the open block. -/
def blockTimeout (c : BitVec 10) (d : Dev) : Dev :=
  if (d.ctx c).blkto == 0#16 || !(d.ctx c).bound then d else d.onCtx c (fun d => d.closeBlock c)
def execBlockTimeout (c : BitVec 10) (s : State) : Ans := .next { s with dev := blockTimeout c s.dev }

/-- The member frame that a context would begin next: the first from its number on that MEMTO has not made missing. -/
def Context.nextFrame (x : Context) : Nat → W32 → W32
  | 0, f => f
  | n + 1, f => if x.dead.contains f then x.nextFrame n (f + 1#32) else f

/-- MEMBER_TIMEOUT (R434): the group frame that the member would begin next has begun, and the member has not. -/
def memberTimeout (c : BitVec 10) (d : Dev) : Dev :=
  let x := d.ctx c
  let f := x.nextFrame (x.dead.length + 1) x.memFrame
  match d.group x.net x.grp with
  | none => d
  | some g =>
    if !x.bound || x.memto == 0#16 || x.begun || (g.status f).isNone then d
    else d.onCtx c (fun d => (d.voidMember c f).trimLive x.net x.grp)
def execMemberTimeout (c : BitVec 10) (s : State) : Ans := .next { s with dev := memberTimeout c s.dev }

/-! ## Lane links (R430, R451, R483) -/

/-- A lane loses its link: open blocks close, and a line-scan frame in progress completes at once (Table 12-4). -/
def Dev.laneDown (d : Dev) (l : PartId) : Dev :=
  let d1 := d.modLane l (fun x => { x with link := false, fecLock := false, fifo := [] })
  ((d.ing.ctxs.filter (fun e => e.2.en && e.2.bound && e.2.lane == l)).map (fun e => BitVec.ofNat 10 e.1)).foldl (fun d c =>
    d.onCtx c (fun d =>
      let d1 := d.closeBlock c
      if (d1.ctx c).lscan && (d1.ctx c).begun then d1.endMember c else d1)) d1

def laneLinkDown (l : PartId) (d : Dev) : Dev := if (d.lane l).link then d.laneDown l else d
def execLaneLinkDown (l : PartId) (s : State) : Ans := .next { s with dev := laneLinkDown l s.dev }

/-- LANE_LINK_UP: training has ended. -/
def laneLinkUp (l : PartId) (d : Dev) : Dev :=
  if d.lanePresent l && d.opticsUp then d.modLane l (fun x => { x with link := true, fecLock := true }) else d
def execLaneLinkUp (l : PartId) (s : State) : Ans := .next { s with dev := laneLinkUp l s.dev }

/-! ## PTP (R440 to R443) -/

/-- PTP_MESSAGE: what the message makes of the time base. Steering leaves the PTP time open.
Assumption 88 (DESIGN CHOICE): safe. -/
def ptpMessage (l : PartId) (m : PtpMsg) (d : Dev) : Dev :=
  if !d.laneUp l then d
  else if !(d.lane l).ptpEn then d.laneBad l
  else
    let d1 := d.lanePacket l
    match m with
    | .announce best =>
      if best && (d1.ing.ptpState != 0#3) then
        d1.modIng (fun g => { g with plane := l, ptpState := if g.ptpState == 1#3 || g.plane != l then 2#3 else g.ptpState })
      else d1
    | .sync ofs =>
      if d1.ing.plane != l || d1.ing.ptpState == 0#3 || d1.ing.ptpState == 1#3 then d1
      else
        let (t, d2) := d1.free 64
        ({ d2 with ptpThirds := t.toNat * 3 }.modIng (fun g => { g with ptpOfs := ofs })).modLane l (fun x => { x with tx := x.tx ++ [EthBody.ptp] })
    | .valid =>
      if d1.ing.plane != l || d1.ing.ptpState == 0#3 || d1.ing.ptpState == 1#3 then d1
      else d1.modIng (fun g => { g with ptpState := 3#3 })
def execPtpMessage (l : PartId) (m : PtpMsg) (s : State) : Ans := .next { s with dev := ptpMessage l m s.dev }

/-- PTP_HOLDOVER (R441): no Sync for 3 s. -/
def ptpHoldover (d : Dev) : Dev :=
  if d.ing.ptpState == 2#3 || d.ing.ptpState == 3#3 then
    (d.modIng (fun g => { g with ptpState := 4#3 })).raise0 0x8002#16 [d.ing.ptpOfs]
  else d
def execPtpHoldover (s : State) : Ans := .next { s with dev := ptpHoldover s.dev }

/-- PTP_LATCH (R443): a write of 1. -/
def ptpLatch (v : W32) (d : Dev) : Dev :=
  if v.getLsbD 0 then
    let ns := d.ptpNow.toNat
    d.modIng (fun g => { g with lsec := BitVec.ofNat 32 (ns / 1000000000), lns := BitVec.ofNat 30 (ns % 1000000000), ltime := d.time })
  else d
def execPtpLatch (v : W32) (s : State) : Ans := .next (hostWrite (ptpLatch v) s)

/-! ## Chain links (R445 to R450) -/

def Ingest.setPort (g : Ingest) (east up : Bool) : Ingest := if east then { g with eup := up } else { g with wup := up }
def Ingest.setRetry (g : Ingest) (east r : Bool) : Ingest := if east then { g with eretry := r } else { g with wretry := r }
/-- The lanes of a port: K0 to K3 west, K4 to K7 east. -/
def portLanes (east : Bool) : List Nat := if east then [4, 5, 6, 7] else [0, 1, 2, 3]
def portLane (east : Bool) : Nat := if east then 4 else 0

/-- A counter of every lane of a port. -/
def Dev.countLanes (d : Dev) (east : Bool) (f : Ingest → Tbl W32) (g : Tbl W32 → Ingest → Ingest) (k : Nat) : Dev :=
  d.modIng (fun x => g (tblMod 0#32 (f x) (portLane east) (fun v => satAdd v k)) x)

/-- One channel at a break (R449): a receiving end fills the frame with void words and raises the event; both ends then wait for a
frame-start marker. -/
def Dev.breakChan (d : Dev) (east : Bool) (c : Chan) : Dev :=
  let d1 := d.modIng (fun g => { g with chans := g.chans.map (fun x => if x == c then { x with broken := true, inFrame := false, sent := 0 } else x) })
  if c.img.sends then d1
  else
    let left := if c.inFrame then c.img.frameWords - c.sent else 0
    let d2 := if left == 0 then d1 else
      (d1.modQueue c.img.q (fun q => q.modProd 0 (fun p => { p with voidLeft := left, voidRow := left }))).countLanes east
        (fun g => g.clVoid) (fun t g => { g with clVoid := t }) left
    d2.raise0 0x8003#16 [BitVec.ofNat 32 (portLane east), arg32 c.img.chan]

/-- A port goes down: every channel across it breaks. -/
def Dev.portDown (d : Dev) (east : Bool) : Dev :=
  let d1 := d.modIng (fun g => g.setPort east false)
  (d1.ing.chans.filter (fun c => c.img.east == east)).foldl (fun d c => d.breakChan east c) d1

/-- CHAIN_LINK_DOWN (R449). -/
def chainLinkDown (east : Bool) (d : Dev) : Dev := if d.portUp east then d.portDown east else d
def execChainLinkDown (east : Bool) (s : State) : Ans := .next { s with dev := chainLinkDown east s.dev }

/-- The chain ID that a port's peer must report (R446); none beyond the ends of the range. -/
def Dev.peerId (d : Dev) (east : Bool) : Option (BitVec 4) :=
  if east then (if d.ing.chnid == 15#4 then none else some (d.ing.chnid + 1#4))
  else (if d.ing.chnid == 0#4 then none else some (d.ing.chnid - 1#4))

/-- CHAIN_PORT_TRAIN (R446, R447). -/
def portTrain (east : Bool) (peer : BitVec 4) (lat : W16) (d : Dev) : Dev :=
  if !d.opticsUp || d.portUp east then d
  else if d.peerId east == some peer then
    d.modIng (fun g =>
      let g1 := (g.setPort east true).setRetry east false
      { g1 with clLat := (portLanes east).foldl (fun t k => tblSet 0#16 t k lat) g1.clLat })
  else (d.modIng (fun g => g.setRetry east true)).raise0 0x8003#16 [BitVec.ofNat 32 (portLane east), 0xFFFF#32]
def execChainPortTrain (east : Bool) (peer : BitVec 4) (lat : W16) (s : State) : Ans := .next { s with dev := portTrain east peer lat s.dev }

/-- CHAIN_TRAIN_RETRY (R446): the untrained port tries again. -/
def execChainTrainRetry (east : Bool) (s : State) : Ans := .next { s with dev := s.dev.modIng (fun g => g.setRetry east false) }

/-- A rejected write of the ING block. -/
def Dev.ingReject (d : Dev) : Dev := d.modIng (fun g => { g with rej := satInc g.rej })

/-- A write of ING_CTRL: POSPORT, and CHNID, whose change retrains both ports and is ignored while a chain channel is cast (R446). -/
def ingCtrl (v : W32) (d : Dev) : Dev :=
  let d1 := d.modIng (fun g => { g with posport := v.extractLsb' 0 16 })
  let id := v.extractLsb' 16 4
  if id == d.ing.chnid then d1
  else if !d.ing.chans.isEmpty then d1.ingReject
  else ((d1.modIng (fun g => { g with chnid := id })).portDown true).portDown false
def execChnidWrite (v : W32) (s : State) : Ans := .next (hostWrite (ingCtrl v) s)

/-- CHAIN_WORD_RECEIVE (R447 to R450): a channel that ends here writes its queue; any other word leaves by the other port.
Assumption 91 (DEDUCED): unsafe. Assumption 92 (DESIGN CHOICE): safe. -/
def chainWord (east : Bool) (chan : BitVec 5) (w : QWord) (fecOk : Bool) (d : Dev) : Dev :=
  if !d.portUp east then d
  else
    let d1 := if fecOk then d else d.countLanes east (fun g => g.clFec) (fun t g => { g with clFec := t }) 1
    match d1.ing.chans.find? (fun c => c.img.chan == chan && c.img.east == east && !c.img.sends) with
    | none =>
      if d1.portUp (!east) then d1.modIng (fun g => { g with forwarded := g.forwarded ++ [(!east, chan, w)] }) else d1
    | some c =>
      let start := fecOk && w.isStart
      if c.broken && !start then d1
      else
        let k := if start then 1 else c.sent + 1
        let ends := k == c.img.frameWords
        let d2 := d1.modIng (fun g => { g with chans := g.chans.map (fun x =>
          if x == c then { x with broken := false, sent := k, inFrame := !ends } else x) })
        d2.write c.img.q 0#10 (if fecOk then w else voidWord (d2.queue c.img.q).lastEpoch w.eor ends)
def execChainWordReceive (east : Bool) (chan : BitVec 5) (w : QWord) (fecOk : Bool) (s : State) : Ans :=
  .next { s with dev := chainWord east chan w fecOk s.dev }

/-! ## The context window (R426, R428, R454) -/

/-- CTX_CFG_WRITE: a second context with the same LANE and UDPPORT is not enabled (R426); a context disabled in a frame leaves its
remaining lines missing (Table 12-4). -/
def ctxCfg (v : W32) (d : Dev) : Dev :=
  let c := d.ing.ctxSel
  let lane : PartId := v.extractLsb' 1 5
  let port : W16 := v.extractLsb' 16 16
  let dup := d.ing.ctxs.any (fun e => e.1 != c.toNat && e.2.en && e.2.lane == lane && e.2.udpport == port)
  let on := v.getLsbD 0 && !dup
  let d1 := if (d.ctx c).en && !on && (d.ctx c).bound then
      d.onCtx c (fun d => let d1 := d.closeBlock c; if (d1.ctx c).begun then d1.endMember c else d1)
    else d
  let d2 := d1.modCtx c (fun x => { x with en := on, lane := lane, srcf := v.getLsbD 6, tssrc := v.getLsbD 7, udpport := port })
  if v.getLsbD 0 && dup then d2.ingReject else d2
def execCtxCfgWrite (v : W32) (s : State) : Ans := .next (hostWrite (ctxCfg v) s)

/-- CTX_BIND_WRITE: only while EN is 0 (R428). -/
def ctxBind (v : W32) (d : Dev) : Dev :=
  let c := d.ing.ctxSel
  if (d.ctx c).en then d.ingReject
  else (d.modCtx c (fun x => { x with net := v.extractLsb' 0 5, grp := v.extractLsb' 5 4, member := v.extractLsb' 9 4 })).bindCtx c
def execCtxBindWrite (v : W32) (s : State) : Ans := .next (hostWrite (ctxBind v) s)

/-! ## CLOSE (R72) -/

/-- The line-scan frame in progress of a group ends: members in it get their missing lines. None when no frame is in progress. -/
def Dev.closeFrameOf (d : Dev) (n : NetId) (g : BitVec 4) : Option Dev :=
  match d.group n g with
  | none => none
  | some x =>
    let cs := d.ctxsOf n g
    match x.live.find? (fun e => cs.any (fun c => (d.ctx c).memFrame == e.1)) with
    | none => none
    | some (f, _) => some ((cs.foldl (fun d c => if (d.ctx c).memFrame == f then d.endMember c else d) d).recheck n g)

end Sys2Proof.Machine
end

