-- ==== Sys2Proof/Machine/Clock.lean ====
section
/-! DEFINITION. The root clock (chapter 01, Loss of the root clock): lock lost, the steps of R53, lock regained, and the
recovery of R54. -/
namespace Sys2Proof.Machine

open Sys2Proof

/-- Change the root PLL's lock monitor. -/
def Dev.modPll (d : Dev) (f : Pll → Pll) : Dev := { d with pll := f d.pll }

/-- PLL_LOCK_LOST (R52, R53): the PLL holds its last setting and the 1 µs loss timer starts; the 1 ms timer of R54 stops. -/
def lockLost (d : Dev) : Dev := d.modPll (fun p => { p with locked := false, lossTimer := true, stableTimer := false })
def execPllLockLost (s : State) : Ans := .next { s with dev := lockLost s.dev }

/-- Every ingest lane and both chain ports lose their links (R491, R546). -/
def Dev.linksDown (d : Dev) : Dev :=
  let d1 := (d.ing.lanes.filter (fun e => e.2.link)).foldl (fun d e => d.laneDown (BitVec.ofNat 5 e.1)) d
  let d2 := if d1.ing.eup then d1.portDown true else d1
  if d2.ing.wup then d2.portDown false else d2

/-- All PSRAM channels enter self-refresh; what they had in hand is lost. -/
def Dev.psramRest (d : Dev) : Dev :=
  { d with chans := (List.range (if d.die1 then 192 else 96)).foldl (fun t i =>
      tblMod {} t i (fun c => { c with waiting := [], busy := none, selfRefresh := true })) d.chans }

/-- DMA channels stop and both memory rings with them. -/
def Dev.ringsDown (d : Dev) : Dev :=
  { d with dma := tblMap {} d.dma (fun _ c => { c with en := false, inFlight := 0 }),
           rings := tblMap {} d.rings (fun _ r => { r with up := false, lane8 := [] }) }

/-- ROOT_CLOCK_LOSS (R53): admission freezes, both compute dies are held in reset with clock loss as the source, PSRAM refreshes
itself, the event is raised and the fault output becomes active. -/
def clockLoss (d : Dev) : Dev :=
  if !d.pll.lossTimer || d.pll.locked || d.pll.lossOn then d
  else
    let d1 := allNets.foldl (fun d n => if (d.partsOfNet n).isEmpty then d else d.modNet n Network.close) d
    let d2 := d1.resetDieNow 0 3#3
    let d3 := if d2.die1 then d2.resetDieNow 1 3#3 else d2
    let d4 := { d3 with dies := tblMap {} d3.dies (fun _ x =>
      { x with warn := false, resetLvl := false, testing := false, recastNets := [] }) }
    let d4 := d4.modParts allParts (fun x => ({ x with bow := false, awaitAck := false } : Partition).request)
    let d5 := (d4.psramRest.ringsDown.linksDown).modPll (fun p => { p with lossOn := true, lossTimer := false })
    d5.raise0 0x1001#16 []
def execRootClockLoss (s : State) : Ans := .next { s with dev := clockLoss s.dev }

/-- PLL_LOCK_REGAINED (R54): the 1 ms timer starts when the lock had been lost for longer than 1 µs; a shorter loss has no effect. -/
def lockRegained (d : Dev) : Dev :=
  if d.pll.locked then d
  else d.modPll (fun p => { p with locked := true, lossTimer := false, stableTimer := p.lossOn })
def execPllLockRegained (s : State) : Ans := .next { s with dev := lockRegained s.dev }

/-- CLOCK_LOSS_RECOVERY (R54): a package warm reset. -/
def clockRecovery (d : Dev) : Dev :=
  if d.pll.lossOn && d.pll.locked && d.pll.stableTimer then
    (d.modPll (fun p => { p with lossOn := false, stableTimer := false })).warmReset 3#3
  else d
def execClockLossRecovery (s : State) : Ans := .next { s with dev := clockRecovery s.dev }

end Sys2Proof.Machine
end

