-- ==== Sys2Proof/Machine/Mailbox.lean ====
section
/-! DEFINITION. The mailbox (chapter 13, R468, Tables 13-8 to 13-10): a command is taken and answered by firmware; the image
store (R290 to R301, R306), casting and draining (R323 to R326), attestation (R328), READLOG (R485), REPAIR (R466) and
RETEST (R523). A row that carries a command is its arguments, its write to MBX_CMD and firmware's answer. BOACK stands with the
brown-outs. -/
namespace Sys2Proof.Machine

open Sys2Proof

/-! ## Taking and answering (R468) -/

/-- Firmware runs and answers the mailbox. -/
def Dev.fwAnswers (d : Dev) : Bool := d.f1 && !d.health.fwDown && !d.health.wdHeld

/-- Arguments written from MBX_ARG`i` on. -/
def Mbx.putArgs (m : Mbx) (l : List (Nat × W32)) : Mbx := { m with args := l.foldl (fun t e => tblSet 0#32 t e.1 e.2) m.args }

/-- MBX_CMD is written. -/
def Mbx.taken (m : Mbx) (tag opc : Byte) : Mbx := { m with busy := true, tag := tag, opc := opc }

/-- Firmware answers the command in hand: RESULT, DONE, and BUSY clear. -/
def Dev.mbxAnswer (d : Dev) (res : W16) : Dev := d.modMbx (fun m => { m with busy := false, done := true, result := res })

/-- The host sends a command, and firmware acts on it once it is taken. While BUSY another command is ignored and counted.
Assumption 53 (DESIGN CHOICE): safe. -/
def mbxCommand (tag opc : Byte) (args : List (Nat × W32)) (f : State → State) (s : State) : State :=
  hostWrite (fun d => d.modMbx (fun m => m.putArgs args)) s |> fun s1 =>
  let d := s1.dev
  if !s.bus || !d.f1 then s1
  else if d.mbx.busy && (d.mbx.tag != tag || d.mbx.opc != opc) then { s1 with dev := d.modMbx (fun m => { m with rej := satInc m.rej }) }
  else
    let s2 := { s1 with dev := d.modMbx (fun m => m.taken tag opc) }
    if d.fwAnswers then f s2 else s2

/-- A short command's end, with its first result words. -/
def shortEnd (res : W16) (words : List W32) (d : Dev) : Dev :=
  (d.mbxAnswer res).modMbx (fun m => { m with res := (words.zipIdx).foldl (fun t e => tblSet 0#32 t e.2 e.1) m.res })

/-- A long command is checked and taken into flight; at most four are. -/
def longStart (tag opc : Byte) (check : W16) (job : Job) (go : Dev → W16 × Dev) (d : Dev) : Dev :=
  if check != 0#16 then d.mbxAnswer check
  else if 4 ≤ d.mbx.longs.length then d.mbxAnswer 10#16
  else
    let (res, d1) := go d
    (d1.mbxAnswer 0#16).modMbx (fun m =>
      { m with longs := m.longs ++ [{ tag := tag, opc := opc, result := res, job := if res == 0#16 then job else .none }] })

/-- A network number of a mailbox argument. -/
def netArg (n : W32) : Option NetId := if n.toNat < 32 then some (n.setWidth 5) else none

/-! ## Installing (R291, R296 to R301, R306) -/

/-- A slot from which a partition is cast. -/
def Dev.slotCast (d : Dev) (slot : BitVec 3) : Bool := allParts.any (fun p => (d.part p).slotValid && (d.part p).slot == slot)

/-- A slot is being installed, cast or recast from. -/
def Dev.slotBusy (d : Dev) (slot : BitVec 3) : Bool :=
  d.mbx.longs.any (fun l => match l.job with | .castingSet t _ => t == slot | _ => false) ||
    allNets.any (fun n => (match (d.net n).casting with | some k => k.slot == slot | none => false) || (d.net n).drain == some (.recast slot))

/-- Firmware: signed by the vendor, not below FWFLOOR. Assumption 12 (DESIGN CHOICE): safe. -/
def verifyFw (st : Store) (img : FwImg) : W16 :=
  if img.signer != st.factory.vendorKey then 4#16
  else if img.version.toNat < st.fwFloor.toNat then 5#16
  else 0#16

/-- A user-defaults block (R297, R298). -/
def verifyUd (st : Store) (img : UdImg) : W16 := verifyOwned st img.signer img.ownser img.udver st.udFloor

/-- An owner record (R296). -/
def verifyOwner (st : Store) (img : OwnerImg) : W16 :=
  if img.signer != st.factory.vendorKey || img.binding != st.factory.certDigest then 4#16
  else if img.ownser.toNat ≤ st.ownFloor.toNat then 5#16
  else 0#16

/-- Firmware works on a command of the mailbox. -/
def onDev (f : Store → Dev → Dev) (s : State) : State := { s with dev := f s.store s.dev }

/-- A kind of installation is under way already. Assumption 54 (DESIGN CHOICE): unsafe. -/
def Dev.jobBusy (d : Dev) (f : Job → Bool) : Bool := d.mbx.longs.any (fun l => f l.job)

/-- INSTALL_FIRMWARE. -/
def installFirmware (tag : Byte) (img : FwImg) : State → State :=
  mbxCommand tag 0x01#8 [(0, 0#32)] (onDev (fun st d =>
    let busy := d.jobBusy (fun j => match j with | .firmware _ => true | _ => false)
    longStart tag 0x01#8 (if busy then 3#16 else 0#16) (.firmware img) (fun d => (verifyFw st img, d)) d))
def execInstallFirmware (tag : Byte) (img : FwImg) (s : State) : Ans := .next (installFirmware tag img s)

/-- INSTALL_CASTING_SET: into a slot from which no partition is cast (R306). -/
def installSet (tag : Byte) (slot : W32) (img : SetImg) : State → State :=
  mbxCommand tag 0x01#8 [(0, 1#32), (1, slot)] (onDev (fun st d =>
    let t : BitVec 3 := slot.setWidth 3
    let check : W16 := if 8 ≤ slot.toNat then 2#16 else if d.slotBusy t then 3#16 else if d.slotCast t then 11#16 else 0#16
    longStart tag 0x01#8 check (.castingSet t img) (fun d => (verifySet st img, d)) d))
def execInstallCastingSet (tag : Byte) (slot : W32) (img : SetImg) (s : State) : Ans := .next (installSet tag slot img s)

/-- INSTALL_USER_DEFAULTS. -/
def installDefaults (tag : Byte) (img : UdImg) : State → State :=
  mbxCommand tag 0x01#8 [(0, 2#32)] (onDev (fun st d =>
    let busy := d.jobBusy (fun j => match j with | .defaults _ => true | _ => false)
    longStart tag 0x01#8 (if busy then 3#16 else 0#16) (.defaults img) (fun d => (verifyUd st img, d)) d))
def execInstallUserDefaults (tag : Byte) (img : UdImg) (s : State) : Ans := .next (installDefaults tag img s)

/-- ENROL. -/
def enrol (tag : Byte) (img : OwnerImg) : State → State :=
  mbxCommand tag 0x02#8 [] (onDev (fun st d =>
    let busy := d.jobBusy (fun j => match j with | .enrol _ => true | _ => false)
    longStart tag 0x02#8 (if busy then 3#16 else 0#16) (.enrol img) (fun d => (verifyOwner st img, d)) d))
def execEnrol (tag : Byte) (img : OwnerImg) (s : State) : Ans := .next (enrol tag img s)

/-- FLOOR (R299). -/
def floorCmd (tag : Byte) (which : BitVec 3) : State → State :=
  mbxCommand tag 0x03#8 [(0, which.setWidth 32)] (onDev (fun _ d => longStart tag 0x03#8 0#16 (.floor which) (fun d => (0#16, d)) d))
def execFloor (tag : Byte) (which : BitVec 3) (s : State) : Ans := .next (floorCmd tag which s)

/-! ## What a long command of the image store does when it ends -/

/-- The firmware bank that runs. -/
def Store.running (st : Store) : Option FwImg := if st.runB then st.bankB else st.bankA
/-- The user-defaults block that is current. -/
def Store.ud (st : Store) : Option UdImg := if st.udCurB then st.udB else st.udA

/-- The larger of two numbers of 32 bits. -/
def maxW (a b : W32) : W32 := if a.toNat < b.toNat then b else a

/-- The highest SETVER among installed sets that verify. -/
def Store.topSet (st : Store) : Option W32 :=
  st.slots.foldl (fun m e => match e.2 with
    | some t => if verifySet st t == 0#16 then some (maxW (m.getD 0#32) t.setver) else m
    | none => m) none

/-- The floors named rise as R299 allows; none ever falls (R298). Assumption 55 (DESIGN CHOICE): unsafe. -/
def Store.raiseFloors (st : Store) (which : BitVec 3) : Store :=
  let fw := match st.running with | some f => if which.getLsbD 0 then maxW st.fwFloor (f.version.setWidth 32) else st.fwFloor | none => st.fwFloor
  let set := match st.topSet with | some v => if which.getLsbD 1 then maxW st.setFloor v else st.setFloor | none => st.setFloor
  let ud := match st.ud with
    | some u => if which.getLsbD 2 && verifyUd st u == 0#16 then maxW st.udFloor u.udver else st.udFloor
    | none => st.udFloor
  { st with fwFloor := fw, setFloor := set, udFloor := ud, hgen := st.hgen + 1#64 }

/-- The image store after a job: firmware into the bank not running (R301), a set into its slot, user defaults into the copy not
current, whose old copy is then erased (R291), an owner record with the floors of R298.
Assumption 153 (DEDUCED): unsafe. -/
def Store.finish (st : Store) (j : Job) : Store :=
  match j with
  | .none => st
  | .firmware img => if st.runB then { st with bankA := some img } else { st with bankB := some img }
  | .castingSet slot img => { st with slots := tblSet none st.slots slot.toNat (some img) }
  | .defaults img => if st.udCurB then { st with udA := some img, udB := none, udCurB := false } else { st with udB := some img, udA := none, udCurB := true }
  | .enrol img => { st with owner := some img, ownFloor := img.ownser, setFloor := 0#32, udFloor := 0#32, hgen := st.hgen + 1#64 }
  | .floor w => st.raiseFloors w

/-- A long command still works: a casting, a drain or a re-test that carries its tag. -/
def Dev.longRuns (d : Dev) (l : LongCmd) : Bool :=
  allNets.any (fun n =>
    let x := d.net n
    (match x.casting with | some k => k.tag == some l.tag | none => false) || (x.drain.isSome && x.drainTag == some l.tag)) ||
    (l.opc == 0x20#8 && (!d.health.retest.isEmpty || d.health.retestAll))

/-- LONG_COMMAND_END: the final result is that of the checks, else that of the image-store write, and event 0x5008 carries it. -/
def longEnd (tag : Byte) (result : W16) (s : State) : State :=
  let d := s.dev
  match d.mbx.longs.find? (fun l => l.tag == tag) with
  | none => s
  | some l =>
    if !d.fwAnswers || d.longRuns l then s
    else
      let res := if l.result != 0#16 then l.result else if l.job != .none && result == 9#16 then 9#16 else 0#16
      let d1 := d.modMbx (fun m => { m with longs := m.longs.erase l })
      let d2 := match l.job, res == 0#16 with
        | .enrol img, true => d1.raise0 0x5007#16 [img.ownser]
        | _, _ => d1
      { s with dev := d2.raiseAux 0x5008#16 tag [l.opc.setWidth 32, arg32 res], store := if res == 0#16 then s.store.finish l.job else s.store }
def execLongCommandEnd (tag : Byte) (result : W16) (s : State) : Ans := .next (longEnd tag result s)

/-! ## Attestation and the boot log (R328, R485) -/

/-- A device address range of the PSRAM views. -/
def Dev.psramRange (d : Dev) (a len : Nat) : Bool := rangeOk d.die1 a len && !isIndexAddr a

/-- Bytes of a 512-bit digest. Assumption 56 (DESIGN CHOICE): unsafe. -/
def bytes512 (w : BitVec 512) : List Byte := (List.range 64).map (fun i => w.extractLsb' (8 * i) 8)
/-- Bytes of a number of 16 bytes. -/
def bytes128 (w : BitVec 128) : List Byte := (List.range 16).map (fun i => w.extractLsb' (8 * i) 8)

/-- Bytes 0 to 511 of the attestation report (Table 8-14). -/
def reportBytes (st : Store) (d : Dev) (nonce : BitVec 256) : List Byte :=
  let f := st.factory
  let zero : BitVec 512 := 0#512
  let set := st.lastSet.bind (fun k => tblGet none st.slots k.toNat)
  bytes32 1#32 ++ bytes32 5139#32 ++ (List.range 32).map (fun i => nonce.extractLsb' (8 * i) 8) ++
    bytes512 f.certDigest ++ bytes512 f.factDigest ++ bytes512 ((st.running.map (fun x => x.digest)).getD zero) ++
    bytes32 ((st.running.map (fun x => x.version.setWidth 32)).getD 0#32) ++ bytes32 (if st.runB then 1#32 else 0#32) ++
    bytes512 ((st.owner.map (fun x => x.digest)).getD zero) ++ bytes32 ((st.owner.map (fun x => x.ownser)).getD 0#32) ++
    bytes32 (match st.lastSet with | some k => 0x80000000#32 ||| k.setWidth 32 | none => 0#32) ++
    bytes512 ((set.map (fun x => x.digest)).getD zero) ++ bytes32 ((set.map (fun x => x.setver)).getD 0#32) ++ bytes32 0#32 ++
    bytes512 ((st.ud.map (fun x => x.digest)).getD zero) ++ bytes32 st.fwFloor ++ bytes32 st.setFloor ++ bytes32 st.udFloor ++
    bytes32 st.ownFloor ++ bytes64 st.hgen ++ bytes32 d.health.boots ++ bytes32 d.health.mapgen ++ bytes128 f.flashUid ++
    bytes32 (BitVec.ofNat 32 d.health.fences.length) ++ List.replicate 12 0#8

/-- ATTEST: bytes 512 on are the signature, which no rule gives a value that the model could know. -/
def attest (tag : Byte) (nonce : BitVec 256) (dest : DevAddr) : State → State :=
  mbxCommand tag 0x04#8 ((List.range 8).map (fun i => (i, nonce.extractLsb' (32 * i) 32)) ++ [(8, dest.setWidth 32), (9, (dest >>> 32).setWidth 32)])
    (onDev (fun st d =>
      if !st.factory.pufOk then shortEnd 7#16 [] d
      else if !d.psramRange dest.toNat 5139 then shortEnd 2#16 [] d
      else
        let (sig, d1) := d.freeBytes 4627
        shortEnd 0#16 [5139#32] (d1.memWrite dest.toNat (reportBytes st d nonce ++ sig))))
def execAttest (tag : Byte) (nonce : BitVec 256) (dest : DevAddr) (s : State) : Ans := .next (attest tag nonce dest s)

/-- A stage report record (Table 14-2). -/
def BootRec.bytes (r : BootRec) : List Byte :=
  [r.stage, r.result, r.flags, r.net] ++ bytes32 r.duration ++ bytes32 r.boots ++ bytes32 r.c0 ++ bytes32 r.c1 ++ bytes32 r.c2 ++
    bytes32 r.c3 ++ List.replicate 4 0#8

/-- READLOG: every record kept, newest bring-up first. -/
def readlog (tag : Byte) (dest : DevAddr) : State → State :=
  mbxCommand tag 0x05#8 [(8, dest.setWidth 32), (9, (dest >>> 32).setWidth 32)] (onDev (fun _ d =>
    let l := d.health.bootlog.flatten.flatMap BootRec.bytes
    if !d.psramRange dest.toNat l.length then shortEnd 2#16 [] d
    else shortEnd 0#16 [BitVec.ofNat 32 l.length] (d.memWrite dest.toNat l)))
def execReadlog (tag : Byte) (dest : DevAddr) (s : State) : Ans := .next (readlog tag dest s)

/-! ## Casting (Table 8-9 step 1, R306, R323, Table 8-13) -/

/-- The networks of a set that a mask names; none when it names one that the set lacks, or none at all. -/
def maskNets (t : SetImg) (mask : W32) : Option (List NetImg) :=
  let ns := allNets.filter (fun n => mask.getLsbD n.toNat)
  if ns.isEmpty then none
  else if ns.all (fun n => t.nets.any (fun im => im.num == n)) then some (ns.filterMap (fun n => t.nets.find? (fun im => im.num == n))) else none

/-- A partition of an image is being cast or drained. -/
def Dev.imgBusy (d : Dev) (im : NetImg) : Bool :=
  (d.net im.num).casting.isSome || (d.net im.num).drain.isSome ||
    im.parts.any (fun p => (d.part p).cast == .partly || (d.part p).cast == .draining) ||
    allNets.any (fun n => (d.net n).casting.isSome && (match (d.net n).img with | some x => x.parts.any (fun p => im.parts.contains p) | none => false))

/-- The device may cast now: bring-up has come to casting, the package runs, TEST_N is high and the root clock is locked. -/
def Dev.mayCast (d : Dev) : Bool :=
  7 ≤ d.pwr.stage.toNat && !d.pwr.stopped && d.pwr.state == .running && d.pins.testN && !d.pll.lossOn

/-- The partitions of an image are powered and out of reset. -/
def Dev.imgPowered (d : Dev) (im : NetImg) : Bool :=
  im.parts.all (fun p => (d.part p).power == .on && (d.part p).powerTo.isNone && !(d.part p).inReset && !(d.die (dieOfPart p)).inReset)

/-- Whether a network is cast: released, stopped or draining, not merely held. -/
def Dev.isCast (d : Dev) (n : NetId) : Bool :=
  (d.partsOfNet n).any (fun p => (d.part p).cast == .released || (d.part p).cast == .stopped || (d.part p).cast == .draining)

/-- Step 1 of a casting of some networks of a slot: 0, or the final result, with CAST_ERR of the partition named. -/
def Dev.stepOne (d : Dev) (st : Store) (t : SetImg) (ns : List NetId) : W16 × Dev :=
  let v := verifySet st t
  if v != 0#16 then (v, d)
  else match setOk d st.factory ((st.running.map (fun x => x.common)).getD []) t ns with
    | none => (0#16, d)
    | some e =>
      let low := ((t.nets.filter (fun im => ns.contains im.num)).flatMap (fun im => im.parts)).head?
      (8#16, match e.part.orElse (fun _ => low) with
        | some p => if d.diePresent (dieOfPart p) then
            d.modPart p (fun x => { x with castErr := castCode e.code, castStep := 1#4, castRes := e.res }) else d
        | none => d)

/-- The casting of networks of a slot, from step 1 on. -/
def Dev.castNets (d : Dev) (st : Store) (slot : BitVec 3) (t : SetImg) (ims : List NetImg) (tag : Option Byte) (noChase : Bool) : W16 × Dev :=
  match (d.freePassed (ims.flatMap (fun im => im.parts))).stepOne st t (ims.map (fun im => im.num)) with
  | (0#16, d1) => (0#16, ims.foldl (fun d im => d.castBegin im.num slot im tag noChase false) d1)
  | r => r

/-- CAST. -/
def castCmd (tag : Byte) (slot mask : W32) : State → State :=
  mbxCommand tag 0x10#8 [(0, slot), (1, mask)] (onDev (fun st d =>
    let k : BitVec 3 := slot.setWidth 3
    match (if slot.toNat < 8 then (tblGet none st.slots slot.toNat).bind (fun t => (maskNets t mask).map (fun l => (t, l))) else none) with
    | none => d.mbxAnswer 2#16
    | some (t, ims) =>
      let check : W16 :=
        if !st.factory.pufOk then 7#16
        else if ims.any d.imgBusy || d.jobBusy (fun j => match j with | .castingSet x _ => x == k | _ => false) then 3#16
        else if !d.mayCast || ims.any (fun im => d.isCast im.num || !d.imgPowered im) then 11#16
        else 0#16
      longStart tag 0x10#8 check .none (fun d => d.castNets st k t ims (some tag) false) d))
def execCast (tag : Byte) (slot mask : W32) (s : State) : Ans := .next (castCmd tag slot mask s)

/-- RECAST: step 1 runs before the running network is touched (R323). -/
def recastCmd (tag : Byte) (slot net : W32) : State → State :=
  mbxCommand tag 0x11#8 [(0, slot), (1, net)] (onDev (fun st d =>
    let k : BitVec 3 := slot.setWidth 3
    match (if slot.toNat < 8 then tblGet none st.slots slot.toNat else none), netArg net with
    | some t, some n =>
      match t.nets.find? (fun im => im.num == n) with
      | none => d.mbxAnswer 2#16
      | some im =>
        let check : W16 :=
          if !st.factory.pufOk then 7#16
          else if d.imgBusy im || d.jobBusy (fun j => match j with | .castingSet x _ => x == k | _ => false) then 3#16
          else if !d.mayCast || !d.isCast n || !d.imgPowered im then 11#16
          else 0#16
        longStart tag 0x11#8 check .none (fun d => match d.stepOne st t [n] with
          | (0#16, d1) => (0#16, d1.startDrain n (.recast k) (some tag))
          | r => r) d
    | _, _ => d.mbxAnswer 2#16))
def execRecast (tag : Byte) (slot net : W32) (s : State) : Ans := .next (recastCmd tag slot net s)

/-- A network that is being cast or drained is busy; one that is not cast may not be stopped. -/
def Dev.drainCheck (d : Dev) (n : NetId) : W16 :=
  if (d.net n).casting.isSome || (d.net n).drain.isSome then 3#16 else if !d.isCast n then 11#16 else 0#16

/-- STOP (R326). -/
def stopCmd (tag : Byte) (net : W32) : State → State :=
  mbxCommand tag 0x12#8 [(1, net)] (onDev (fun _ d => match netArg net with
    | none => d.mbxAnswer 2#16
    | some n => longStart tag 0x12#8 (d.drainCheck n) .none (fun d => (0#16, d.startDrain n .stop (some tag))) d))
def execStop (tag : Byte) (net : W32) (s : State) : Ans := .next (stopCmd tag net s)

/-- Every partition of the network is stopped by STOP, in no retention. -/
def Dev.mayResume (d : Dev) (n : NetId) : Bool :=
  let ps := d.partsOfNet n
  !ps.isEmpty && (d.net n).stoppedBy.isNone && (d.net n).drain.isNone &&
    ps.all (fun p => (d.part p).cast == .stopped && (d.part p).power == .on && (d.part p).powerTo.isNone)

/-- RESUME (R326): admission opens at the next frame boundary, with the epoch unchanged. -/
def resumeCmd (tag : Byte) (net : W32) : State → State :=
  mbxCommand tag 0x13#8 [(1, net)] (onDev (fun _ d => match netArg net with
    | none => shortEnd 2#16 [] d
    | some n =>
      if !d.mayResume n then shortEnd 11#16 [] d
      else shortEnd 0#16 [] (((d.partsOfNet n).foldl (fun d p => d.reopen p) d).modNet n
        (fun x => { x with openAt := true, aclosed := false }))))
def execResume (tag : Byte) (net : W32) (s : State) : Ans := .next (resumeCmd tag net s)

/-- UNCAST (R326): a network held after an abort has nothing to drain. -/
def uncastCmd (tag : Byte) (net : W32) : State → State :=
  mbxCommand tag 0x14#8 [(1, net)] (onDev (fun _ d => match netArg net with
    | none => d.mbxAnswer 2#16
    | some n =>
      let held := !(d.partsOfNet n).isEmpty && (d.partsOfNet n).all (fun p => (d.part p).cast == .heldAbort)
      let check : W16 := if held then (if (d.net n).casting.isSome then 3#16 else 0#16) else d.drainCheck n
      longStart tag 0x14#8 check .none (fun d => (0#16, if held then d.uncastNet n else d.startDrain n .uncast (some tag))) d))
def execUncast (tag : Byte) (net : W32) (s : State) : Ans := .next (uncastCmd tag net s)

/-- CLOSE (R72). -/
def closeCmd (tag : Byte) (net grp : W32) : State → State :=
  mbxCommand tag 0x15#8 [(1, net), (2, grp)] (onDev (fun _ d => match netArg net with
    | none => shortEnd 2#16 [] d
    | some n =>
      match (if grp.toNat < 16 then d.group n (grp.setWidth 4) else none) with
      | none => shortEnd 2#16 [] d
      | some g =>
        if !g.img.lscan then shortEnd 11#16 [] d
        else match d.closeFrameOf n (grp.setWidth 4) with
          | some d1 => shortEnd 0#16 [] d1
          | none => shortEnd 11#16 [] d))
def execClose (tag : Byte) (net grp : W32) (s : State) : Ans := .next (closeCmd tag net grp s)

/-! ## REPAIR (R466) and RETEST (R523) -/

/-- The casting of a network waits for REPAIR. -/
def Dev.repairWaits (d : Dev) (n : NetId) : Option Casting := match (d.net n).casting with | some k => if k.paused then some k else none | none => none

/-- REPAIR with ARG2 0: the repair round goes on. -/
def repairContinue (tag : Byte) (net : W32) : State → State :=
  mbxCommand tag 0x16#8 [(1, net), (2, 0#32)] (onDev (fun _ d => match netArg net with
    | none => shortEnd 2#16 [] d
    | some n => match d.repairWaits n with
      | none => shortEnd 11#16 [] d
      | some k => shortEnd 0#16 [] (d.nextRound n k.incomplete)))
def execRepairContinue (tag : Byte) (net : W32) (s : State) : Ans := .next (repairContinue tag net s)

/-- REPAIR with ARG2 1: the casting aborts. -/
def repairAbort (tag : Byte) (net : W32) : State → State :=
  mbxCommand tag 0x16#8 [(1, net), (2, 1#32)] (onDev (fun _ d => match netArg net with
    | none => shortEnd 2#16 [] d
    | some n => match d.repairWaits n with
      | none => shortEnd 11#16 [] d
      | some _ => shortEnd 0#16 [] (d.castAbort n 107 (arg32 n))))
def execRepairAbort (tag : Byte) (net : W32) (s : State) : Ans := .next (repairAbort tag net s)

/-- The cores that RETEST tests: the one named when it is fenced, or every fenced one. -/
def Dev.retestCores (d : Dev) (core : W32) : Option (List CoreId) :=
  if core == 0xFFFF#32 then some ((d.health.fences ++ d.health.flog).map (fun f => f.phys)).eraseDups
  else if core.toNat < 2048 && d.fenced (core.setWidth 11) then some [core.setWidth 11]
  else none

/-- RETEST. -/
def retest (tag : Byte) (core : W32) : State → State :=
  mbxCommand tag 0x20#8 [(0, core)] (onDev (fun _ d => match d.retestCores core with
    | none => d.mbxAnswer 2#16
    | some cs =>
      let busy := !d.health.retest.isEmpty || d.health.retestAll || cs.any (fun c =>
        let x := d.part (partOfCore c)
        x.act.isSome || x.cast == .partly || allNets.any (fun n => (d.net n).casting.isSome && (d.partsOfNet n).contains (partOfCore c)))
      longStart tag 0x20#8 (if busy then 3#16 else 0#16) .none (fun d =>
        let d1 := d.modHealth (fun h => { h with retest := cs, retestAll := core == 0xFFFF#32, rtPassed := 0#12, rtFailed := 0#12, rtSegs := 0#8 })
        (0#16, if cs.isEmpty then (d1.modHealth (fun h => { h with retestAll := false })).retestRest else d1)) d))
def execRetest (tag : Byte) (core : W32) (s : State) : Ans := .next (retest tag core s)

/-! ## Unknown opcodes -/

/-- The opcodes of Table 13-9. -/
def mbxOpcodes : List Byte := [0x01#8, 0x02#8, 0x03#8, 0x04#8, 0x05#8, 0x10#8, 0x11#8, 0x12#8, 0x13#8, 0x14#8, 0x15#8, 0x16#8, 0x20#8, 0x21#8]

/-- MBX_UNKNOWN_OPCODE. -/
def mbxUnknown (tag opc : Byte) (s : State) : State :=
  if mbxOpcodes.contains opc then s else mbxCommand tag opc [] (onDev (fun _ d => shortEnd 1#16 [] d)) s
def execMbxUnknownOpcode (tag opc : Byte) (s : State) : Ans := .next (mbxUnknown tag opc s)

end Sys2Proof.Machine
end

