-- ==== Sys2Proof/Machine/Maquette.lean ====
section
/-! DEFINITION. Maquette frames and their checker (R79, R82, R527 to R531), and the trials of adaptation candidates (R379). -/
namespace Sys2Proof.Machine

open Sys2Proof

/-- Every forward partition of a network is released. -/
def Dev.netReleasedNow (d : Dev) (n : NetId) : Bool :=
  let ps := (d.partsOfNet n).filter (fun p => !d.companion n p)
  !ps.isEmpty && ps.all (fun p => (d.part p).cast == .released)

/-- MAQUETTE_DUE (R527): MQ_INT has passed since the last one of a released network. -/
def maqDue (n : NetId) (d : Dev) : Dev :=
  if d.netReleasedNow n then d.modNet n (fun x => { x with maq := { x.maq with due := true } }) else d
def execMaquetteDue (n : NetId) (s : State) : Ans := .next { s with dev := maqDue n s.dev }

/-- The group has a free admission slot: the stage can take a frame, no member frame has started, none is kept. -/
def Dev.freeSlot (d : Dev) (n : NetId) (g : BitVec 4) : Bool :=
  d.stageReady n g && (d.ctxsOf n g).all (fun c => !(d.ctx c).begun) &&
    (match d.group n g with | some x => x.live.all (fun e => e.2 == .refused) && !x.img.maqFrames.isEmpty | none => false)

/-- MAQUETTE_INJECT: at a free admission slot. -/
def maqInjectRow (n : NetId) (g : BitVec 4) (d : Dev) : Dev := if d.maqWants n && d.freeSlot n g then d.maqInject n g else d
def execMaquetteInject (n : NetId) (g : BitVec 4) (s : State) : Ans := .next { s with dev := maqInjectRow n g s.dev }

/-- MAQUETTE_FORCE_SLOT (R79): no free slot has come in time, so the next admission slot is taken and its camera frame refused. -/
def maqForce (n : NetId) (g : BitVec 4) (d : Dev) : Dev :=
  match d.group n g with
  | none => d
  | some x =>
    if !d.maqWants n || x.img.maqFrames.isEmpty then d
    else if d.freeSlot n g then d.maqInject n g
    else match x.live.find? (fun e => e.2 == .pending) with
      | some (f, _) => ((d.refuseFrame n g f).modGroup n g (fun x => { x with taken := true })).maqTry n g
      | none => d.modGroup n g (fun x => { x with displace := true })
def execMaquetteForceSlot (n : NetId) (g : BitVec 4) (s : State) : Ans := .next { s with dev := maqForce n g s.dev }

/-- BLOCK_REPORT (R528): a report on its way arrives, and the checker keeps it while a maquette frame of its network is in flight. -/
def blockReport (n : NetId) (r : BlockRep) (d : Dev) : Dev :=
  if !d.blockReps.contains (n, r) then d
  else
    let d1 := { d with blockReps := d.blockReps.erase (n, r) }
    if (d1.net n).maq.inFlight.isEmpty then d1
    else d1.modNet n (fun x => { x with maq := { x.maq with reports := x.maq.reports ++ [r] } })
def execBlockReport (n : NetId) (r : BlockRep) (s : State) : Ans := .next { s with dev := blockReport n r s.dev }

/-! ## The check (R529, R530) -/

/-- Where a mismatch lies: the first stage in graph order with a failing block, the core when one held them all, and a tensor. -/
structure MaqWhere where
  stage : Option StageId
  cidx : Option (BitVec 10)
  tensor : BitVec 12
  deriving DecidableEq, Repr

/-- The localisation of R529. `order` is the graph order of the stages; `out` is the output tensor that the checker names.
Assumption 94 (DESIGN CHOICE): unsafe. -/
def localise (order : List StageId) (bad : List BlockRep) (out : BitVec 12) : MaqWhere :=
  match order.find? (fun s => bad.any (fun r => r.stage == s)) with
  | none => ⟨none, none, out⟩
  | some s =>
    let here := bad.filter (fun r => r.stage == s)
    match here with
    | [] => ⟨some s, none, out⟩
    | r :: t => ⟨some s, if t.all (fun x => x.cidx == r.cidx) then some r.cidx else none, r.tensor⟩

/-- The place of a maquette frame among those of the casting set, which are taken in turn (R527). -/
def maqIndex (im : NetImg) (f : W32) : Nat :=
  f.toNat % max ((im.groups.head?.map (fun g => g.maqFrames.length)).getD 1) 1

/-- A block report lies in its bounds: COUNT equal, SUMV and SSV within theirs; one without a reference does (R528). -/
def blockAgrees (im : NetImg) (f : W32) (r : BlockRep) : Bool :=
  match im.blockRefs.find? (fun b => b.frame == maqIndex im f && b.stage == r.stage && b.tensor == r.tensor && b.block == r.block) with
  | none => true
  | some b => b.count == r.count && inEnvelope b.sumvB b.sumv (of32 r.sumv) && inEnvelope b.ssvB b.ssv (of32 r.ssv)

/-- The first output of a frame that leaves its envelope; one of which nothing has come does (R89, R529). `trial`: with the
adaptation envelope (R379). Assumption 132 (DESIGN CHOICE): unsafe. -/
def badOutput (im : NetImg) (outs : List (BitVec 6 × List QWord)) (f : W32) (trial : Bool) (other : Option (BitVec 12)) :
    Option OutRef :=
  im.outRefs.find? (fun o =>
    match outs.find? (fun e => e.1 == o.rout && (e.2.headD {}).frame == f) with
    | none => true
    | some e => !outputAgrees o ((o.frames[maqIndex im f]?).getD []) trial other e.2)

/-- What leaves its bounds in the check of a frame: an output with its tensor, and block reports. `ok` and `tensor`: what the checker
finds of an output whose reference is not in the casting image. -/
def Dev.maqBad (d : Dev) (n : NetId) (f : W32) (ok : Bool) (tensor : BitVec 12) : Option (BitVec 12) × List BlockRep :=
  match (d.net n).img with
  | none => (none, [])
  | some im => ((badOutput im (d.net n).maq.outs f (d.net n).maq.trial (if ok then none else some tensor)).map (fun o => o.tensor),
      (d.net n).maq.reports.filter (fun r => !blockAgrees im f r))

/-- The oldest frame in flight has been checked. -/
def Maq.checked (m : Maq) : Maq :=
  { m with outs := m.outs.filter (fun e => some (e.2.headD {}).frame != m.inFlight.head?),
           inFlight := m.inFlight.drop 1, voided := m.voided.filter (fun f => some f != m.inFlight.head?), reports := [], calReps := [] }

/-- The core of a stage at a rotation position. -/
def Dev.coreAt (d : Dev) (n : NetId) (st : StageId) (ci : BitVec 10) : Option CoreId :=
  (d.coresOfStage n st).find? (fun c => (d.core c).cidx == ci && !(d.core c).spare)

/-- A network that has not passed after three maquette frames is left held (R531). -/
def Dev.holdNet (d : Dev) (n : NetId) : Dev :=
  (d.modNet n (fun x => { x.close with held := true, probation := false, maq := { counter := x.maq.counter, tries := x.maq.tries, fenced := x.maq.fenced } })).modParts
    (d.partsOfNet n) (fun x => { x with cast := .heldAbort })

/-- A frame of a network on probation has been checked: a pass ends it, the third frame without one leaves the network held. After
bring-up, admission opens at once. -/
def Dev.probationCheck (d : Dev) (n : NetId) (pass : Bool) : Dev :=
  let x := d.net n
  if !x.probation then d
  else if pass then d.modNet n (fun x => { x with
    probation := d.pwr.stage != 15#4, openAt := d.pwr.stage == 15#4, maq := { x.maq with passed := true, due := false, tries := x.maq.tries + 1 } })
  else if 3 ≤ x.maq.tries + 1 then (d.modNet n (fun x => { x with maq := { x.maq with tries := x.maq.tries + 1 } })).holdNet n
  else d.modNet n (fun x => { x with maq := { x.maq with due := true, tries := x.maq.tries + 1 } })

/-- A mismatch: counted, reported; a confirmation frame falls due at once. -/
def Dev.maqMismatch (d : Dev) (n : NetId) (f : W32) (w : MaqWhere) : Dev :=
  let core := match w.stage, w.cidx with | some s, some c => d.coreAt n s c | _, _ => none
  let p := (core.map partOfCore).getD (d.castPart n)
  let d1 := d.modHealth (fun h => { h with mqMis := satInc h.mqMis, mqUnloc := if w.cidx.isNone then satInc h.mqUnloc else h.mqUnloc })
  (d1.modNet n (fun x => { x with maq := { x.maq with
    due := true, confirm := true, suspect := match w.stage, w.cidx with | some s, some c => some (s, c) | _, _ => none } })).raise 0x2005#16 p
      [arg32 n, match w.stage with | some s => arg32 s | none => 0xFFFF#32, f, arg32 w.tensor]

/-- A confirmed mismatch: the suspect core is fenced with CAUSE 6. -/
def Dev.maqFence (d : Dev) (n : NetId) (st : StageId) (ci : BitVec 10) : Dev :=
  let d1 := d.modNet n (fun x => { x with maq := { x.maq with confirm := false, suspect := none, due := false } })
  match d1.coreAt n st ci with
  | none => d1
  | some c => ((d1.modNet n (fun x => { x with maq := { x.maq with fenced := x.maq.fenced + 1 } })).modHealth
      (fun h => { h with mqFenced := satInc h.mqFenced })).fence c 6#3

/-- A regular frame's check. -/
def Dev.maqRegular (d : Dev) (n : NetId) (f : W32) (bad : List BlockRep) (outputsOk : Bool) (tensor : BitVec 12) : Dev :=
  let m := (d.net n).maq
  let order := (((d.net n).img).map (fun im => im.stages.map (fun s => s.num))).getD []
  if outputsOk && bad.isEmpty then
    let d1 := if m.confirm then d.modHealth (fun h => { h with mqTrans := satInc h.mqTrans }) else d
    (d1.modNet n (fun x => { x with maq := { x.maq with confirm := false, suspect := none } })).probationCheck n true
  else
    let w := localise order bad tensor
    let d1 := d.maqMismatch n f w
    let again := match m.confirm, m.suspect with
      | true, some (s, c) => if bad.any (fun r => r.stage == s && r.cidx == c) then some (s, c) else none
      | _, _ => none
    (match again with | some (s, c) => d1.maqFence n s c | none => d1).probationCheck n false

/-! ## Trials (R379) -/

/-- The candidate of a unit is discarded. -/
def Adapt.discard (a : Adapt) : Adapt :=
  { a with pending := false, trialLeft := 0, cand := a.active, state := if a.en then .accumulating else .off }

/-- A trial frame's check: a failure discards the candidate, the last pass marks the commit. -/
def Dev.trialCheck (d : Dev) (n : NetId) (u : BitVec 2) (f : W32) (ok : Bool) (tensor : BitVec 12) : Dev :=
  if !ok then
    let st := ((d.net n).img.bind (fun im => (im.tensors.find? (fun t => t.num == tensor)).map (fun t => t.stage))).getD 0#11
    ((d.modAdapt u (fun a => { a.discard with discTrial := satInc a.discTrial })).modNet n (fun x =>
      { x with maq := { x.maq with inFlight := [], voided := [], outs := [], trial := false } })).raise0 0xA002#16 [arg32 u, f, arg32 st]
  else if (d.adaptU u).trialLeft == 0 && (d.net n).maq.inFlight.isEmpty then d.modAdapt u (fun a => { a with state := .marked })
  else d

/-- MAQUETTE_CHECK: the checker compares the oldest frame's outputs and block reports with their envelopes. A frame whose check is
discarded counts nothing, and another falls due at once (R82, R530). -/
def maqCheck (n : NetId) (ok : Bool) (tensor : BitVec 12) (d : Dev) : Dev :=
  let m := (d.net n).maq
  match m.inFlight with
  | [] => d
  | f :: _ =>
    let (out, blocks) := d.maqBad n f ok tensor
    let d1 := d.modNet n (fun x => { x with maq := x.maq.checked })
    if m.voided.contains f then
      if m.trial then d1.trialAgain n 1 else d1.modNet n (fun x => { x with maq := { x.maq with due := true } })
    else
      let d2 := d1.modHealth (fun h => { h with mqRun := satInc h.mqRun })
      match m.trial, d2.trialUnit n with
      | true, some u => d2.trialCheck n u f out.isNone (out.getD 0#12)
      | true, none => d2
      | false, _ => d2.maqRegular n f blocks out.isNone (out.getD 0#12)
def execMaquetteCheck (n : NetId) (ok : Bool) (tensor : BitVec 12) (s : State) : Ans :=
  .next { s with dev := maqCheck n ok tensor s.dev }

end Sys2Proof.Machine
end

