-- ==== Sys2Proof/Machine/Adaptation.lean ====
section
/-! DEFINITION. In-service adaptation (chapter 10): the replay ring (R367 to R370), the feeder (R371), the optimiser (R375), the
candidates (R376, R377) and their commit (R378 to R381). -/
namespace Sys2Proof.Machine

open Sys2Proof

/-! ## The replay ring (R367 to R370) -/

/-- Slots of a unit's chains, and the number of the slot that holds a frame (R368). -/
def Adapt.slotOf (a : Adapt) (f : W32) : Nat := f.toNat % (a.replayM1.toNat + 1)

/-- Device address of the slot that holds a frame, and of its label area (R369). -/
def slotAddr (a : Adapt) (c : AdChain) (f : W32) : Nat := 512 * c.img.rbase.toNat + a.slotOf f * (512 * c.img.slotb.toNat)
def labelAddr (a : Adapt) (c : AdChain) (f : W32) : Nat := slotAddr a c f + 512 * c.img.lbloff.toNat

/-- A label applies to the slot that holds a frame: VALID is 1 and FRAME equals it (R370). -/
def Dev.labelled (d : Dev) (a : Adapt) (c : AdChain) (f : W32) : Bool :=
  let l := d.readBytes (labelAddr a c f) 5
  leNat (l.take 4) == f.toNat && (l.drop 4).headD 0#8 == 1#8

/-- A slot header of R369. -/
def slotHeader (f : W32) (sstate : BitVec 3) (flags : Byte) (bytes : Nat) : List Byte :=
  bytes32 f ++ [sstate.setWidth 8, flags, 0#8, 0#8] ++ bytes32 (BitVec.ofNat 32 bytes) ++ List.replicate 20 0#8

/-- The companions of a network run: they are live and not frozen, and the feeder is open (R365). -/
def Dev.companionsRun (d : Dev) (n : NetId) : Bool :=
  let ps := (d.partsOfNet n).filter (fun p => d.companion n p)
  !ps.isEmpty && !(d.net n).aclosed && ps.all (fun p => (d.part p).live && (d.part p).cast == .released && !(d.part p).frozen)

/-- The first 512-byte burst of a range that may not run. -/
def Dev.rangeFault (d : Dev) (p : PartId) (a bytes : Nat) (write : Bool) : Option Nat :=
  ((List.range ((a % 512 + bytes + 511) / 512)).map (fun i => a - a % 512 + 512 * i)).find? (fun x => (d.burstCause p x write false).isSome)

/-- Change a chain of a unit. -/
def Dev.modChain (d : Dev) (u chain : BitVec 2) (f : AdChain → AdChain) : Dev :=
  d.modAdapt u (fun a => { a with chains := tblMod none a.chains chain.toNat (fun o => o.map f) })

/-- A teacher's label record, VALID 1; how many entries LCOUNT says is not the intake's to know. -/
def Dev.teacherLabel (d : Dev) (at_ : Nat) (f : W32) (words : Nat) (ws : Words) : Dev :=
  let (n, d1) := d.free 16
  d1.memWrite at_ (bytes32 f ++ [1#8, 0#8] ++ bytes16 n ++ List.replicate 24 0#8 ++ (ws.take words).flatMap bytes64)

/-- The intake's writes of a slot that faults nowhere: the label header cleared, the rows, a teacher's label, the header last. -/
def Dev.putSlot (d : Dev) (a : Adapt) (c : AdChain) (f : W32) (st : BitVec 3) (flags : Byte) (rows : Words) (label : Option Words) : Dev :=
  let base := slotAddr a c f
  let rows := rows.take ((512 * c.img.lbloff.toNat - 32) / 8)
  let d1 := (d.memWrite (labelAddr a c f) (List.replicate 32 0#8)).memWrite (base + 32) (rows.flatMap bytes64)
  let d2 := match c.img.teacher, label with
    | true, some ws => d1.teacherLabel (labelAddr a c f) f c.img.lblw.toNat ws
    | _, _ => d1
  (d2.memWrite base (slotHeader f st flags (8 * rows.length))).countBursts (some (partOfQueue c.img.first)) 3#2
    (granulesOf base (32 + 8 * rows.length) ++ granulesOf (labelAddr a c f) 32)

/-- REPLAY_SLOT_WRITE. -/
def replayWrite (u chain : BitVec 2) (f : W32) (flags : Byte) (gap : Bool) (rows : Words) (label : Option Words) (d : Dev) : Dev :=
  let a := d.adaptU u
  match a.net, tblGet none a.chains chain.toNat with
  | some n, some c =>
    if !a.en || !d.companionsRun n then d
    else
      let p := partOfQueue c.img.first
      let lost := match tblGet none c.slots (a.slotOf f) with
        | some o => o.sstate == 1#3 && d.labelled a c o.frame
        | none => false
      let fault := d.rangeFault p (slotAddr a c f) (512 * c.img.slotb.toNat) true
      let st : BitVec 3 := if gap || flags &&& a.xmask != 0#8 || fault.isSome then 2#3 else 1#3
      let d1 := match fault with
        | some x => d.tfault (.intake u) p x
        | none => d.putSlot a c f st flags rows label
      (d1.modAdapt u (fun a => { a with skipOver := if lost then satInc a.skipOver else a.skipOver,
                                        skipExcl := if st == 2#3 then satInc a.skipExcl else a.skipExcl })).modChain u chain (fun c =>
        { c with slots := tblSet none c.slots (a.slotOf f) (some ⟨f, st, flags, 8 * (rows.take ((512 * c.img.lbloff.toNat - 32) / 8)).length⟩) })
  | _, _ => d
def execReplaySlotWrite (u chain : BitVec 2) (f : W32) (flags : Byte) (gap : Bool) (rows : Words) (label : Option Words) (s : State) : Ans :=
  .next { s with dev := replayWrite u chain f flags gap rows label s.dev }

/-! ## The feeder (R371) -/

/-- The slot that the feeder issues next: labelled, filled, of the lowest frame number. -/
def Dev.nextSlot (d : Dev) (a : Adapt) (c : AdChain) : Option Replay :=
  (c.slots.filterMap (fun e => e.2)).foldl (fun m o =>
    if o.sstate != 1#3 || !d.labelled a c o.frame then m
    else match m with
      | some b => if earlier o.frame b.frame then some o else m
      | none => some o) none

/-- FEEDER_ISSUE: a marker with the slot's frame and flags, then its rows and its label, of the adaptation epoch.
Assumption 75 (DESIGN CHOICE): safe. -/
def feeder (u chain : BitVec 2) (d : Dev) : Dev :=
  let a := d.adaptU u
  match a.net, tblGet none a.chains chain.toNat with
  | some n, some c =>
    let q := c.img.first
    if !a.en || !d.companionsRun n || !(d.queue q).hasCredit 0 || !(d.queue q).images.isEmpty then d
    else match d.nextSlot a c with
      | none => d
      | some o =>
        let put (st : BitVec 3) (d : Dev) : Dev := d.modChain u chain (fun c =>
          { c with slots := tblSet none c.slots (a.slotOf o.frame) (some { o with sstate := st }),
                   next := if earlier c.next (o.frame + 1#32) then o.frame + 1#32 else c.next })
        match d.rangeFault (partOfQueue q) (slotAddr a c o.frame) (512 * c.img.slotb.toNat) false with
        | some x => ((d.tfault (.intake u) (partOfQueue q) x).modAdapt u (fun a => { a with skipExcl := satInc a.skipExcl })).modChain u chain
            (fun c => { c with slots := tblSet none c.slots (a.slotOf o.frame) (some { o with sstate := 2#3 }) })
        | none =>
          let e := (d.net n).aepoch
          let (ctx, d0) := d.free 10
          let d1 := d0.write q 0#10 (startMarker o.frame ctx o.flags e)
          let d2 := d1.memWrite (slotAddr a c o.frame) (slotHeader o.frame 3#3 o.flags o.bytes)
          let parts := [(BitVec.ofNat 40 (slotAddr a c o.frame + 32), o.bytes / 8), (BitVec.ofNat 40 (labelAddr a c o.frame + 32), c.img.lblw.toNat)]
          let d3 := (d2.modQueue q (fun x => { x with images := parts.filter (fun t => t.2 != 0) })).imageBurst q
          (put 3#3 d3).modAdapt u (fun a => { a with steps := satInc a.steps, stepsInBatch := a.stepsInBatch + 1 })
  | _, _ => d
def execFeederIssue (u chain : BitVec 2) (s : State) : Ans := .next { s with dev := feeder u chain s.dev }

/-! ## The optimiser (R375) -/

/-- A BF16 value as FP32. -/
def bf16To32 (w : W16) : W32 := w ++ 0#16

/-- One weight's update: the new w and the moments before they are written as A8 rows; none when g is a NaN or infinite. -/
def optStep (a : Adapt) (x : Wt) (grad : W32) : Option (BitVec 16 × W32 × W32) :=
  let one : W32 := 0x3F800000#32
  let batch := to32 (.fin (dyInt (max a.batch.toNat 1) 0))
  let g0 := div32 grad batch
  if !isFin32 g0 then none
  else
    let g := if lt32 0#32 a.clip then (if lt32 g0 (neg32 a.clip) then neg32 a.clip else if lt32 a.clip g0 then a.clip else g0) else g0
    let m := add32 (mul32 a.b1 x.m) (mul32 (sub32 one a.b1) g)
    let v := add32 (mul32 a.b2 x.v) (mul32 (mul32 (sub32 one a.b2) g) g)
    let w := sub32 (bf16To32 x.w) (div32 (mul32 a.lr m) (add32 (sqrt32 v) a.eps))
    some (BitVec.ofNat 16 (narrowFloat .bf16 false w).1, m, v)

/-- Moments as their A8 rows hold them: each row narrowed by the two passes of R177, and read back. Assumption 74 (DESIGN CHOICE):
unsafe. Assumption 73 (DESIGN CHOICE): safe. -/
def momentRows (s2 : W32) (l : List W32) : List W32 :=
  l.zipIdx.map (fun e =>
    let r := l.zipIdx.filter (fun x => Config.momentRow x.2 == Config.momentRow e.2)
    ((convertQrow .a8 false false s2 (r.map (fun x => x.1))).dq[(r.findIdx? (fun x => x.2 == e.2)).getD 0]?).getD 0#32)

/-- S2 of a network's moment tensors. -/
def Dev.momentS2 (d : Dev) (n : NetId) (second : Bool) : W32 :=
  Config.momentS2 ((d.net n).tensors.map (fun e => (e.1, e.2.s2))) second

/-- Every weight and bias of the unit updated: the number of gradients that were not finite, and the new weights.
Assumption 74 (DESIGN CHOICE): unsafe. -/
def Adapt.optimise (a : Adapt) (s2m s2v : W32) (grads : List Grad) (count : Nat) : Nat × Tbl Wt :=
  let l := (List.range count).map (fun i =>
    let x := tblGet {} a.weights i
    (i, x, optStep a x (((grads.find? (fun g => g.idx == i)).map (fun g => g.g)).getD 0#32)))
  let ms := momentRows s2m (l.map (fun e => match e.2.2 with | some r => r.2.1 | none => e.2.1.m))
  let vs := momentRows s2v (l.map (fun e => match e.2.2 with | some r => r.2.2 | none => e.2.1.v))
  ((l.filter (fun e => e.2.2.isNone)).length,
   l.foldl (fun t e => match e.2.2 with
     | some r => tblSet {} t e.1 { w := r.1, m := (ms[e.1]?).getD 0#32, v := (vs[e.1]?).getD 0#32 }
     | none => t) a.weights)

/-! ## Candidates (R377) -/

/-- `n` bits of a code at a bit of a word. -/
def setBits (w : W64) (at_ n c : Nat) : W64 :=
  (w &&& ~~~(BitVec.ofNat 64 (2 ^ n - 1) <<< at_)) ||| (BitVec.ofNat 64 (c % 2 ^ n) <<< at_)

/-- FP32 half `i` of a parameter block that starts at a word. -/
def setHalf (ws : List W64) (base i : Nat) (v : W32) : List W64 :=
  ws.modify (base + i / 2) (fun w => if i % 2 == 0 then w.extractLsb' 32 32 ++ v else v ++ w.extractLsb' 0 32)

/-- The smallest FP32 value that is not below `range` / q. -/
def divUp (range : Dy) (q : Nat) : Dy :=
  let n := (range.m * 2 ^ 64 + q - 1) / q
  let k := bitLen n - 24
  let up : Dy := ⟨false, (n + 2 ^ k - 1) / 2 ^ k, range.e - 64 + k⟩
  if up.tiny then ⟨false, 1, -126⟩ else up

/-- Scale and zero point of an output channel's weights. -/
def chanScale (f : Fmt) (ws : List W32) : Dy × Nat :=
  let zero : Dy := ⟨false, 0, 0⟩
  let ds := ws.map finOr0
  let lo := ds.foldl (fun m d => if dyLt d m then d else m) zero
  let hi := ds.foldl (fun m d => if dyLt m d then d else m) zero
  if lo.m == 0 && hi.m == 0 then (⟨false, 1, 0⟩, 0)
  else
    let s := divUp (dyAdd hi lo.negate) (fmtQ f)
    (s, floorNegDiv lo s)

/-- The image of an adapted stage from the master weights: codes, scales, zero points and biases; every other word is bank 0's. -/
def candImage (a : Adapt) (x : AdStageImg) (f : Fmt) (bank0 : List W64) : List W64 :=
  let master (i : Nat) : W32 := bf16To32 (tblGet {} a.weights (x.first + i)).w
  let int := f == .a4 || f == .a8
  let scales := (List.range x.chans).map (fun c =>
    if int then chanScale f ((x.places.zipIdx.filter (fun e => e.1.1 == c)).map (fun e => master e.2)) else (⟨false, 1, 0⟩, 0))
  let codes := x.places.zipIdx.foldl (fun ws e =>
    let sz := (scales[e.1.1]?).getD (⟨false, 1, 0⟩, 0)
    let code := if int then (narrowInt f sz.1 sz.2 (master e.2)).1 else (narrowFloat f false (master e.2)).1
    ws.modify e.1.2.1 (fun w => setBits w e.1.2.2 (fmtBits f) code)) bank0
  scales.zipIdx.foldl (fun ws e =>
    let ws1 := setHalf ws x.lsparam (3 * e.2) (master (x.places.length + e.2))
    if int then setHalf (setHalf ws1 x.lsparam (3 * e.2 + 1) (to32 (.fin e.1.1))) x.lsparam (3 * e.2 + 2) (BitVec.ofNat 32 e.1.2) else ws1) codes

/-- Device address of a bank of an adapted stage. -/
def bankAddr (x : AdStageImg) (b : BitVec 2) : Nat := 512 * x.base.toNat + b.toNat * (x.imgWords.toNat * 8)

/-- A stage's candidate bank written from bank 0 and the master weights and read back, in class 3 (R395), unless a burst of it is a
translation fault. -/
def Dev.buildStage (d : Dev) (u : BitVec 2) (n : NetId) (b : BitVec 2) (a : Adapt) (x : AdStageImg) : Dev × Bool :=
  match d.rangeFault x.part (bankAddr x b) (8 * x.imgWords.toNat) true with
  | some f => (d.tfault (.candidate u) x.part f, false)
  | none =>
    let fmt := ((d.stageImg n x.stage).map (fun s => s.wfmt)).getD .a8
    let bank0 := (List.range x.imgWords.toNat).map (fun i => BitVec.ofNat 64 (leNat (d.readBytes (bankAddr x 0#2 + 8 * i) 8)))
    ((d.memWrite (bankAddr x b) ((candImage a x fmt bank0).flatMap bytes64)).countBursts (some x.part) 3#2
      (granulesOf (bankAddr x 0#2) (8 * x.imgWords.toNat) ++ granulesOf (bankAddr x b) (8 * x.imgWords.toNat) ++
        granulesOf (bankAddr x b) (8 * x.imgWords.toNat)), true)

/-- The master weights in the adaptation region (Table 10-2, R383), written in class 3 for the optimiser stage; a write that is a
translation fault is discarded. -/
def Dev.putMasters (d : Dev) (u : BitVec 2) (n : NetId) (a : Adapt) (count : Nat) : Dev :=
  let ws := weightWords ((List.range count).map (fun i => (tblGet {} a.weights i).w))
  let p := (((d.partsOfNet n).filter (fun p => d.companion n p)).head?).getD 0#5
  match d.rangeFault p (512 * a.wbase.toNat) (8 * ws.length) true with
  | some f => d.tfault (.candidate u) p f
  | none => (d.memWrite (512 * a.wbase.toNat) (ws.flatMap bytes64)).countBursts (some p) 3#2 (granulesOf (512 * a.wbase.toNat) (8 * ws.length))

/-- The bank that a candidate goes to. -/
def Adapt.candBank (a : Adapt) : BitVec 2 := if a.active == 1#2 then 2#2 else 1#2

/-- The mode of adaptation commit: that of the network's lowest companion partition (R378). -/
def Dev.adaptHost (d : Dev) (n : NetId) : Bool :=
  match ((d.partsOfNet n).filter (fun p => d.companion n p)).head? with | some p => d.hostMode p 6 | none => true

/-- The candidate starts its trial (R379). -/
def Adapt.startTrial (a : Adapt) : Adapt := { a with state := .trial, trialLeft := max a.ntrial.toNat 1 }

/-- A candidate is built, read back and pending, or discarded. -/
def Dev.buildCand (d : Dev) (u : BitVec 2) (n : NetId) (readBackOk : Bool) : Dev :=
  let a := d.adaptU u
  let b := a.candBank
  let (d1, ok) := a.stages.foldl (fun acc x => if acc.2 then acc.1.buildStage u n b a x else acc) (d, true)
  if !ok then d1.modAdapt u (fun a => { a.discard with batches := 0#8 })
  else if !readBackOk then
    let (st, d2) := d1.free 11
    (d2.modAdapt u (fun a => { a.discard with batches := 0#8, discTrial := satInc a.discTrial })).raise0 0xA004#16 [arg32 u, arg32 st]
  else
    let d2 := d1.modAdapt u (fun a => { a with pending := true, cand := b, batches := 0#8 })
    if d2.adaptHost n then (d2.modAdapt u (fun a => { a with state := .pendingHost })).raise0 0xA001#16 [arg32 u, arg32 b]
    else d2.modAdapt u Adapt.startTrial

/-- BATCH_END. -/
def batchEnd (u : BitVec 2) (grads : List Grad) (readBackOk : Bool) (d : Dev) : Dev :=
  let a := d.adaptU u
  match a.net with
  | none => d
  | some n =>
    let size := max a.batch.toNat 1
    if !a.en || a.freeze || !d.companionsRun n || a.stepsInBatch < size then d
    else
      let count := (a.stages.map (fun x => x.first + x.places.length + x.chans)).foldl max 0
      let (bad, ws) := a.optimise (d.momentS2 n false) (d.momentS2 n true) grads count
      let d1 := (d.putMasters u n { a with weights := ws } count).modAdapt u (fun a =>
        { a with weights := ws, gsat := satAdd a.gsat bad, stepsInBatch := a.stepsInBatch - size, batches := satInc a.batches })
      let a1 := d1.adaptU u
      if !a1.pending && max a.ncommit.toNat 1 ≤ a1.batches.toNat && a1.busyBank != some a1.candBank then d1.buildCand u n readBackOk else d1
def execBatchEnd (u : BitVec 2) (grads : List Grad) (readBackOk : Bool) (s : State) : Ans := .next { s with dev := batchEnd u grads readBackOk s.dev }

/-! ## Commit (R380, R381) -/

/-- The next frame of the network's lowest admission group. -/
def Network.nextFrame (n : Network) : W32 := match n.groups with | (_, some g) :: _ => g.counter | _ => 0#32

/-- ADAPTATION_COMMIT: the marked candidate becomes active at the next frame, with the next epoch. -/
def adaptCommit (u : BitVec 2) (d : Dev) : Dev :=
  let a := d.adaptU u
  match a.net with
  | none => d
  | some n =>
    let x := d.net n
    let waits := x.groups.any (fun e => match e.2 with | some g => g.live.any (fun l => l.2 == .pending) | none => false)
    if a.state != .marked || a.busyBank.isSome || !d.admitting n || waits then d
    else
      let f := x.nextFrame
      let d1 := (d.modNet n (fun x => { x with epoch := x.epoch + 1#3 })).modAdapt u (fun a =>
        { a with cmt := satInc a.cmt, gen := a.gen + 1#32, lastf := f, busyBank := some a.active, active := a.cand, pending := false,
                 state := if a.en then .accumulating else .off })
      d1.raise0 0xA003#16 [arg32 u, f, (d1.adaptU u).gen]
def execAdaptationCommit (u : BitVec 2) (s : State) : Ans := .next { s with dev := adaptCommit u s.dev }

/-- BANK_FREE: frame F of the commit has left every output. -/
def bankFree (u : BitVec 2) (d : Dev) : Dev :=
  let a := d.adaptU u
  match a.net with
  | none => d
  | some n => if a.busyBank.isSome && d.frameOut n a.lastf then d.modAdapt u (fun a => { a with busyBank := none }) else d
def execBankFree (u : BitVec 2) (s : State) : Ans := .next { s with dev := bankFree u s.dev }

/-! ## The host's writes (R378, R385) -/

/-- A write that a unit rejects. -/
def Dev.adaptReject (d : Dev) (u : BitVec 2) : Dev := d.modAdapt u (fun a => { a with rej := satInc a.rej })

/-- A write to a unit; the unit of no network ignores it. -/
def Dev.onUnit (d : Dev) (u : BitVec 2) (f : Dev → Dev) : Dev := if (d.adaptU u).net.isSome then f d else d

/-- ADP_DECIDE 1. -/
def adpCommit (u : BitVec 2) (d : Dev) : Dev :=
  d.onUnit u (fun d => if (d.adaptU u).state == .pendingHost then d.modAdapt u (fun a => { a with state := .marked }) else d.adaptReject u)
def execAdpDecideCommit (u : BitVec 2) (s : State) : Ans := .next (hostWrite (adpCommit u) s)

/-- ADP_DECIDE 2. -/
def adpDiscard (u : BitVec 2) (d : Dev) : Dev :=
  d.onUnit u (fun d =>
    if (d.adaptU u).state == .pendingHost then d.modAdapt u (fun a => { a.discard with discHost := satInc a.discHost }) else d.adaptReject u)
def execAdpDecideDiscard (u : BitVec 2) (s : State) : Ans := .next (hostWrite (adpDiscard u) s)

/-- ADP_CTRL_WRITE: NCOMMIT and XMASK change only while EN is 0. Assumption 153 (DEDUCED): unsafe. -/
def adpCtrl (u : BitVec 2) (v : W32) (d : Dev) : Dev :=
  d.onUnit u (fun d =>
    let a := d.adaptU u
    let ncommit : Byte := v.extractLsb' 2 8
    let xmask : Byte := v.extractLsb' 14 8
    let bad := a.en && (ncommit != a.ncommit || xmask != a.xmask)
    let en := v.getLsbD 0
    let d1 := d.modAdapt u (fun a =>
      { a with en := en, freeze := v.getLsbD 1, ntrial := v.extractLsb' 10 4, ncommit := if a.en then a.ncommit else ncommit,
               xmask := if a.en then a.xmask else xmask,
               state := match a.state with | .off => (if en then .accumulating else .off) | .accumulating => (if en then .accumulating else .off) | x => x })
    if bad then d1.adaptReject u else d1)
def execAdpCtrlWrite (u : BitVec 2) (v : W32) (s : State) : Ans := .next (hostWrite (adpCtrl u v) s)

/-- ADP_BATCH_WRITE: only while EN is 0. Assumption 153 (DEDUCED): unsafe. -/
def adpBatch (u : BitVec 2) (v : W32) (d : Dev) : Dev :=
  d.onUnit u (fun d =>
    let a := d.adaptU u
    let size : W16 := v.setWidth 16
    if a.en then (if size != a.batch then d.adaptReject u else d) else d.modAdapt u (fun a => { a with batch := size }))
def execAdpBatchWrite (u : BitVec 2) (v : W32) (s : State) : Ans := .next (hostWrite (adpBatch u v) s)

end Sys2Proof.Machine
end

