-- ==== Sys2Proof/Machine/Route.lean ====
section
/-! DEFINITION. Route memory (chapter 09): position records and the predictor, the tiles it issues, corrections, candidates for the
next pass, and the RTE block's registers that have rows of their own. -/
namespace Sys2Proof.Machine

open Sys2Proof

/-! ## The index (R331, R332) -/

/-- The fields of an entry (Table 9-1). -/
def entState (e : BitVec 128) : BitVec 2 := e.extractLsb' 15 2
def entAddr (e : BitVec 128) : BitVec 25 := e.extractLsb' 55 25
def entCount (e : BitVec 128) (g : Nat) : Byte := e.extractLsb' (80 + 8 * g) 8
def entPass (e : BitVec 128) : BitVec 6 := e.extractLsb' 112 6
def entAge (e : BitVec 128) : Byte := e.extractLsb' 118 8
def entUpol (e : BitVec 128) : BitVec 2 := e.extractLsb' 126 2

/-- Put a field into an entry at a bit position. -/
def entPut {n : Nat} (e : BitVec 128) (lo : Nat) (v : BitVec n) : BitVec 128 :=
  (e &&& ~~~((BitVec.allOnes n).setWidth 128 <<< lo)) ||| (v.setWidth 128 <<< lo)

/-- The slot of a bin. -/
def slotOfBin (b : W32) : Nat := b.toNat % 131072
/-- The entry at a bin's slot. -/
def Dev.entry (d : Dev) (b : W32) : BitVec 128 := tblGet 0#128 d.route.index (slotOfBin b)
/-- The entry belongs to the bin: its tag agrees and it is valid. -/
def entValid (e : BitVec 128) (b : W32) : Bool := e.extractLsb' 0 15 == b.extractLsb' 17 15 && entState e == 1#2
/-- Write a bin's entry. -/
def Dev.setEntry (d : Dev) (b : W32) (e : BitVec 128) : Dev :=
  d.modRoute (fun r => { r with index := tblSet 0#128 r.index (slotOfBin b) e })

/-! ## Tile blocks (R337) -/

/-- Room of the groups before `g` in a tile block, in bursts. -/
def Dev.groupRoom (d : Dev) (g : BitVec 2) : Nat :=
  ((List.range g.toNat).map (fun h => match tblGet none d.route.groups h with
    | some x => x.img.tpb * x.img.tsize
    | none => 0)).sum

/-- Device address of tile `i` of group `g` in a block. -/
def Dev.tileAddr (d : Dev) (block : BitVec 25) (g : BitVec 2) (x : RefGroup) (i : Nat) : Nat :=
  512 * block.toNat + 512 * d.groupRoom g + 512 * i * x.img.tsize

/-! ## Issue (R344, R345) -/

/-- Words of a delivered tile of the group, the tag included. -/
def RefGroup.tileLen (x : RefGroup) : Nat := 64 * x.img.tsize + 1

/-- Every word of a tile has been delivered and released by its destination queue. -/
def Dev.tileGone (d : Dev) (x : RefGroup) (t : Tile) : Bool :=
  match t.at_ with
  | none => false
  | some p => t.got == x.tileLen && x.tileLen ≤ pdist p (d.queue t.q).old && pdist p (d.queue t.q).old < 2 ^ 31

/-- Forget tiles that have gone, and lists that are whole. -/
def Dev.pruneRef (d : Dev) (x : RefGroup) : RefGroup :=
  let ts := x.tiles.filter (fun t => !d.tileGone x t)
  { x with tiles := ts,
           lists := x.lists.filter (fun l => !l.todo.isEmpty || ts.any (fun t => t.frame == l.frame && t.got == 0)) }

/-- Places whose destination takes nothing are passed over (Table 9-6). -/
def Dev.livePlaces (d : Dev) (x : RefGroup) (l : List Nat) : List Nat := l.filter (fun p => d.queueLive (x.dest p))

/-- The frame whose list is computed next, when it lies within the horizon (R345). -/
def Dev.nextListFrame (d : Dev) (x : RefGroup) : Option W32 :=
  match x.offered, x.lastFrame with
  | some (a, _), some f => if framesFrom a (f + 1#32) ≤ d.route.ahead then some (f + 1#32) else none
  | some (a, _), none => some (x.firstOff.getD a)
  | none, _ => none

/-- The first bin of a new list: that of the prediction; the manual gives none in Lost. -/
def Dev.startBin (d : Dev) (x : RefGroup) (f : W32) : Int × Dev :=
  if d.route.pstate == .tracking then (d.firstBin x f, d) else let (v, d1) := d.free 32; (v.toNat, d1)

/-- The list of the next frame begins. -/
def Dev.startList (d : Dev) (g : BitVec 2) (x : RefGroup) : Dev :=
  match d.nextListFrame x with
  | none => d.modRef g (fun _ => x)
  | some f =>
    let (b, d1) := d.startBin x f
    let l : RefList := { frame := f, first := b, rev := d.route.last.rev, todo := d.livePlaces x (List.range (x.img.nbin * x.img.tpb)) }
    (d1.modRef g (fun _ => { x with lists := x.lists ++ [l], lastFrame := some f, lastFirst := b })).modRoute
      (fun r => { r with xbin := if g == 0#2 then BitVec.ofInt 32 b else r.xbin })

/-- The policy written into a tag (R351). -/
def tagPolicy (passOpen lost valid : Bool) (e : BitVec 128) : BitVec 2 :=
  if !passOpen || lost then 0#2
  else if !valid then 1#2
  else if entUpol e == 3#2 then (if entPass e == 0#6 then 1#2 else 2#2)
  else entUpol e

/-- The entry that a fetch reads: one with an uncorrectable error becomes invalid (R334). -/
def Dev.readEntry (d : Dev) (b : W32) (upset : Bool) : BitVec 128 × Dev :=
  let d := d.sramRead
  let e := d.entry b
  if !upset then (e, d)
  else
    let e1 := entPut e 15 2#2
    (e1, ((d.setEntry b e1).modRoute (fun r => { r with idxUnc := satInc r.idxUnc })).raise0 0x9004#16 [BitVec.ofNat 32 (slotOfBin b)])

/-- Issue the tile at a place of a list (R337 to R339, R351). -/
def Dev.issueTile (d : Dev) (g : BitVec 2) (x : RefGroup) (l : RefList) (pos : Nat) (upset : Bool) : Dev :=
  let i := pos % max x.img.tpb 1
  let k : Int := (pos / max x.img.tpb 1 : Nat)
  let bin := if l.rev then l.first - k else l.first + k
  let lost := d.route.pstate == .lost
  let b : W32 := BitVec.ofInt 32 bin
  let here : Bool := !lost && decide (0 ≤ bin)
  let (e, d1) := if here then d.readEntry b upset else (0#128, d)
  let valid := here && entValid e b
  let stat : BitVec 2 := if lost then 2#2 else if valid && i < (entCount e g.toNat).toNat then 0#2 else 1#2
  let q := x.dest pos
  let t : Tile := { q := q, frame := l.frame, bin := bin, tile := BitVec.ofNat 8 i, tstat := stat,
                    upol := tagPolicy d.route.passOpen lost valid e, pgen := d.route.pgen, epoch := (d.net x.net).epoch,
                    addr := BitVec.ofNat 40 (d.tileAddr (entAddr e) g x i), pos := pos }
  let d2 := d1.modRef g (fun y => { y with
    tiles := y.tiles ++ [t],
    lists := y.lists.map (fun m => if m.frame == l.frame then { m with todo := m.todo.erase pos } else m) })
  let d3 := if d.route.passOpen && here then
      d2.modRoute (fun r => if r.past.contains b then r else { r with past := r.past ++ [b] }) else d2
  d3.tileBurst q

/-- TILE_ISSUE: the next tile of a group, in frame order. -/
def tileIssue (g : BitVec 2) (upset : Bool) (d : Dev) : Dev :=
  match d.refGroup g with
  | none => d
  | some x0 =>
    if !d.route.en || d.route.pstate == .idle then d
    else
      let x1 := d.pruneRef { x0 with lists := x0.lists.map (fun l => { l with todo := d.livePlaces x0 l.todo }) }
      let d1 := if x1.lists.any (fun l => !l.todo.isEmpty) then d.modRef g (fun _ => x1) else d.startList g x1
      match d1.refGroup g with
      | none => d1
      | some x =>
        match x.lists.find? (fun l => !l.todo.isEmpty) with
        | some l => d1.issueTile g x l (l.todo.headD 0) upset
        | none => d1
def execTileIssue (g : BitVec 2) (upset : Bool) (s : State) : Ans := .next { s with dev := tileIssue g upset s.dev }

/-! ## Cancelling (R348, Table 9-6) -/

/-- Cancel a group's undelivered tiles: their bursts are discarded, their places are to be issued again, and each counts. -/
def Dev.cancelTiles (d : Dev) (g : BitVec 2) (x : RefGroup) : Dev :=
  let gone := x.tiles.filter (fun t => t.got == 0)
  let tags := gone.map (fun t => t.tag g)
  let d1 := d.cancelBursts (fun b => b.who == .prefetch g && tags.contains b.tag)
  (d1.modRef g (fun y => { y with
    tiles := y.tiles.filter (fun t => t.got != 0),
    lists := y.lists.map (fun l =>
      { l with todo := (gone.filter (fun t => t.frame == l.frame)).map (fun t => t.pos) ++ l.todo }) })).modRoute
    (fun r => { r with cancel := satAdd r.cancel gone.length })

/-- The groups in service, with their numbers. -/
def Dev.refGroups (d : Dev) : List (BitVec 2 × RefGroup) :=
  d.route.groups.filterMap (fun e => e.2.map (fun x => (BitVec.ofNat 2 e.1, x)))

/-- Cancel the undelivered tiles of every group. -/
def Dev.cancelAll (d : Dev) : Dev := d.refGroups.foldl (fun d e => d.cancelTiles e.1 e.2) d

/-- Lists that are not whole are computed again from the position now; the last frame's first bin follows. -/
def Dev.replan (d : Dev) (g : BitVec 2) : Dev :=
  match d.refGroup g with
  | none => d
  | some x =>
    let lists := x.lists.map (fun l => { l with first := d.firstBin x l.frame, rev := d.route.last.rev })
    let lf := match lists.getLast? with | some l => l.first | none => x.lastFirst
    (d.modRef g (fun y => { y with lists := lists, lastFirst := lf })).modRoute
      (fun r => { r with xbin := if g == 0#2 && !lists.isEmpty then BitVec.ofInt 32 lf else r.xbin })

/-! ## The supersede notice (R349) -/

/-- FFIRST and FLAST of a group: the oldest frame with a tile delivered and not yet released, and that of the newest tile
delivered; none when there is no such tile. -/
def Dev.superRange (d : Dev) (x : RefGroup) : Option (W32 × W32) :=
  let fs := (x.tiles.filter (fun t => t.got != 0 && !d.tileGone x t)).map (fun t => t.frame)
  match fs, x.lastDel with
  | f :: t, some l => some (t.foldl (fun m y => if earlier y m then y else m) f, l)
  | _, _ => none

/-- The cores of a group's comparison stages. -/
def Dev.refCores (d : Dev) (x : RefGroup) : List CoreId :=
  (d.coresOfNet x.net).filter (fun c =>
    (d.core c).kind == .comparison && (d.core c).ins.any (fun p => match p with | some ip => x.img.route.contains ip.q | none => false))

/-- OPC of the supersede notice. -/
def opcSupersede : Byte := Config.packetOpc 4

/-- Send the notice to every core of a group's comparison stages. Assumption 72 (DESIGN CHOICE): unsafe. -/
def Dev.supersede (d : Dev) (x : RefGroup) : Dev :=
  match d.superRange x with
  | none => d
  | some (a, b) =>
    (d.refCores x).foldl (fun d c => d.sendPacket
      { cls := 1#2, src := epMgmt, dst := epCore c, opc := opcSupersede, seq := 0#20, crc := 0#32,
        payload := [Config.supersedeFlit d.route.pgen a b] }) d

/-- A position generation is older than another, modulo 16. -/
def pgenOlder (a b : BitVec 4) : Bool := 1 ≤ (b - a).toNat && (b - a).toNat ≤ 8

/-- SUPERSEDE_NOTICE: the frame in hand, when it lies in the range and used a tile of an older generation. -/
def supersedeNotice (c : CoreId) (pgen : BitVec 4) (ffirst flast : W32) (d : Dev) : Dev :=
  let k := d.core c
  let inRange := pdist ffirst k.frame ≤ pdist ffirst flast
  if k.assigned && k.kind == .comparison && k.inFrame && inRange && k.refs.any (fun u => u.frame == k.frame && pgenOlder u.pgen pgen) then
    d.modCore c (fun k => { k with flags := k.flags ||| 4#8 })
  else d
def execSupersedeNotice (c : CoreId) (pgen : BitVec 4) (ffirst flast : W32) (s : State) : Ans :=
  .next { s with dev := supersedeNotice c pgen ffirst flast s.dev }

/-! ## Records (R341 to R343, R348 to R350) -/

/-- A position record as its 32 bytes say it, `num` reading a field in the byte order of its source (R340). -/
def posOfBytes (num : List Byte → Nat) (l : List Byte) : PosRec :=
  let f := l.getD 1 0#8
  let n (a k : Nat) : Nat := num ((l.drop a).take k)
  { fix := f.getLsbD 0, rev := f.getLsbD 1, nopos := f.getLsbD 2, time := BitVec.ofNat 64 (n 8 8),
    rdist := BitVec.ofNat 32 (n 16 4), speed := BitVec.ofNat 32 (n 20 4), unc := BitVec.ofNat 32 (n 24 4) }

/-- A record discarded. -/
def Dev.posDrop (d : Dev) : Dev := d.modRoute (fun r => { r with posdisc := satInc r.posdisc })

/-- An accepted record is a correction (R343). Assumption 64 (DEDUCED): unsafe. -/
def Route.correction (r : Route) (x : PosRec) : Bool :=
  !x.nopos && (x.fix || (r.haveRec && r.last.rev != x.rev) || r.pstate == .lost ||
    (r.pstate == .tracking && decide ((r.corrTh.toNat * 1000000000 : Int) < (x.rdist.toNat * 1000000000 - r.last.at x.time.toNat).natAbs)))

/-- UNC beyond U of a group (R343). -/
def Dev.uncover (d : Dev) (unc : W32) : Dev :=
  match d.refGroups.find? (fun e => e.2.img.u < unc.toNat) with
  | none => d
  | some (g, _) =>
    let d1 := d.modRoute (fun r => { r with uncover := satInc r.uncover, uncEvt := true })
    if d.route.uncEvt then d1 else d1.raise0 0x9002#16 [unc, arg32 g]

/-- The predictor enters Lost (R342): undelivered tiles are cancelled, to be issued again with TSTAT 2. -/
def Dev.loseTrack (d : Dev) (at_ : W32) : Dev :=
  (d.cancelAll.modRoute (fun r => { r with pstate := .lost })).raise0 0x9001#16 [at_]

/-- FFIRST and FLAST of the event of R350: those of the lowest group that has them, else values that the manual does not give. -/
def Dev.eventRange (d : Dev) : (W32 × W32) × Dev :=
  match d.refGroups.findSome? (fun e => d.superRange e.2) with
  | some p => (p, d)
  | none => let (a, d1) := d.free 32; let (b, d2) := d1.free 32; ((a, b), d2)

/-- The old prediction for a record's time; the manual gives none outside Tracking. -/
def Dev.oldPrediction (d : Dev) (x : PosRec) : W32 × Dev :=
  if d.route.pstate == .tracking then (mm32 (d.route.last.at x.time.toNat), d) else d.free 32

/-- A correction, in the order of R348, with its notices and its event. -/
def Dev.correct (d : Dev) (x : PosRec) : Dev :=
  let old := d.route.pgen
  let (pred, d0) := d.oldPrediction x
  let d1 := d0.modRoute (fun r => { r with pgen := r.pgen + 1#4, corr := satInc r.corr, last := x, haveRec := true, pstate := .tracking })
  let d2 := d1.refGroups.foldl (fun d e => (d.cancelTiles e.1 e.2).supersede e.2) d1
  let d3 := d2.refGroups.foldl (fun d e => d.replan e.1) d2
  let ((a, b), d4) := d3.eventRange
  d4.raiseAux 0x9003#16 ((old + 1#4) ++ old) [pred, x.rdist, a, b]

/-- An accepted record (R341 to R343). -/
def Dev.acceptRec (d : Dev) (x : PosRec) : Dev :=
  let d0 := d.uncover x.unc
  if d.route.correction x then d0.correct x
  else
    let at_ := d.route.last.rdist
    let d1 := d0.modRoute (fun r => { r with last := x, haveRec := true, pstate := if x.nopos then r.pstate else .tracking })
    if x.nopos && d.route.pstate == .tracking then d1.loseTrack at_ else d1

/-- A record from a source, `on` telling that the source is enabled: accepted, or discarded and counted. -/
def Dev.posRecord (d : Dev) (on : Bool) (num : List Byte → Nat) (l : List Byte) : Dev :=
  let x := posOfBytes num l
  let r := d.route
  if !on || !r.en || l.getD 0 0#8 != 1#8 || (r.haveRec && x.time ≤ r.last.time) then d.posDrop else d.acceptRec x

/-- POSITION_DATAGRAM (R444): on POSLANE to POSPORT. -/
def positionDatagram (lane : PartId) (port : W16) (bytes : List Byte) (d : Dev) : Dev :=
  if !d.laneUp lane || lane != d.route.poslane || port != d.ing.posport then d
  else
    let d1 := d.lanePacket lane
    if bytes.length != 32 || port == 0#16 then d1.posDrop else d1.posRecord d.route.laneEn beNat bytes
def execPositionDatagram (lane : PartId) (port : W16) (bytes : List Byte) (s : State) : Ans :=
  .next { s with dev := positionDatagram lane port bytes s.dev }

/-- A byte of RTE_POSIN. -/
def Route.setPosin (r : Route) (i : Nat) (b : Byte) : Route :=
  { r with posin := (List.range 32).map (fun j => if j == i then b else r.posin.getD j 0#8) }

/-- Byte 31 of RTE_POSIN is written, and the record is submitted (R340). -/
def posinSubmit (b : Byte) (d : Dev) : Dev :=
  let d1 := d.modRoute (fun r => r.setPosin 31 b)
  d1.posRecord d.route.hostEn leNat d1.route.posin

/-- POSITION_TIMEOUT (R342). -/
def positionTimeout (d : Dev) : Dev :=
  if d.route.en && d.route.pstate == .tracking then d.loseTrack d.route.last.rdist else d
def execPositionTimeout (s : State) : Ans := .next { s with dev := positionTimeout s.dev }

/-! ## Commit and discard (R355, R356) -/

/-- The partition whose reference-update mode decides a candidate: that of rotation position 0 of the comparison stage of the
lowest group that has tiles of it. -/
def Dev.candPart (d : Dev) (c : Cand) : Option PartId :=
  match d.refGroups.find? (fun e => c.tiles.any (fun t => t.1 == e.1)) with
  | none => none
  | some (_, x) => ((d.refCores x).find? (fun k => (d.core k).cidx == 0#10)).map partOfCore

/-- The candidate is decided by the host. -/
def Dev.candHost (d : Dev) (c : Cand) : Bool := match d.candPart c with | some p => d.hostMode p 7 | none => false

/-- Every tile of every group of the bin has been written. -/
def Dev.candWhole (d : Dev) (c : Cand) : Bool :=
  d.refGroups.all (fun e => (List.range e.2.img.tpb).all (fun i => c.tiles.contains (e.1, BitVec.ofNat 8 i)))

/-- The bin's entry is rewritten; the block that it named is handed back, a value the manual does not give when it named none. -/
def Dev.commitCand (d : Dev) (c : Cand) : Dev :=
  let e := d.entry c.bin
  let (old, d1) := if entState e == 1#2 then (arg32 (entAddr e), d) else d.free 32
  let counts := [0, 1, 2, 3].foldl (fun e g =>
    entPut e (80 + 8 * g) (BitVec.ofNat 8 ((c.tiles.filter (fun t => t.1.toNat == g)).length))) e
  let e1 := entPut (entPut (entPut (entPut counts 0 (c.bin.extractLsb' 17 15)) 15 1#2) 55 c.block) 112
    (if c.blend then satInc (entPass e) else 1#6)
  (d1.setEntry c.bin (entPut e1 118 0#8)).raise0 0x9005#16 [c.bin, old, arg32 c.block]

/-- The candidate's block is handed back. -/
def Dev.discardCand (d : Dev) (c : Cand) : Dev := d.raise0 0x9006#16 [c.bin, arg32 c.block]

/-- AGE of a bin that falls due without a commit. Assumption 70 (DESIGN CHOICE): unsafe. -/
def Dev.ageBin (d : Dev) (b : W32) : Dev :=
  let e := d.entry b
  if entValid e b then d.setEntry b (entPut e 118 (satInc (entAge e))) else d

/-- A bin falls due: its candidate, if it has one, is decided or joins the pending list. -/
def Dev.binDue (d : Dev) (b : W32) : Dev :=
  let d0 := d.modRoute (fun r => { r with past := r.past.filter (fun x => x != b), cands := r.cands.filter (fun c => c.bin != b) })
  match d.route.cands.find? (fun c => c.bin == b) with
  | none => if d.route.past.contains b then d0.ageBin b else d0
  | some c =>
    if d.candHost c then
      if d.route.pend.length < 256 then (d0.modRoute (fun r => { r with pend := r.pend ++ [c] })).ageBin b
      else ((d0.discardCand c).modRoute (fun r => { r with candDrop := satInc r.candDrop })).ageBin b
    else if d.candWhole c && !c.tainted then d0.commitCand c
    else (d0.discardCand c).ageBin b

/-- The predicted position has moved COMMITLAG bins past a bin. -/
def Dev.binPassed (d : Dev) (b : W32) : Bool :=
  let r := d.route
  let at_ := r.last.at d.ptpNow.toNat / (r.binMm * 1000000000)
  r.pstate == .tracking && decide ((r.commitlag.toNat : Int) ≤ dirOf r.last.rev * (at_ - b.toNat))

/-- CANDIDATE_DUE. -/
def candidateDue (b : W32) (d : Dev) : Dev := if d.route.en && d.binPassed b then d.binDue b else d
def execCandidateDue (b : W32) (s : State) : Ans := .next { s with dev := candidateDue b s.dev }

/-- A write of RTE_DECIDE that does not act. -/
def Dev.rteReject (d : Dev) : Dev := d.modRoute (fun r => { r with rej := satInc r.rej })

/-- A decision on the oldest pending candidate (R360). -/
def Dev.rteDecide (d : Dev) (f : Cand → Dev → Dev) : Dev :=
  match d.route.pend with
  | [] => d.rteReject
  | c :: t => if d.candHost c then f c (d.modRoute (fun r => { r with pend := t })) else d.rteReject

/-- RTE_DECIDE_COMMIT. -/
def execRteDecideCommit (s : State) : Ans := .next (hostWrite (fun d => d.rteDecide (fun c d => d.commitCand c)) s)
/-- RTE_DECIDE_DISCARD. -/
def execRteDecideDiscard (s : State) : Ans := .next (hostWrite (fun d => d.rteDecide (fun c d => d.discardCand c)) s)

/-! ## Passes (R351, R355, R359) -/

/-- PASS_OPEN. Assumption 71 (DESIGN CHOICE): unsafe. -/
def passOpen (d : Dev) : Dev :=
  if d.route.passOpen then d
  else d.modRoute (fun r => { r with passOpen := true, passno := satInc r.passno, uncEvt := false })
def execPassOpen (s : State) : Ans := .next (hostWrite passOpen s)

/-- PASS_CLOSE: every bin of the pass falls due. -/
def passClose (d : Dev) : Dev :=
  if !d.route.passOpen then d
  else
    let d1 := d.modRoute (fun r => { r with passOpen := false })
    (d.route.cands.map (fun c => c.bin) ++ d.route.past).foldl (fun d b => d.binDue b) d1
def execPassClose (s : State) : Ans := .next (hostWrite passClose s)

/-- Discard every open candidate. -/
def Dev.dropCands (d : Dev) : Dev :=
  d.route.cands.foldl (fun d c => d.discardCand c) (d.modRoute (fun r => { r with cands := [], candIn := [], past := [] }))

/-- PASS_ABORT. -/
def passAbort (d : Dev) : Dev := if d.route.passOpen then (d.modRoute (fun r => { r with passOpen := false })).dropCands else d
def execPassAbort (s : State) : Ans := .next (hostWrite passAbort s)

/-! ## The candidate writer (R352 to R354) -/

def Dev.candIn (d : Dev) (q : QueueId) : CandIn := tblGet {} d.route.candIn q.toNat
def Dev.modCandIn (d : Dev) (q : QueueId) (f : CandIn → CandIn) : Dev :=
  d.modRoute (fun r => { r with candIn := tblMod {} r.candIn q.toNat f })

/-- The bin that a tag means: of those with its BINLO the nearest to the group's last list.
Assumption 68 (DESIGN CHOICE): unsafe. -/
def fullBin (near : Int) (lo : BitVec 14) : Int := near + ((lo.toNat - near + 8192) % 16384 - 8192)

/-- The group that a candidate edge serves, the tag's when it names one that does. -/
def Dev.edgeGroup (d : Dev) (q : QueueId) (g : BitVec 2) : Option (BitVec 2 × RefGroup) :=
  let l := d.refGroups.filter (fun e => e.2.img.cands.contains q)
  (l.find? (fun e => e.1 == g)).orElse (fun _ => l.head?)

/-- The bin's open candidate, or a new one with a block from the FIFO; none when there is no block or no room (R354). -/
def Dev.candBlock (d : Dev) (b : W32) : Option (BitVec 25) × Dev :=
  match d.route.cands.find? (fun c => c.bin == b) with
  | some c => (some c.block, d)
  | none =>
    match d.route.free with
    | f :: t =>
      if 256 ≤ d.route.cands.length then (none, d)
      else (some f, d.modRoute (fun r => { r with free := t, cands := r.cands ++ [{ bin := b, block := f }] }))
    | [] => (none, d)

/-- Flags of the frame that taint its candidate (R353). -/
def taints (flags : Byte) (blend : Bool) : Bool := flags &&& 3#8 != 0#8 || (blend && flags &&& 12#8 != 0#8)

/-- Change a bin's open candidate. Assumption 69 (DEDUCED): unsafe. -/
def Route.modCand (r : Route) (b : W32) (f : Cand → Cand) : Route :=
  { r with cands := r.cands.map (fun c => if c.bin == b then f c else c) }

/-- The tag of a slot: an empty slot, one of no pass and one without a block are passed over.
Assumption 67 (DESIGN CHOICE): unsafe. -/
def Dev.candTag (d : Dev) (q : QueueId) (w : QWord) : Dev :=
  match d.edgeGroup q (w.payload.extractLsb' 46 2) with
  | none => d
  | some (g, x) =>
    let i : Byte := w.payload.extractLsb' 48 8
    let blend := w.payload.extractLsb' 58 2 == 2#2
    let bin := fullBin x.lastFirst (w.payload.extractLsb' 32 14)
    let b : W32 := BitVec.ofInt 32 bin
    let begin_ (d : Dev) (a : Option Nat) : Dev :=
      d.modCandIn q (fun c => { c with left := 64 * x.img.tsize, addr := a, held := [], bin := b, group := g, tile := i })
    if w.kind != .data || w.payload.extractLsb' 56 2 != 0#2 || bin < 0 || x.img.tpb ≤ i.toNat || !d.route.en || !d.route.passOpen then
      begin_ d none
    else
      match d.candBlock b with
      | (none, _) => (begin_ d none).modRoute (fun r => { r with candDrop := satInc r.candDrop })
      | (some blk, d1) =>
        begin_ (d1.modRoute (fun r => r.modCand b (fun c =>
          { c with blend := c.blend || blend, tainted := c.tainted || taints (d.candIn q).flags blend })))
          (some (d.tileAddr blk g x i.toNat))

/-- A burst of a candidate tile is written (class 2); one that faults taints the candidate (Table 11-7). -/
def Dev.candBurst (d : Dev) (q : QueueId) (b : W32) (a : Nat) (ws : List W64) : Dev :=
  match d.causeFor .route (partOfQueue q) a true, locate d.die1 a with
  | none, some pl => (d.writeBytes a (ws.flatMap bytes64)).countBurst (pl.1 / 96) 2#2
  | _, _ => (d.tfault .route (partOfQueue q) a).modRoute (fun r => r.modCand b (fun c => { c with tainted := true }))

/-- A data word of a slot; the last one ends the tile. -/
def Dev.candData (d : Dev) (q : QueueId) (w : QWord) : Dev :=
  let c := d.candIn q
  let held := c.held ++ [w.payload]
  let full := held.length == 64
  let d1 := match c.addr with
    | some a => if full then d.candBurst q c.bin a held else d
    | none => d
  let d2 := if c.left == 1 && c.addr.isSome then
      d1.modRoute (fun r => r.modCand c.bin (fun k =>
        { k with tiles := if k.tiles.contains (c.group, c.tile) then k.tiles else k.tiles ++ [(c.group, c.tile)] })) else d1
  d2.modCandIn q (fun c => { c with left := c.left - 1, addr := c.addr.map (fun a => if full then a + 512 else a),
                                    held := if full then [] else held })

/-- One word of a candidate edge: a marker gives the frame's flags and ends a slot cut short; headers hold nothing of a slot. -/
def Dev.candWord (d : Dev) (q : QueueId) (w : QWord) : Dev :=
  if w.isStart then d.modCandIn q (fun _ => { flags := w.flags })
  else if w.kind == .marker || w.kind == .header then d
  else if (d.candIn q).left == 0 then d.candTag q w
  else d.candData q w

/-- The candidate writer reads up to the end of a slot. -/
def Dev.candRun (d : Dev) (q : QueueId) (r : BitVec 10) : Nat → Dev
  | 0 => d
  | n + 1 =>
    match d.peek q r with
    | .word w | .gap w =>
      let d1 := (d.seqRead q r).candWord q w
      if w.kind != .marker && (d1.candIn q).left == 0 then d1 else d1.candRun q r n
    | .stale => (d.epochDrop q r).candRun q r n
    | _ => d

/-- CANDIDATE_TILE_WRITE: the writer takes what has come of the next slot of a candidate edge. -/
def candidateTile (q : QueueId) (r : BitVec 10) (d : Dev) : Dev :=
  if d.refGroups.any (fun e => e.2.img.cands.contains q) then d.candRun q r ((d.queue q).total + 1) else d
def execCandidateTileWrite (q : QueueId) (r : BitVec 10) (s : State) : Ans := .next { s with dev := candidateTile q r s.dev }

/-! ## Registers of the RTE block (R357, R358, R360) -/

/-- RTE_FREE_WRITE. -/
def freeWrite (v : W32) (d : Dev) : Dev :=
  if 256 ≤ d.route.free.length then d.rteReject else d.modRoute (fun r => { r with free := r.free ++ [v.extractLsb' 0 25] })
def execRteFreeWrite (v : W32) (s : State) : Ans := .next (hostWrite (freeWrite v) s)

/-- Tags of the tiles issued and not yet delivered. -/
def Dev.undelivered (d : Dev) : List W64 :=
  d.refGroups.flatMap (fun e => (e.2.tiles.filter (fun t => t.got == 0)).map (fun t => t.tag e.1))

/-- RTE_RETIRE_WRITE. -/
def retireWrite (v : W32) (d : Dev) : Dev :=
  d.modRoute (fun r => { r with retire := v.extractLsb' 0 16, retirePend := true, retireTiles := d.undelivered })
def execRteRetireWrite (v : W32) (s : State) : Ans := .next (hostWrite (retireWrite v) s)

/-- RETIRE_COMPLETE: every tile issued before the token was written has been delivered or cancelled; candidate tiles are written
as they are received. -/
def retireComplete (d : Dev) : Dev :=
  if d.route.retirePend && d.undelivered.all (fun t => !d.route.retireTiles.contains t) then
    d.modRoute (fun r => { r with retired := r.retire, retirePend := false, retireTiles := [] })
  else d
def execRetireComplete (s : State) : Ans := .next { s with dev := retireComplete s.dev }

/-- EN is cleared (R342, Table 9-6): issue stops, undelivered tiles are cancelled, open candidates are discarded. -/
def Dev.rteOff (d : Dev) : Dev :=
  (d.cancelAll.dropCands).modRoute (fun r =>
    { r with pstate := .idle, groups := tblMap none r.groups (fun _ o => o.map (fun g => { g with lists := [], lastFrame := none, firstOff := none })) })

/-- RTE_CTRL_WRITE: BINLEN, HORIZON and POSLANE keep their values while EN is 1. Assumption 153 (DEDUCED): unsafe. -/
def rteCtrl (v : W32) (d : Dev) : Dev :=
  let r := d.route
  let lane : PartId := v.extractLsb' 3 5
  let bl : BitVec 6 := v.extractLsb' 8 6
  let hz : BitVec 6 := v.extractLsb' 14 6
  let gated := r.en && (lane != r.poslane || bl != r.binlen || hz != r.horizon)
  let d1 := d.modRoute (fun r => { r with
    en := v.getLsbD 0, laneEn := v.getLsbD 1, hostEn := v.getLsbD 2, commitlag := v.extractLsb' 20 8,
    poslane := if r.en then r.poslane else lane, binlen := if r.en then r.binlen else bl, horizon := if r.en then r.horizon else hz })
  let d2 := if gated then d1.rteReject else d1
  if r.en && !v.getLsbD 0 then d2.rteOff else d2
def execRteCtrlWrite (v : W32) (s : State) : Ans := .next (hostWrite (rteCtrl v) s)

/-- RTE_PRED_WRITE: POS_TO keeps its value while EN is 1. Assumption 153 (DEDUCED): unsafe. -/
def rtePred (v : W32) (d : Dev) : Dev :=
  let r := d.route
  let d1 := d.modRoute (fun r => { r with corrTh := v.extractLsb' 0 16, posTo := if r.en then r.posTo else v.extractLsb' 16 16 })
  if r.en && v.extractLsb' 16 16 != r.posTo then d1.rteReject else d1
def execRtePredWrite (v : W32) (s : State) : Ans := .next (hostWrite (rtePred v) s)

end Sys2Proof.Machine
end

