-- ==== Sys2Proof/Machine/Ageing.lean ====
section
/-! DEFINITION. The management controller's watchdog (R524 to R526), the patina monitors, margins and derating (R532 to R536), and the
AVS setpoints over PMBus (R534, R543). -/
namespace Sys2Proof.Machine

open Sys2Proof

/-! ## The watchdog (R524 to R526) -/

/-- Firmware runs. -/
def Dev.fwRuns (d : Dev) : Bool := d.pwr.fwUp && !d.health.fwDown && !d.health.wdHeld

/-- Ten minutes of TIME. -/
def tenMinutes : Nat := 180000000000

/-- Expiries within the last ten minutes, this one first. -/
def Health.recent (h : Health) (now : BitVec 48) : List (BitVec 48) :=
  now :: h.wdTimes.filter (fun t => (now - t).toNat < tenMinutes)

/-- The firmware bank that does not run verifies (R301). -/
def Store.otherVerifies (st : Store) : Bool :=
  match (if st.runB then st.bankA else st.bankB) with | some f => verifyFw st f == 0#16 | none => false

/-- The watchdog expires: the controller is reset alone; at the third expiry within ten minutes the other bank is started if it
verifies, at three more the controller is held. Assumption 95 (DESIGN CHOICE): unsafe. -/
def wdExpire (sig : W32) (s : State) : State :=
  let d := s.dev
  if !d.fwRuns then s
  else
    let l := d.health.recent d.time
    let third := 3 ≤ l.length
    let change : Bool := decide third && !d.health.wdSwitched && s.store.otherVerifies
    { s with
      dev := d.modHealth (fun h =>
        { h with wdCnt := satInc h.wdCnt, wdSig := sig, fwDown := true, wdTimes := if third then [] else l,
                 wdHeld := decide third && h.wdSwitched, wdSwitched := h.wdSwitched || decide third,
                 bankChg := if change then satInc h.bankChg else h.bankChg }),
      store := if change then { s.store with runB := !s.store.runB } else s.store }

/-- WATCHDOG_KICK: a kick in its window with the expected signature; any other expires the watchdog. -/
def watchdogKick (sig : W32) (ms : Nat) (s : State) : State :=
  if 50 ≤ ms && ms ≤ 100 && sig == s.dev.health.wdExpected then s else wdExpire sig s
def execWatchdogKick (sig : W32) (ms : Nat) (s : State) : Ans := .next (watchdogKick sig ms s)

/-- WATCHDOG_EXPIRE: the kick is missing. -/
def execWatchdogExpire (sig : W32) (s : State) : Ans := .next (wdExpire sig s)

/-- Firmware starts: the signature that it is to give is written and locked. Assumption 113 (DESIGN CHOICE): safe. -/
def Dev.fwStart (d : Dev) : Dev :=
  let (w, d1) := d.free 32
  d1.modHealth (fun h => { h with fwDown := false, wdExpected := w })

/-- Castings that a restart of firmware ends (Table 8-13); in bring-up the one in hand is run once more (R489). -/
def Dev.castingsEnd (d : Dev) (st : Store) : Dev :=
  let ns := allNets.filter (fun n => (d.net n).casting.isSome)
  ns.foldl (fun d n =>
    let again := d.pwr.stage == 7#4 && d.pwr.aborts == 0 && (match d.pwr.bootNets with | (m, _) :: _ => m == n | [] => false)
    let slot := match (d.net n).casting with | some k => k.slot | none => 0#3
    let noChase := match (d.net n).casting with | some k => k.noChase | none => false
    let d1 := d.castAbort n 108 (arg32 n)
    match (if again then tblGet none st.slots slot.toNat else none) with
    | none => d1
    | some t =>
      match t.nets.find? (fun im => im.num == n) with
      | none => d1
      | some im => ((d1.castNets st slot t [im] none noChase).2).modPwr (fun w => { w with aborts := w.aborts + 1 })) d

/-- Mailbox commands that a restart of firmware ends (Table 13-18): the short one with RESULT 0xC, the long ones with their event. -/
def Dev.mailboxEnd (d : Dev) : Dev :=
  let d1 := if d.mbx.busy then d.mbxAnswer 12#16 else d
  let d2 := d.mbx.longs.foldl (fun d l => d.raiseAux 0x5008#16 l.tag [l.opc.setWidth 32, 12#32]) d1
  (d2.modMbx (fun m => { m with longs := [] })).modHealth (fun h => { h with retest := [], retestAll := false })

/-- FIRMWARE_RESTART (R525): from the running bank, without the defaults. A stage of bring-up begins again. -/
def firmwareRestart (s : State) : State :=
  let d := s.dev
  if !d.health.fwDown || d.health.wdHeld then s
  else
    let d1 := d.fwStart.raise0 0x1006#16 [d.health.wdSig]
    let d2 := (d1.castingsEnd s.store).mailboxEnd
    { s with dev := d2.modPwr (fun w => { w with restart := w.restart || w.stage != 15#4 }) }
def execFirmwareRestart (s : State) : Ans := .next (firmwareRestart s)

/-! ## Patina monitors (R532) -/

/-- Nanoseconds of a day. -/
def dayNs : Nat := 86400000000000

/-- The daily record of a partition: the first oscillator sample of a day; the last 4,096 days are kept. -/
def Health.daily (h : Health) (p : PartId) (day : Nat) (drift : W16) : Health :=
  if h.patina.any (fun e => e.1 == p && e.2.1 == day) then h
  else { h with patina := (p, day, drift) :: h.patina.filter (fun e => e.1 != p || day < 4096 + e.2.1) }

/-- PATINA_SAMPLE: a monitor's reading with its temperature and normalised value, and the rail voltage, which no register shows: a
free value. Assumption 152 (DESIGN CHOICE): safe. -/
def patinaSample (p : PartId) (m : BitVec 2) (raw : BitVec 20) (temp : Byte) (norm : W16) (d : Dev) : Dev :=
  if !d.fwRuns || !d.diePresent (dieOfPart p) then d
  else
    let (mv, d0) := d.free 16
    let d1 := d0.modPart p (fun x => { x with mons := x.mons.set m.toNat { raw := raw, temp := temp, norm := norm, rail := mv } })
    if m.toNat < 2 then d1.modHealth (fun h => h.daily p (d.ptpNow.toNat / dayNs) norm) else d1
def execPatinaSample (p : PartId) (m : BitVec 2) (raw : BitVec 20) (temp : Byte) (norm : W16) (s : State) : Ans :=
  .next { s with dev := patinaSample p m raw temp norm s.dev }

/-! ## Margins and derating (R533 to R536) -/

/-- The new margin for an hourly mean slack below 25 ps, `ks` ps being gained per 5 mV (R533). -/
def newMargin (old : Byte) (slack : Int) (ks : Nat) : Nat :=
  min 255 (old.toNat + 5 * (((25 - slack).toNat + max ks 1 - 1) / max ks 1))

/-- A margin takes effect. -/
def Dev.applyMargin (d : Dev) (p : PartId) (m : Byte) : Dev := d.modPart p (fun x => { x with margin := m, propValid := false })

/-- A partition is derated: it requests /5 (R535). -/
def Dev.derate (d : Dev) (p : PartId) : Dev :=
  d.modPart p (fun x => ({ x with derated := true, derProp := false } : Partition).request)

/-- MARGIN_PLAN: the hourly mean of the lower replica slack of a partition, in ps, and the plan that it calls for.
Assumption 96 (DESIGN CHOICE): unsafe. -/
def marginPlan (p : PartId) (slack : Int) (ks : Nat) (d : Dev) : Dev :=
  if !d.fwRuns || !d.diePresent (dieOfPart p) then d
  else
    let d1 := d.modPart p (fun x => { x with slack := BitVec.ofInt 16 slack })
    let x := d.part p
    let die := d.die (dieOfPart p)
    let m := newMargin x.margin slack ks
    let host := d.hostMode p 5
    let dom : W32 := if host then 0x80000000#32 ||| arg32 p else arg32 p
    if 25 ≤ slack || x.derated then d1
    else if die.vmax.toNat < die.vbase.toNat + m then
      (if host then d1.modPart p (fun x => { x with derProp := true }) else d1.derate p).raise 0x2007#16 p [dom]
    else
      (if host then d1.modPart p (fun x => { x with proposed := BitVec.ofNat 8 m, propValid := true })
        else d1.applyMargin p (BitVec.ofNat 8 m)).raise 0x2006#16 p [dom, BitVec.ofNat 32 m]
def execMarginPlan (p : PartId) (slack : Int) (ks : Nat) (s : State) : Ans := .next { s with dev := marginPlan p slack ks s.dev }

/-- A plan that waits for the host is applied. -/
def Dev.applyPlan (d : Dev) (p : PartId) : Dev :=
  let x := d.part p
  let d1 := if x.propValid then d.applyMargin p x.proposed else d
  if x.derProp then d1.derate p else d1

/-- P_MCMD_APPLY. -/
def mcmdApply (p : PartId) (d : Dev) : Dev := if (d.part p).propValid || (d.part p).derProp then d.applyPlan p else d.rstReject
def execPMcmdApply (p : PartId) (s : State) : Ans := .next (hostWritePart p (mcmdApply p) s)

/-- P_MCMD_REJECT: the plan is dropped. -/
def mcmdReject (p : PartId) (d : Dev) : Dev :=
  if (d.part p).propValid || (d.part p).derProp then d.modPart p (fun x => { x with propValid := false, derProp := false }) else d.rstReject
def execPMcmdReject (p : PartId) (s : State) : Ans := .next (hostWritePart p (mcmdReject p) s)

/-! ## AVS setpoints (R534, R542, R543) -/

/-- The PMBus address of a target (R543): the base that the straps select, plus its number. -/
def pmbAddr (strap : BitVec 2) (n : Nat) : Nat := 0x40 + 8 * strap.toNat + n

/-- The largest margin among a die's partitions that are not derated. -/
def Dev.dieMargin (d : Dev) (i : Nat) : Nat :=
  ((partsOfDie i).filter (fun p => !(d.part p).derated)).foldl (fun m p => max m (d.part p).margin.toNat) 0

/-- The setpoint that firmware brings a die to, within the range of R543. -/
def Dev.avsTarget (d : Dev) (i : Nat) : Nat := max 700 (min 900 ((d.die i).vbase.toNat + d.dieMargin i))

/-- The next setpoint on the way: at most 10 mV from the one in force. -/
def avsNext (now target : Nat) : Nat := if now < target then min target (now + 10) else max target (now - 10)

/-- The regulator has taken a setpoint: for 1 ms the monitor takes the lower of the old and the new one. -/
def Die.taken (x : Die) (v : W16) : Die :=
  { x with avs := v, unackedAvs := none, monitorAvs := if v.toNat < x.avs.toNat then v else x.avs }

/-- AVS_STEP: firmware sends the next setpoint; without an acknowledgement AVS_SET stays. -/
def avsStep (i : Fin 2) (ack : Bool) (d : Dev) : Dev :=
  let x := d.die i.val
  let v := avsNext x.avs.toNat (d.avsTarget i.val)
  if !d.fwRuns || !d.diePresent i.val || !x.railOn || x.unackedAvs.isSome || v == x.avs.toNat then d
  else d.modDie i.val (fun x => if ack then x.taken (BitVec.ofNat 16 v) else { x with unackedAvs := some (BitVec.ofNat 16 v) })
def execAvsStep (i : Fin 2) (ack : Bool) (s : State) : Ans := .next { s with dev := avsStep i ack s.dev }

/-- AVS_STEP_SETTLE: the 1 ms of a step is over. -/
def avsSettle (i : Fin 2) (d : Dev) : Dev := d.modDie i.val (fun x => { x with monitorAvs := x.avs })
def execAvsStepSettle (i : Fin 2) (s : State) : Ans := .next { s with dev := avsSettle i s.dev }

/-- PMBUS_RETRY: a setpoint not acknowledged is sent again. -/
def pmbusRetry (i : Fin 2) (ack : Bool) (d : Dev) : Dev :=
  match (d.die i.val).unackedAvs with
  | none => d
  | some v => if ack && d.fwRuns then d.modDie i.val (fun x => x.taken v) else d
def execPmbusRetry (i : Fin 2) (ack : Bool) (s : State) : Ans := .next { s with dev := pmbusRetry i ack s.dev }

/-- PMB_ALERT (Table 16-3): a prompt to read STATUS_WORD, which firmware reads. -/
def pmbAlert (status : W16) (d : Dev) : Dev := if d.fwRuns then { d with pins := { d.pins with pmbStatus := status } } else d
def execPmbAlert (status : W16) (s : State) : Ans := .next { s with dev := pmbAlert status s.dev }

end Sys2Proof.Machine
end

