-- ==== Sys2Proof/Machine/Power.lean ====
section
/-! DEFINITION. Power states of the package and of partitions (R494 to R499), brown-outs (R501 to R504) with BOACK, the supplies
(R546), and the test access port (R554). -/
namespace Sys2Proof.Machine

open Sys2Proof

/-! ## Casting without the host (R481, R497, R504) -/

/-- A casting that step 1 rejects leaves the network held and raises the casting event. -/
def Dev.autoRefused (d : Dev) (n : NetId) (p : PartId) : Dev :=
  (d.modNet n (fun x => { x with held := true, probation := false })).raise 0x5002#16 p
    [1#32, arg32 (d.part p).castErr, (d.part p).castRes, d.health.mapgen]

/-- A network without an image in its slot is left held; no partition names a cause. -/
def Dev.autoAbsent (d : Dev) (n : NetId) : Dev :=
  (d.modNet n (fun x => { x with held := true, probation := false })).raise0 0x5002#16 [1#32, arg32 (castCode 110), arg32 n, d.health.mapgen]

/-- Cast a network from a slot, admission waiting for a maquette frame. -/
def Dev.autoCast (d : Dev) (st : Store) (n : NetId) (slot : BitVec 3) (noChase : Bool) : Dev :=
  match tblGet none st.slots slot.toNat with
  | none => d.autoAbsent n
  | some t =>
    match t.nets.find? (fun im => im.num == n) with
    | none => d.autoAbsent n
    | some im =>
      match d.castNets st slot t [im] none noChase with
      | (0#16, d1) => d1.modNet n (fun x => { x with probation := true, maq := { counter := x.maq.counter } })
      | (_, d1) => d1.autoRefused n (im.parts.headD 0#5)

/-! ## Package standby and deep standby (R497 to R499) -/

/-- The device runs, its bring-up over. -/
def Dev.runningNow (d : Dev) : Bool := d.pwr.state == .running && d.pwr.stage == 15#4

/-- Every cast network drains, recorded to be cast again at wake. -/
def Dev.drainAll (d : Dev) : Dev :=
  (allNets.filter (fun n => d.isCast n && (d.net n).drain.isNone)).foldl (fun d n =>
    (d.startDrain n .standby none).modNet n (fun x => { x with recordAtStandby := true })) d

/-- PWR_CMD 1 to 3: armed and running, or ignored and counted; the write consumes the arming.
Assumption 62 (DESIGN CHOICE): unsafe. -/
def Dev.powerCmd (d : Dev) (st : PwrState) (retain : Bool) : Dev :=
  let d1 := d.modPwr (fun w => { w with armed := false })
  if !d.pwr.armed || !d.runningNow then d1.rstReject
  else (d1.modPwr (fun w => { w with state := st, psret := retain })).drainAll

/-- PACKAGE_STANDBY. -/
def execPackageStandby (s : State) : Ans := .next (hostWritePwr (fun d => d.powerCmd .enterStandby false) s)
/-- DEEP_STANDBY. -/
def execDeepStandby (s : State) : Ans := .next (hostWritePwr (fun d => d.powerCmd .enterDeep false) s)
/-- DEEP_STANDBY_RETAINED. -/
def execDeepStandbyRetained (s : State) : Ans := .next (hostWritePwr (fun d => d.powerCmd .enterDeep true) s)

/-- The domains of a compute die: its partitions' and its armature's. -/
def dieDoms (i : Nat) : List Nat := (partsOfDie i).map (fun p => p.toNat) ++ [32 + i]

/-- What the host wrote to the expert pages of a partition without power is lost: QRSEL, XCFG and OWN_SEL (Table 14-6, row 18). -/
def Dev.forgetSel (d : Dev) (p : PartId) : Dev :=
  { d with
    queues := tblMap {} d.queues (fun i q => if partOfQueue (BitVec.ofNat 13 i) == p then { q with rsel := 0#10 } else q),
    cores := tblMap {} d.cores (fun i k => if partOfCore (BitVec.ofNat 11 i) == p then { k with wdogEn := true, gateEn := true } else k),
    parts := tblMod {} d.parts p.toNat (fun x => { x with ownSel := 0#24 }) }

/-- A compute die is powered off: its partitions become uncast, and what they held is lost (Table 14-6). -/
def Dev.dieOff (d : Dev) (i : Nat) : Dev :=
  let d1 := ((d.cancelDie i).modDie i (fun x => { x with railOn := false }))
  let d2 := (partsOfDie i).foldl (fun d p =>
    if (d.part p).power == .off then d.modPart p Partition.dieReset
    else ((d.uncastPart p).forgetSel p).modPart p Partition.dieReset) d1
  { d2 with
    cores := d2.cores.filter (fun e => dieOfCore (BitVec.ofNat 11 e.1) != i),
    packets := { d2.packets with routers := d2.packets.routers.filter (fun e => !(e.1 / 16 == i && e.1 < 32) && e.1 != 32 + i) },
    doms := (dieDoms i).foldl (fun t k => tblMod {} t k (fun x => { x with gated := true, powered := false, gates := satInc x.gates })) d2.doms }

/-- The compute dies that are present. -/
def Dev.dies_ (d : Dev) : List Nat := if d.die1 then [0, 1] else [0]

/-- Package standby: the compute dies off, contexts unbound, PSRAM in self-refresh. -/
def Dev.standbyNow (d : Dev) : Dev :=
  let ns := allNets.filter (fun n => !(d.partsOfNet n).isEmpty)
  let d1 := d.dies_.foldl (fun d i => d.dieOff i) d
  let d2 := ns.foldl (fun d n => d.bindNet n) d1
  { d2 with chans := (List.range (if d2.die1 then 192 else 96)).foldl (fun t i => tblMod {} t i (fun c => { c with selfRefresh := true })) d2.chans }

/-- The domains that deep standby gates besides those of package standby: the memory rings unless PSRAM is retained, the ingest
engine, and the optical and link domain (Table 1-7). -/
def Dev.deepDoms (d : Dev) : List Nat := (if d.pwr.psret then [] else if d.die1 then [34, 35] else [34]) ++ [37, 38]

/-- What deep standby takes down beyond that: links, the rings, and PSRAM unless it is retained; the
optical rails, and those of PSRAM that is not retained, are switched off where their PMBus target answers (R544, R548). -/
def Dev.deepNow (d : Dev) : Dev :=
  let d1 := (d.standbyNow.psramRest.ringsDown).linksDown
  { d1 with psram := if d.pwr.psret then d1.psram else [], route := { d1.route with index := [] },
            pins := { d1.pins with rails := d1.pins.rails &&& ~~~((if d.pwr.psret then 0xC#4 else 0xF#4) &&& d1.pins.pmbTargets) },
            doms := d.deepDoms.foldl (fun t k => tblMod {} t k (fun x => { x with gated := true, gates := satInc x.gates })) d1.doms }

/-- POWER_STATE_ENTERED: every network has drained. One that came into service meanwhile drains first.
Assumption 119 (DESIGN CHOICE): unsafe. -/
def powerEntered (d : Dev) : Dev :=
  if allNets.any (fun n => (d.net n).drain.isSome || (d.net n).casting.isSome) then d
  else if allNets.any (fun n => d.isCast n && !(d.net n).recordAtStandby) then d.drainAll
  else match d.pwr.state with
    | .enterStandby => d.standbyNow.modPwr (fun w => { w with state := .standby, ready := false })
    | .enterDeep => d.deepNow.modPwr (fun w => { w with state := .deep, ready := false })
    | _ => d
def execPowerStateEntered (s : State) : Ans := .next { s with dev := powerEntered s.dev }

/-- The networks recorded at entry, with their slots, in ascending order. -/
def Dev.recorded (d : Dev) : List (NetId × BitVec 3) :=
  (allNets.filter (fun n => (d.net n).recordAtStandby)).map (fun n => (n, (d.net n).slot))

/-- Wake from package standby: the dies powered, stages 4 to 9 of the fast path for the recorded networks. -/
def Dev.wakeNow (d : Dev) : Dev :=
  let d1 := d.dies_.foldl (fun d i => d.modDie i (fun x => { x with railOn := true, inReset := false })) d
  let d2 := { d1 with
    doms := (d1.dies_.flatMap d1.dieWakes).foldl (fun t k => tblMod {} t k (fun x => { x with gated := false, powered := true })) d1.doms,
    nets := tblMap {} d1.nets (fun _ x => { x with recordAtStandby := false }) }
  (d2.modPwr (fun w => { w with state := .waking, stage := 4#4, fast := true, bootUs := 0, firstFail := 0#4, bootNets := d.recorded,
                                aborts := 0, restart := false })).modHealth (fun h => { h with bootlog := [] :: h.bootlog.take 3 })

/-- WAKE: from deep standby it acts as a package warm reset; elsewhere it is ignored and counted, as is one that would release the
compute dies during a loss of the root clock (R54). Assumption 138 (DESIGN CHOICE): unsafe. -/
def wake (d : Dev) : Dev :=
  match d.pwr.state with
  | .standby => if d.pll.lossOn then d.rstReject else d.wakeNow
  | .deep => (d.warmReset 0#3).modPwr (fun w => { w with fullTrain := !d.pwr.psret })
  | _ => d.rstReject
def execWake (s : State) : Ans := .next (hostWritePwr wake s)

/-! ## Partition power (R495, R496) -/

/-- P_PWR_RETENTION: a partition of a stopped network. -/
def pwrRetention (p : PartId) (d : Dev) : Dev :=
  let x := d.part p
  if x.cast == .stopped && x.power == .on && x.powerTo.isNone && !x.inReset && (d.net x.net).drain.isNone then
    d.modPart p (fun x => { x with powerTo := some .retention, pwrReq := 1#2 })
  else d.rstReject
def execPPwrRetention (p : PartId) (s : State) : Ans := .next (hostWritePart p (pwrRetention p) s)

/-- P_PWR_OFF: an uncast partition or one held after an abort. -/
def pwrOff (p : PartId) (d : Dev) : Dev :=
  let x := d.part p
  if (x.cast == .uncast || x.cast == .heldAbort) && x.power == .on && x.powerTo.isNone && (d.net x.net).casting.isNone then
    d.modPart p (fun x => { x with powerTo := some .off, pwrReq := 2#2 })
  else d.rstReject
def execPPwrOff (p : PartId) (s : State) : Ans := .next (hostWritePart p (pwrOff p) s)

/-- P_PWR_ON: the exit from retention or from off begins; on a partition that is on it changes nothing. -/
def pwrOn (p : PartId) (d : Dev) : Dev :=
  let x := d.part p
  if x.powerTo.isSome then d.rstReject
  else if x.power == .on then d
  else { d.modPart p (fun x => { x with powerTo := some .on, pwrReq := 0#2 }) with
    doms := tblMod {} d.doms p.toNat (fun m => { m with gated := false, powered := true }) }
def execPPwrOn (p : PartId) (s : State) : Ans := .next (hostWritePart p (pwrOn p) s)

/-- PARTITION_POWER_TRANSITION_DONE: an entry into retention or off ends, or the exit from off, which takes a brown-out warning in
force (R48). -/
def powerDone (p : PartId) (d : Dev) : Dev :=
  let gate (d : Dev) (on : Bool) : Dev :=
    { d with doms := tblMod {} d.doms p.toNat (fun m => { m with gated := true, powered := on, gates := satInc m.gates }) }
  match (d.part p).powerTo, (d.part p).power with
  | some .retention, _ =>
    gate ((d.modPart p (fun x =>
      { x with power := .retention, powerTo := none, shut := true, scrubbing := false, retEntries := satInc x.retEntries })).boundaryDown p) true
  | some .off, _ =>
    let n := (d.part p).net
    gate ((((d.uncastPart p).forgetSel p).modPart p (fun x => { x with power := .off, powerTo := none, regions := [] })).bindNet n) false
  | some .on, .off =>
    let warn := (d.die (dieOfPart p)).warn
    d.modPart p (fun x => ({ x with power := .on, powerTo := none, bow := warn } : Partition).request)
  | _, _ => d
def execPartitionPowerTransitionDone (p : PartId) (s : State) : Ans := .next { s with dev := powerDone p s.dev }

/-- RETENTION_EXIT_CHECK: with every value equal the partition is stopped again, else it is held after abort. A brown-out warning
that lasts, and a derating, take effect now (Tables 14-9 and 15-3). Assumption 123 (DESIGN CHOICE): unsafe. -/
def retentionExit (p : PartId) (ok : Bool) (d : Dev) : Dev :=
  let x := d.part p
  if x.powerTo != some .on || x.power != .retention then d
  else
    let warn := (d.die (dieOfPart p)).warn
    let d1 := d.modPart p (fun x => ({ x with power := .on, powerTo := none, checkFail := !ok, bow := x.bow || warn } : Partition).request)
    if ok then d1
    else (d1.modPart p (fun x => { x with cast := .heldAbort, castErr := castCode 109, castStep := 9#4, castRes := arg32 p })).raise 0x5002#16 p
      [9#32, arg32 (castCode 109), arg32 p, d.health.mapgen]
def execRetentionExitCheck (p : PartId) (ok : Bool) (s : State) : Ans := .next { s with dev := retentionExit p ok s.dev }

/-! ## Brown-out (R501 to R504) -/

/-- The die's monitor is read: the die is present, its rail on, and the root clock runs (Table 14-9). -/
def Dev.monitored (d : Dev) (i : Nat) : Bool :=
  d.diePresent i && (d.die i).railOn && !d.pll.lossOn && !d.pwr.resetHeld && !d.pwr.supplyFail

/-- The lower of two samples. -/
def minW (a b : W16) : W16 := if a.toNat ≤ b.toNat then a else b

/-- A sample below the warning level: a new episode, or another low sample of the one in force. -/
def Dev.warnDie (d : Dev) (i : Nat) (mv : W16) : Dev :=
  if (d.die i).warn then d.modDie i (fun x => { x with boMin := minW x.boMin mv })
  else
    let d1 := d.modDie i (fun x => { x with warn := true, episode := true, boMin := mv, warns := satInc x.warns })
    d1.modParts ((partsOfDie i).filter (fun p => (d.part p).power == .on)) (fun x => ({ x with bow := true } : Partition).request)

/-- BROWNOUT_WARNING: a sample below 0.95 × AVS_SET. -/
def brownWarning (i : Fin 2) (mv : W16) (d : Dev) : Dev :=
  if d.monitored i.val && mv.toNat * 100 < 95 * (d.die i.val).monitorAvs.toNat then d.warnDie i.val mv else d
def execBrownoutWarning (i : Fin 2) (mv : W16) (s : State) : Ans := .next { s with dev := brownWarning i mv s.dev }

/-- BROWNOUT_WARNING_REPORT: the event, with the lowest sample of the first 2 µs. -/
def brownReport (i : Fin 2) (mv : W16) (d : Dev) : Dev :=
  if (d.die i.val).warn then (d.modDie i.val (fun x => { x with boMin := minW x.boMin mv })).raise0 0x1002#16 [arg32 mv] else d
def execBrownoutWarningReport (i : Fin 2) (mv : W16) (s : State) : Ans := .next { s with dev := brownReport i mv s.dev }

/-- A partition at the recovery of its die: its /8 request ends in hardware mode, and waits for BOACK in host-assisted mode, as
does the casting of a network that a reset of the die took from service. -/
def Dev.recoverPart (d : Dev) (p : PartId) (waits : Bool) : Dev :=
  if waits then d.modPart p (fun x => { x with awaitAck := true })
  else if !(d.part p).bow then d
  else if d.hostMode p 9 then d.modPart p (fun x => { x with awaitAck := true })
  else d.modPart p (fun x => ({ x with bow := false, awaitAck := false } : Partition).request)

/-- BROWNOUT_RECOVERY: after `us` µs from the first low sample. A die held at the reset level leaves it and its armature is tested. -/
def brownRecovery (i : Fin 2) (us : W32) (d : Dev) : Dev :=
  let x := d.die i.val
  if !d.monitored i.val || !(x.warn || x.resetLvl) then d
  else
    let d1 := (d.modDie i.val (fun x => { x with warn := false, dur := us, resetLvl := false, testing := x.testing || x.resetLvl })).raise0
      0x1003#16 [us]
    (partsOfDie i.val).foldl (fun d p => d.recoverPart p (x.recastNets.any (fun e => e.2.1 == p && e.2.2))) d1
def execBrownoutRecovery (i : Fin 2) (us : W32) (s : State) : Ans := .next { s with dev := brownRecovery i us s.dev }

/-- Networks to cast again after a brown-out reset of a die. -/
def Dev.toRecast (d : Dev) (i : Nat) : List (NetId × PartId × Bool) :=
  (d.netsOfDie i).filterMap (fun n =>
    match (d.partsOfNet n).find? (fun p => dieOfPart p == i) with
    | some p => if d.isCast n || (d.net n).casting.isSome then some (n, p, d.hostMode p 9) else none
    | none => none)

/-- BROWNOUT_RESET: a sample below 0.90 × AVS_SET. Assumption 120 (DESIGN CHOICE): unsafe. -/
def brownReset (i : Fin 2) (mv : W16) (d : Dev) : Dev :=
  let x := d.die i.val
  if !d.monitored i.val || x.resetLvl || !(mv.toNat * 100 < 90 * x.monitorAvs.toNat) then d
  else
    let l := d.toRecast i.val
    let d1 := (d.warnDie i.val mv).resetDieNow i.val 2#3
    (d1.modDie i.val (fun x =>
      { x with resetLvl := true, testing := false, resets := satInc x.resets,
               recastNets := x.recastNets.filter (fun e => !l.any (fun y => y.1 == e.1)) ++ l })).raise0 0x1004#16 [arg32 (minW mv (d1.die i.val).boMin)]
def execBrownoutReset (i : Fin 2) (mv : W16) (s : State) : Ans := .next { s with dev := brownReset i mv s.dev }

/-- Cast again the networks of a die that no longer wait. One that the other die, still in reset, is to cast again is left to it. -/
def Dev.recastReady (d : Dev) (st : Store) (i : Nat) : Dev :=
  let o := d.die (1 - i)
  let l := (d.die i).recastNets.filter (fun e => !e.2.2 && !((o.inReset || o.testing) && o.recastNets.any (fun y => y.1 == e.1)))
  let d1 := d.modDie i (fun x => { x with recastNets := x.recastNets.filter (fun e => e.2.2) })
  l.foldl (fun d e => (d.uncastNet e.1).autoCast st e.1 (d.net e.1).slot true) d1

/-- DIE_ARMATURE_TEST_DONE: the die leaves reset, and its networks are cast again. -/
def armatureTested (i : Fin 2) (s : State) : State :=
  let d := s.dev
  if !(d.die i.val).testing then s
  else
    let d1 := (d.modDie i.val (fun x => { x with testing := false, inReset := false })).modPwr (fun w => { w with busy := w.busy.erase (.die i) })
    let d2 := { d1 with doms := (d1.dieWakes i.val).foldl (fun t j => tblMod {} t j (fun x => { x with gated := false })) d1.doms }
    { s with dev := d2.recastReady s.store i.val }
def execDieArmatureTestDone (i : Fin 2) (s : State) : Ans := .next (armatureTested i s)

/-- The partitions of a BOACK that it releases: those that wait, on a die whose recovery condition holds. -/
def Dev.ackable (d : Dev) (mask : W32) : List PartId :=
  allParts.filter (fun p => mask.getLsbD p.toNat && (d.part p).awaitAck && !(d.die (dieOfPart p)).warn && !(d.die (dieOfPart p)).resetLvl)

/-- A partition is released from its wait (R503, R504). -/
def Dev.brownAck (d : Dev) (st : Store) (p : PartId) : Dev :=
  let i := dieOfPart p
  let d1 := (d.modPart p (fun x => ({ x with bow := false, awaitAck := false } : Partition).request)).modDie i (fun x =>
    { x with recastNets := x.recastNets.map (fun e => if e.2.1 == p then (e.1, e.2.1, false) else e) })
  if (d1.die i).inReset || (d1.die i).testing then d1 else d1.recastReady st i

/-- BOACK: a partition that does not wait is ignored; one whose recovery condition is not met counts as RESULT 0xB. -/
def boack (tag : Byte) (mask : W32) : State → State :=
  mbxCommand tag 0x21#8 [(0, mask)] (onDev (fun st d =>
    let late := allParts.any (fun p => mask.getLsbD p.toNat && (d.part p).awaitAck && !(d.ackable mask).contains p)
    shortEnd (if late then 11#16 else 0#16) [] ((d.ackable mask).foldl (fun d p => d.brownAck st p) d)))
def execBoack (tag : Byte) (mask : W32) (s : State) : Ans := .next (boack tag mask s)

/-! ## Supplies (R546) -/

/-- SUPPLY_FAIL: a power-on reset, held. VDD_MR1 is not connected on the HK-W9620 (R560). -/
def supplyFail (r : CoreRail) (d : Dev) : Dev :=
  if r == .vddMr1 && !d.die1 then d else d.powerOn.modPwr (fun w => { w with supplyFail := true, resetHeld := d.pwr.resetHeld })
def execSupplyFail (r : CoreRail) (s : State) : Ans := .next { s with dev := supplyFail r s.dev }

/-- SUPPLY_RESTORED: the device leaves reset, and bring-up begins at stage 1. -/
def supplyRestored (d : Dev) : Dev := d.modPwr (fun w => { w with supplyFail := false })
def execSupplyRestored (s : State) : Ans := .next { s with dev := supplyRestored s.dev }

/-- OPTICAL_RAIL_FAIL: every lane loses its link; no reset follows. -/
def execOpticalRailFail (s : State) : Ans := .next { s with dev := s.dev.linksDown }

/-! ## The test access port (R554) -/

/-- IDCODE of the part. Assumption 122 (PRESUMED): unsafe. -/
def idcode (st : Store) (d : Dev) : W32 :=
  st.factory.revision ++ (if d.die1 then 0x9640#16 else 0x9620#16) ++ 0x53C#11 ++ 1#1

/-- JTAG_BYPASS: a single bit, which captures 0. -/
def execJtagBypass (s : State) : Ans := .next { s with tap := { s.tap with instr := .bypass, dr := 0#32 } }
/-- JTAG_IDCODE. -/
def execJtagIdcode (s : State) : Ans := .next { s with tap := { s.tap with instr := .idcode, dr := idcode s.store s.dev } }
/-- JTAG_SAMPLE_PRELOAD: the state of the signal balls is captured. -/
def execJtagSamplePreload (pins : BitVec 28) (s : State) : Ans := .next { s with tap := { s.tap with instr := .sample, boundary := pins } }
/-- JTAG_EXTEST: the copper signals are taken from the device's control. -/
def execJtagExtest (s : State) : Ans := .next { s with tap := { s.tap with instr := .extest } }

end Sys2Proof.Machine
end

