-- ==== Sys2Proof/Machine/Registers.lean ====
section
/-! DEFINITION. Control space (R461 to R464, R570): what every register of the block map and of the expert pages reads, which of
its bits the host writes, and what a write does; the byte-wise write of R462; P_MODE. -/
namespace Sys2Proof.Machine

open Sys2Proof

/-! ## Fields -/

/-- A field at a bit position. -/
def fld {n : Nat} (x : BitVec n) (lo : Nat) : W32 := x.setWidth 32 <<< lo
/-- A number as a field of `w` bits. -/
def fnat (w k lo : Nat) : W32 := fld (BitVec.ofNat w k) lo
/-- A flag. -/
def flag (b : Bool) (lo : Nat) : W32 := if b then 1#32 <<< lo else 0#32
/-- A field whose 0 reads as 1. Assumption 98 (DESIGN CHOICE): unsafe. -/
def orOne {n : Nat} (x : BitVec n) : BitVec n := if x = 0#n then BitVec.ofNat n 1 else x

/-! ## Which addresses answer -/

/-- Function 1 answers at an address: only the ID block until firmware has started (R459), only the RST and PWR block in deep
standby (R498). -/
def Dev.regAnswers (d : Dev) (a : Nat) : Bool :=
  if d.pwr.resetHeld || d.pwr.supplyFail then false
  else if d.pwr.state == .deep then 0x4000 ≤ a && a < 0x5000
  else a < 0x400 || d.pwr.fwUp

/-- The partition of a PCTL address. -/
def pctlPart (a : Nat) : PartId := BitVec.ofNat 5 (a / 256)

/-- What an expert address belongs to. -/
inductive Expert where
  | core (c : CoreId) | queue (q : QueueId) | census (p : PartId) | armature (p : PartId) | region (p : PartId)
  | monitor (p : PartId) | domain (k : Nat) | none
  deriving DecidableEq, Repr

/-- The place of an offset of an expert page (Table 13-4), with the offset within the unit's registers. -/
def expertAt (page off : Nat) : Expert × Nat :=
  if page = 0 then (.core (BitVec.ofNat 11 (off / 32)), off % 32)
  else if 0x10 ≤ page ∧ page < 0x18 then (.queue (BitVec.ofNat 13 (1024 * page + off / 64)), off % 64)
  else if page = 0x20 ∧ off < 0x400 then (.census (BitVec.ofNat 5 (off / 32)), off % 32)
  else if page = 0x20 ∧ off < 0xC00 then (.armature (BitVec.ofNat 5 (16 + off / 64)), off % 64)
  else if page = 0x21 ∧ off < 0x8000 then (.region (BitVec.ofNat 5 (off / 1024)), off % 1024)
  else if page = 0x40 ∧ off < 0x400 then (.monitor (BitVec.ofNat 5 (off / 32)), off % 32)
  else if page = 0x50 ∧ off < 0x280 then (.domain (off / 16), off % 16)
  else (.none, 0)

/-- The die of an expert unit; the clock and power pages are the plinth's. -/
def Expert.die : Expert → Option Nat
  | .core c => some (dieOfCore c)
  | .queue q => some (dieOfPart (partOfQueue q))
  | .census p | .armature p | .region p | .monitor p => some (dieOfPart p)
  | .domain _ | .none => Option.none

/-- A unit's expert registers are served. -/
def Dev.expertServed (d : Dev) (e : Expert) : Bool := match e.die with | some i => d.expertLive i | none => true

/-- The resource of a function-1 address is present (R6). -/
def Dev.regPresent (d : Dev) (a : Nat) : Bool :=
  if d.die1 then true
  else if 0x2000 ≤ a ∧ a < 0x4000 then dieOfPart (pctlPart a) == 0
  else if 0x4220 ≤ a ∧ a < 0x4240 then false
  else if 0x6400 ≤ a ∧ a < 0x6800 then a < 0x6600
  else if 0xB030 ≤ a ∧ a < 0xB050 then false
  else if 0xB800 ≤ a ∧ a < 0xC000 then a < 0xBC00
  else true

/-! ## What the blocks read -/

/-- The fault status output (R486). Assumption 125 (DESIGN CHOICE): unsafe. -/
def Dev.faultOut (d : Dev) : Bool :=
  d.pwr.stopped || d.pll.lossOn || d.dies.any (fun e => e.2.resetLvl) || d.health.wdHeld

/-- READY_N and FAULT_N pull low when their output is active (R486, R551); they are high-impedance while RESET_N is low and until
bring-up begins (R553), as is each while its output is inactive. -/
def Dev.readyLow (d : Dev) : Bool := !d.pwr.resetHeld && !d.pwr.supplyFail && d.pwr.ready
def Dev.faultLow (d : Dev) : Bool := !d.pwr.resetHeld && !d.pwr.supplyFail && d.faultOut

/-- The version of the firmware that runs. -/
def fwVersion (st : Store) : BitVec 24 := match st.running with | some f => f.version | none => 0#24

/-- ID block (Table 13-5). -/
def idRead (st : Store) (d : Dev) (a : Nat) : W32 :=
  match a with
  | 0x00 => (if d.die1 then 0x9640#32 else 0x9620#32) ||| flag d.l 16
  | 0x04 => fnat 12 st.factory.goodCores 0 ||| fnat 10 st.factory.clkMhz 12 ||| fnat 6 st.factory.lanes 22
  | 0x08 => 1#32 ||| flag d.die1 1 ||| flag d.die1 2 ||| flag (st.factory.pufOk && d.pwr.fwUp) 3
  | 0x0C => if d.pwr.fwUp then fld (fwVersion st) 0 ||| flag st.runB 24 else 0#32
  | 0x10 => fld d.pwr.stage 0 ||| flag d.faultOut 4 ||| flag d.pwr.ready 5 ||| flag (!d.pll.locked) 6
  | 0x14 => d.health.mapgen
  | 0x18 => fld d.xptPage 0
  | 0x1C => flag d.xptWen 0
  | 0x20 => d.xptRej
  | _ => 0#32

/-- MBX block (Table 13-8). -/
def mbxRead (d : Dev) (a : Nat) : W32 :=
  let m := d.mbx
  match a with
  | 0x404 => flag m.busy 0 ||| flag m.done 1 ||| flag m.ien 2 ||| fnat 3 m.longs.length 3 ||| fld m.tag 8 ||| fld m.result 16
  | 0x408 => m.rej
  | _ =>
    if 0x440 ≤ a ∧ a < 0x480 then tblGet 0#32 m.args (a % 0x40 / 4)
    else if 0x480 ≤ a ∧ a < 0x4A0 then tblGet 0#32 m.res (a % 0x20 / 4)
    else 0#32

/-- Blocks that bytes of an item fill. -/
def blocksOf (n : Nat) : Nat := (n + 479) / 480
/-- Blocks of record data of an output. -/
def Rout.blocks (r : Rout) : Nat :=
  match r.items with
  | [] => 0
  | i :: t => blocksOf (i.length - r.readOff) + (t.map (fun x => blocksOf x.length)).sum
/-- Blocks of data pending (STR_STAT). -/
def Dev.blocksPending (d : Dev) : Nat := (d.evt.queue.length + 14) / 15 + (d.routs.map (fun e => e.2.blocks)).sum
/-- Bytes of the ring that an item occupies (R473). -/
def itemRoom (n : Nat) : Nat := (n + 31) / 32 * 32
/-- Ring bytes occupied (ROUT_OCC). -/
def Rout.occ (r : Rout) : Nat := (r.items.map (fun x => itemRoom x.length)).sum

/-- EVT block (Table 13-17). -/
def evtRead (d : Dev) (a : Nat) : W32 :=
  let e := d.evt
  match a with
  | 0x1000 => fld e.classen 0 ||| fld e.urgent 16
  | 0x1004 => fnat 12 e.queue.length 0
  | 0x1008 => e.lost
  | 0x100C => e.seq
  | 0x1010 => fld (orOne e.strTh) 8 ||| fld e.strAge 16
  | 0x1014 => fld (satOf 16 d.blocksPending) 0
  | 0x1018 => e.bseq
  | 0x101C => fld e.hostTo 0 ||| flag e.fallback 16
  | 0x1020 => flag e.silent 0 ||| flag e.fallen 1
  | 0x1024 => e.hostSil
  | _ =>
    if 0x1400 ≤ a ∧ a < 0x1800 then
      let r := tblGet {} d.routs (a % 0x400 / 16)
      match a % 16 with
      | 0 => fld r.net 0 ||| fld r.stage 5 ||| flag r.valid 16
      | 4 => BitVec.ofNat 32 r.occ
      | 8 => r.lost
      | _ => r.bad
    else 0#32

/-- CAST_STAT STATE. -/
def PState.code : PState → BitVec 3
  | .uncast => 0#3 | .partly => 1#3 | .released => 2#3 | .stopped => 3#3 | .draining => 4#3 | .heldAbort => 5#3
/-- DIV. -/
def Div.code : Div → BitVec 2
  | .d4 => 0#2 | .d5 => 1#2 | .d8 => 2#2
/-- P_PSTAT STATE. -/
def PPower.code : PPower → BitVec 2
  | .on => 0#2 | .retention => 1#2 | .off => 2#2

/-- Usable spares of a cast partition (P_FSTAT). Assumption 121 (DESIGN CHOICE): unsafe. -/
def Dev.spares (d : Dev) (p : PartId) : Nat :=
  if (d.part p).cast == .uncast then 0 else ((coresOfPart p).filter (fun c => d.usableSpare c)).length

/-- PCTL page (Tables 13-7, 14-11, 15-5, 8-15 and 11-11). -/
def pctlRead (d : Dev) (p : PartId) (o : Nat) : W32 :=
  let x := d.part p
  match o with
  | 0x00 => fld x.mode 0
  | 0x04 => fld x.pwrReq 0
  | 0x08 => fld x.power.code 0 ||| flag x.powerTo.isSome 2 ||| flag x.checkFail 3
  | 0x0C => fld x.div.code 0 ||| flag x.bow 2 ||| flag x.derated 3 ||| flag x.awaitAck 4
  | 0x10 => fld x.rstCore 0 ||| fld x.rstCluster 16
  | 0x14 => fld x.rstPart 0 ||| fld x.retEntries 16
  | 0x40 => fnat 7 (d.spares p) 0 ||| flag x.act.isSome 7 ||| flag x.faultWait.isSome 8
  | 0x48 => fld x.fcnt 0 ||| fld x.degCnt 16
  | 0x4C => fld x.margin 0 ||| fld x.proposed 8 ||| flag x.propValid 16 ||| flag x.derated 17 ||| flag x.derProp 18
  | 0x54 => fld x.slack 0
  | 0x80 => fld x.cast.code 0 ||| (if x.cast == .uncast then 0#32 else fld (d.net x.net).epoch 3) ||| fld x.net 6 ||| fld x.slot 11 |||
      flag x.slotValid 14 ||| fld x.rounds 15
  | 0x84 => fld x.castErr 0 ||| fld x.castStep 16
  | 0x88 => x.castRes
  | 0x8C => fld (orOne x.drainTo) 0
  | 0x90 => x.absorb
  | 0x94 => x.flushDrop
  | 0x98 => fld x.castRep 0 ||| fld x.castFenced 16
  | 0x9C => x.castTime
  | 0xA0 => flag x.suspend 0 ||| flag x.suspended 1
  | 0xA4 => fld x.tfDma 0 ||| fld x.tfOther 16
  | _ => 0#32

/-- PWR_STAT STATE. -/
def PwrState.code : PwrState → BitVec 3
  | .running => 0#3 | .enterStandby => 1#3 | .standby => 2#3 | .enterDeep => 3#3 | .deep => 4#3 | .waking => 5#3

/-- RST and PWR block (Table 14-10). -/
def pwrRead (d : Dev) (a : Nat) : W32 :=
  let w := d.pwr
  match a with
  | 0x4008 => fld w.lastKind 0 ||| fld w.lastSrc 3 ||| flag (!w.busy.isEmpty) 6
  | 0x400C => fld w.warmCnt 0 ||| fld w.dieCnt 16
  | 0x4010 => w.rej
  | 0x4014 => flag w.nofast 0
  | 0x4018 => fld w.firstFail 0 ||| flag w.fast 4 ||| flag w.stopped 5
  | 0x401C => w.bootTime
  | 0x4104 => fld w.state.code 0 ||| flag w.psret 3
  | _ =>
    if 0x4200 ≤ a ∧ a < 0x4240 then
      let i := a % 0x40 / 32
      let x := d.die i
      match a % 32 with
      | 0x00 => flag x.warn 0 ||| flag x.resetLvl 1 ||| flag ((partsOfDie i).any (fun p => (d.part p).awaitAck)) 2 ||| flag x.episode 3
      | 0x04 => fld x.boMin 0
      | 0x08 => fld x.warns 0 ||| fld x.resets 16
      | 0x0C => x.dur
      | 0x10 => fld x.avs 0
      | _ => 0#32
    else 0#32

/-- MQ_INT as it reads and acts. -/
def mqIntOf (v : BitVec 12) : BitVec 12 := if 3600 < v.toNat then 3600#12 else orOne v

/-- HLT block (Table 15-4). -/
def hltRead (d : Dev) (a : Nat) : W32 :=
  let h := d.health
  let e := h.fences[h.fsel.toNat]?
  match a with
  | 0x5000 => fnat 12 h.fences.length 0 ||| flag (!h.flog.isEmpty) 12 ||| flag h.flogFull 13 ||| flag h.wdHeld 14
  | 0x5004 => fld h.fsel 0
  | 0x5008 => match e with | some f => fld f.phys 0 ||| fld f.cause 11 ||| flag true 14 | none => 0#32
  | 0x500C => match e with | some f => f.gen | none => 0#32
  | 0x5010 => fld h.wdCnt 0 ||| fld h.bankChg 16
  | 0x5014 => h.wdSig
  | 0x5018 => fld (mqIntOf h.mqInt) 0
  | 0x501C => h.mqRun
  | 0x5020 => fld h.mqMis 0 ||| fld h.mqTrans 16
  | 0x5024 => fld h.mqUnloc 0 ||| fld h.mqFenced 16
  | 0x5028 => fld h.rtPassed 0 ||| fld h.rtFailed 12 ||| fld h.rtSegs 24
  | _ => 0#32

/-- BUFOCC: the ingest buffer occupied, in units of 64 KiB. -/
def Dev.bufOcc (d : Dev) : Nat :=
  (65535 + (d.nets.map (fun e => (e.2.groups.map (fun g => d.groupOcc (BitVec.ofNat 5 e.1) (BitVec.ofNat 4 g.1))).sum)).sum) / 65536

/-- The factory MAC of a lane. -/
def factoryMac (st : Store) (n : Nat) : BitVec 48 := st.factory.macbase + BitVec.ofNat 48 n

/-- Context window (Table 12-7). -/
def ctxRead (d : Dev) (a : Nat) : W32 :=
  let x := d.ctx d.ing.ctxSel
  match a with
  | 0x7000 => fld d.ing.ctxSel 0
  | 0x7004 => flag x.en 0 ||| fld x.lane 1 ||| flag x.srcf 6 ||| flag x.tssrc 7 ||| fld x.udpport 16
  | 0x7008 => x.srcip
  | 0x700C => fld x.net 0 ||| fld x.grp 5 ||| fld x.member 9 ||| flag x.bound 13
  | 0x7010 => fld x.pktpay 0 ||| fld x.blkh 16
  | 0x7014 => fld x.blkto 0 ||| fld x.memto 16
  | 0x7018 => fld x.widthM1 0 ||| fld x.linesM1 14 ||| flag x.lscan 28
  | 0x701C => fld x.pixfmt 0 ||| fld x.zp 4
  | 0x7020 => fld x.dest 0
  | 0x7024 => x.frames
  | 0x7028 => x.refused
  | 0x702C => x.incomp
  | 0x7030 => x.missl
  | 0x7034 => x.pktlost
  | 0x7038 => x.overrun
  | 0x703C => fld x.fmterr 0 ||| fld x.dropinc 16
  | 0x7040 => x.lastf
  | _ => 0#32

/-- Lane page (Table 12-6). -/
def laneRead (st : Store) (d : Dev) (n o : Nat) : W32 :=
  let x := tblGet {} d.ing.lanes n
  match o with
  | 0x00 => flag x.en 0 ||| flag x.ptpEn 1
  | 0x04 => x.ip
  | 0x08 => x.macl.getD ((factoryMac st n).setWidth 32)
  | 0x0C => fld (x.mach.getD ((factoryMac st n).extractLsb' 32 16)) 0
  | 0x10 => flag x.link 0 ||| flag x.fecLock 1
  | 0x14 => x.rxpkt
  | 0x18 => fld x.dropFifo 0 ||| fld x.dropBad 16
  | _ => x.fecunc

/-- ING block (Tables 12-5 to 12-7, R453). Chain-lane pages lie at 0x0_6C40 + 16 × k (R452). -/
def ingRead (st : Store) (d : Dev) (a : Nat) : W32 :=
  let g := d.ing
  match a with
  | 0x6000 => fld g.posport 0 ||| fld g.chnid 16
  | 0x6004 => fnat 7 d.bufOcc 0
  | 0x6008 => fld g.domain 0
  | 0x600C => fld g.ptpState 0 ||| fld g.plane 3
  | 0x6010 => g.ptpOfs
  | 0x6018 => g.lsec
  | 0x601C => fld g.lns 0
  | 0x6020 => g.ltime.setWidth 32
  | 0x6024 => fld (g.ltime.extractLsb' 32 16) 0
  | 0x6028 => g.rej
  | 0x6C00 => flag g.wup 0 ||| flag g.eup 1
  | _ =>
    if 0x6400 ≤ a ∧ a < 0x6800 then laneRead st d (a % 0x400 / 32) (a % 32)
    else if 0x6C40 ≤ a ∧ a < 0x6CC0 then
      let k := a % 0x100 / 16 - 4
      match a % 16 with
      | 0x00 => flag (if k < 4 then g.wup else g.eup) 0
      | 0x04 => fld (tblGet 0#16 g.clLat k) 0
      | 0x08 => tblGet 0#32 g.clFec k
      | _ => tblGet 0#32 g.clVoid k
    else if 0x7000 ≤ a then ctxRead d a
    else 0#32

/-- CAL block (Tables 5-9 and 5-10). -/
def calRead (d : Dev) (a : Nat) : W32 :=
  let c := d.cal
  match a with
  | 0x8000 => flag c.en 0
  | 0x8004 => c.late
  | 0x8008 => c.driftEvt
  | 0x800C => c.s2upd
  | 0x8010 => c.rej
  | _ =>
    if 0x9000 ≤ a ∧ a < 0xA000 then
      let n := a % 0x1000 / 64
      let w := tblGet {} c.watch n
      match a % 64 with
      | 0x00 => fld w.part 0 ||| fld w.tensor 16 ||| flag w.arm 31
      | 0x04 => fld w.kt 0
      | 0x08 => w.s2
      | 0x0C => w.driftTh
      | 0x10 => w.frame
      | 0x14 => w.count
      | 0x18 => w.sat
      | 0x1C => w.nan
      | 0x20 => w.const
      | 0x24 => w.sse
      | 0x28 => w.ssv
      | 0x2C => w.mse
      | 0x30 => w.rmse
      | 0x34 => w.sumv
      | 0x38 => fld w.kmaxn 0 ||| fld w.kmin 16 ||| fld w.kmax 24
      | _ => flag w.valid 0 ||| flag w.complete 1 ||| flag w.drift 2 ||| flag w.notensor 3
    else 0#32

/-- PSTATE. -/
def PredState.code : PredState → BitVec 2
  | .idle => 0#2 | .tracking => 1#2 | .lost => 2#2

/-- RTE_XPOS: the prediction for now; 0 before any record; else a value that the manual does not give.
Assumption 65 (DESIGN CHOICE): safe. -/
def Dev.xpos (d : Dev) : W32 :=
  if !d.route.haveRec then 0#32
  else if d.route.pstate == .tracking then mm32 (d.route.last.at d.ptpNow.toNat)
  else (Config.freeWord d.fresh).setWidth 32

/-- A reference group's registers. -/
def rgrpRead (d : Dev) (g o : Nat) : W32 :=
  match tblGet none d.route.groups g with
  | none => 0#32
  | some x =>
    match o with
    | 0 => fnat 16 x.img.tsize 0 ||| fnat 8 x.img.tpb 16 ||| fld x.net 24 ||| flag true 29
    | 4 => fnat 16 x.img.u 0 ||| fnat 12 (x.img.nbin - 1) 16
    | 8 => fnat 16 x.img.dt 0 ||| flag x.img.tmode 16
    | _ => fld (BitVec.ofInt 16 x.img.offset) 0

/-- RTE block (Table 9-7). -/
def rteRead (d : Dev) (a : Nat) : W32 :=
  let r := d.route
  match a with
  | 0xA000 => flag r.en 0 ||| flag r.laneEn 1 ||| flag r.hostEn 2 ||| fld r.poslane 3 ||| fld r.binlen 8 ||| fld (orOne r.horizon) 14 |||
      fld r.commitlag 20
  | 0xA004 => fld r.corrTh 0 ||| fld (orOne r.posTo) 16
  | 0xA008 => fld r.pstate.code 0 ||| fld r.pgen 2 ||| flag r.last.rev 6 ||| flag r.passOpen 7
  | 0xA00C => d.xpos
  | 0xA010 => r.xbin
  | 0xA014 => r.last.speed
  | 0xA018 => r.corr
  | 0xA01C => r.cancel
  | 0xA020 => r.noref
  | 0xA024 => fld r.posdisc 0 ||| fld r.rej 16
  | 0xA028 => r.uncover
  | 0xA02C => fld r.idxPart 0 ||| fld r.idxUnc 16
  | 0xA030 => fld r.retire 0
  | 0xA034 => fld r.retired 0
  | 0xA03C => r.passno
  | 0xA044 => fnat 9 r.free.length 0 ||| fld r.candDrop 16
  | 0xA048 => match r.pend with | c :: _ => c.bin | [] => 0#32
  | 0xA04C => fnat 9 r.pend.length 0 ||| (match r.pend with
      | c :: _ => flag c.tainted 9 ||| flag (d.candWhole c) 10 ||| fnat 2 (if c.blend then 2 else 1) 11
      | [] => 0#32)
  | _ => if 0xA200 ≤ a ∧ a < 0xA240 then rgrpRead d (a % 0x40 / 16) (a % 16) else 0#32

/-- MEM and DMA block (Tables 11-9 and 11-10). -/
def memRead_ (d : Dev) (a : Nat) : W32 :=
  match a with
  | 0xB000 => flag (d.ring 0).up 0 ||| flag ((d.ring 1).up && d.die1) 1 ||| fld d.hot 2
  | 0xB004 => d.memRej
  | _ =>
    if 0xB010 ≤ a ∧ a < 0xB050 then
      let r := d.ring ((a % 0x100 - 16) / 32)
      match (a % 0x100 - 16) % 32 with
      | 0x00 => r.burst0
      | 0x04 => r.burst1
      | 0x08 => r.burst2
      | 0x0C => r.burst3
      | 0x10 => fld r.c0wait 0 ||| fld r.guard 16
      | 0x14 => r.far
      | 0x18 => fld r.tfDma 0 ||| fld r.tfOther 16
      | _ => 0#32
    else if 0xB800 ≤ a ∧ a < 0xC000 then
      let n : BitVec 6 := BitVec.ofNat 6 (a % 0x800 / 32)
      let c := d.dmaCh n
      match a % 32 with
      | 0x00 => c.rbase
      | 0x04 => fld c.rsizeM1 0 ||| flag c.en 12
      | 0x08 => fld c.tail 0
      | 0x0C => fld c.head 0
      | 0x10 => fld c.state 0 ||| flag c.desc.isSome 2 ||| flag (d.part (dmaPart n)).suspend 3 ||| fld c.done 16
      | 0x14 => c.resume
      | 0x18 => fld c.faddr 0 ||| flag c.fwrite 31
      | _ => 0#32
    else 0#32

/-- STATE of ADP_STAT; stopped shows while the companions are stopped. -/
def AdState.code : AdState → BitVec 3
  | .off => 0#3 | .accumulating => 1#3 | .pendingHost => 3#3 | .trial => 4#3 | .marked => 5#3

/-- A chain's registers (Table 10-6). -/
def chainRead (a : Adapt) (c o : Nat) : W32 :=
  match tblGet none a.chains c with
  | none => 0#32
  | some x =>
    match o with
    | 0x00 => x.img.rbase
    | 0x04 => fld x.img.slotb 0 ||| fld x.img.lbloff 16
    | 0x08 => fld x.img.lblw 0 ||| flag x.img.teacher 16 ||| flag true 17
    | 0x0C => x.next
    | _ => 0#32

/-- A stage slot's registers. -/
def stageRead (a : Adapt) (j o : Nat) : W32 :=
  match a.stages[j]? with
  | none => 0#32
  | some x =>
    match o with
    | 0x00 => fld x.stage 0 ||| fld x.part 11 ||| fld x.chain 16 ||| flag true 18
    | 0x04 => fld x.imgWords 0
    | 0x08 => tblGet 0#32 a.late j
    | 0x0C => x.base
    | _ => 0#32

/-- ADP block (Table 10-5); the unit of no network reads 0. -/
def adpRead (d : Dev) (u : BitVec 2) (o : Nat) : W32 :=
  let a := d.adaptU u
  match a.net with
  | none => 0#32
  | some n =>
    match o with
    | 0x000 => flag a.en 0 ||| flag a.freeze 1 ||| fld (orOne a.ncommit) 2 ||| fld (orOne a.ntrial) 10 ||| fld a.xmask 14
    | 0x004 => fld (orOne a.batch) 0 ||| fld a.replayM1 16
    | 0x008 => a.lr
    | 0x00C => a.b1
    | 0x010 => a.b2
    | 0x014 => a.eps
    | 0x018 => a.clip
    | 0x01C => fld (if (d.net n).aclosed then 6#3 else a.state.code) 0 ||| fld a.active 3 ||| fld a.cand 5 ||| flag a.pending 7 |||
        fld a.batches 8 ||| fld (d.net n).aepoch 16
    | 0x020 => a.steps
    | 0x024 => a.cmt
    | 0x028 => fld a.discTrial 0 ||| fld a.discHost 16
    | 0x02C => fld a.skipExcl 0 ||| fld a.skipOver 16
    | 0x030 => a.gsat
    | 0x034 => a.lastf
    | 0x038 => a.gen
    | 0x040 => a.rej
    | _ =>
      if 0x100 ≤ o ∧ o < 0x180 then chainRead a (o % 0x80 / 32) (o % 32)
      else if 0x400 ≤ o ∧ o < 0x800 then stageRead a (o % 0x400 / 32) (o % 32)
      else 0#32

/-! ## What the expert pages read -/

/-- CORE_STAT STATE. -/
def CState.code : CState → BitVec 3
  | .uncast => 0#3 | .running => 1#3 | .held => 2#3 | .transferring => 3#3 | .waitd => 4#3 | .faulted => 5#3 | .fenced => 6#3 | .halted => 7#3

/-- Core page (Table 3-13). -/
def coreRead (d : Dev) (c : CoreId) (o : Nat) : W32 :=
  let k := d.core c
  match o with
  | 0x00 =>
    let mapped := (k.assigned && !k.spare) || (k.state == .fenced && tblGet none d.map k.logical.toNat == some c)
    fld c 0 ||| (if mapped then fld k.logical 16 else 0#32) ||| flag mapped 27 ||| flag k.spare 28 ||| flag (d.fenced c) 29
  | 0x04 => fld (if k.state == .uncast && d.fenced c then CState.fenced else k.state).code 0 ||| fld k.holdsrc 3 ||| fld k.pc 9 ||| fld (BitVec.ofNat 3 (faultCode k.fault)) 20
  | 0x08 => k.holdCyc
  | 0x0C => fld k.lsCe 0
  | 0x10 => match k.lsUe with | some a => fld a 0 ||| flag true 31 | none => 0#32
  | 0x14 => fld k.rowcycLast 0
  | 0x18 => flag k.wdogEn 0 ||| flag k.gateEn 1
  | _ => 0#32

/-- Queue page (Table 6-10). -/
def queueRead (d : Dev) (id : QueueId) (o : Nat) : W32 :=
  let q := d.queue id
  match o with
  | 0x00 => fnat 2 (match q.pmode with | .plain => 0 | .lengthPrefix => 1 | .commit => 2) 0 ||| flag (q.elastic != 0) 2 |||
      flag (decide (1 < q.rcvs.length)) 3 ||| fnat 10 (q.rcvs.length - 1) 4 ||| fnat 4 (q.nprod - 1) 14
  | 0x04 => fnat 16 q.floor 0 ||| fnat 16 q.cap 16
  | 0x08 => fnat 24 q.pktmax 0
  | 0x0C => fnat 16 q.occ 0 ||| fnat 16 q.borrow 16
  | 0x10 => q.tail
  | 0x14 => q.old
  | 0x18 => fnat 21 q.ring.length 0 ||| flag q.spilling 21 ||| flag q.ringFull 22
  | 0x1C => q.epdisc
  | 0x20 => q.gaps
  | 0x24 => q.gapw
  | 0x28 => fld q.badpkt 0 ||| fld q.winerr 16
  | 0x2C => q.qhold
  | 0x30 => q.spwords
  | 0x34 => fld q.sperr 0 ||| fld q.markerr 16
  | 0x38 => fld q.rsel 0
  | _ =>
    match q.rcv q.rsel with
    | none => 0#32
    | some r => fld (satOf 16 (pdist r.h q.tail)) 0 ||| flag r.detach 16 ||| fld r.e 17 ||| flag r.m.isSome 20 ||| flag r.await 21 |||
        flag r.windowed 22

/-- Census page (Table 6-11). -/
def censusRead (d : Dev) (p : PartId) (o : Nat) : W32 :=
  let x := d.part p
  match o with
  | 0x00 => fld x.dlkCnt 0 ||| flag (d.censusHeld p) 17 ||| flag x.frozen 18
  | 0x04 => fld x.fullq 0 ||| fld x.neq 13
  | 0x08 => x.dlkFires
  | 0x0C => x.dlkDrop
  | _ => 0#32

/-- An identifier names a segment: a point of the armature, a lane of its link and a direction of Table 7-3. -/
def isSegment (s : SegId) : Bool :=
  segPoint s && decide ((s.extractLsb' 0 8).toNat < lanesOf s) && decide ((s.extractLsb' 8 2).toNat ≤ 1) &&
    (s.extractLsb' 16 3 == 0#3 || s.extractLsb' 10 4 == 0#4)

/-- OWN_DATA: NOSEG when OWN_SEL names no segment of the partition. -/
def ownData (d : Dev) (p : PartId) : W32 :=
  let s := (d.part p).ownSel
  if partOfSeg s != p || !isSegment s then flag true 8
  else
    let g := d.seg s
    flag g.own 0 ||| fld g.drv 1 ||| fld g.en 3 ||| flag g.forced 7

/-- Armature page (Table 7-11). -/
def armRead (d : Dev) (p : PartId) (o : Nat) : W32 :=
  let x := d.part p
  match o with
  | 0x00 => flag (x.segs.any (fun e => e.2.forced)) 0 ||| flag x.reload.isSome 1 ||| flag x.scrubbing 2
  | 0x04 => fld x.contSeg 0
  | 0x08 => x.contCnt
  | 0x0C => x.scrubPass
  | 0x10 => x.scrubCe
  | 0x14 => x.scrubUe
  | 0x18 => match x.scrubUeAddr with | some a => fld a 0 ||| flag true 31 | none => 0#32
  | 0x1C => fld x.pktCrc 0 ||| fld x.pktResend 16
  | 0x20 => x.pktBlk0
  | 0x24 => fld x.snoopMiss 0 ||| fld x.patchMiss 16
  | 0x28 => fld x.ownSel 0
  | 0x2C => ownData d p
  | _ => 0#32

/-- Region page (Table 11-12). -/
def regionRead (d : Dev) (p : PartId) (o : Nat) : W32 :=
  let r := tblGet {} (d.part p).regions (o / 16)
  match o % 16 with
  | 0 => fld r.base 0
  | 4 => fld r.lenM1 0
  | 8 => flag r.v 0 ||| flag r.rd 1 ||| flag r.wr 2 ||| flag r.dma 3 ||| flag r.lock 4
  | _ => 0#32

/-- Monitor record (Table 15-6). -/
def monitorRead (d : Dev) (p : PartId) (o : Nat) : W32 :=
  let m := (d.part p).mons.getD (o / 8) {}
  if o % 8 == 0 then fld m.raw 0 ||| fld m.temp 20 else fld m.norm 0

/-- Domain record (Table 14-12); that of the image store is gated while nothing uses it (Table 1-7).
Assumption 118 (DESIGN CHOICE): unsafe. -/
def domRead (d : Dev) (k o : Nat) : W32 :=
  let x := tblGet {} d.doms k
  let absent := !d.die1 && (k == 33 || k == 35 || (16 ≤ k && k < 32))
  let gated := if k == 39 then d.mbx.longs.isEmpty && d.nets.all (fun e => e.2.casting.isNone) else x.gated
  if absent then 0#32
  else match o with
    | 0 => flag gated 0 ||| flag x.powered 1 ||| (if k < 32 then fld (d.part (BitVec.ofNat 5 k)).div.code 2 else 0#32)
    | 4 => x.gates
    | _ => 0#32

/-- What an expert address reads. -/
def expertRead (d : Dev) (a : Nat) : W32 :=
  let (e, o) := expertAt d.xptPage.toNat (a % 0x10000)
  if !d.expertServed e then 0#32
  else match e with
    | .core c => coreRead d c o
    | .queue q => queueRead d q o
    | .census p => censusRead d p o
    | .armature p => armRead d p o
    | .region p => regionRead d p o
    | .monitor p => monitorRead d p o
    | .domain k => domRead d k o
    | .none => 0#32

/-- What a register of function 1 reads. -/
def regRead (st : Store) (d : Dev) (a : Nat) : W32 :=
  if !d.regAnswers a || !d.regPresent a then 0#32
  else if a < 0x400 then idRead st d a
  else if a < 0x1000 then mbxRead d a
  else if a < 0x2000 then evtRead d a
  else if a < 0x4000 then pctlRead d (pctlPart a) (a % 256)
  else if a < 0x5000 then pwrRead d a
  else if a < 0x6000 then hltRead d a
  else if a < 0x8000 then ingRead st d a
  else if a < 0xA000 then calRead d a
  else if a < 0xB000 then rteRead d a
  else if a < 0xC000 then memRead_ d a
  else if a < 0x10000 then adpRead d (BitVec.ofNat 2 (a / 0x1000)) (a % 0x1000)
  else expertRead d a

/-- What reading a register does beside: RINGFULL clears, and a value that the manual leaves open is another one next time. -/
def regReadEffect (d : Dev) (a : Nat) : Dev :=
  if !d.regAnswers a then d
  else if a == 0xA00C then { d with fresh := d.fresh + 1 }
  else if a < 0x10000 then d
  else
    match expertAt d.xptPage.toNat (a % 0x10000) with
    | (.queue q, 0x18) => if d.expertServed (.queue q) then d.modQueue q (fun x => { x with ringFull := false }) else d
    | _ => d

/-! ## Which bits the host writes -/

/-- Writable bits of a PCTL register. -/
def pctlMask (o : Nat) : Nat :=
  match o with
  | 0x00 => 0x3FF | 0x04 => 3 | 0x44 => 3 | 0x50 => 3 | 0x8C => 0x3FF | 0xA0 => 1 | _ => 0

/-- Writable bits of the context window. -/
def ctxMask (a : Nat) : Nat :=
  match a with
  | 0x7000 => 0x3FF | 0x7004 => 0xFFFF00FF | 0x7008 => 0xFFFFFFFF | 0x700C => 0x1FFF | 0x7010 => 0xFFFFFFFF | 0x7014 => 0xFFFFFFFF | _ => 0

/-- Writable bits of an adaptation unit. -/
def adpMask (o : Nat) : Nat :=
  match o with
  | 0x000 => 0x3FFFFF | 0x004 => 0xFFFF | 0x008 | 0x00C | 0x010 | 0x014 | 0x018 => 0xFFFFFFFF | 0x03C => 3 | _ => 0

/-- Writable bits of a DMA channel page. -/
def dmaMask (o : Nat) : Nat :=
  match o with
  | 0x00 => 0xFFFFFFFF | 0x04 => 0x1FFF | 0x08 => 0xFFF | 0x1C => 3 | _ => 0

/-- Writable bits of a register of function 1 outside the expert window. -/
def blockMask (a : Nat) : Nat :=
  match a with
  | 0x0018 => 0x7FFF | 0x001C => 1
  | 0x0400 => 0xFFFF | 0x0404 => 6
  | 0x1000 => 0xFFFFFFFF | 0x1010 => 0xFFFFFF0F | 0x101C => 0x1FFFF
  | 0x4000 => 0xFF | 0x4004 => 0x7FF7 | 0x4014 => 1 | 0x4100 => 7 | 0x4200 | 0x4220 => 8
  | 0x5004 => 0x7FF | 0x5018 => 0xFFF
  | 0x6000 => 0xFFFFF | 0x6008 => 0xFF | 0x6014 => 1
  | 0x8000 => 1
  | 0xA000 => 0xFFFFFFF | 0xA004 => 0xFFFFFFFF | 0xA030 => 0xFFFF | 0xA038 => 3 | 0xA040 => 0x1FFFFFF | 0xA050 => 3
  | _ =>
    if 0x440 ≤ a ∧ a < 0x480 then 0xFFFFFFFF
    else if 0x2000 ≤ a ∧ a < 0x4000 then pctlMask (a % 256)
    else if 0x6400 ≤ a ∧ a < 0x6800 then (match a % 32 with | 0x00 => 3 | 0x04 | 0x08 => 0xFFFFFFFF | 0x0C => 0xFFFF | _ => 0)
    else if 0x7000 ≤ a ∧ a < 0x8000 then ctxMask a
    else if 0x9000 ≤ a ∧ a < 0xA000 then
      (match a % 64 with | 0x00 => 0x8FFF001F | 0x04 => 0xFF | 0x08 | 0x0C => 0xFFFFFFFF | 0x3C => 4 | _ => 0)
    else if 0xA100 ≤ a ∧ a < 0xA120 then 0xFFFFFFFF
    else if 0xB800 ≤ a ∧ a < 0xC000 then dmaMask (a % 32)
    else if 0xC000 ≤ a ∧ a < 0x10000 then adpMask (a % 0x1000)
    else 0

/-- Writable bits of an expert register. -/
def expertMask (e : Expert) (o : Nat) : Nat :=
  match e, o with
  | .core _, 0x18 => 3
  | .queue _, 0x38 => 0x3FF
  | .census _, 0x10 => 3
  | .armature _, 0x28 => 0xFFFFFF
  | .region _, o => (match o % 16 with | 0 => 0x7FFFFFFF | 4 => 0x1FFFFFF | 8 => 0xF | _ => 0)
  | _, _ => 0

/-- Writable bits of a register. -/
def regMask (page a : Nat) : Nat :=
  if a < 0x10000 then blockMask a else let (e, o) := expertAt page (a % 0x10000); expertMask e o

/-- Bits that a write of 1 clears. -/
def regW1c (a : Nat) : W32 :=
  if a == 0x404 then 2#32
  else if a == 0x4200 || a == 0x4220 then 8#32
  else if 0x9000 ≤ a && a < 0xA000 && a % 64 == 0x3C then 4#32
  else 0#32

/-! ## What a write does -/

/-- A bit field of a value. -/
def bitsOf (v : W32) (lo n : Nat) : BitVec n := v.extractLsb' lo n

/-- Writes of the MBX block. -/
def mbxApply (a : Nat) (v : W32) (d : Dev) : Dev :=
  if a == 0x400 then
    d.modMbx (fun m => if m.busy then { m with rej := satInc m.rej } else m.taken (bitsOf v 8 8) (bitsOf v 0 8))
  else if a == 0x404 then d.modMbx (fun m => { m with done := m.done && !v.getLsbD 1, ien := v.getLsbD 2 })
  else if 0x440 ≤ a && a < 0x480 then d.modMbx (fun m => m.putArgs [(a % 0x40 / 4, v)])
  else d

/-- REPEAT (R475): the last `k` blocks delivered come again; a larger number than those kept is ignored. -/
def Evt.repeatLast (e : Evt) (k : Nat) : Evt :=
  if 1 ≤ k ∧ k ≤ 8 ∧ k ≤ e.kept.length then { e with repeat_ := e.kept.drop (e.kept.length - k) } else e

/-- Writes of the EVT block. -/
def evtApply (a : Nat) (v : W32) (d : Dev) : Dev :=
  match a with
  | 0x1000 => d.modEvt (fun e => { e with classen := bitsOf v 0 16, urgent := bitsOf v 16 16 })
  | 0x1010 => d.modEvt (fun e => ({ e with strTh := bitsOf v 8 8, strAge := bitsOf v 16 16 } : Evt).repeatLast (bitsOf v 0 4).toNat)
  | 0x101C => d.modEvt (fun e => { e with hostTo := bitsOf v 0 16, fallback := v.getLsbD 16 })
  | _ => d

/-- P_MODE_WRITE (R465). -/
def pMode (p : PartId) (v : W32) (d : Dev) : Dev := d.modPart p (fun x => { x with mode := bitsOf v 0 10 })
def execPModeWrite (p : PartId) (v : W32) (s : State) : Ans := .next (hostWritePart p (pMode p v) s)

/-- Writes of a PCTL page. -/
def pctlApply (p : PartId) (o : Nat) (v : W32) (d : Dev) : Dev :=
  let cmd := (bitsOf v 0 2).toNat
  match o with
  | 0x00 => pMode p v d
  | 0x04 => (match cmd with | 0 => pwrOn p d | 1 => pwrRetention p d | 2 => pwrOff p d | _ => d.rstReject)
  | 0x44 => (match cmd with | 0 => d | 1 => faultDegrade p d | 2 => faultKeep p d | _ => d.rstReject)
  | 0x50 => (match cmd with | 0 => d | 1 => mcmdApply p d | 2 => mcmdReject p d | _ => d.rstReject)
  | 0x8C => d.modPart p (fun x => { x with drainTo := bitsOf v 0 10 })
  | 0xA0 => d.modPart p (fun x => { x with suspend := v.getLsbD 0, suspended := x.suspended && v.getLsbD 0 })
  | _ => d

/-- A reset command that names nothing: it consumes the arming and counts. -/
def Dev.rstUnnamed (d : Dev) : Dev := (d.modPwr (fun w => { w with armed := false })).rstReject

/-- RST_CMD. -/
def rstCmd (v : W32) (d : Dev) : Dev :=
  let t := (bitsOf v 4 11).toNat
  match (bitsOf v 0 3).toNat with
  | 0 => d
  | 1 => resetCore (BitVec.ofNat 11 t) d
  | 2 => if t < 128 then resetCluster (BitVec.ofNat 7 t) d else d.rstUnnamed
  | 3 => if t < 32 then resetPartition (BitVec.ofNat 5 t) d else d.rstUnnamed
  | 4 => if t = 0 then resetComputeDie 0 d else if t = 1 then resetComputeDie 1 d else d.rstUnnamed
  | 5 => resetWarm d
  | _ => d.rstUnnamed

/-- PWR_CMD. -/
def pwrCmdApply (v : W32) (d : Dev) : Dev :=
  match (bitsOf v 0 3).toNat with
  | 0 => d
  | 1 => d.powerCmd .enterStandby false
  | 2 => d.powerCmd .enterDeep false
  | 3 => d.powerCmd .enterDeep true
  | 4 => wake d
  | _ => d.rstReject

/-- EPISODE of a die is cleared. -/
def episodeClear (i : Nat) (v : W32) (d : Dev) : Dev := if v.getLsbD 3 then d.modDie i (fun x => { x with episode := false }) else d

/-- Writes of the RST and PWR block. -/
def pwrApply (a : Nat) (v : W32) (d : Dev) : Dev :=
  match a with
  | 0x4000 => rstArm v d
  | 0x4004 => rstCmd v d
  | 0x4014 => d.modPwr (fun w => { w with nofast := v.getLsbD 0 })
  | 0x4100 => pwrCmdApply v d
  | 0x4200 => episodeClear 0 v d
  | 0x4220 => episodeClear 1 v d
  | _ => d

/-- Writes of the HLT block. -/
def hltApply (a : Nat) (v : W32) (d : Dev) : Dev :=
  match a with
  | 0x5004 => d.modHealth (fun h => { h with fsel := bitsOf v 0 11 })
  | 0x5018 => d.modHealth (fun h => { h with mqInt := bitsOf v 0 12 })
  | _ => d

/-- LN_CFG: the domain of the ingest engine is gated when the host disables the last lane (Table 1-7). -/
def laneCfg (l : PartId) (v : W32) (d : Dev) : Dev :=
  let was := d.ing.lanes.any (fun e => e.2.en)
  let d1 := d.modLane l (fun x => { x with en := v.getLsbD 0, ptpEn := v.getLsbD 1 })
  let now := d1.ing.lanes.any (fun e => e.2.en)
  if was == now then d1 else { d1 with doms := tblMod {} d1.doms 37 (fun x => { x with gated := !now }) }

/-- Writes of a lane page. -/
def laneApply (l : PartId) (o : Nat) (v : W32) (d : Dev) : Dev :=
  match o with
  | 0x00 => laneCfg l v d
  | 0x04 => d.modLane l (fun x => { x with ip := v })
  | 0x08 => d.modLane l (fun x => { x with macl := some v })
  | 0x0C => d.modLane l (fun x => { x with mach := some (bitsOf v 0 16) })
  | _ => d

/-- Writes of the ING block. -/
def ingApply (a : Nat) (v : W32) (d : Dev) : Dev :=
  let c := d.ing.ctxSel
  match a with
  | 0x6000 => ingCtrl v d
  | 0x6008 => d.modIng (fun g => { g with domain := bitsOf v 0 8 })
  | 0x6014 => ptpLatch v d
  | 0x7000 => d.modIng (fun g => { g with ctxSel := bitsOf v 0 10 })
  | 0x7004 => ctxCfg v d
  | 0x7008 => d.modCtx c (fun x => { x with srcip := v })
  | 0x700C => ctxBind v d
  | 0x7010 => d.modCtx c (fun x => { x with pktpay := bitsOf v 0 16, blkh := bitsOf v 16 16 })
  | 0x7014 => d.modCtx c (fun x => { x with blkto := bitsOf v 0 16, memto := bitsOf v 16 16 })
  | _ => if 0x6400 ≤ a ∧ a < 0x6800 then laneApply (BitVec.ofNat 5 (a % 0x400 / 32)) (a % 32) v d else d

/-- Writes of the CAL block. -/
def calApply (a : Nat) (v : W32) (d : Dev) : Dev :=
  if a == 0x8000 then d.modCal (fun c => { c with en := v.getLsbD 0 })
  else if a < 0x9000 then d
  else
    let n : BitVec 6 := BitVec.ofNat 6 (a % 0x1000 / 64)
    match a % 64 with
    | 0x00 => wsel n v d
    | 0x04 => wcfg n v d
    | 0x08 => s2Write n v d
    | 0x0C => driftThWrite n v d
    | 0x3C => if v.getLsbD 2 then d.modWatch n (fun w => { w with drift := false }) else d
    | _ => d

/-- Writes of the RTE block. The bytes of RTE_POSIN are stored; byte 31 submits the record. -/
def rteApply (a : Nat) (v : W32) (d : Dev) : Dev :=
  match a with
  | 0xA000 => rteCtrl v d
  | 0xA004 => rtePred v d
  | 0xA030 => retireWrite v d
  | 0xA038 => (match (bitsOf v 0 2).toNat with | 0 => d | 1 => passOpen d | 2 => passClose d | _ => passAbort d)
  | 0xA040 => freeWrite v d
  | 0xA050 => (match (bitsOf v 0 2).toNat with
    | 1 => d.rteDecide (fun c d => d.commitCand c)
    | 2 => d.rteDecide (fun c d => d.discardCand c)
    | _ => d.rteDecide (fun c d => d.modRoute (fun r => { r with pend := c :: r.pend })))
  | _ =>
    if 0xA100 ≤ a ∧ a < 0xA120 then
      let i := a % 0x20
      let d1 := [0, 1, 2].foldl (fun d k => d.modRoute (fun r => r.setPosin (i + k) (bitsOf v (8 * k) 8))) d
      if i == 28 then posinSubmit (bitsOf v 24 8) d1 else d1.modRoute (fun r => r.setPosin (i + 3) (bitsOf v 24 8))
    else d

/-- Writes of the MEM and DMA block. -/
def memApply (a : Nat) (v : W32) (d : Dev) : Dev :=
  if a < 0xB800 then d
  else
    let n : BitVec 6 := BitVec.ofNat 6 (a % 0x800 / 32)
    match a % 32 with
    | 0x00 => dmaRbase n v d
    | 0x04 => dmaRcfg n v d
    | 0x08 => dmaTail n v d
    | 0x1C => (match (bitsOf v 0 2).toNat with | 0 => d | 1 => dmaResume n d | 2 => dmaAbort n d | _ => dmaResetRing n d)
    | _ => d

/-- Writes of the ADP block. -/
def adpApply (u : BitVec 2) (o : Nat) (v : W32) (d : Dev) : Dev :=
  let put (f : Adapt → Adapt) : Dev := d.onUnit u (fun d => d.modAdapt u f)
  match o with
  | 0x000 => adpCtrl u v d
  | 0x004 => adpBatch u v d
  | 0x008 => put (fun a => { a with lr := v })
  | 0x00C => put (fun a => { a with b1 := v })
  | 0x010 => put (fun a => { a with b2 := v })
  | 0x014 => put (fun a => { a with eps := v })
  | 0x018 => put (fun a => { a with clip := v })
  | 0x03C => (match (bitsOf v 0 2).toNat with | 1 => adpCommit u d | 2 => adpDiscard u d | _ => d)
  | _ => d

/-- A write to the expert window (R464, R570): only while WEN is 1; a command field's 0 never counts, its reserved value always.
Assumption 99 (DEDUCED): unsafe. -/
def expertApply (a : Nat) (v : W32) (d : Dev) : Dev :=
  let (e, o) := expertAt d.xptPage.toNat (a % 0x10000)
  if !d.expertServed e then d
  else match e, o with
    | .census p, 0x10 =>
      (match (bitsOf v 0 2).toNat with | 0 => d | 1 => dlkDropResume p d | 2 => dlkContinue p d | _ => d.xptReject)
    | .core c, 0x18 => xcfgWrite c v d
    | .region p, o => regionWrite p (BitVec.ofNat 6 (o / 16)) (BitVec.ofNat 2 (o % 16 / 4)) v d
    | .queue q, 0x38 => if d.xptWen then d.modQueue q (fun x => { x with rsel := bitsOf v 0 10 }) else d.xptReject
    | .armature p, 0x28 => if d.xptWen then d.modPart p (fun x => { x with ownSel := bitsOf v 0 24 }) else d.xptReject
    | _, _ => if d.xptWen then d else d.xptReject

/-- Writes of the ID block. -/
def idApply (a : Nat) (v : W32) (d : Dev) : Dev :=
  match a with
  | 0x18 => { d with xptPage := bitsOf v 0 15 }
  | 0x1C => { d with xptWen := v.getLsbD 0 }
  | _ => d

/-- A register of function 1 is written; reserved and read-only fields ignore it (R15). -/
def regApply (a : Nat) (v : W32) (d : Dev) : Dev :=
  if !d.regAnswers a || !d.regPresent a then d
  else if a < 0x400 then idApply a v d
  else if a < 0x1000 then mbxApply a v d
  else if a < 0x2000 then evtApply a v d
  else if a < 0x4000 then pctlApply (pctlPart a) (a % 256) v d
  else if a < 0x5000 then pwrApply a v d
  else if a < 0x6000 then hltApply a v d
  else if a < 0x8000 then ingApply a v d
  else if a < 0xA000 then calApply a v d
  else if a < 0xB000 then rteApply a v d
  else if a < 0xC000 then memApply a v d
  else if a < 0x10000 then adpApply (BitVec.ofNat 2 (a / 0x1000)) (a % 0x1000) v d
  else expertApply a v d

/-! ## Bytes (R462) -/

/-- Byte `i` of a register value. -/
def byteOf (v : W32) (i : Nat) : Byte := v.extractLsb' (8 * i) 8
/-- A register value with byte `i` replaced. -/
def setByte (v : W32) (i : Nat) (b : Byte) : W32 := (v &&& ~~~(0xFF#32 <<< (8 * i))) ||| (b.setWidth 32 <<< (8 * i))

/-- A byte is written to a register: bytes 0 to 2 are staged, byte 3 gives the value that applies, and another register's staged
bytes are discarded. -/
def Dev.stageByte (d : Dev) (reg : BitVec 18) (i : Nat) (b : Byte) : Option W32 × Dev :=
  let v := setByte (if d.card.stageAddr == some reg then d.card.staged else 0#32) i b
  if i == 3 then (some v, d.modCard (fun c => { c with stageAddr := none, staged := 0#32 }))
  else (none, d.modCard (fun c => { c with stageAddr := some reg, staged := v }))

/-- The number of a register of function 1 among the registers that bytes reach. -/
def reg1 (a : BitVec 17) : BitVec 18 := BitVec.ofNat 18 (a.toNat / 4 * 4)

/-- A byte written in function 1. -/
def byteWrite (a : BitVec 17) (b : Byte) (d : Dev) : Dev :=
  match d.stageByte (reg1 a) (a.toNat % 4) b with
  | (some v, d1) => regApply (a.toNat / 4 * 4) v d1
  | (none, d1) => d1

/-- A byte read of a register that reads `v`: byte 0 latches it, the others return what is latched. -/
def Dev.latchByte (d : Dev) (reg : BitVec 18) (i : Nat) (v : W32) : Byte × Dev :=
  if i != 0 && d.card.latchAddr == some reg then (byteOf d.card.latched i, d)
  else (byteOf v i, d.modCard (fun c => { c with latchAddr := some reg, latched := v }))

/-- A byte read in function 1. -/
def byteRead (st : Store) (a : BitVec 17) (d : Dev) : Byte × Dev :=
  let r := a.toNat / 4 * 4
  let again := a.toNat % 4 != 0 && d.card.latchAddr == some (reg1 a)
  let (b, d1) := d.latchByte (reg1 a) (a.toNat % 4) (regRead st d r)
  (b, if again then d1 else regReadEffect d1 r)

/-- The host writes a byte of control space. -/
def hostWriteByte (a : BitVec 17) (b : Byte) (s : State) : State := if s.bus then { s with dev := byteWrite a b s.dev.hostHere } else s
/-- REGISTER_WRITE. -/
def execRegisterWrite (a : BitVec 17) (b : Byte) (s : State) : Ans := .next (hostWriteByte a b s)

/-- RTE_POSIN_SUBMIT: byte 31 of RTE_POSIN, with the bytes staged for its register. -/
def execRtePosinSubmit (b : Byte) (s : State) : Ans := .next (hostWriteByte 0xA11F#17 b s)

end Sys2Proof.Machine
end

