-- ==== Sys2Proof/Machine/Stream.lean ====
section
/-! DEFINITION. The event and record stream (R471 to R475): the record writer, the blocks of function 2, REPEAT, and the stream
condition of R460. -/
namespace Sys2Proof.Machine

open Sys2Proof

/-! ## The record writer (R473, R474) -/

/-- A marker that gives the length of a packet. -/
def isLength (w : QWord) : Bool := w.kind == .marker && w.mtype == 2#4

/-- Start time of the frame that a record's first word names, from the group frames of its network; 0 when not found. -/
def Dev.recordTime (d : Dev) (n : NetId) (w : QWord) : W64 :=
  if w.kind != .header then 0#64
  else
    match (d.net n).groups.findSome? (fun e => e.2.bind (fun g => g.starts.find? (fun t => t.1 == w.frame))) with
    | some (_, t) => t
    | none => 0#64

/-- The item of a packet (Table 13-14). -/
def Dev.itemOf (d : Dev) (n : BitVec 6) (ws : List QWord) : List Byte :=
  let r := d.rout n
  let w := ws.headD {}
  bytes32 (BitVec.ofNat 32 (8 * ws.length)) ++ bytes16 (n.setWidth 16) ++ [r.net.setWidth 8, w.epoch.setWidth 8] ++
    bytes64 (d.recordTime r.net w) ++ bytes32 r.rseq ++ List.replicate 12 0#8 ++ ws.flatMap (fun x => bytes64 x.payload)

/-- One second of TIME. -/
def oneSecond : Nat := 300000000

/-- A record is lost for want of room: counted, and reported at most once per second. -/
def Dev.recordLost (d : Dev) (n : BitVec 6) : Dev :=
  let r := d.rout n
  let due := match r.lostEvt with | some t => decide (oneSecond ≤ (d.time - t).toNat) | none => true
  let k := satInc r.lostRep
  let d1 := d.modRout n (fun r => { r with lost := satInc r.lost, lostRep := if due then 0#32 else k, lostEvt := if due then some d.time else r.lostEvt })
  if due then d1.raise 0xB002#16 r.part [arg32 n, k] else d1

/-- The units of 32 bytes of the ring that an item takes from offset `o` on, as device addresses. -/
def Rout.units (r : Rout) (len : Nat) : List Nat :=
  (List.range (itemRoom len / 32)).map (fun i => r.ringBase.toNat + (r.wpos + 32 * i) % max r.ringBytes 1)

/-- The class 2 bursts of an item: one for each granule of 512 bytes that it touches; one of another die is far. -/
def Dev.recordBursts (d : Dev) (p : PartId) (us : List Nat) : Dev :=
  d.countBursts (some p) 2#2 ((us.map (fun a => a / 512)).eraseDups)

/-- An item is written into the ring; one that meets a translation fault is discarded and counted in TFAULT.
Assumption 108 (DESIGN CHOICE): unsafe. -/
def Dev.recordPut (d : Dev) (n : BitVec 6) (item : List Byte) : Dev :=
  let r := d.rout n
  let us := r.units item.length
  match us.find? (fun a => !d.directOk r.part a true false) with
  | some a => d.tfault (.record n) r.part a
  | none =>
    let padded := item ++ List.replicate (itemRoom item.length - item.length) 0#8
    let d1 := (us.zipIdx).foldl (fun d e => d.writeBytes e.1 ((padded.drop (32 * e.2)).take 32)) d
    (d1.recordBursts r.part us).modRout n (fun r =>
      { r with items := r.items ++ [item], wpos := (r.wpos + itemRoom item.length) % max r.ringBytes 1 })

/-- A packet of a maquette frame: its record goes to the checker and never to the record stream (R79, R527). -/
def Dev.toChecker (d : Dev) (n : BitVec 6) (ws : List QWord) : Dev :=
  (d.modNet (d.rout n).net (fun x => { x with maq := { x.maq with outs := x.maq.outs ++ [(n, ws)] } })).modRout n (fun r =>
    { r with left := 0, held := [] })

/-- A whole packet has been read: that of a maquette frame goes to the checker; of another its item, or its loss, RSEQ being
consumed either way. -/
def Dev.recordTake (d : Dev) (n : BitVec 6) (ws : List QWord) : Dev :=
  if (ws.headD {}).kind == .header && (ws.headD {}).payload.getLsbD 54 then d.toChecker n ws
  else
  let r := d.rout n
  let item := d.itemOf n ws
  let d1 := if r.ringBytes < r.occ + itemRoom item.length then d.recordLost n else d.recordPut n item
  d1.modRout n (fun r => { r with rseq := r.rseq + 1#32, left := 0, held := [] })

/-- The record writer reads up to the end of a packet. -/
def Dev.recordRun (d : Dev) (n : BitVec 6) : Nat → Dev
  | 0 => d
  | k + 1 =>
    let r := d.rout n
    match (d.queue r.q).rcv r.rcv with
    | none => d
    | some x =>
      if x.skip != 0 then (d.endSkip r.q r.rcv).recordRun n k
      else match d.peek r.q r.rcv with
        | .stale => (d.epochDrop r.q r.rcv).recordRun n k
        | .bad _ => (d.seqRead r.q r.rcv).recordRun n k
        | .gap _ => (d.seqRead r.q r.rcv).recordRun n k
        | .empty => d
        | .word w =>
          let d1 := d.seqRead r.q r.rcv
          if r.left == 0 then
            (if isLength w then d1.modRout n (fun r => { r with left := wordLen w, held := [] }) else d1).recordRun n k
          else if r.left == 1 then d1.recordTake n (r.held ++ [w])
          else (d1.modRout n (fun r => { r with left := r.left - 1, held := r.held ++ [w] })).recordRun n k

/-- RECORD_ITEM_WRITE: the writer takes what has come of the next packet of its queue. A length word that the end of a skip has
delivered begins the packet. -/
def recordItem (n : BitVec 6) (d : Dev) : Dev :=
  let r := d.rout n
  if !r.valid then d
  else
    let d1 := match d.lastOf r.q r.rcv with
      | some w => if r.left == 0 && isLength w then d.modRout n (fun r => { r with left := wordLen w, held := [] }) else d
      | none => d
    d1.recordRun n (2 * (d.queue r.q).total + 2)
def execRecordItemWrite (n : BitVec 6) (s : State) : Ans := .next { s with dev := recordItem n s.dev }

/-! ## Blocks (R471, R472) -/

/-- An event as its 32 bytes (Table 13-11). -/
def Event.bytes (e : Event) : List Byte :=
  bytes16 e.code ++ [if e.unsync then 1#8 else 0#8, e.aux] ++ bytes32 e.eseq ++ bytes64 e.time ++
    ((e.args ++ List.replicate 4 0#32).take 4).flatMap bytes32

/-- A block: its header (Table 13-13), its payload, and zeros. -/
def streamBytes (bcode : Nat) (bseq : W32) (src : W16) (flags : Byte) (rseq roff : W32) (payload : List Byte) : List Byte :=
  bytes16 (BitVec.ofNat 16 bcode) ++ bytes16 (BitVec.ofNat 16 payload.length) ++ bytes32 bseq ++ bytes16 src ++ [flags, 0#8] ++
    bytes32 rseq ++ bytes32 roff ++ List.replicate 12 0#8 ++ payload ++ List.replicate (480 - payload.length) 0#8

/-- A block is delivered: it is kept among the last 8, and BSEQ counts it. -/
def Evt.delivered (e : Evt) (b : List Byte) : Evt :=
  { e with kept := (e.kept ++ [b]).drop (e.kept.length + 1 - 8), bseq := e.bseq + 1#32 }

/-- Events wait and firmware can build a block of them. -/
def Dev.eventsWait (d : Dev) : Bool := !d.evt.queue.isEmpty && d.fwRuns

/-- The output whose turn it is among those with data. -/
def Dev.recordTurn (d : Dev) : Option Nat :=
  let l := (d.routs.filter (fun e => !e.2.items.isEmpty)).map (fun e => e.1)
  (l.find? (fun n => d.evt.turnOut ≤ n)).orElse (fun _ => l.head?)

/-- Data no longer waits: STR_AGE begins anew. -/
def Dev.unage (d : Dev) : Dev := if d.blocksPending = 0 then d.modEvt (fun e => { e with aged := false }) else d

/-- A block of every waiting event, up to 15. -/
def Dev.eventBlock (d : Dev) : List Byte × Dev :=
  let b := streamBytes 1 d.evt.bseq 0xFFFF#16 0#8 0#32 0#32 ((d.evt.queue.take 15).flatMap Event.bytes)
  (b, (d.modEvt (fun e => { (e.delivered b) with queue := e.queue.drop 15, turnRec := true })).unage)

/-- A block of up to 480 bytes of an output's oldest item. -/
def Dev.recordBlock (d : Dev) (n : Nat) : List Byte × Dev :=
  let id : BitVec 6 := BitVec.ofNat 6 n
  let r := d.rout id
  let item := r.items.headD []
  let part := (item.drop r.readOff).take 480
  let last := decide (item.length ≤ r.readOff + part.length)
  let flags : Byte := (if r.readOff == 0 then 1#8 else 0#8) ||| (if last then 2#8 else 0#8)
  let b := streamBytes 2 d.evt.bseq (BitVec.ofNat 16 n) flags (BitVec.ofNat 32 (leNat ((item.drop 16).take 4))) (BitVec.ofNat 32 r.readOff) part
  let d1 := d.modRout id (fun r =>
    if last then { r with items := r.items.drop 1, readOff := 0 } else { r with readOff := r.readOff + part.length })
  (b, (d1.modEvt (fun e => { (e.delivered b) with turnRec := false, turnOut := (n + 1) % 64 })).unage)

/-- STREAM_BLOCK_READ: the block chosen at the moment of the read. Assumption 109 (DESIGN CHOICE): unsafe. -/
def Dev.nextBlock (d : Dev) : List Byte × Dev :=
  match d.evt.repeat_ with
  | b :: t => (b, d.modEvt (fun e => { e with repeat_ := t }))
  | [] =>
    match d.eventsWait, d.recordTurn with
    | true, some n => if d.evt.turnRec then d.recordBlock n else d.eventBlock
    | true, none => d.eventBlock
    | false, some n => d.recordBlock n
    | false, none =>
      let b := streamBytes 0 d.evt.bseq 0xFFFF#16 0#8 0#32 0#32 []
      (b, d.modEvt (fun e => e.delivered b))

/-- The next `n` blocks. -/
def Dev.blocks (d : Dev) : Nat → List Byte × Dev
  | 0 => ([], d)
  | n + 1 =>
    let (b, d1) := d.nextBlock
    let (l, d2) := d1.blocks n
    (b ++ l, d2)

/-! ## REPEAT and the stream condition (R460, R475, R478) -/

/-- STREAM_REPEAT. -/
def streamRepeat (k : BitVec 4) (d : Dev) : Dev := d.modEvt (fun e => e.repeatLast k.toNat)
def execStreamRepeat (k : BitVec 4) (s : State) : Ans := .next (hostWrite (streamRepeat k) s)

/-- STR_AGE_ELAPSED: pending data has waited STR_AGE. -/
def strAge (d : Dev) : Dev :=
  if d.evt.strAge != 0#16 && d.blocksPending != 0 then d.modEvt (fun e => { e with aged := true }) else d
def execStrAgeElapsed (s : State) : Ans := .next { s with dev := strAge s.dev }

/-- The stream condition: INT2 is pending. -/
def Dev.int2 (d : Dev) : Bool :=
  decide ((orOne d.evt.strTh).toNat ≤ d.blocksPending) || d.evt.aged ||
    d.evt.queue.any (fun e => d.evt.urgent.getLsbD (evtClass e.code))

/-- DONE and IEN: INT1 is pending. -/
def Dev.int1 (d : Dev) : Bool := d.mbx.done && d.mbx.ien

end Sys2Proof.Machine
end

