-- ==== Sys2Proof/Machine/Sdio.lean ====
section
/-! DEFINITION. The SDIO card (R455 to R460): its commands, the CCCR, FBR and CIS, the transfers of the four functions, and the bulk
window (R476, R477). Layouts that the manual takes from SDIO 3.00 are those of that specification. -/
namespace Sys2Proof.Machine

open Sys2Proof

/-! ## The CCCR, FBR and CIS (R458) -/

/-- Bits of a byte of function 0 that the host writes. -/
def fn0Mask (a : Nat) : Byte :=
  match a with
  | 0x02 => 0x0E#8 | 0x04 => 0x0F#8 | 0x07 => 0xA3#8 | 0x08 => 0x20#8 | 0x10 | 0x11 => 0xFF#8 | 0x12 => 0x02#8
  | 0x13 => 0x0E#8 | 0x15 => 0x30#8 | 0x16 => 0x02#8
  | 0x110 | 0x111 | 0x210 | 0x211 | 0x310 | 0x311 => 0xFF#8
  | _ => 0#8

/-- Fixed bits: revisions, SMB and S4MI, the CIS pointers, SHS, SSDR50, SSDR104 and SDDR50, driver types A and C, SAI.
Assumption 103 (PRESUMED): unsafe. -/
def fn0Fixed (a : Nat) : Byte :=
  match a with
  | 0x00 => 0x43#8 | 0x01 => 0x03#8 | 0x08 => 0x12#8 | 0x0A => 0x10#8 | 0x13 => 0x01#8 | 0x14 => 0x07#8 | 0x15 => 0x03#8 | 0x16 => 0x01#8
  | 0x10A | 0x20A | 0x30A => 0x10#8
  | _ => 0#8

/-- The CIS at 0x1000: CISTPL_MANFID, CISTPL_FUNCE with the largest block size, CISTPL_END. -/
def cis (die1 : Bool) : List Byte :=
  [0x20#8, 4#8, 0x7C#8, 0x0A#8, if die1 then 0x40#8 else 0x20#8, 0x96#8, 0x22#8, 4#8, 0#8, 0#8, 2#8, 0x32#8, 0xFF#8]

/-- IORx: function 1 is ready once RESET_N is released, functions 2 and 3 when firmware has started (R459).
Assumption 104 (DEDUCED): unsafe. -/
def Dev.ioReady (d : Dev) : Byte :=
  if d.pwr.resetHeld || d.pwr.supplyFail then 0#8 else if d.pwr.fwUp then 0x0E#8 else 0x02#8

/-- A byte of function 0. -/
def fn0Read (d : Dev) (a : Nat) : Byte :=
  match a with
  | 0x03 => d.ioReady
  | 0x05 => (if d.int1 then 2#8 else 0#8) ||| (if d.int2 then 4#8 else 0#8)
  | _ =>
    if 0x2000 ≤ a then 0#8
    else if 0x1000 ≤ a then (cis d.die1).getD (a % 0x1000) 0#8
    else fn0Fixed a ||| tblGet 0#8 d.card.cccr a

/-- RES: the card must be initialised again; the registers of the functions stay. Assumption 107 (DEDUCED): unsafe. -/
def Card.restart (c : Card) : Card := { v18 := c.v18, bulkPage := c.bulkPage, bulkErr := c.bulkErr }

/-- A byte of function 0 is written; the abort bits end the open transfer of the function that they name. -/
def fn0Write (a : Nat) (b : Byte) (d : Dev) : Dev :=
  if a == 0x06 then
    if b.getLsbD 3 then d.modCard Card.restart
    else d.modCard (fun c => { c with openFn := if c.openFn == some (b.extractLsb' 0 3) then none else c.openFn })
  else d.modCard (fun c => { c with cccr := tblSet 0#8 c.cccr a (b &&& fn0Mask a) })

/-- The card interrupt on DAT1: a pending function whose IENx and IENM are set. -/
def Dev.cardInt (d : Dev) : Bool :=
  let e := tblGet 0#8 d.card.cccr 4
  e.getLsbD 0 && ((e.getLsbD 1 && d.int1) || (e.getLsbD 2 && d.int2))

/-! ## The bulk window (R476, R477) -/

/-- Functions 2 and 3 serve: firmware has started, and the package is not in deep standby. -/
def Dev.f23 (d : Dev) : Bool := d.pwr.fwUp && d.pwr.state != .deep

/-- The device address of a byte of the window. -/
def bulkAddr (d : Dev) (a : Nat) : Nat := 65536 * d.card.bulkPage.toNat + a

/-- The window reaches an address: a PSRAM view whose channel works, or the index.
Assumption 106 (DESIGN CHOICE): unsafe. -/
def Dev.bulkReach (d : Dev) (a : Nat) : Bool :=
  match locate d.die1 a with | some pl => !(d.chan pl.1).failed | none => isIndexAddr a

/-- One granule is reached in class 3; its channel leaves self-refresh (R497). -/
def Dev.bulkBurst (d : Dev) (a : Nat) : Dev :=
  match locate d.die1 a with
  | none => d
  | some pl => (d.countBurst (pl.1 / 96) 3#2).modChan pl.1 (fun c => { c with selfRefresh := false })

/-- An access of `n` bytes: a burst for each granule that it reaches, and a count when it touches an address that it does not. -/
def Dev.bulkTouch (d : Dev) (a n : Nat) : Dev :=
  let as := (List.range n).map (fun i => a + i)
  let d1 := (((as.filter (fun x => d.bulkReach x)).map (fun x => x / 512)).eraseDups).foldl (fun d g => d.bulkBurst (512 * g)) d
  if as.all (fun x => d.bulkReach x) then d1 else d1.modCard (fun c => { c with bulkErr := satInc c.bulkErr })

/-- Bytes read through the window. -/
def Dev.bulkRead (d : Dev) (a n : Nat) : List Byte × Dev :=
  ((List.range n).map (fun i =>
    if d.bulkReach (a + i) then (if isIndexAddr (a + i) then d.indexByte (a + i) else d.readByte (a + i)) else 0#8), d.bulkTouch a n)

/-- Bytes written through the window: those of the index in whole entries (R333). -/
def Dev.bulkWrite (d : Dev) (a : Nat) (l : List Byte) : Dev :=
  let d1 := d.bulkTouch a l.length
  let es := (l.zipIdx).map (fun e => (a + e.2, e.1))
  let ix := es.filter (fun e => isIndexAddr e.1)
  let d2 := match ix with | [] => d1 | (b, _) :: _ => d1.writeIndex b (ix.map (fun e => e.2))
  (es.filter (fun e => !isIndexAddr e.1 && d.bulkReach e.1)).foldl (fun d e => d.writeByte e.1 e.2) d2

/-- The register of function 3 that a byte belongs to. -/
def reg3 (a : Nat) : BitVec 18 := BitVec.ofNat 18 (0x20000 + a / 4 * 4)

/-- A byte of function 3's registers (Table 13-16). -/
def fn3RegRead (a : Nat) (d : Dev) : Byte × Dev :=
  d.latchByte (reg3 a) (a % 4) (if a < 0x10004 then d.card.bulkPage.setWidth 32 else d.card.bulkErr)
def fn3RegWrite (a : Nat) (b : Byte) (d : Dev) : Dev :=
  match d.stageByte (reg3 a) (a % 4) b with
  | (some v, d1) => if a < 0x10004 then d1.modCard (fun c => { c with bulkPage := v.setWidth 24 }) else d1
  | (none, d1) => d1

/-- Bytes of function 3 from an address upward: the window, then the registers. -/
def fn3Read (a n : Nat) (d : Dev) : List Byte × Dev :=
  let k := min n (0x10000 - a)
  let (l, d1) := if k == 0 then ([], d) else d.bulkRead (bulkAddr d a) k
  (List.range (n - k)).foldl (fun r i => let (b, e) := fn3RegRead (a + k + i) r.2; (r.1 ++ [b], e)) (l, d1)
def fn3Write (a : Nat) (l : List Byte) (d : Dev) : Dev :=
  let k := 0x10000 - a
  let d1 := if (l.take k).isEmpty then d else d.bulkWrite (bulkAddr d a) (l.take k)
  ((l.drop k).zipIdx).foldl (fun d e => fn3RegWrite (a + min k l.length + e.2) e.1 d) d1

/-! ## Responses -/

/-- The flags and the data of an R5 response. -/
def r5 (illegal : Bool) (open_ : Bool) (badFn range : Bool) (b : Byte) : W32 :=
  flag illegal 14 ||| (if open_ then 0x2000#32 else 0x1000#32) ||| flag badFn 9 ||| flag range 8 ||| fld b 0

/-- A response in place of the last one; what it reported is reported no more. -/
def Dev.respond (d : Dev) (r : W32) (data : List Byte) : Dev := d.modCard (fun c => { c with resp := r, data := data, illegal := false })

/-- An R1 response: ILLEGAL_COMMAND is bit 22. -/
def Dev.r1 (d : Dev) : Dev := d.respond (flag d.card.illegal 22) []

/-- The R5 response of an access. -/
def Dev.r5 (d : Dev) (badFn range : Bool) (b : Byte) (data : List Byte) : Dev :=
  d.respond (Sys2Proof.Machine.r5 d.card.illegal d.card.openFn.isSome badFn range b) data

/-- The card takes a command: its signals are its own, and CMD15 has not made it inactive. -/
def cardDo (f : Dev → Dev) (s : State) : State := if s.bus && !s.dev.card.inactive then { s with dev := f s.dev } else s

/-! ## The commands of Table 13-1 -/

/-- CMD0 has no effect. -/
def execCmd0 (s : State) : Ans := .next s

/-- CMD3: a relative card address that the card chooses, in an R6 response. -/
def cmd3 (d : Dev) : Dev :=
  let (a, d1) := d.free 16
  (d1.respond (fld a 16 ||| flag d.card.illegal 14) []).modCard (fun c => { c with rca := a, selected := false })
def execCmd3 (s : State) : Ans := .next (cardDo cmd3 s)

/-- CMD5: ready, 3 functions, no memory, S18A when S18R is asked at 3.3 V, and the window bits [21:20]. -/
def cmd5 (arg : W32) (d : Dev) : Dev :=
  d.modCard (fun c => { c with resp := 0xB0300000#32 ||| flag (arg.getLsbD 24 && !c.v18) 24, data := [] })
def execCmd5 (arg : W32) (s : State) : Ans := .next (cardDo (cmd5 arg) s)

/-- CMD7: the card with the address is selected, any other deselected; only the selected card answers. -/
def cmd7 (rca : W16) (d : Dev) : Dev :=
  if rca != 0#16 && rca == d.card.rca then d.r1.modCard (fun c => { c with selected := true })
  else d.modCard (fun c => { c with selected := false })
def execCmd7 (rca : W16) (s : State) : Ans := .next (cardDo (cmd7 rca) s)

/-- CMD11. -/
def cmd11 (d : Dev) : Dev := d.r1.modCard (fun c => { c with v18 := true })
def execCmd11 (s : State) : Ans := .next (cardDo cmd11 s)

/-- CMD15: the card with the address becomes inactive. -/
def cmd15 (rca : W16) (d : Dev) : Dev := if rca == d.card.rca then d.modCard (fun c => { c with inactive := true }) else d
def execCmd15 (rca : W16) (s : State) : Ans := .next (cardDo (cmd15 rca) s)

/-- The tuning block of the SD specification. -/
def tuningBlock : List Byte :=
  bytes64 0xCCC3CCFF00FF0FFF#64 ++ bytes64 0xEFFEFFFEFFCC3CC3#64 ++ bytes64 0xFBFFFBFFDDFFDFFF#64 ++ bytes64 0xEFBDF777FF7FFFBF#64 ++
    bytes64 0x3CCCFC0FF0FFF0FF#64 ++ bytes64 0xEEFFEFFFCFCC33CC#64 ++ bytes64 0xFFBFFFDFFDFFFDFF#64 ++ bytes64 0xDE7B7FF7FFF7FFBB#64

/-- SDR50 or SDR104: 1.8 V and BSS 2 or 3 of the CCCR. -/
def Card.tunes (c : Card) : Bool :=
  let b := (tblGet 0#8 c.cccr 0x13).extractLsb' 1 3
  c.v18 && (b == 2#3 || b == 3#3)

/-- CMD19: the tuning block; in the other bus modes it is not a command that the card answers. -/
def cmd19 (d : Dev) : Dev :=
  if d.card.tunes then d.r1.modCard (fun c => { c with data := tuningBlock }) else d.modCard (fun c => { c with illegal := true })
def execCmd19 (s : State) : Ans := .next (cardDo cmd19 s)

/-- A command that addresses a function has come to the selected card; one to functions 1 to 3 shows that the host is there (R479).
Assumption 102 (DEDUCED): unsafe. -/
def fnDo (fn : BitVec 3) (f : Store → Dev → Dev) (s : State) : State :=
  cardDo (fun d => if !d.card.selected then d else f s.store (if 1 ≤ fn.toNat ∧ fn.toNat ≤ 3 then d.hostHere else d)) s

/-- CMD52. A byte of function 2 is none that the manual gives, and a write to it has no effect. -/
def cmd52 (write : Bool) (fn : BitVec 3) (a : BitVec 17) (b : Byte) (st : Store) (d : Dev) : Dev :=
  match fn.toNat with
  | 0 => if write then (fn0Write a.toNat b d).r5 false false b [] else d.r5 false false (fn0Read d a.toNat) []
  | 1 =>
    if write then (byteWrite a b d).r5 false false b []
    else let (x, d1) := byteRead st a d; d1.r5 false false x []
  | 2 =>
    if a != 0#17 then d.r5 false true 0#8 []
    else if write || !d.f23 then d.r5 false false b []
    else let (x, d1) := d.free 8; d1.r5 false false x []
  | 3 =>
    if 0x10008 ≤ a.toNat then d.r5 false true 0#8 []
    else if !d.f23 then d.r5 false false 0#8 []
    else if write then (fn3Write a.toNat [b] d).r5 false false b []
    else let (l, d1) := fn3Read a.toNat 1 d; d1.r5 false false (l.headD 0#8) []
  | _ => d.r5 true false 0#8 []
def execCmd52 (write : Bool) (fn : BitVec 3) (a : BitVec 17) (b : Byte) (s : State) : Ans := .next (fnDo fn (cmd52 write fn a b) s)

/-- The block size of a function, from its FBR or the CCCR. -/
def Dev.blockSize (d : Dev) (fn : BitVec 3) : Nat :=
  let a := 0x100 * fn.toNat + 0x10
  (tblGet 0#8 d.card.cccr a).toNat + 256 * (tblGet 0#8 d.card.cccr (a + 1)).toNat

/-- A size that Table 13-2 allows. -/
def sizeOk (fn size : Nat) : Bool :=
  match fn with
  | 0 => decide (1 ≤ size ∧ size ≤ 512)
  | 1 => decide (4 ≤ size ∧ size ≤ 512 ∧ size % 4 = 0)
  | 2 => size == 512
  | _ => decide (16 ≤ size ∧ size ≤ 512 ∧ size % 16 = 0)

/-- The end of a function's addresses. Assumption 105 (DESIGN CHOICE): safe. -/
def fnEnd (fn : Nat) : Nat := match fn with | 2 => 1 | 3 => 0x10008 | _ => 0x20000

/-- Bytes of a transfer: its unit, and its length, that of the bytes moved before the abort for an open one. -/
def Dev.transfer (d : Dev) (fn : BitVec 3) (block : Bool) (count : BitVec 9) (moved : Nat) : Nat × Nat :=
  if block then
    let z := d.blockSize fn
    (z, if count == 0#9 then moved / max z 1 * z else count.toNat * z)
  else let n := if count == 0#9 then 512 else count.toNat; (n, n)

/-- The form is one of Table 13-2. -/
def formOk (write : Bool) (fn : Nat) (block incr : Bool) (a : Nat) (count : BitVec 9) (size len : Nat) : Bool :=
  sizeOk fn size && (!block || count != 0#9 || fn == 2 || fn == 3) &&
    match fn with
    | 0 => !block && incr && decide (a + len ≤ fnEnd 0)
    | 1 => incr && decide (a + len ≤ fnEnd 1)
    | 2 => !write && block && !incr && a == 0
    | _ => incr && decide (a + len ≤ fnEnd 3)

/-- Bytes read of functions 0 and 1, one after the other. -/
def readRun (f : Nat → Dev → Byte × Dev) (a : Nat) : Nat → Dev → List Byte × Dev
  | 0, d => ([], d)
  | n + 1, d =>
    let (b, d1) := f a d
    let (l, d2) := readRun f (a + 1) n d1
    (b :: l, d2)

/-- What a transfer of an allowed form moves: the bytes read, and the device. -/
def moveBytes (write : Bool) (fn : Nat) (a len : Nat) (bytes : List Byte) (st : Store) (d : Dev) : List Byte × Dev :=
  let l := bytes.take len
  match fn with
  | 0 => if write then ([], (l.zipIdx).foldl (fun d e => fn0Write (a + e.2) e.1 d) d) else readRun (fun a d => (fn0Read d a, d)) a len d
  | 1 =>
    if write then ([], (l.zipIdx).foldl (fun d e => byteWrite (BitVec.ofNat 17 (a + e.2)) e.1 d) d)
    else readRun (fun a d => byteRead st (BitVec.ofNat 17 a) d) a len d
  | 2 => if d.f23 then d.blocks (len / 512) else ([], d)
  | _ => if !d.f23 then ([], d) else if write then ([], fn3Write a l d) else fn3Read a len d

/-- CMD53 (R457). An open transfer of function 2 or 3 gives in `bytes` what the host moves before it writes the abort bits. -/
def cmd53 (write : Bool) (fn : BitVec 3) (block incr : Bool) (a : BitVec 17) (count : BitVec 9) (bytes : List Byte) (st : Store) (d : Dev) : Dev :=
  let (size, len) := d.transfer fn block count bytes.length
  if 4 ≤ fn.toNat then d.r5 true false 0#8 []
  else if !formOk write fn.toNat block incr a.toNat count size len then d.r5 false true 0#8 []
  else
    let (data, d1) := moveBytes write fn.toNat a.toNat len bytes st d
    (d1.r5 false false 0#8 data).modCard (fun c => { c with openFn := if block && count == 0#9 then some fn else c.openFn })
def execCmd53 (write : Bool) (fn : BitVec 3) (block incr : Bool) (a : BitVec 17) (count : BitVec 9) (bytes : List Byte) (s : State) : Ans :=
  .next (fnDo fn (cmd53 write fn block incr a count bytes) s)

/-- The commands that the card answers. -/
def answered (idx : BitVec 6) : Bool := [0, 3, 5, 7, 11, 15, 19, 52, 53].contains idx.toNat

/-- SDIO_ILLEGAL_COMMAND (R456): ILLEGAL_COMMAND is set in the next response. -/
def illegalCommand (idx : BitVec 6) (d : Dev) : Dev := if answered idx then d else d.modCard (fun c => { c with illegal := true })
def execSdioIllegalCommand (idx : BitVec 6) (s : State) : Ans := .next (cardDo (illegalCommand idx) s)

end Sys2Proof.Machine
end

