-- ==== Sys2Proof/Machine/HostSilent.lean ====
section
/-! DEFINITION. Host presence and the fallback (R479, Table 13-18): what every case that waits for the host becomes. -/
namespace Sys2Proof.Machine

open Sys2Proof

/-- Repair pauses go on. -/
def Dev.fallRepair (d : Dev) : Dev :=
  allNets.foldl (fun d n => match d.repairWaits n with | some k => d.nextRound n k.incomplete | none => d) d

/-- Deadlock freezes drop and resume. -/
def Dev.fallFreeze (d : Dev) : Dev := (allParts.filter (fun p => (d.part p).frozen)).foldl (fun d p => d.dropResume p) d

/-- A frozen DMA channel goes on from DMA_RESUME, its faulting bursts filled with zeros or discarded.
Assumption 111 (DESIGN CHOICE): unsafe. -/
def Dev.fallDma (d : Dev) : Dev :=
  { d with dma := tblMap {} d.dma (fun _ c => if c.state == 1#2 then { c with state := 0#2, resume := 0#32 } else c) }

/-- Pending adaptation candidates go to trial. -/
def Dev.fallAdapt (d : Dev) : Dev :=
  { d with adapt := tblMap {} d.adapt (fun _ a => if a.state == .pendingHost then a.startTrial else a) }

/-- Pending reference candidates are decided as the hardware would. -/
def Dev.fallRoute (d : Dev) : Dev :=
  d.route.pend.foldl (fun d c => if d.candWhole c && !c.tainted then d.commitCand c else d.discardCand c)
    (d.modRoute (fun r => { r with pend := [] }))

/-- Partitions that wait for BOACK resume. -/
def Dev.fallBrown (d : Dev) (st : Store) : Dev :=
  let d1 := { d with dies := tblMap {} d.dies (fun _ x => { x with recastNets := x.recastNets.map (fun (e : NetId × PartId × Bool) => (e.1, e.2.1, false)) }) }
  (d1.ackable 0xFFFFFFFF#32).foldl (fun d p => d.brownAck st p) d1

/-- Second faults that wait are decided, and planned margins applied. -/
def Dev.fallHealth (d : Dev) : Dev :=
  let d1 := (allParts.filter (fun p => (d.part p).faultWait.isSome)).foldl (fun d p => d.faultWaitHw p) d
  (allParts.filter (fun p => (d.part p).propValid || (d.part p).derProp)).foldl (fun d p => d.applyPlan p) d1

/-- Every case that waits for the host is resolved as in hardware mode. Assumption 126 (DESIGN CHOICE): unsafe. -/
def Dev.fallBack (d : Dev) (st : Store) : Dev :=
  ((((((d.modEvt (fun e => { e with fallen := true })).fallRepair.fallFreeze.fallDma).fallAdapt).fallRoute).fallBrown st).fallHealth)

/-- HOST_SILENT: no command addressed to functions 1 to 3 for HOST_TO ms. Assumption 110 (DESIGN CHOICE): unsafe. -/
def hostSilent (s : State) : State :=
  let d := s.dev
  if d.evt.hostTo == 0#16 || d.evt.silent || d.pwr.resetHeld || d.pwr.supplyFail then s
  else
    let d1 := (d.modEvt (fun e => { e with silent := true, hostSil := satInc e.hostSil })).raise0 0x1007#16 [arg32 d.evt.hostTo]
    { s with dev := if d.evt.fallback then d1.fallBack s.store else d1 }
def execHostSilent (s : State) : Ans := .next (hostSilent s)

end Sys2Proof.Machine
end

