-- ==== Sys2Proof/Machine/Bringup.lean ====
section
/-! DEFINITION. Bring-up (R481 to R489): its nine stages, each with its report record, the defaults (R302, R303), the choice of a
firmware bank (R301) and the health record's restart (R300). -/
namespace Sys2Proof.Machine

open Sys2Proof

/-! ## Reports (R484) -/

/-- Put a record into the boot log of this bring-up: at most 64 of them. -/
def Health.report (h : Health) (r : BootRec) : Health :=
  match h.bootlog with
  | [] => { h with bootlog := [[r]] }
  | l :: t => { h with bootlog := (if l.length < 64 then l ++ [r] else l) :: t }

/-- The result of a stage: 1 with losses. -/
def resultOf (losses : Bool) : Nat := if losses then 1 else 0

/-- Write a report record; the first with RESULT 1 or 3 gives FIRSTFAIL. -/
def Dev.report (d : Dev) (result net : Nat) (us c0 c1 c2 c3 : W32) : Dev :=
  let w := d.pwr
  let flags : Byte := (if w.fast then 1#8 else 0#8) ||| (if w.restart then 2#8 else 0#8)
  let d1 := d.modHealth (fun h => h.report
    { stage := w.stage.setWidth 8, result := BitVec.ofNat 8 result, flags := flags, net := BitVec.ofNat 8 net, duration := us, boots := h.boots,
      c0 := c0, c1 := c1, c2 := c2, c3 := c3 })
  d1.modPwr (fun w => { w with firstFail := if (result == 1 || result == 3) && w.firstFail == 0#4 then w.stage else w.firstFail })

/-- The stage ends and the next begins. -/
def Dev.nextStage (d : Dev) (us : W32) : Dev :=
  d.modPwr (fun w => { w with stage := w.stage + 1#4, bootUs := w.bootUs + us.toNat, restart := false, stopped := false })

/-- The stage stops bring-up (R482). -/
def Dev.bringStop (d : Dev) (r : StageReport) : Dev :=
  (d.report 3 0xFF r.duration r.count0 r.count1 0#32 0#32).modPwr (fun w => { w with stopped := true })

/-- A count as a record holds it. -/
def cnt (n : Nat) : W32 := satOf 32 n

/-! ## Stage 2: the container (R292, R295, R300, R301) -/

/-- The bank that the boot ROM takes: the higher version among those that verify, bank A of two alike; none when neither does. -/
def Store.bootBank (st : Store) : Option Bool :=
  let ok (b : Option FwImg) : Option FwImg := b.bind (fun f => if verifyFw st f == 0#16 then some f else none)
  match ok st.bankA, ok st.bankB with
  | some a, some b => some (decide (a.version.toNat < b.version.toNat))
  | some _, none => some false
  | none, some _ => some true
  | none, none => none

/-- A new health record: HGEN and the floors 0, and everything else that the record held lost.
Assumption 116 (DEDUCED): unsafe. -/
def Store.newRecord (st : Store) : Store :=
  { st with healthOk := true, hgen := 0#64, fwFloor := 0#32, setFloor := 0#32, udFloor := 0#32, ownFloor := 0#32 }
def Dev.newRecord (d : Dev) : Dev :=
  let d1 := d.modHealth (fun h => { h with fences := [], badSegs := [], trained := false, restarted := true, boots := 0#32, bootlog := [], patina := [] })
  let d2 := { d1 with
    parts := tblMap {} d1.parts (fun _ x => ({ x with margin := 0#8, derated := false } : Partition).request),
    chans := tblMap {} d1.chans (fun _ c => { c with failed := false }) }
  (d2.modPwr (fun w => { w with fast := false })).raise0 0x5006#16 []

/-- Entries of the fence log that no commit reached join the fence list (R511). -/
def commitLog (s : State) : State :=
  let n := s.dev.health.flog.length
  { s with dev := s.dev.modHealth (fun h => { h with fences := h.fences ++ h.flog, flog := [], flogFull := false }),
           store := { s.store with hgen := s.store.hgen + BitVec.ofNat 64 n } }

/-! ## Defaults (R302, R303) -/

/-- The address and the page of an entry. -/
def defAt (e : DefEntry) : Nat × Nat := ((e.addr.extractLsb' 0 17).toNat, (e.addr.extractLsb' 17 15).toNat)

/-- An entry that addresses a register, writable bits alone and a resource that is present. -/
def Dev.defOk (d : Dev) (e : DefEntry) : Bool :=
  let (a, page) := defAt e
  let present := if a < 0x10000 then d.regPresent a else d.expertServed (expertAt page (a % 0x10000)).1
  a % 4 == 0 && present && e.mask &&& ~~~(BitVec.ofNat 32 (regMask page a)) == 0#32

/-- An entry is applied as a masked write; WEN does not matter to one in the expert window. -/
def Dev.defApply (d : Dev) (st : Store) (e : DefEntry) : Dev :=
  let (a, page) := defAt e
  let put (d : Dev) : Dev := regApply a ((regRead st d a &&& ~~~(e.mask ||| regW1c a)) ||| (e.value &&& e.mask)) d
  if a < 0x10000 then put d
  else { put { d with xptPage := BitVec.ofNat 15 page, xptWen := true } with xptPage := d.xptPage, xptWen := d.xptWen }

/-- Apply entries in order, counting those applied and those skipped. -/
def Dev.defaults (d : Dev) (st : Store) (l : List DefEntry) : Dev × Nat × Nat :=
  l.foldl (fun r e => if r.1.defOk e then (r.1.defApply st e, r.2.1 + 1, r.2.2) else (r.1, r.2.1, r.2.2 + 1)) (d, 0, 0)

/-- The user-defaults block in force at bring-up, and whether one is there that does not verify. -/
def Store.udBoot (st : Store) : Option UdImg × Bool :=
  match st.ud with
  | none => (none, false)
  | some u => if verifyUd st u == 0#16 then (some u, false) else (none, true)

/-- The defaults of a bring-up: with the identity unavailable the factory's alone (R295). -/
def bootDefaults (st : Store) (d : Dev) : Dev × Nat × Nat × Bool :=
  let (ud, bad) := if st.factory.pufOk then st.udBoot else (none, false)
  let (d1, k, skip) := d.defaults st (st.factory.defaults ++ ((ud.map (fun u => u.entries)).getD []))
  let d2 := if bad then d1.raise0 0x5004#16 [] else d1
  (if skip == 0 then d2 else d2.raise0 0x5005#16 [cnt skip], k, skip, bad)

/-- Stage 2 passes: firmware runs from the bank, the record and the log are in order, the defaults applied. -/
def stage2Pass (r : StageReport) (b : Bool) (s : State) : State :=
  let s0 := { s with store := { s.store with runB := b } }
  let s1 := if s0.store.healthOk then s0 else { s0 with store := s0.store.newRecord, dev := s0.dev.newRecord }
  let s2 := commitLog s1
  let d0 := if s2.store.factory.pufOk then s2.dev else s2.dev.raise0 0x1008#16 []
  let (d1, k, skip, bad) := bootDefaults s2.store ((d0.modPwr (fun w => { w with fwUp := true })).fwStart)
  let losses := r.losses || skip != 0 || bad || !s2.store.factory.pufOk
  let d2 := d1.report (resultOf losses) 0xFF r.duration (if b then 1#32 else 0#32) ((fwVersion s2.store).setWidth 32) (cnt k) (cnt skip)
  { s2 with dev := d2.nextStage r.duration }

/-- Stage 2. A factory region that does not verify stops it with firmware serving control space and the mailbox (R292); without a
bank only the ID block answers. Assumption 114 (DESIGN CHOICE): unsafe. Assumption 115 (DESIGN CHOICE): unsafe. -/
def stage2 (r : StageReport) (s : State) : State :=
  if s.dev.pwr.stopped then s
  else match (if r.stop then none else s.store.bootBank) with
    | none => { s with dev := s.dev.bringStop r }
    | some b =>
      if s.store.factory.verifies then stage2Pass r b s
      else { s with dev := ((s.dev.modPwr (fun w => { w with fwUp := true })).fwStart).bringStop r, store := { s.store with runB := b } }

/-! ## Stages 1 and 3 to 6 -/

/-- Stage 1: without lock the PLL is tried again, and the device stays. Which of the optional PMBus targets answer (R544) is the
board's: a free value. Assumption 136 (DESIGN CHOICE): safe. -/
def stage1 (r : StageReport) (d : Dev) : Dev :=
  if r.stop || !d.pll.locked then d.bringStop r
  else
    let (t, d1) := d.free 4
    ({ d1 with pins := { d1.pins with pmbTargets := t } }.report (resultOf r.losses) 0xFF r.duration r.count0 r.count1 0#32 0#32).nextStage r.duration

/-- How many bits are set. -/
def ones {n : Nat} (x : BitVec n) : Nat := ((List.range n).filter (fun i => x.getLsbD i)).length

/-- The PSRAM channels that are present. -/
def Dev.chanCount (d : Dev) : Nat := if d.die1 then 192 else 96

/-- Channels after training: on the cold path, and after a deep standby without retention (R498), every one is trained
anew; on the fast path a recorded failure stays. Assumption 151 (DEDUCED): unsafe. -/
def Dev.trainChans (d : Dev) (failed : List (Fin 192)) : Dev :=
  let bad := failed.map (fun f => f.val)
  { d with chans := (List.range d.chanCount).foldl (fun t i =>
      tblMod {} t i (fun c => { c with selfRefresh := false, failed := bad.contains i || (d.pwr.fast && !d.pwr.fullTrain && c.failed) })) d.chans }

/-- The links of the lanes that came up. -/
def Dev.trainLanes (d : Dev) (up : W32) (chain : Byte) : Dev :=
  let d1 := allParts.foldl (fun d l => if d.lanePresent l then
      d.modLane l (fun x => { x with link := up.getLsbD l.toNat, fecLock := up.getLsbD l.toNat }) else d) d
  d1.modIng (fun g => { g with wup := chain.extractLsb' 0 4 == 0xF#4, eup := chain.extractLsb' 4 4 == 0xF#4 })

/-- Stage 3. -/
def stage3 (r : StageReport) (d : Dev) : Dev :=
  let d1 := (d.trainLanes r.lanesUp r.chainUp).trainChans r.channelsFailed
  let d2 := (d1.dies_.foldl (fun d i => d.modRing i (fun x => { x with up := true })) d1).modHealth (fun h => { h with trained := h.trained || !d.pwr.fast })
  let bad := (d2.chans.filter (fun e => e.2.failed)).length
  let up := ones (if d.die1 then r.lanesUp else r.lanesUp &&& 0xFFFF#32)
  let losses := r.losses || bad != 0
  (d2.report (resultOf losses) 0xFF r.duration (cnt up) (cnt (ones r.chainUp)) (cnt (d2.chanCount - bad)) (cnt bad)).nextStage r.duration

/-- Stage 4: segments that fail are recorded (R483). -/
def stage4 (r : StageReport) (d : Dev) : Dev :=
  let d1 := d.modHealth (fun h => { h with badSegs := h.badSegs ++ (r.segmentsFailed.eraseDups).filter (fun s => !h.badSegs.contains s) })
  let losses := r.losses || !r.segmentsFailed.isEmpty
  (d1.report (resultOf losses) 0xFF r.duration r.count0 (cnt r.segmentsFailed.eraseDups.length) r.count2 0#32).nextStage r.duration

/-- Good cores of the package that a test or a load found bad enter the fence list. -/
def fenceBad (cause : BitVec 3) (cs : List CoreId) (s : State) : Nat × State :=
  let bad := (cs.eraseDups).filter (fun c => s.dev.diePresent (dieOfCore c) && s.dev.good c)
  (bad.length,
    { s with dev := s.dev.modHealth (fun h => { h with fences := h.fences ++ bad.map (fun c => ⟨c, cause, h.mapgen⟩) }),
             store := { s.store with hgen := s.store.hgen + (if bad.isEmpty then 0#64 else 1#64) } })

/-- Stage 5: skipped on the fast path. -/
def stage5 (r : StageReport) (s : State) : State :=
  let fast := s.dev.pwr.fast
  let (k, s1) := if fast then (0, s) else fenceBad 0#3 r.coresFailed s
  let d := s1.dev
  let result := if fast then 2 else resultOf (r.losses || k != 0)
  let d2 := d.report result 0xFF r.duration (if fast then 0#32 else r.count0) (cnt k) (cnt d.health.fences.length) d.health.mapgen
  { s1 with dev := d2.nextStage r.duration }

/-- The networks that stage 7 casts: BOOTNET of BOOTSET, or those recorded at standby; none while the identity is unavailable, nor
in the factory mode of TEST_N (Table 16-3). -/
def Dev.bootList (d : Dev) (st : Store) : List (NetId × BitVec 3) :=
  if d.pwr.state == .waking then d.pwr.bootNets
  else if !st.factory.pufOk || !d.pins.testN then []
  else match st.udBoot.1 with
    | none => []
    | some u => if u.bootset.toNat < 8 then (allNets.filter (fun n => u.bootnet.getLsbD n.toNat)).map (fun n => (n, u.bootset.setWidth 3)) else []

/-- The casting of the network in hand begins. -/
def Dev.bootCast (d : Dev) (st : Store) : Dev :=
  match d.pwr.bootNets with
  | [] => d
  | (n, slot) :: _ => (d.modPwr (fun w => { w with aborts := 0 })).autoCast st n slot d.pwr.fast

/-- Stage 6: a core that does not acknowledge is fenced, with a cause that the manual does not name. -/
def stage6 (r : StageReport) (s : State) : State :=
  let (cause, d0) := s.dev.free 3
  let (k, s1) := fenceBad cause r.coresFailed { s with dev := d0 }
  let d1 := (s1.dev.report (resultOf (r.losses || k != 0)) 0xFF r.duration r.count0 (cnt k) 0#32 0#32).nextStage r.duration
  let l := d1.bootList s1.store
  { s1 with dev := (d1.modPwr (fun w => { w with bootNets := l })).bootCast s1.store }

/-! ## Stages 7 to 9 -/

/-- The report of a network's casting. -/
def Dev.castReport (d : Dev) (r : StageReport) (n : NetId) (slot : BitVec 3) : Dev :=
  let ps := d.partsOfNet n
  let ok := d.isCast n
  let rounds := ps.foldl (fun m p => max m (d.part p).rounds.toNat) 0
  let fenced := (ps.map (fun p => (d.part p).castFenced.toNat)).sum
  let code : W32 := if ok then 0#32 else match ps with | p :: _ => arg32 (d.part p).castErr | [] => arg32 (castCode 110)
  d.report (resultOf !ok) n.toNat r.duration (arg32 slot) (cnt rounds) (cnt fenced) code

/-- Stage 7: one network at a time; the row of a network is its casting's end. -/
def stage7 (r : StageReport) (st : Store) (d : Dev) : Dev :=
  match d.pwr.bootNets with
  | [] => (d.report (resultOf r.losses) 0xFF r.duration 0#32 0#32 0#32 0#32).nextStage r.duration
  | (n, slot) :: t =>
    if (d.net n).casting.isSome then d
    else
      let d1 := (d.castReport r n slot).modPwr (fun w => { w with bootNets := t, aborts := 0 })
      if t.isEmpty then d1.nextStage r.duration
      else (d1.modPwr (fun w => { w with bootUs := w.bootUs + r.duration.toNat, restart := false })).bootCast st

/-- The networks whose maquette frames stage 8 has run. -/
def Dev.provedNets (d : Dev) : List NetId := allNets.filter (fun n => (d.net n).probation || ((d.net n).held && (d.net n).maq.tries != 0))

/-- Stage 8: over once every network on probation has passed or is held. -/
def stage8 (r : StageReport) (d : Dev) : Dev :=
  if allNets.any (fun n => (d.net n).probation && !(d.net n).maq.passed) then d
  else
    let ns := d.provedNets
    let d1 := ns.foldl (fun d n =>
      let m := (d.net n).maq
      d.report (resultOf ((d.net n).held || m.fenced != 0)) n.toNat r.duration (cnt m.tries) (cnt (m.tries - (if m.passed && m.tries != 0 then 1 else 0)))
        (cnt m.fenced) 0#32) d
    let d2 := if ns.isEmpty then d1.report (resultOf r.losses) 0xFF r.duration 0#32 0#32 0#32 0#32 else d1
    d2.nextStage r.duration

/-- Stage 9: admission opens for the networks that passed; the device is ready. -/
def stage9 (r : StageReport) (d : Dev) : Dev :=
  let ok := allNets.filter (fun n => (d.net n).probation && (d.net n).maq.passed)
  let held := allNets.filter (fun n => (d.net n).held)
  let cast := allParts.filter (fun p => (d.part p).cast == .released || (d.part p).cast == .stopped || (d.part p).cast == .draining)
  let d1 := ok.foldl (fun d n => d.modNet n (fun x => { x with probation := false, openAt := true })) d
  let d2 := d1.report (resultOf r.losses) 0xFF r.duration (cnt ok.length) (cnt held.length) (cnt cast.length) 0#32
  let ms := cnt ((d2.pwr.bootUs + r.duration.toNat) / 1000)
  let d3 := d2.modPwr (fun w => { w with stage := 15#4, bootUs := 0, bootTime := ms, ready := true, state := .running, restart := false })
  d3.raise0 0x1005#16 [ms, arg32 d3.pwr.firstFail]

/-- BRINGUP_STAGE_END. Without supplies, clock or firmware no stage ends, nor does the self-test of a die in a brown-out warning
(Table 14-9). -/
def bringupStage (r : StageReport) (s : State) : State :=
  let d := s.dev
  if d.pwr.resetHeld || d.pwr.supplyFail || d.pll.lossOn || (3 ≤ d.pwr.stage.toNat && !d.fwRuns) then s
  else match d.pwr.stage.toNat with
    | 1 => { s with dev := stage1 r d }
    | 2 => stage2 r s
    | 3 => { s with dev := stage3 r d }
    | 4 => { s with dev := stage4 r d }
    | 5 => if !d.pwr.fast && d.dies_.any (fun i => (d.die i).warn) then s else stage5 r s
    | 6 => stage6 r s
    | 7 => { s with dev := stage7 r s.store d }
    | 8 => { s with dev := stage8 r d }
    | 9 => { s with dev := stage9 r d }
    | _ => s
def execBringupStageEnd (r : StageReport) (s : State) : Ans := .next (bringupStage r s)

end Sys2Proof.Machine
end

