-- ==== Sys2Proof/Machine/Dispatch.lean ====
section
/-! DEFINITION. One arm per command: each calls that command's meaning. -/
namespace Sys2Proof.Machine

open Sys2Proof

/-- The effect of a command on everything but the queue of waiting commands. -/
def exec (i : Instr) (s : State) : Host.Outcome State Fault Refusal :=
  match i with
  | .pllLockLost => Sys2Proof.Machine.execPllLockLost s
  | .rootClockLoss => Sys2Proof.Machine.execRootClockLoss s
  | .pllLockRegained => Sys2Proof.Machine.execPllLockRegained s
  | .clockLossRecovery => Sys2Proof.Machine.execClockLossRecovery s
  | .divisionChange p => Sys2Proof.Machine.execDivisionChange p s
  | .halt c => Sys2Proof.Machine.execHalt c s
  | .fire c upsets => Sys2Proof.Machine.execFire c upsets s
  | .loop c => Sys2Proof.Machine.execLoop c s
  | .endl c => Sys2Proof.Machine.execEndl c s
  | .load c upsets => Sys2Proof.Machine.execLoad c upsets s
  | .frame c => Sys2Proof.Machine.execFrame c s
  | .rowend c upsets => Sys2Proof.Machine.execRowend c upsets s
  | .waitd c => Sys2Proof.Machine.execWaitd c s
  | .call c => Sys2Proof.Machine.execCall c s
  | .ret c => Sys2Proof.Machine.execRet c s
  | .illegalInstruction c w => Sys2Proof.Machine.execIllegalInstruction c w s
  | .heldCycleFire c held => Sys2Proof.Machine.execHeldCycleFire c held s
  | .waitdPortValid c k => Sys2Proof.Machine.execWaitdPortValid c k s
  | .waitdDeadline c => Sys2Proof.Machine.execWaitdDeadline c s
  | .zeroCycleRunFault c => Sys2Proof.Machine.execZeroCycleRunFault c s
  | .rowmaxExceeded c => Sys2Proof.Machine.execRowmaxExceeded c s
  | .lsWriteback c addr => Sys2Proof.Machine.execLsWriteback c addr s
  | .stageIdleGate c => Sys2Proof.Machine.execStageIdleGate c s
  | .stageIdleUngate c => Sys2Proof.Machine.execStageIdleUngate c s
  | .weightBufferLoadDone c => Sys2Proof.Machine.execWeightBufferLoadDone c s
  | .accumulatorDrainDone c => Sys2Proof.Machine.execAccumulatorDrainDone c s
  | .scaleSelectionDone c => Sys2Proof.Machine.execScaleSelectionDone c s
  | .pass2RowDone c => Sys2Proof.Machine.execPass2RowDone c s
  | .xcfgWrite c v => Sys2Proof.Machine.execXcfgWrite c v s
  | .queueWrite q port w => Sys2Proof.Machine.execQueueWrite q port w s
  | .creditGrant q port n => Sys2Proof.Machine.execCreditGrant q port n s
  | .sequentialRead q r => Sys2Proof.Machine.execSequentialRead q r s
  | .windowedRead q r a => Sys2Proof.Machine.execWindowedRead q r a s
  | .mark q r => Sys2Proof.Machine.execMark q r s
  | .rewind q r => Sys2Proof.Machine.execRewind q r s
  | .release q r p => Sys2Proof.Machine.execRelease q r p s
  | .badPacketSkip q r => Sys2Proof.Machine.execBadPacketSkip q r s
  | .spillReturn q => Sys2Proof.Machine.execSpillReturn q s
  | .censusFire p => Sys2Proof.Machine.execCensusFire p s
  | .deadlockDrop p => Sys2Proof.Machine.execDeadlockDrop p s
  | .dlkDropAndResume p => Sys2Proof.Machine.execDlkDropAndResume p s
  | .dlkContinue p => Sys2Proof.Machine.execDlkContinue p s
  | .epochDiscard q r => Sys2Proof.Machine.execEpochDiscard q r s
  | .voidSlotFill q => Sys2Proof.Machine.execVoidSlotFill q s
  | .contentionDetect seg en => Sys2Proof.Machine.execContentionDetect seg en s
  | .contentionNotice c => Sys2Proof.Machine.execContentionNotice c s
  | .forceLift seg => Sys2Proof.Machine.execForceLift seg s
  | .scrubPassStart p => Sys2Proof.Machine.execScrubPassStart p s
  | .scrubRead p found => Sys2Proof.Machine.execScrubRead p found s
  | .configFrameReloadDone p => Sys2Proof.Machine.execConfigFrameReloadDone p s
  | .packetForward router out => Sys2Proof.Machine.execPacketForward router out s
  | .packetReceive ep upset => Sys2Proof.Machine.execPacketReceive ep upset s
  | .packetResend ep => Sys2Proof.Machine.execPacketResend ep s
  | .reductionTimeout point => Sys2Proof.Machine.execReductionTimeout point s
  | .caliperReport p r => Sys2Proof.Machine.execCaliperReport p r s
  | .s2PacketReceive c tensor s2 => Sys2Proof.Machine.execS2PacketReceive c tensor s2 s
  | .wselWrite slot v => Sys2Proof.Machine.execWselWrite slot v s
  | .wcfgWrite slot v => Sys2Proof.Machine.execWcfgWrite slot v s
  | .s2Write slot v => Sys2Proof.Machine.execS2Write slot v s
  | .driftThWrite slot v => Sys2Proof.Machine.execDriftThWrite slot v s
  | .installFirmware tag img => Sys2Proof.Machine.execInstallFirmware tag img s
  | .installCastingSet tag slot img => Sys2Proof.Machine.execInstallCastingSet tag slot img s
  | .installUserDefaults tag img => Sys2Proof.Machine.execInstallUserDefaults tag img s
  | .enrol tag img => Sys2Proof.Machine.execEnrol tag img s
  | .floor tag which => Sys2Proof.Machine.execFloor tag which s
  | .attest tag nonce dest => Sys2Proof.Machine.execAttest tag nonce dest s
  | .readlog tag dest => Sys2Proof.Machine.execReadlog tag dest s
  | .cast tag slot mask => Sys2Proof.Machine.execCast tag slot mask s
  | .recast tag slot net => Sys2Proof.Machine.execRecast tag slot net s
  | .stop tag net => Sys2Proof.Machine.execStop tag net s
  | .resume tag net => Sys2Proof.Machine.execResume tag net s
  | .uncast tag net => Sys2Proof.Machine.execUncast tag net s
  | .close tag net grp => Sys2Proof.Machine.execClose tag net grp s
  | .repairContinue tag net => Sys2Proof.Machine.execRepairContinue tag net s
  | .repairAbort tag net => Sys2Proof.Machine.execRepairAbort tag net s
  | .retest tag core => Sys2Proof.Machine.execRetest tag core s
  | .boack tag mask => Sys2Proof.Machine.execBoack tag mask s
  | .mbxUnknownOpcode tag opc => Sys2Proof.Machine.execMbxUnknownOpcode tag opc s
  | .longCommandEnd tag result => Sys2Proof.Machine.execLongCommandEnd tag result s
  | .partitionConfigChunk p idx ws crcOk => Sys2Proof.Machine.execPartitionConfigChunk p idx ws crcOk s
  | .programCacheChunk cl idx ws crcOk => Sys2Proof.Machine.execProgramCacheChunk cl idx ws crcOk s
  | .castingAck net src seq => Sys2Proof.Machine.execCastingAck net src seq s
  | .castingAckTimeout net dst seq => Sys2Proof.Machine.execCastingAckTimeout net dst seq s
  | .assignmentRecord c r => Sys2Proof.Machine.execAssignmentRecord c r s
  | .coreImageChunk c idx ws crcOk => Sys2Proof.Machine.execCoreImageChunk c idx ws crcOk s
  | .completionReduction net incomplete => Sys2Proof.Machine.execCompletionReduction net incomplete s
  | .bitmapRequest c => Sys2Proof.Machine.execBitmapRequest c s
  | .bitmapReply c bitmap => Sys2Proof.Machine.execBitmapReply c bitmap s
  | .sectionReadDone net entry => Sys2Proof.Machine.execSectionReadDone net entry s
  | .castingStepEnd net fault => Sys2Proof.Machine.execCastingStepEnd net fault s
  | .chaseReport net unit agree => Sys2Proof.Machine.execChaseReport net unit agree s
  | .networkRelease p => Sys2Proof.Machine.execNetworkRelease p s
  | .drainComplete net => Sys2Proof.Machine.execDrainComplete net s
  | .forcedFlush net => Sys2Proof.Machine.execForcedFlush net s
  | .positionDatagram lane port bytes => Sys2Proof.Machine.execPositionDatagram lane port bytes s
  | .rtePosinSubmit b => Sys2Proof.Machine.execRtePosinSubmit b s
  | .positionTimeout => Sys2Proof.Machine.execPositionTimeout s
  | .tileIssue g upset => Sys2Proof.Machine.execTileIssue g upset s
  | .supersedeNotice c pgen ffirst flast => Sys2Proof.Machine.execSupersedeNotice c pgen ffirst flast s
  | .candidateTileWrite q r => Sys2Proof.Machine.execCandidateTileWrite q r s
  | .candidateDue bin => Sys2Proof.Machine.execCandidateDue bin s
  | .rteDecideCommit => Sys2Proof.Machine.execRteDecideCommit s
  | .rteDecideDiscard => Sys2Proof.Machine.execRteDecideDiscard s
  | .passOpen => Sys2Proof.Machine.execPassOpen s
  | .passClose => Sys2Proof.Machine.execPassClose s
  | .passAbort => Sys2Proof.Machine.execPassAbort s
  | .rteFreeWrite v => Sys2Proof.Machine.execRteFreeWrite v s
  | .rteRetireWrite v => Sys2Proof.Machine.execRteRetireWrite v s
  | .retireComplete => Sys2Proof.Machine.execRetireComplete s
  | .rteCtrlWrite v => Sys2Proof.Machine.execRteCtrlWrite v s
  | .rtePredWrite v => Sys2Proof.Machine.execRtePredWrite v s
  | .replaySlotWrite u chain frame flags gap rows label => Sys2Proof.Machine.execReplaySlotWrite u chain frame flags gap rows label s
  | .feederIssue u chain => Sys2Proof.Machine.execFeederIssue u chain s
  | .batchEnd u grads readBackOk => Sys2Proof.Machine.execBatchEnd u grads readBackOk s
  | .adaptationCommit u => Sys2Proof.Machine.execAdaptationCommit u s
  | .bankFree u => Sys2Proof.Machine.execBankFree u s
  | .adpDecideCommit u => Sys2Proof.Machine.execAdpDecideCommit u s
  | .adpDecideDiscard u => Sys2Proof.Machine.execAdpDecideDiscard u s
  | .adpCtrlWrite u v => Sys2Proof.Machine.execAdpCtrlWrite u v s
  | .adpBatchWrite u v => Sys2Proof.Machine.execAdpBatchWrite u v s
  | .memoryBurstGrant ch => Sys2Proof.Machine.execMemoryBurstGrant ch s
  | .memoryBurstDone ch => Sys2Proof.Machine.execMemoryBurstDone ch s
  | .farLaneGrant dir => Sys2Proof.Machine.execFarLaneGrant dir s
  | .stackHot st => Sys2Proof.Machine.execStackHot st s
  | .stackCool st => Sys2Proof.Machine.execStackCool st s
  | .selfRefreshReturn ch => Sys2Proof.Machine.execSelfRefreshReturn ch s
  | .dmaDescriptorFetch n => Sys2Proof.Machine.execDmaDescriptorFetch n s
  | .dmaBurstIssue n => Sys2Proof.Machine.execDmaBurstIssue n s
  | .dmaDescriptorComplete n => Sys2Proof.Machine.execDmaDescriptorComplete n s
  | .dmaResume n => Sys2Proof.Machine.execDmaResume n s
  | .dmaAbort n => Sys2Proof.Machine.execDmaAbort n s
  | .dmaResetRing n => Sys2Proof.Machine.execDmaResetRing n s
  | .dmaRbaseWrite n v => Sys2Proof.Machine.execDmaRbaseWrite n v s
  | .dmaRcfgWrite n v => Sys2Proof.Machine.execDmaRcfgWrite n v s
  | .dmaTailWrite n v => Sys2Proof.Machine.execDmaTailWrite n v s
  | .dmaSuspend p => Sys2Proof.Machine.execDmaSuspend p s
  | .dmaSuspended p => Sys2Proof.Machine.execDmaSuspended p s
  | .dmaUnsuspend p => Sys2Proof.Machine.execDmaUnsuspend p s
  | .regionDescriptorWrite p j reg v => Sys2Proof.Machine.execRegionDescriptorWrite p j reg v s
  | .ethFrameReceive lane f => Sys2Proof.Machine.execEthFrameReceive lane f s
  | .gvspLeader lane port src l => Sys2Proof.Machine.execGvspLeader lane port src l s
  | .gvspDataPacket lane port src block pid bytes => Sys2Proof.Machine.execGvspDataPacket lane port src block pid bytes s
  | .gvspTrailer lane port src block => Sys2Proof.Machine.execGvspTrailer lane port src block s
  | .blockTimeout ctx => Sys2Proof.Machine.execBlockTimeout ctx s
  | .memberTimeout ctx => Sys2Proof.Machine.execMemberTimeout ctx s
  | .laneLinkDown lane => Sys2Proof.Machine.execLaneLinkDown lane s
  | .laneLinkUp lane => Sys2Proof.Machine.execLaneLinkUp lane s
  | .ptpMessage lane m => Sys2Proof.Machine.execPtpMessage lane m s
  | .ptpHoldover => Sys2Proof.Machine.execPtpHoldover s
  | .ptpLatch v => Sys2Proof.Machine.execPtpLatch v s
  | .chnidWrite v => Sys2Proof.Machine.execChnidWrite v s
  | .chainPortTrain east peer lat => Sys2Proof.Machine.execChainPortTrain east peer lat s
  | .chainTrainRetry east => Sys2Proof.Machine.execChainTrainRetry east s
  | .chainLinkDown east => Sys2Proof.Machine.execChainLinkDown east s
  | .chainWordReceive east chan w fecOk => Sys2Proof.Machine.execChainWordReceive east chan w fecOk s
  | .ctxCfgWrite v => Sys2Proof.Machine.execCtxCfgWrite v s
  | .ctxBindWrite v => Sys2Proof.Machine.execCtxBindWrite v s
  | .maquetteDue net => Sys2Proof.Machine.execMaquetteDue net s
  | .maquetteInject net grp => Sys2Proof.Machine.execMaquetteInject net grp s
  | .maquetteForceSlot net grp => Sys2Proof.Machine.execMaquetteForceSlot net grp s
  | .blockReport net r => Sys2Proof.Machine.execBlockReport net r s
  | .maquetteCheck net outputsOk tensor => Sys2Proof.Machine.execMaquetteCheck net outputsOk tensor s
  | .fenceStart c cause => Sys2Proof.Machine.execFenceStart c cause s
  | .spareCheckComplete p ok => Sys2Proof.Machine.execSpareCheckComplete p ok s
  | .spareReloadComplete p ok => Sys2Proof.Machine.execSpareReloadComplete p ok s
  | .spareChaseComplete p ok => Sys2Proof.Machine.execSpareChaseComplete p ok s
  | .faultDegradeResume p => Sys2Proof.Machine.execFaultDegradeResume p s
  | .faultKeepStopped p => Sys2Proof.Machine.execFaultKeepStopped p s
  | .degradedSwitch net stage => Sys2Proof.Machine.execDegradedSwitch net stage s
  | .fenceLogCommit => Sys2Proof.Machine.execFenceLogCommit s
  | .retestCoreDone c passed => Sys2Proof.Machine.execRetestCoreDone c passed s
  | .watchdogKick sig ms => Sys2Proof.Machine.execWatchdogKick sig ms s
  | .watchdogExpire sig => Sys2Proof.Machine.execWatchdogExpire sig s
  | .firmwareRestart => Sys2Proof.Machine.execFirmwareRestart s
  | .patinaSample p m raw temp norm => Sys2Proof.Machine.execPatinaSample p m raw temp norm s
  | .marginPlan p slack ks => Sys2Proof.Machine.execMarginPlan p slack ks s
  | .pMcmdApply p => Sys2Proof.Machine.execPMcmdApply p s
  | .pMcmdReject p => Sys2Proof.Machine.execPMcmdReject p s
  | .avsStep die ack => Sys2Proof.Machine.execAvsStep die ack s
  | .avsStepSettle die => Sys2Proof.Machine.execAvsStepSettle die s
  | .pmbusRetry die ack => Sys2Proof.Machine.execPmbusRetry die ack s
  | .pmbAlert status => Sys2Proof.Machine.execPmbAlert status s
  | .cmd0 => Sys2Proof.Machine.execCmd0 s
  | .cmd3 => Sys2Proof.Machine.execCmd3 s
  | .cmd5 arg => Sys2Proof.Machine.execCmd5 arg s
  | .cmd7 rca => Sys2Proof.Machine.execCmd7 rca s
  | .cmd11 => Sys2Proof.Machine.execCmd11 s
  | .cmd15 rca => Sys2Proof.Machine.execCmd15 rca s
  | .cmd19 => Sys2Proof.Machine.execCmd19 s
  | .cmd52 write fn addr b => Sys2Proof.Machine.execCmd52 write fn addr b s
  | .cmd53 write fn block incr addr count bytes => Sys2Proof.Machine.execCmd53 write fn block incr addr count bytes s
  | .sdioIllegalCommand idx => Sys2Proof.Machine.execSdioIllegalCommand idx s
  | .registerWrite addr b => Sys2Proof.Machine.execRegisterWrite addr b s
  | .pModeWrite p v => Sys2Proof.Machine.execPModeWrite p v s
  | .streamRepeat k => Sys2Proof.Machine.execStreamRepeat k s
  | .recordItemWrite rout => Sys2Proof.Machine.execRecordItemWrite rout s
  | .hostSilent => Sys2Proof.Machine.execHostSilent s
  | .resetNAssert lowNs => Sys2Proof.Machine.execResetNAssert lowNs s
  | .resetNRelease strap testN => Sys2Proof.Machine.execResetNRelease strap testN s
  | .bringupStageEnd r => Sys2Proof.Machine.execBringupStageEnd r s
  | .rstArmWrite v => Sys2Proof.Machine.execRstArmWrite v s
  | .rstArmExpire => Sys2Proof.Machine.execRstArmExpire s
  | .resetCore c => Sys2Proof.Machine.execResetCore c s
  | .resetCluster c => Sys2Proof.Machine.execResetCluster c s
  | .resetPartition p => Sys2Proof.Machine.execResetPartition p s
  | .resetComputeDie d => Sys2Proof.Machine.execResetComputeDie d s
  | .resetPackageWarm => Sys2Proof.Machine.execResetPackageWarm s
  | .resetComplete k => Sys2Proof.Machine.execResetComplete k s
  | .packageStandby => Sys2Proof.Machine.execPackageStandby s
  | .deepStandby => Sys2Proof.Machine.execDeepStandby s
  | .deepStandbyRetained => Sys2Proof.Machine.execDeepStandbyRetained s
  | .wake => Sys2Proof.Machine.execWake s
  | .powerStateEntered => Sys2Proof.Machine.execPowerStateEntered s
  | .pPwrRetention p => Sys2Proof.Machine.execPPwrRetention p s
  | .pPwrOff p => Sys2Proof.Machine.execPPwrOff p s
  | .pPwrOn p => Sys2Proof.Machine.execPPwrOn p s
  | .retentionExitCheck p ok => Sys2Proof.Machine.execRetentionExitCheck p ok s
  | .brownoutWarning die mv => Sys2Proof.Machine.execBrownoutWarning die mv s
  | .brownoutWarningReport die mv => Sys2Proof.Machine.execBrownoutWarningReport die mv s
  | .brownoutRecovery die us => Sys2Proof.Machine.execBrownoutRecovery die us s
  | .brownoutReset die mv => Sys2Proof.Machine.execBrownoutReset die mv s
  | .dieArmatureTestDone die => Sys2Proof.Machine.execDieArmatureTestDone die s
  | .supplyFail r => Sys2Proof.Machine.execSupplyFail r s
  | .opticalRailFail => Sys2Proof.Machine.execOpticalRailFail s
  | .jtagBypass => Sys2Proof.Machine.execJtagBypass s
  | .jtagIdcode => Sys2Proof.Machine.execJtagIdcode s
  | .jtagSamplePreload pins => Sys2Proof.Machine.execJtagSamplePreload pins s
  | .jtagExtest => Sys2Proof.Machine.execJtagExtest s
  | .supplyRestored => Sys2Proof.Machine.execSupplyRestored s
  | .strAgeElapsed => Sys2Proof.Machine.execStrAgeElapsed s
  | .partitionPowerTransitionDone p => Sys2Proof.Machine.execPartitionPowerTransitionDone p s

end Sys2Proof.Machine
end

