-- ==== Sys2Proof/Machine/Tick.lean ====
section
/-! DEFINITION. What one cycle of the logic-cell clock does whatever is commanded: TIME, PTP time and the logic blocks
(R282 to R287). -/
namespace Sys2Proof.Machine

open Sys2Proof

/-- One cycle of a core's logic block: the next flip-flops and the value patched (R283, R287). A core without tables has none.
Assumption 18 (DESIGN CHOICE): safe. -/
def Core.logicCycle (k : Core) (time : BitVec 48) : Core :=
  if k.luts.isEmpty then k
  else
    let (ff, p) := Config.logicBlock ((List.range 32).map (fun i => tblGet 0#16 k.luts i)) k.ff k.snoopReg k.snoopStrobe
      (time.extractLsb' k.tshift 24)
    { k with ff := ff, patch := match p with | some v => some v | none => k.patch }

/-- TIME counts logic-cell cycles (R285), each 10/3 ns of PTP time; the logic blocks of live partitions take a cycle. -/
def Dev.tick (d : Dev) : Dev :=
  { d with
    time := d.time + 1#48, ptpThirds := d.ptpThirds + 10,
    cores := tblMap {} d.cores (fun i k =>
      if (d.part (partOfCore (BitVec.ofNat 11 i))).live && k.state != .fenced then k.logicCycle d.time else k) }

/-- The step on an empty queue (DESIGN CHOICE). Assumption 1 (DESIGN CHOICE): unsafe. -/
def tick (s : State) : State := { s with dev := s.dev.tick }

end Sys2Proof.Machine
end

