-- ==== Sys2Proof/Machine/Container.lean ====
section
/-! DEFINITION. The little-endian byte layouts of the Oclavy container (R13): the owner record, the defaults entry, the header of a
casting set and the manifest entry (Tables 8-4 to 8-7), each written as its bytes and read back from them. -/
namespace Sys2Proof.Machine

open Sys2Proof

/-- `n` bytes of a number, the least significant first (R13). -/
def leOf : Nat → Nat → List Byte
  | 0, _ => []
  | n + 1, x => BitVec.ofNat 8 x :: leOf n (x / 256)

/-- A little-endian field of `n` bytes at an offset. -/
def leField (l : List Byte) (off n : Nat) : Nat := leNat ((l.drop off).take n)

/-- MAGIC of an owner record and of a casting set (Tables 8-4 and 8-6). -/
def ownerMagic : Nat := 0x4F434F31
def setMagic : Nat := 0x4F435331

/-- The signed bytes of an owner record, 0x0000 to 0x0A67 (Table 8-4): OWNKEY is 2,592 bytes. -/
def ownerBytes (ownser : W32) (binding : BitVec 512) (ownkey : List Byte) : List Byte :=
  leOf 4 ownerMagic ++ leOf 4 ownser.toNat ++ leOf 64 binding.toNat ++ (ownkey ++ List.replicate (2592 - ownkey.length) 0#8).take 2592

/-- An owner record read back: OWNSER, BINDING and OWNKEY; none when MAGIC differs. -/
def ownerOf (l : List Byte) : Option (W32 × BitVec 512 × List Byte) :=
  if leField l 0 4 == ownerMagic then
    some (BitVec.ofNat 32 (leField l 4 4), BitVec.ofNat 512 (leField l 8 64), (l.drop 72).take 2592)
  else none

/-- A defaults entry as its 12 bytes, and read back (Table 8-5). -/
def defEntryBytes (e : DefEntry) : List Byte := leOf 4 e.addr.toNat ++ leOf 4 e.mask.toNat ++ leOf 4 e.value.toNat
def defEntryOf (l : List Byte) : DefEntry :=
  ⟨BitVec.ofNat 32 (leField l 0 4), BitVec.ofNat 32 (leField l 4 4), BitVec.ofNat 32 (leField l 8 4)⟩

/-- The header of a casting set (Table 8-6). -/
structure SetHeader where
  nsect : W16
  setver : W32
  length : W32
  partmask : W32
  lanemask : W32
  coresreq : W16
  clkreq : W16
  ownser : W32
  build : BitVec 256
  deriving DecidableEq, Repr

/-- The header of a set: PARTMASK has a bit for every partition of its networks. -/
def headerOfSet (s : SetImg) (build : BitVec 256) : SetHeader :=
  { nsect := BitVec.ofNat 16 s.sections.length, setver := s.setver, length := BitVec.ofNat 32 s.length,
    partmask := (s.nets.flatMap (fun n => n.parts)).foldl (fun m p => m ||| (1#32 <<< p.toNat)) 0#32, lanemask := s.lanemask,
    coresreq := BitVec.ofNat 16 s.coresreq, clkreq := BitVec.ofNat 16 s.clkreq, ownser := s.ownser, build := build }

/-- A casting-set header as its 64 bytes, FMT 1, and read back; none when MAGIC or FMT differs. -/
def setHeaderBytes (h : SetHeader) : List Byte :=
  leOf 4 setMagic ++ leOf 2 1 ++ leOf 2 h.nsect.toNat ++ leOf 4 h.setver.toNat ++ leOf 4 h.length.toNat ++ leOf 4 h.partmask.toNat ++
    leOf 4 h.lanemask.toNat ++ leOf 2 h.coresreq.toNat ++ leOf 2 h.clkreq.toNat ++ leOf 4 h.ownser.toNat ++ leOf 32 h.build.toNat
def setHeaderOf (l : List Byte) : Option SetHeader :=
  if leField l 0 4 == setMagic && leField l 4 2 == 1 then
    some { nsect := BitVec.ofNat 16 (leField l 6 2), setver := BitVec.ofNat 32 (leField l 8 4), length := BitVec.ofNat 32 (leField l 12 4),
           partmask := BitVec.ofNat 32 (leField l 16 4), lanemask := BitVec.ofNat 32 (leField l 20 4),
           coresreq := BitVec.ofNat 16 (leField l 24 2), clkreq := BitVec.ofNat 16 (leField l 26 2),
           ownser := BitVec.ofNat 32 (leField l 28 4), build := BitVec.ofNat 256 (leField l 32 32) }
  else none

/-- A manifest entry (Table 8-7). -/
structure ManifestEntry where
  kind : W16
  net : W16
  target : W32
  offset : W32
  length : W32
  digest : BitVec 512
  deriving DecidableEq, Repr

/-- A manifest entry as its 80 bytes, and read back. -/
def manifestBytes (m : ManifestEntry) : List Byte :=
  leOf 2 m.kind.toNat ++ leOf 2 m.net.toNat ++ leOf 4 m.target.toNat ++ leOf 4 m.offset.toNat ++ leOf 4 m.length.toNat ++ leOf 64 m.digest.toNat
def manifestOf (l : List Byte) : ManifestEntry :=
  { kind := BitVec.ofNat 16 (leField l 0 2), net := BitVec.ofNat 16 (leField l 2 2), target := BitVec.ofNat 32 (leField l 4 4),
    offset := BitVec.ofNat 32 (leField l 8 4), length := BitVec.ofNat 32 (leField l 12 4), digest := BitVec.ofNat 512 (leField l 16 64) }

/-- The fields of TARGET: the partition, and the stage or cluster. -/
def targetPart (t : W32) : PartId := t.extractLsb' 0 5
def targetUnit (t : W32) : StageId := t.extractLsb' 16 11

end Sys2Proof.Machine
end

