-- ==== Sys2Proof/WellFormed.lean ====
section
/-! DEFINITION. The checks a command's operands pass: a chunk holds 32 words and has an index within its section (R310). -/
namespace Sys2Proof

/-- A chunk of a casting section: 256 bytes, 32 words of 64 bits (R310). -/
def chunkWf (ws : Words) : Bool := ws.length == 32

/-- The operands of a command lie in the ranges the spec gives them: the words of a chunk, the 750 chunks of a partition's
configuration and the 81 chunks of a core image (R309, R310). -/
def Instr.wf (i : Instr) : Bool :=
  match i with
  | .partitionConfigChunk _ idx ws _ => chunkWf ws && decide (idx.toNat < 750)
  | .programCacheChunk _ _ ws _ => chunkWf ws
  | .coreImageChunk _ idx ws _ => chunkWf ws && decide (idx.toNat < 81)
  | _ => true

end Sys2Proof
end

