-- ==== Sys2Proof/Safety.lean ====
section
/-! DEFINITION. What a safe command and a frame are, in the terms that the statements use: the canonical form of the PSRAM, what
a command leaves unchanged beside the one unit that it names, and when a core stands in an instruction. -/
namespace Sys2Proof.Machine

open Sys2Proof

/-- The canonical form of the PSRAM contents: addresses strictly rising, no byte listed that reads as an unlisted one. -/
abbrev Memory.wf (m : Tbl Byte) : Prop := tblWf 0#8 m

/-- The command of a state answers a next state: it neither faults nor is refused. -/
def Safe (i : Instr) (s : State) : Prop := ∃ t, exec i s = .next t

/-! ## Frames: a state that differs from another in one unit only -/

/-- Nothing differs but core `c`. -/
def onlyCore (c : CoreId) (s t : State) : Prop :=
  t = { s with dev := { s.dev with cores := t.dev.cores } } ∧ ∀ x, x ≠ c → t.dev.core x = s.dev.core x
/-- Nothing differs but queue `q`. -/
def onlyQueue (q : QueueId) (s t : State) : Prop :=
  t = { s with dev := { s.dev with queues := t.dev.queues } } ∧ ∀ x, x ≠ q → t.dev.queue x = s.dev.queue x
/-- Nothing differs but partition `p`. -/
def onlyPart (p : PartId) (s t : State) : Prop :=
  t = { s with dev := { s.dev with parts := t.dev.parts } } ∧ ∀ x, x ≠ p → t.dev.part x = s.dev.part x
/-- Nothing differs but network `n`. -/
def onlyNet (n : NetId) (s t : State) : Prop :=
  t = { s with dev := { s.dev with nets := t.dev.nets } } ∧ ∀ x, x ≠ n → t.dev.net x = s.dev.net x
/-- Nothing differs but DMA channel `n`. -/
def onlyDma (n : BitVec 6) (s t : State) : Prop :=
  t = { s with dev := { s.dev with dma := t.dev.dma } } ∧ ∀ x, x ≠ n → t.dev.dmaCh x = s.dev.dmaCh x
/-- Nothing differs but context `c` of the ingest engines. -/
def onlyCtx (c : BitVec 10) (s t : State) : Prop :=
  t = { s with dev := { s.dev with ing := { s.dev.ing with ctxs := t.dev.ing.ctxs } } } ∧
    ∀ x, x ≠ c → t.dev.ctx x = s.dev.ctx x
/-- Nothing differs but lane `l` of the ingest engines. -/
def onlyLane (l : PartId) (s t : State) : Prop :=
  t = { s with dev := { s.dev with ing := { s.dev.ing with lanes := t.dev.ing.lanes } } } ∧
    ∀ x, x ≠ l → t.dev.lane x = s.dev.lane x
/-- Nothing differs but the SDIO card. -/
def onlyCard (s t : State) : Prop := t = { s with dev := { s.dev with card := t.dev.card } }
/-- Nothing differs but compute die `i`. -/
def onlyDie (i : Nat) (s t : State) : Prop :=
  t = { s with dev := { s.dev with dies := t.dev.dies } } ∧ ∀ x, x ≠ i → t.dev.die x = s.dev.die x

/-- Core `c` stops with a fault and nothing else changes; `k` is the core as it stood (R109). -/
def faultsWith (c : CoreId) (k : Core) (f : CFault) (s t : State) : Prop :=
  onlyCore c s t ∧ t.dev.core c = { k with state := .faulted, fault := f, wait := .none }

/-- The cycles of a FIRE from where it stands, none of them held and none ending in a fault (R100, R101): the device after `n` of
them. -/
def Dev.cyclesFire (d : Dev) (c : CoreId) (f : FireOp) : Nat → Option Dev
  | 0 => some d
  | n + 1 =>
    match d.fireCycle c f (d.core c).at_ with
    | .fired d1 => (d1.modCore c (fun k => { k with at_ := k.at_ + 1 })).cyclesFire c f n
    | _ => none

/-- A FIRE that can go at once from where it stands to its last cycle: its FLEV and LLEV name active levels, it waits for no unit,
and each of its RPT + 1 cycles that is still to come fires. The device after its last cycle. -/
def Dev.wholeFire (d : Dev) (c : CoreId) (f : FireOp) : Option Dev :=
  let k := d.core c
  if levelOk k.loops f.flev && levelOk k.loops f.llev && (k.at_ != 0 || k.fireWait f == .none) then
    (d.modCore c (fun k => { k with wait := .none, state := .running, holdsrc := 0#6, zrun := 0, dselRow := f.dsel.toNat })).cyclesFire
      c f (f.rpt.toNat + 1 - k.at_)
  else none

/-- The FIRE is over, with device `e` after its last cycle and `n` schedule cycles of the row counted before its first: WSWAP and ABSWAP act, and the next instruction follows unless WSWAP
waits for the load of the other weight buffer (R119, R120). -/
def firedTo (c : CoreId) (f : FireOp) (n : Nat) (e : Dev) (s t : State) : Prop :=
  t = { s with dev := e.modCore c (fun k => k.fireEnd f) } ∧ (t.dev.core c).state = .running ∧
    (t.dev.core c).cycCount = n + (f.rpt.toNat + 1 - (s.dev.core c).at_) ∧
    (¬(f.wswap = 1#1 ∧ (e.core c).wload.isSome = true) →
      (t.dev.core c).pc = nextAddr (s.dev.core c).plen (s.dev.core c).pc ∧ (t.dev.core c).at_ = 0 ∧ (t.dev.core c).wait = .none ∧
        (t.dev.core c).active1 = ((e.core c).active1 ^^ f.wswap == 1#1))

/-- The cycles in which a FIRE's wait for the drain of its bank drains it, none of them held and none ending in a fault (R120): the
device when the bank is empty. -/
def Dev.cyclesDrain (d : Dev) (c : CoreId) : Nat → Option Dev
  | 0 => some d
  | n + 1 =>
    let k := d.core c
    if !k.drains.any (fun x => x.bank == k.bank1) then some d
    else
      let reads := k.loadAddrs ++ k.loadParams ++ k.drainAddrs
      match d.drainCycle c with
      | (some _, _) => none
      | (none, d1) =>
        if k.rowOver || (k.lsRead reads).2.isSome then none
        else (d1.modCore c (fun x => { ((x.lsRead reads).1).tick with cycCount := x.cycCount + 1 })).cyclesDrain c n

/-- The cycles in which a FIRE's wait for pass 2 writes what is left of the oldest row, none of them held and none past ROWMAX
(R126): the device when the row is gone. -/
def Dev.cyclesPass2 (d : Dev) (c : CoreId) (f : FireOp) : Nat → Option Dev
  | 0 => none
  | n + 1 =>
    let k := d.core c
    let (k1, out) := k.pass2Now d.cal.en
    let h := d.lackCredit k (k.waitOuts f) out.length
    if (h != 0#6 && !out.isEmpty) || k.rowOver then none
    else
      let ws := k1.dressRow k1.row2.head? false false out
      let d1 := ((d.modCore c (fun _ => { (k1.pass2Done out.length).tick with cycCount := k.cycCount + 1 })).finqPass c k.row2).emit
        k (k.waitOuts f) ws
      if (d1.core c).row2.length < k.row2.length then some d1 else d1.cyclesPass2 c f n

/-- A core whose wait is over, as its FIRE goes on. -/
def Dev.waitOver (d : Dev) (c : CoreId) : Dev :=
  d.modCore c (fun k => { k with wait := .none, state := .running, holdsrc := 0#6 })

/-- A FIRE that reads, writes and computes nothing: it only takes its cycles. -/
abbrev idleFire (f : FireOp) : Prop :=
  f.mac = 0#3 ∧ f.wswap = 0#1 ∧ f.agstep = 0#4 ∧ f.rden = 0#4 ∧ f.wren = 0#2 ∧ f.fin = 0#3 ∧ f.abswap = 0#1 ∧
    f.flev.getLsbD 3 = false ∧ f.llev.getLsbD 3 = false

/-- A compute core between frames, with no weight load and no row in its finishing queue, its watchdog off. -/
abbrev idleCore (k : Core) : Prop :=
  k.kind = .compute ∧ k.inFrame = false ∧ k.wload = none ∧ k.row2 = [] ∧ k.wdogEn = false

/-- Core `c` goes from `k` past a FIRE of `n` more cycles, with nothing else of the machine changed. -/
def passedFire (c : CoreId) (k : Core) (n : Nat) (s t : State) : Prop :=
  onlyCore c s t ∧ (t.dev.core c).pc = nextAddr k.plen k.pc ∧ (t.dev.core c).state = .running ∧ (t.dev.core c).wait = .none ∧
    (t.dev.core c).zrun = 0 ∧ (t.dev.core c).cycCount = k.cycCount + n ∧ (t.dev.core c).acc = k.acc ∧ (t.dev.core c).ls = k.ls

/-- A partition in which at most the count of the deadlock census restarts. -/
def censusOnly (x y : Partition) : Prop := y = x ∨ y = { x with dlkCnt := 0#17 }

/-- Nothing differs but core `c` and, at the end of its hold, the count of its partition's census (R103, R244). -/
def onlyCoreCensus (c : CoreId) (s t : State) : Prop :=
  t = { s with dev := { s.dev with cores := t.dev.cores, parts := t.dev.parts } } ∧ (∀ x, x ≠ c → t.dev.core x = s.dev.core x) ∧
    (∀ p, p ≠ partOfCore c → t.dev.part p = s.dev.part p) ∧ censusOnly (s.dev.part (partOfCore c)) (t.dev.part (partOfCore c))

/-- The loops of a core nest at most 8 deep, one level each, and its calls at most 2 deep (R99). -/
abbrev nestOk (k : Core) : Prop := (k.loops.map (fun f => f.level)).Nodup ∧ k.loops.length ≤ 8 ∧ k.calls.length ≤ 2

/-- Host commands reach the registers of function 1: the copper bus runs and firmware answers (R459). -/
abbrev hostRuns (s : State) : Prop := s.bus = true ∧ s.dev.f1 = true

/-- Firmware answers and no mailbox command is in hand (R468). -/
abbrev mboxFree (s : State) : Prop := s.bus = true ∧ s.dev.fwAnswers = true ∧ s.dev.mbx.busy = false

/-- Firmware has answered the mailbox command: RESULT, DONE, BUSY clear. -/
abbrev mbxAnswered (s : State) (r : W16) : Prop := s.dev.mbx.busy = false ∧ s.dev.mbx.done = true ∧ s.dev.mbx.result = r

/-- Nothing differs but the mailbox and what any write by the host moves: its presence (R479) and the bytes staged (R462). -/
def onlyMailbox (s t : State) : Prop := t = { s with dev := { s.dev.hostWrote with mbx := t.dev.mbx } }

/-- A command of the image store has been checked with result `r` and is in flight, to do `j` when it ends if the check passed. -/
def tookLong (s t : State) (tag opc : Byte) (r : W16) (j : Job) : Prop :=
  mbxAnswered t 0#16 ∧ onlyMailbox s t ∧
    t.dev.mbx.longs = s.dev.mbx.longs ++ [{ tag := tag, opc := opc, result := r, job := if r = 0#16 then j else .none }]

/-- No core, no queue and no byte of the PSRAM differs. -/
def coresQueuesKept (s t : State) : Prop :=
  t.dev.cores = s.dev.cores ∧ t.dev.queues = s.dev.queues ∧ t.dev.psram = s.dev.psram

/-- A plain queue on chip, full of visible words, with no core of the package that snoops or patches it. -/
abbrev plainQueue (s : State) (q : QueueId) : Prop :=
  s.dev.queueLive q = true ∧ s.dev.laneForced q none = false ∧ (s.dev.queue q).slot = none ∧ (s.dev.queue q).pmode = .plain ∧
    (s.dev.queue q).lenSlot = none ∧ (s.dev.queue q).spilling = false ∧ (s.dev.queue q).ring = [] ∧ (s.dev.queue q).stager = [] ∧
    leading (s.dev.queue q).store = (s.dev.queue q).store.length ∧
    ∀ c, (s.dev.core c).snoopQ ≠ some q ∧ (s.dev.core c).patchQ ≠ some q

/-- A receiver that nothing moves beside its own reads and releases: outside every partition in reset, never detached, awaiting
nothing, owing nothing and of no vacant position. -/
abbrev steadyRcv (x : Rcv) : Prop := x.part = none ∧ x.detach = false ∧ x.await = false ∧ x.owed = none ∧ x.upTo = none

/-- No other queue, no core and no byte of memory differs. -/
def queueFrame (q : QueueId) (s t : State) : Prop :=
  (∀ x, x ≠ q → t.dev.queue x = s.dev.queue x) ∧ (∀ c, t.dev.core c = s.dev.core c) ∧ ∀ a, t.dev.readByte a = s.dev.readByte a

/-- A byte of the PSRAM by its device address. -/
def State.byteAt (s : State) (a : Nat) : Byte := s.dev.readByte a

/-- The command comes from the host over SDIO. -/
def hostCommand (i : Instr) : Bool :=
  match i with
  | .cmd0 | .cmd3 | .cmd5 _ | .cmd7 _ | .cmd11 | .cmd15 _ | .cmd19 | .cmd52 .. | .cmd53 .. | .sdioIllegalCommand _ => true
  | .registerWrite .. | .pModeWrite .. | .streamRepeat _ | .xcfgWrite .. | .dlkDropAndResume _ | .dlkContinue _ => true
  | .wselWrite .. | .wcfgWrite .. | .s2Write .. | .driftThWrite .. | .regionDescriptorWrite .. => true
  | .installFirmware .. | .installCastingSet .. | .installUserDefaults .. | .enrol .. | .floor .. | .attest .. | .readlog .. => true
  | .cast .. | .recast .. | .stop .. | .resume .. | .uncast .. | .close .. | .repairContinue .. | .repairAbort .. => true
  | .retest .. | .boack .. | .mbxUnknownOpcode .. => true
  | .rtePosinSubmit _ | .rteDecideCommit | .rteDecideDiscard | .passOpen | .passClose | .passAbort | .rteFreeWrite _ => true
  | .rteRetireWrite _ | .rteCtrlWrite _ | .rtePredWrite _ | .adpDecideCommit _ | .adpDecideDiscard _ | .adpCtrlWrite .. => true
  | .adpBatchWrite .. | .dmaResume _ | .dmaAbort _ | .dmaResetRing _ | .dmaRbaseWrite .. | .dmaRcfgWrite .. | .dmaTailWrite .. => true
  | .dmaSuspend _ | .dmaUnsuspend _ | .ptpLatch _ | .chnidWrite _ | .ctxCfgWrite _ | .ctxBindWrite _ => true
  | .faultDegradeResume _ | .faultKeepStopped _ | .pMcmdApply _ | .pMcmdReject _ | .rstArmWrite _ | .resetCore _ => true
  | .resetCluster _ | .resetPartition _ | .resetComputeDie _ | .resetPackageWarm | .packageStandby | .deepStandby => true
  | .deepStandbyRetained | .wake | .pPwrRetention _ | .pPwrOff _ | .pPwrOn _ => true
  | _ => false

/-- The banks, the slots and the blocks of the image store are the same. -/
def imagesKept (a b : Store) : Prop :=
  b.factory = a.factory ∧ b.bankA = a.bankA ∧ b.bankB = a.bankB ∧ b.slots = a.slots ∧ b.owner = a.owner ∧ b.udA = a.udA ∧ b.udB = a.udB

/-- A float format (Table 5-1). -/
def isFloatFmt (f : Fmt) : Bool := match f with | .a4 | .a8 | .u16 => false | _ => true

end Sys2Proof.Machine
end

