-- ==== Sys2Proof/Certificates/Slice0/Obligations.lean ====
section
/-! DEFINITION. The statements for the provers. -/

open Sys2Proof Sys2Proof.Machine

/-! ## The core sequencer -/

/-- HALT stops the core; an illegal opcode, a 17th zero-cycle instruction and a row past ROWMAX stop it with their faults (R96,
R108, R109, R562). -/
def Obligations.CoreStops : Prop :=
  (∀ (s : State) (c : CoreId), s.dev.reached c = some .halt →
    ∃ t, exec (.halt c) s = .next t ∧ onlyCore c s t ∧ t.dev.core c = { s.dev.core c with state := .halted }) ∧
  (∀ (s : State) (c : CoreId) (w : W64), s.dev.runs c = true → (s.dev.core c).state = .running →
    10 ≤ (w.extractLsb' 60 4).toNat →
    ∃ t, exec (.illegalInstruction c w) s = .next t ∧ faultsWith c (s.dev.core c) .illegal s t) ∧
  (∀ (s : State) (c : CoreId) (i : SeqInstr), s.dev.reached c = some i → s.dev.zeroInstr c i = true → 16 ≤ (s.dev.core c).zrun →
    ∃ t, exec (.zeroCycleRunFault c) s = .next t ∧ faultsWith c (s.dev.core c) .zeroRun s t) ∧
  (∀ (s : State) (c : CoreId), s.dev.runs c = true → (s.dev.core c).state = .running → (s.dev.core c).wdogEn = true →
    (s.dev.core c).rowmax < (s.dev.core c).cycCount →
    ∃ t, exec (.rowmaxExceeded c) s = .next t ∧ faultsWith c (s.dev.core c) .rowCycle s t)

/-- LOOP, ENDL, CALL and RET within their nesting limits: the loop counters, the call stack and the next address (R99, R156, R562). -/
def Obligations.LoopsAndCalls : Prop :=
  (∀ (s : State) (c : CoreId) (n : BitVec 12) (l : BitVec 3) (e : BitVec 11), s.dev.reached c = some (.loop n l e) →
    (∀ f ∈ (s.dev.core c).loops, f.level ≠ l) → (s.dev.core c).zrun < 16 →
    ∃ t, exec (.loop c) s = .next t ∧ onlyCore c s t ∧
      t.dev.core c = { s.dev.core c with pc := nextAddr (s.dev.core c).plen (s.dev.core c).pc, zrun := (s.dev.core c).zrun + 1,
                                         loops := ⟨l, n.toNat, 0⟩ :: (s.dev.core c).loops }) ∧
  (∀ (s : State) (c : CoreId) (l : BitVec 3) (a : BitVec 11) (f : LoopFrame) (r : List LoopFrame),
    s.dev.reached c = some (.endl l a) → (s.dev.core c).loops = f :: r → f.level = l → (s.dev.core c).zrun < 16 →
    ∃ t, exec (.endl c) s = .next t ∧ onlyCore c s t ∧
      (f.count < f.tripM1 →
        t.dev.core c = { s.dev.core c with pc := a, zrun := (s.dev.core c).zrun + 1,
                                           loops := { f with count := f.count + 1 } :: r }) ∧
      (f.tripM1 ≤ f.count →
        t.dev.core c = { s.dev.core c with pc := nextAddr (s.dev.core c).plen (s.dev.core c).pc, zrun := (s.dev.core c).zrun + 1, loops := r })) ∧
  (∀ (s : State) (c : CoreId) (a : BitVec 11), s.dev.reached c = some (.call a) → (s.dev.core c).calls.length < 2 →
    a.toNat ≤ 0xFF → (s.dev.core c).zrun < 16 →
    ∃ t, exec (.call c) s = .next t ∧ onlyCore c s t ∧
      t.dev.core c = { s.dev.core c with pc := a, zrun := (s.dev.core c).zrun + 1,
                                         calls := (nextAddr (s.dev.core c).plen (s.dev.core c).pc) :: (s.dev.core c).calls }) ∧
  (∀ (s : State) (c : CoreId) (a : BitVec 11) (r : List (BitVec 11)), s.dev.reached c = some .ret →
    (s.dev.core c).calls = a :: r → (s.dev.core c).zrun < 16 →
    ∃ t, exec (.ret c) s = .next t ∧ onlyCore c s t ∧
      t.dev.core c = { s.dev.core c with pc := a, zrun := (s.dev.core c).zrun + 1, calls := r })

/-- Every nesting error of R99 is FAULT 5: a LOOP at an active level, an ENDL that is not of the innermost level, a third CALL
or one outside the common microcode, a RET with no call active, a FIRE whose FLEV or LLEV names an inactive level. So loops that
nest at most 8 deep with one level each, and calls at most 2 deep, stay so. -/
def Obligations.NestingFaults : Prop :=
  (∀ (s : State) (c : CoreId) (n : BitVec 12) (l : BitVec 3) (e : BitVec 11), s.dev.reached c = some (.loop n l e) →
    (∃ f ∈ (s.dev.core c).loops, f.level = l) →
    ∃ t, exec (.loop c) s = .next t ∧ faultsWith c (s.dev.core c) .nesting s t) ∧
  (∀ (s : State) (c : CoreId) (l : BitVec 3) (a : BitVec 11), s.dev.reached c = some (.endl l a) →
    (∀ f r, (s.dev.core c).loops = f :: r → f.level ≠ l) →
    ∃ t, exec (.endl c) s = .next t ∧ faultsWith c (s.dev.core c) .nesting s t) ∧
  (∀ (s : State) (c : CoreId) (a : BitVec 11), s.dev.reached c = some (.call a) →
    (2 ≤ (s.dev.core c).calls.length ∨ 0xFF < a.toNat) →
    ∃ t, exec (.call c) s = .next t ∧ faultsWith c (s.dev.core c) .nesting s t) ∧
  (∀ (s : State) (c : CoreId), s.dev.reached c = some .ret → (s.dev.core c).calls = [] →
    ∃ t, exec (.ret c) s = .next t ∧ faultsWith c (s.dev.core c) .nesting s t) ∧
  (∀ (s : State) (c : CoreId) (us : List Upset) (f : FireOp), s.dev.reached c = some (.fire f) →
    (levelOk (s.dev.core c).loops f.flev = false ∨ levelOk (s.dev.core c).loops f.llev = false) →
    ∃ t, exec (.fire c us) s = .next t ∧ faultsWith c ((s.dev.core c).strike us) .nesting s t) ∧
  faultCode .nesting = 5 ∧
  (∀ (s : State) (c : CoreId) (i : Instr), (i = .loop c ∨ i = .endl c ∨ i = .call c ∨ i = .ret c) → nestOk (s.dev.core c) →
    ∃ t, exec i s = .next t ∧ nestOk (t.dev.core c))

/-- A FIRE none of whose cycles is held or ends in a fault takes RPT + 1 schedule cycles and goes on to the next instruction (R97,
R100, R119, R120, R156). Its waits end when the unit that it waits for is done, and the FIRE goes on: after the cycles left of a
weight-buffer load, the drain of its bank, the cycles left of scale selection and the last word of a pass-2 row; at a swap of the
weight buffers it is over (R119, R120, R126, R178). Of a FIRE that reads, writes and computes nothing nothing else changes. -/
def Obligations.FireTakesItsCycles : Prop :=
  (∀ (s : State) (c : CoreId) (us : List Upset) (f : FireOp) (e : Dev), s.dev.reached c = some (.fire f) →
    (s.dev.modCore c (fun k => k.strike us)).wholeFire c f = some e →
    ∃ t, exec (.fire c us) s = .next t ∧ firedTo c f (s.dev.core c).cycCount e s t) ∧
  (∀ (s : State) (c : CoreId) (f : FireOp) (d e : Dev), s.dev.waitsFor c .weights = some f → d = s.dev.quiet c (s.dev.core c).loadLeft →
    (d.core c).state ≠ .faulted → (d.waitOver c).wholeFire c f = some e →
    ∃ t, exec (.weightBufferLoadDone c) s = .next t ∧ firedTo c f ((s.dev.core c).cycCount + (s.dev.core c).loadLeft) e s t) ∧
  (∀ (s : State) (c : CoreId) (f : FireOp) (d : Dev), s.dev.waitsFor c .wswap = some f → d = s.dev.quiet c (s.dev.core c).loadLeft →
    (d.core c).state ≠ .faulted → (d.core c).wload = none → f.wswap = 1#1 →
    ∃ t, exec (.weightBufferLoadDone c) s = .next t ∧ t = { s with dev := d.modCore c (fun k => k.fireEnd f) } ∧
      (t.dev.core c).wait = .none ∧ (t.dev.core c).state = .running ∧ (t.dev.core c).at_ = 0 ∧
      (t.dev.core c).pc = nextAddr (s.dev.core c).plen (s.dev.core c).pc ∧
      (t.dev.core c).cycCount = (s.dev.core c).cycCount + (s.dev.core c).loadLeft ∧
      (t.dev.core c).active1 = !(s.dev.core c).active1) ∧
  (∀ (s : State) (c : CoreId) (f : FireOp) (d e : Dev), s.dev.waitsFor c .drain = some f →
    s.dev.cyclesDrain c (s.dev.core c).drainBound = some d → (d.waitOver c).wholeFire c f = some e →
    ∃ t n, exec (.accumulatorDrainDone c) s = .next t ∧ firedTo c f ((s.dev.core c).cycCount + n) e s t ∧
      n ≤ ((s.dev.core c).drains.map (fun x => x.len)).sum + 1) ∧
  (∀ (s : State) (c : CoreId) (f : FireOp) (d e : Dev), s.dev.waitsFor c .scale = some f → d = s.dev.quiet c (s.dev.core c).scaleLeft →
    (d.core c).state ≠ .faulted → (d.waitOver c).wholeFire c f = some e →
    ∃ t, exec (.scaleSelectionDone c) s = .next t ∧ firedTo c f ((s.dev.core c).cycCount + (s.dev.core c).scaleLeft) e s t) ∧
  (∀ (s : State) (c : CoreId) (f : FireOp) (d e : Dev), s.dev.waitsFor c .pass2 = some f →
    s.dev.cyclesPass2 c f (s.dev.core c).pass2Bound = some d → (d.waitOver c).wholeFire c f = some e →
    ∃ t n, exec (.pass2RowDone c) s = .next t ∧ firedTo c f ((s.dev.core c).cycCount + n + 1) e s t ∧
      n + 1 ≤ (s.dev.core c).pass2Bound) ∧
  (∀ (s : State) (c : CoreId) (f : FireOp), s.dev.reached c = some (.fire f) → idleFire f → idleCore (s.dev.core c) →
    ∃ t, exec (.fire c []) s = .next t ∧ passedFire c (s.dev.core c) (f.rpt.toNat + 1) s t) ∧
  (∀ (s : State) (c : CoreId) (f : FireOp) (r : Row2) (w : Kind × W64), s.dev.waitsFor c .pass2 = some f → idleFire f →
    idleCore { s.dev.core c with row2 := [] } → (s.dev.core c).row2 = [r] → r.fixed = true → r.begun = true → r.pos = none →
    r.out = [w] → (s.dev.core c).outPort 0 = none → (s.dev.core c).outPort 1 = none → (s.dev.core c).at_ = 0 →
    ∃ t, exec (.pass2RowDone c) s = .next t ∧ passedFire c (s.dev.core c) (f.rpt.toNat + 2) s t ∧ (t.dev.core c).row2 = [])

/-- FRAME on one input port takes the frame-start marker that waits there: its number, context and epoch become those of the
frame in hand, the schedule cycle counter restarts and the next instruction follows (R105). LOAD of one word writes the payload
of the data word that waits at its port to the local store and leaves both weight buffers empty (R119, R131). ROWEND takes CLOSE
+ 1 schedule cycles, closes the row and restarts the count of its cycles; with the watchdog on, a count other than ROWCYC is the
row-cycle fault (R107, R108, R136). -/
def Obligations.FrameLoadAndRowEnd : Prop :=
  (∀ (s : State) (c : CoreId) (r : BitVec 4) (i : Nat) (ip : PortIn) (m : QWord),
    s.dev.reached c = some (.frame r 0#2) → portsOf r = [i] → (s.dev.core c).inPort i = some ip →
    s.dev.peek ip.q ip.rcv = .word m → m.isStart = true → (s.dev.core c).kind = .compute → (s.dev.core c).rowOver = false →
    ∃ t, exec (.frame c) s = .next t ∧
      (t.dev.core c).frame = m.frame ∧ (t.dev.core c).ctx = m.ctx ∧ (t.dev.core c).epoch = m.epoch ∧
      (t.dev.core c).inFrame = true ∧ (t.dev.core c).cycCount = 0 ∧
      (t.dev.core c).pc = nextAddr (s.dev.core c).plen (s.dev.core c).pc ∧ (t.dev.core c).frames = (s.dev.core c).frames + 1 ∧
      (∀ x, x ≠ c → t.dev.core x = s.dev.core x) ∧ (∀ a, t.byteAt a = s.byteAt a)) ∧
  (∀ (s : State) (c : CoreId) (p : BitVec 2) (a : BitVec 13) (ip : PortIn) (w : QWord),
    s.dev.reached c = some (.load 0#13 p a) → (s.dev.core c).inPort p.toNat = some ip →
    s.dev.peek ip.q ip.rcv = .word w → w.kind = .data → (s.dev.core c).kind ≠ .comparison →
    (s.dev.core c).nullTile = false → (s.dev.core c).isLost p.toNat = false → (s.dev.core c).wdogEn = false →
    ∃ t, exec (.load c []) s = .next t ∧
      tblGet 0#64 (t.dev.core c).ls a.toNat = w.payload ∧
      (∀ b, b ≠ a.toNat → tblGet 0#64 (t.dev.core c).ls b = tblGet 0#64 (s.dev.core c).ls b) ∧
      (t.dev.core c).buf0.loaded = false ∧ (t.dev.core c).buf1.loaded = false ∧
      (t.dev.core c).pc = nextAddr (s.dev.core c).plen (s.dev.core c).pc ∧ (∀ x, x ≠ c → t.dev.core x = s.dev.core x) ∧
      (∀ x, t.byteAt x = s.byteAt x)) ∧
  (∀ (s : State) (c : CoreId) (cl : BitVec 14) (rc : BitVec 28), s.dev.reached c = some (.rowend cl rc) →
    (s.dev.core c).drains = [] → (s.dev.core c).wload = none → (s.dev.core c).finq = none →
    ∃ t, exec (.rowend c []) s = .next t ∧
      (t.dev.core c).rowcycLast = satOf 28 ((s.dev.core c).cycCount + cl.toNat + 1) ∧
      ((s.dev.core c).wdogEn = true → (s.dev.core c).cycCount + cl.toNat + 1 ≠ rc.toNat →
        (t.dev.core c).state = .faulted ∧ (t.dev.core c).fault = .rowCycle) ∧
      (((s.dev.core c).wdogEn = false ∨ (s.dev.core c).cycCount + cl.toNat + 1 = rc.toNat) →
        (t.dev.core c).state = .running ∧ (t.dev.core c).pc = nextAddr (s.dev.core c).plen (s.dev.core c).pc ∧
        (t.dev.core c).cycCount = 0 ∧ (t.dev.core c).rowCount = (s.dev.core c).rowCount + 1) ∧
      (∀ x, x ≠ c → t.dev.core x = s.dev.core x) ∧ (∀ a, t.byteAt a = s.byteAt a))

/-- WAITD of a core that is no comparison core: a valid port takes no cycle; an empty one holds it up to the deadline, where the
null tile stands in, REF_NULL is set and one null substitution is counted, at once with a deadline of 0 (R103). A core held at
FRAME counts its held cycles and stays as it is while the port is empty (R100, R101); gating and ungating a held core (R110): the
ungate, in a cycle that can fire, costs two held cycles, as does the end of a WAITD of a gated core. -/
def Obligations.WaitdAndHolds : Prop :=
  (∀ (s : State) (c : CoreId) (p : BitVec 2) (dl : BitVec 20) (z : BitVec 1) (a : BitVec 13),
    s.dev.reached c = some (.waitd p dl z a) → (s.dev.core c).kind ≠ .comparison → (s.dev.core c).zrun < 16 →
    ∃ t, exec (.waitd c) s = .next t ∧ onlyCore c s t ∧
      (s.dev.waitdValid c p.toNat = true →
        (t.dev.core c).pc = nextAddr (s.dev.core c).plen (s.dev.core c).pc ∧ (t.dev.core c).state = .running) ∧
      (s.dev.waitdValid c p.toNat = false → dl = 0#20 →
        (t.dev.core c).pc = nextAddr (s.dev.core c).plen (s.dev.core c).pc ∧ (t.dev.core c).state = .running ∧
        (t.dev.core c).nullTile = true ∧ (t.dev.core c).flags = (s.dev.core c).flags ||| 8#8 ∧
        (t.dev.core c).nullSubs = (s.dev.core c).nullSubs + 1) ∧
      (s.dev.waitdValid c p.toNat = false → dl ≠ 0#20 →
        (t.dev.core c).state = .waitd ∧ (t.dev.core c).waitd = some dl ∧ (t.dev.core c).pc = (s.dev.core c).pc)) ∧
  (∀ (s : State) (c : CoreId) (n : BitVec 20) (p : Nat) (dl : BitVec 20), s.dev.inWaitd c = some (p, dl) →
    (s.dev.core c).kind ≠ .comparison → n.toNat ≤ dl.toNat → s.dev.waitdValid c p = true →
    ∃ t, exec (.waitdPortValid c n) s = .next t ∧ onlyCoreCensus c s t ∧
      t.dev.core c = { s.dev.core c with
        pc := nextAddr (s.dev.core c).plen (s.dev.core c).pc, state := .running, waitd := none, zrun := 0, gated := false,
        holdCyc := satAdd (s.dev.core c).holdCyc (n.toNat + (s.dev.core c).wakeCycles) }) ∧
  (∀ (s : State) (c : CoreId) (p : Nat) (dl : BitVec 20), s.dev.inWaitd c = some (p, dl) →
    (s.dev.core c).kind ≠ .comparison → s.dev.waitdValid c p = false →
    ∃ t, exec (.waitdDeadline c) s = .next t ∧ onlyCoreCensus c s t ∧
      t.dev.core c = { s.dev.core c with
        pc := nextAddr (s.dev.core c).plen (s.dev.core c).pc, state := .running, waitd := none, zrun := 0, gated := false,
        nullTile := true, nullPos := 0, flags := (s.dev.core c).flags ||| 8#8, nullSubs := (s.dev.core c).nullSubs + 1,
        holdCyc := satAdd (s.dev.core c).holdCyc (dl.toNat + (s.dev.core c).wakeCycles) }) ∧
  (∀ (s : State) (c : CoreId) (n : W32) (r : BitVec 4) (i : Nat) (ip : PortIn), s.dev.heldAt c = some (.frame r 0#2) →
    (s.dev.core c).wait = .none → portsOf r = [i] → i < 4 → (s.dev.core c).inPort i = some ip →
    s.dev.peek ip.q ip.rcv = .empty →
    ∃ t, exec (.heldCycleFire c n) s = .next t ∧ onlyCore c s t ∧
      t.dev.core c = { s.dev.core c with holdCyc := satAdd (s.dev.core c).holdCyc n.toNat, state := .held, holdsrc := holdIn i }) ∧
  (∀ (s : State) (c : CoreId) (n : W32) (f : FireOp) (e : Dev), s.dev.heldAt c = some (.fire f) → (s.dev.core c).wait = .none →
    (s.dev.modCore c (fun k => { k with holdCyc := satAdd k.holdCyc n.toNat })).wholeFire c f = some e →
    ∃ t, exec (.heldCycleFire c n) s = .next t ∧ firedTo c f (s.dev.core c).cycCount e s t ∧
      (t.dev.core c).holdCyc = satAdd (s.dev.core c).holdCyc n.toNat) ∧
  (∀ (s : State) (c : CoreId), (s.dev.core c).state = .held ∨ (s.dev.core c).state = .waitd → (s.dev.core c).gateEn = true →
    ∃ t, exec (.stageIdleGate c) s = .next t ∧ onlyCore c s t ∧ t.dev.core c = { s.dev.core c with gated := true }) ∧
  (∀ (s : State) (c : CoreId), (s.dev.core c).gated = true → s.dev.canFire c = true →
    ∃ t, exec (.stageIdleUngate c) s = .next t ∧ onlyCore c s t ∧
      t.dev.core c = { s.dev.core c with gated := false, holdCyc := satAdd (s.dev.core c).holdCyc 2 })

/-- The corrected word is written back in a cycle that leaves its bank free; a word with two upsets is the local-store error that
stops the core at its address (R109, R129). XCFG: written while expert writes are on and no schedule of the core's partition runs;
otherwise ignored and counted in XPT_REJ (R136, R464). -/
def Obligations.LocalStoreAndXcfg : Prop :=
  (∀ (s : State) (c : CoreId) (a : BitVec 13), a ∈ (s.dev.core c).lsFix →
    (s.dev.core c).state = .held ∨ (∀ x ∈ s.dev.nextAddrs c, x % 8 ≠ a.toNat % 8) →
    ∃ t, exec (.lsWriteback c a) s = .next t ∧ onlyCoreCensus c s t ∧
      (tblGet 0 (s.dev.core c).lsErr a.toNat ≠ 2 →
        tblGet 0 (t.dev.core c).lsErr a.toNat = 0 ∧ (t.dev.core c).state = (s.dev.core c).state) ∧
      (tblGet 0 (s.dev.core c).lsErr a.toNat = 2 →
        (t.dev.core c).state = .faulted ∧ (t.dev.core c).fault = .localStore ∧ (t.dev.core c).lsUe = some a) ∧
      (t.dev.core c).lsFix = (s.dev.core c).lsFix.erase a ∧ (t.dev.core c).ls = (s.dev.core c).ls) ∧
  (∀ (s : State) (c : CoreId) (v : W32), hostRuns s → s.dev.expertLive (dieOfCore c) = true →
    ∃ t, exec (.xcfgWrite c v) s = .next t ∧
      (s.dev.xptWen = true → (s.dev.part (partOfCore c)).xcfgOpen = true →
        t.dev.core c = { s.dev.core c with wdogEn := v.getLsbD 0, gateEn := v.getLsbD 1 } ∧ t.dev.xptRej = s.dev.xptRej) ∧
      ((s.dev.xptWen = false ∨ (s.dev.part (partOfCore c)).xcfgOpen = false) →
        t.dev.core c = s.dev.core c ∧ t.dev.xptRej = satInc s.dev.xptRej) ∧
      (∀ x, x ≠ c → t.dev.core x = s.dev.core x) ∧ (∀ a, t.byteAt a = s.byteAt a))

/-! ## Queues -/

/-- A word that a producer writes uses one of its credits in every packet mode (R204, R215); in a plain queue it enters at T, which
moves on by one; at the boundary of a partition that is not live it is absorbed (R46). A credit request of a core port at a queue
in Normal state, at a slotted edge and at a spilling queue: one credit while CAP and the pool, or the stager, allow it, or one
count of QHOLD (R159, R215 to R217, R236). -/
def Obligations.WordsAndCredits : Prop :=
  (∀ (s : State) (q : QueueId) (port : BitVec 10) (w : QWord), s.dev.queueLive q = true →
    (s.dev.queue q).hasCredit port.toNat = true → s.dev.portForced q port = false →
    (((s.dev.queue q).prod port.toNat).dropToMarker = false ∨ w.isStart = true) →
    ∃ t, exec (.queueWrite q port w) s = .next t ∧
      ((t.dev.queue q).prod port.toNat).credits + ((t.dev.queue q).prod port.toNat).scredits + 1 =
        ((s.dev.queue q).prod port.toNat).credits + ((s.dev.queue q).prod port.toNat).scredits ∧
      (t.dev.queue q).wordIdx = (if w.eor then 0 else (s.dev.queue q).wordIdx + 1) ∧
      (∀ x, x ≠ q → t.dev.queue x = s.dev.queue x) ∧ (∀ a, t.byteAt a = s.byteAt a)) ∧
  (∀ (s : State) (q : QueueId) (port : BitVec 10) (w : QWord), s.dev.queueLive q = false →
    ∃ t, exec (.queueWrite q port w) s = .next t ∧ coresQueuesKept s t ∧
      (((s.dev.die (dieOfPart (partOfQueue q))).inReset = false ∧ (s.dev.die (dieOfPart (partOfQueue q))).railOn = true →
        (t.dev.part (partOfQueue q)).absorb = satInc (s.dev.part (partOfQueue q)).absorb))) ∧
  (∀ (s : State) (q : QueueId) (port : BitVec 10) (w : QWord), plainQueue s q →
    0 < ((s.dev.queue q).prod port.toNat).credits → ((s.dev.queue q).prod port.toNat).dropToMarker = false →
    ∃ t, exec (.queueWrite q port w) s = .next t ∧ (t.dev.queue q).tail = (s.dev.queue q).tail + 1#32 ∧
      ((t.dev.queue q).prod port.toNat).credits = ((s.dev.queue q).prod port.toNat).credits - 1 ∧ queueFrame q s t) ∧
  (∀ (s : State) (q : QueueId) (port : BitVec 10), s.dev.queueLive q = true → (s.dev.part (partOfQueue q)).frozen = false →
    s.dev.portForced q port = false → (∀ x ∈ (s.dev.queue q).rcvs, x.detach = false) → s.dev.route.groups = [] →
    (s.dev.net (s.dev.queue q).net).groups = [] →
    ((s.dev.queue q).prod port.toNat).credits + ((s.dev.queue q).prod port.toNat).scredits < 16 →
    ∃ t x y, x = (s.dev.queue q).prod port.toNat ∧ exec (.creditGrant q port 1) s = .next t ∧ onlyQueue q s t ∧
      y = (t.dev.queue q).prod port.toNat ∧
      ((s.dev.queue q).slot = none → (s.dev.queue q).elastic = 0 →
        (s.dev.canTake q 1 = true → y.credits = x.credits + 1 ∧ (t.dev.queue q).qhold = (s.dev.queue q).qhold) ∧
        (s.dev.canTake q 1 = false → y.credits = x.credits ∧ (t.dev.queue q).qhold = satInc (s.dev.queue q).qhold)) ∧
      (∀ sl, (s.dev.queue q).slot = some sl →
        (s.dev.canTake q ((s.dev.queue q).slotNeed sl port.toNat x.credits - (s.dev.queue q).store.length) = true →
          y.credits = x.credits + 1 ∧ (t.dev.queue q).qhold = (s.dev.queue q).qhold) ∧
        (s.dev.canTake q ((s.dev.queue q).slotNeed sl port.toNat x.credits - (s.dev.queue q).store.length) = false →
          y.credits = x.credits ∧ (t.dev.queue q).qhold = satInc (s.dev.queue q).qhold)) ∧
      ((s.dev.queue q).slot = none → (s.dev.queue q).elastic ≠ 0 → (s.dev.queue q).spilling = true →
        ((s.dev.queue q).stagerRoom 1 = true → y.scredits = x.scredits + 1 ∧ y.credits = x.credits) ∧
        ((s.dev.queue q).stagerRoom 1 = false → y = x ∧ (t.dev.queue q).qhold = satInc (s.dev.queue q).qhold)))

/-- A sequential read delivers the word at R and moves R past it; H follows while no mark is set, and a frame-start marker sets
B and the accepted epoch. A read that finds nothing moves no pointer (R209, R250). A windowed read of position B + a returns the
word there between H and T and V = 0 beyond T; it moves no pointer (R210). A prepared gap marker is delivered first and moves none
(R231). -/
def Obligations.ReadsOfQueues : Prop :=
  (∀ (s : State) (q : QueueId) (r : BitVec 10) (x : Rcv) (w : QWord), (s.dev.queue q).rcv r = some x → steadyRcv x →
    s.dev.peek q r = .word w →
    ∃ t y, exec (.sequentialRead q r) s = .next t ∧ (t.dev.queue q).rcv r = some y ∧ y.r = x.r + 1#32 ∧ y.last = some w ∧
      y.m = x.m ∧ (x.m = none → y.h = x.r + 1#32) ∧ (x.m ≠ none → y.h = x.h) ∧
      (w.isStart = true → y.b = x.r + 1#32 ∧ y.e = w.epoch) ∧ (w.isStart = false → y.b = x.b ∧ y.e = x.e) ∧ queueFrame q s t) ∧
  (∀ (s : State) (q : QueueId) (r : BitVec 10) (x : Rcv), (s.dev.queue q).rcv r = some x → s.dev.peek q r = .empty →
    ∃ t, exec (.sequentialRead q r) s = .next t ∧ onlyQueue q s t ∧
      (t.dev.queue q).rcv r = some { x with last := none }) ∧
  (∀ (s : State) (q : QueueId) (r : BitVec 10) (x : Rcv) (w : QWord), (s.dev.queue q).rcv r = some x → s.dev.peek q r = .gap w →
    ∃ t, exec (.sequentialRead q r) s = .next t ∧ onlyQueue q s t ∧
      (t.dev.queue q).rcv r = some { x with gap := none, last := some w }) ∧
  (∀ (s : State) (q : QueueId) (r : BitVec 10) (a : W32) (x : Rcv), s.dev.readsDead q r = false →
    (s.dev.queue q).rcv r = some x → x.gap = none → earlier (x.b + a) x.h = false →
    (∀ w, (s.dev.queue q).cell (x.b + a) = some w → stale x.e w = false) →
    ∃ t, exec (.windowedRead q r a) s = .next t ∧ onlyQueue q s t ∧
      (pdist (s.dev.queue q).old (x.b + a) < (s.dev.queue q).vis →
        (t.dev.queue q).rcv r = some { x with last := (s.dev.queue q).cell (x.b + a) }) ∧
      ((s.dev.queue q).vis ≤ pdist (s.dev.queue q).old (x.b + a) → (t.dev.queue q).rcv r = some { x with last := none }))

/-- MARK sets the mark at R; REWIND takes R back to it, or counts a marker error without one (R212). RELEASE to a position
between H and T sets H there and clears the mark; one to a position earlier than H is ignored and counted, one past T goes to T
and is counted (R212). A frozen partition's queues take none of them (R247). -/
def Obligations.MarksAndReleases : Prop :=
  (∀ (s : State) (q : QueueId) (r : BitVec 10) (x : Rcv), (s.dev.queue q).rcv r = some x → s.dev.queueFrozen q = false →
    ∃ t, exec (.mark q r) s = .next t ∧ onlyQueue q s t ∧ (t.dev.queue q).rcv r = some { x with m := some x.r }) ∧
  (∀ (s : State) (q : QueueId) (r : BitVec 10) (x : Rcv), (s.dev.queue q).rcv r = some x → s.dev.queueFrozen q = false →
    ∃ t, exec (.rewind q r) s = .next t ∧ onlyQueue q s t ∧
      (∀ m, x.m = some m → (t.dev.queue q).rcv r = some { x with r := m } ∧ (t.dev.queue q).markerr = (s.dev.queue q).markerr) ∧
      (x.m = none → (t.dev.queue q).rcv r = some x ∧ (t.dev.queue q).markerr = satInc (s.dev.queue q).markerr)) ∧
  (∀ (s : State) (q : QueueId) (r : BitVec 10) (x : Rcv) (p : W32), (s.dev.queue q).rcv r = some x → steadyRcv x →
    s.dev.queueFrozen q = false →
    ∃ t y, exec (.release q r p) s = .next t ∧ (t.dev.queue q).rcv r = some y ∧
      (pdist x.h p ≤ pdist x.h (s.dev.queue q).tail →
        y.h = p ∧ y.m = none ∧ (t.dev.queue q).markerr = (s.dev.queue q).markerr) ∧
      (pdist x.h (s.dev.queue q).tail < pdist x.h p → earlier p x.h = true →
        y.h = x.h ∧ y.r = x.r ∧ (t.dev.queue q).markerr = satInc (s.dev.queue q).markerr) ∧
      (pdist x.h (s.dev.queue q).tail < pdist x.h p → earlier p x.h = false →
        y.h = (s.dev.queue q).tail ∧ y.m = none ∧ (t.dev.queue q).markerr = satInc (s.dev.queue q).markerr) ∧ queueFrame q s t) ∧
  (∀ (s : State) (q : QueueId) (r : BitVec 10) (p : W32) (i : Instr), s.dev.queueFrozen q = true →
    (i = .mark q r ∨ i = .rewind q r ∨ i = .release q r p) → exec i s = .next s)

/-- A stale word at R is discarded with R moved past it and counted in EPDISC (R251); a bad packet whose skip ends is released
with its words (R223). A spilling queue asks for its oldest burst when the on-chip part can take 56 words, moves the stager's words
on chip when the ring is empty, and returns to Normal state with its words unchanged when both are empty (R236); a queue without
slots that owes the void words of a reset producer's frame writes them as room allows, and a slotted one fills the slots of the
voided run whose turn it is (R163, R490). -/
def Obligations.SkipsSpillsAndVoids : Prop :=
  (∀ (s : State) (q : QueueId) (r : BitVec 10) (x : Rcv), (s.dev.queue q).rcv r = some x → steadyRcv x →
    s.dev.peek q r = .stale →
    ∃ t y, exec (.epochDiscard q r) s = .next t ∧ (t.dev.queue q).rcv r = some y ∧ y.r = x.r + 1#32 ∧ y.e = x.e ∧
      (t.dev.queue q).epdisc = satInc (s.dev.queue q).epdisc ∧ queueFrame q s t) ∧
  (∀ (s : State) (q : QueueId) (r : BitVec 10) (x : Rcv), (s.dev.queue q).rcv r = some x → steadyRcv x → x.skip ≠ 0 →
    s.dev.queueFrozen q = false →
    ∃ t y, exec (.badPacketSkip q r) s = .next t ∧ (t.dev.queue q).rcv r = some y ∧
      (y.r = x.r + BitVec.ofNat 32 x.skip ∨ (y.r = x.r + BitVec.ofNat 32 x.skip + 1#32 ∧ y.last ≠ none)) ∧
      (x.m = none → y.h = y.r) ∧ queueFrame q s t) ∧
  (∀ (s : State) (q : QueueId), s.dev.queueLive q = true → s.dev.queueFrozen q = false → (s.dev.queue q).spilling = true →
    (s.dev.queue q).ring = [] → (s.dev.queue q).stager = [] →
    ∃ t, exec (.spillReturn q) s = .next t ∧ onlyQueue q s t ∧ (t.dev.queue q).spilling = false ∧
      (t.dev.queue q).store = (s.dev.queue q).store ∧ (t.dev.queue q).rcvs = (s.dev.queue q).rcvs) ∧
  (∀ (s : State) (q : QueueId) (w : Option QWord), s.dev.queueLive q = true → s.dev.queueFrozen q = false →
    (s.dev.queue q).spilling = true → (s.dev.queue q).spillBusy = false → (s.dev.queue q).ring = [] → (s.dev.queue q).stager = [w] →
    s.dev.canTake q 1 = true →
    ∃ t, exec (.spillReturn q) s = .next t ∧ (t.dev.queue q).spilling = false ∧ (t.dev.queue q).stager = [] ∧ queueFrame q s t) ∧
  (∀ (s : State) (q : QueueId) (b : Burst) (l : List Burst) (pl : Nat × Nat), s.dev.queueLive q = true →
    s.dev.queueFrozen q = false → (s.dev.queue q).spilling = true → (s.dev.queue q).spillBusy = false → (s.dev.queue q).retBusy = false →
    (s.dev.queue q).stager.length < 56 → (s.dev.queue q).ring = b :: l → s.dev.canTake q 56 = true → locate s.dev.die1 ((s.dev.queue q).burstAddr b.slot) = some pl →
    ∃ t, exec (.spillReturn q) s = .next t ∧ (t.dev.queue q).retBusy = true ∧ (t.dev.queue q).ring = b :: l ∧
      (t.dev.queue q).store = (s.dev.queue q).store ∧ (t.dev.queue q).rcvs = (s.dev.queue q).rcvs ∧ queueFrame q s t) ∧
  (∀ (s : State) (q : QueueId) (p : Nat) (x : Prod), s.dev.queueFrozen q = false → (s.dev.queue q).slot = none →
    (s.dev.queue q).elastic = 0 → (s.dev.queue q).prods = [(p, x)] → 0 < x.voidLeft → x.voidLeft ≤ s.dev.roomOf q →
    ∃ t, exec (.voidSlotFill q) s = .next t ∧ ((t.dev.queue q).prod p).voidLeft = 0 ∧ queueFrame q s t) ∧
  (∀ (s : State) (q : QueueId) (sl : SlotImg) (v : VoidRun), s.dev.queueFrozen q = false → (s.dev.queue q).slot = some sl →
    (s.dev.queue q).voids = [v] → (s.dev.queue q).voidTurn sl v = true →
    ∃ t, exec (.voidSlotFill q) s = .next t ∧ queueFrame q s t ∧
      (t.dev.queue q).voids = (if ((s.dev.queue q).fillVoid sl v ((s.dev.queue q).store.length + s.dev.roomOf q)).2 then [] else [v]))

/-- A census that fires with a full and a non-empty queue counts the fire and records them; without them its count stays at 65,536
(R243). In host-assisted mode it freezes the partition and closes admission; the host's CONTINUE unfreezes it with every queue
unchanged, and DROP_AND_RESUME unfreezes it with the partition's queues emptied, as the drop in hardware mode empties them in each
partition that it reaches (R245 to R248). -/
def Obligations.CensusAndDrop : Prop :=
  (∀ (s : State) (p : PartId) (fq nq : QueueId), (s.dev.watchedOf p).find? (fun q => (s.dev.queue q).full) = some fq →
    (s.dev.watchedOf p).find? (fun q => (s.dev.queue q).nonEmpty) = some nq → s.dev.censusHeld p = false →
    s.dev.companion (s.dev.part p).net p = false → (∀ o ∈ s.dev.domain (s.dev.part p).net p, o ∉ (s.dev.net (s.dev.part p).net).dropPend) →
    ∃ t, exec (.censusFire p) s = .next t ∧ (t.dev.part p).frozen = s.dev.hostMode p 4 ∧ (t.dev.part p).fullq = fq ∧
      (t.dev.part p).neq = nq ∧ (t.dev.part p).dlkFires = satInc (s.dev.part p).dlkFires ∧
      (t.dev.net (s.dev.part p).net).open_ = false ∧
      (s.dev.hostMode p 4 = false →
        (t.dev.net (s.dev.part p).net).dropPend = (s.dev.net (s.dev.part p).net).dropPend ++ s.dev.domain (s.dev.part p).net p) ∧
      (s.dev.hostMode p 4 = true → (t.dev.net (s.dev.part p).net).dropPend = (s.dev.net (s.dev.part p).net).dropPend) ∧
      coresQueuesKept s t) ∧
  (∀ (s : State) (p : PartId), s.dev.censusHeld p = false →
    ((s.dev.watchedOf p).find? (fun q => (s.dev.queue q).full) = none ∨
      (s.dev.watchedOf p).find? (fun q => (s.dev.queue q).nonEmpty) = none) →
    ∃ t, exec (.censusFire p) s = .next t ∧ onlyPart p s t ∧ t.dev.part p = { s.dev.part p with dlkCnt := 65536#17 }) ∧
  (∀ (s : State) (p : PartId), hostRuns s → s.dev.expertLive (dieOfPart p) = true → s.dev.xptWen = true →
    (s.dev.part p).frozen = true →
    ∃ t, exec (.dlkContinue p) s = .next t ∧ (t.dev.part p).frozen = false ∧ (t.dev.part p).dlkCnt = 0#17 ∧
      (∀ q, t.dev.queue q = s.dev.queue q) ∧ (∀ c, t.dev.core c = s.dev.core c) ∧ (∀ a, t.byteAt a = s.byteAt a)) ∧
  (∀ (s : State) (p : PartId) (q : QueueId), hostRuns s → s.dev.expertLive (dieOfPart p) = true → s.dev.xptWen = true →
    (s.dev.part p).frozen = true → p ∈ s.dev.domain (s.dev.part p).net p → partOfQueue q = p → (s.dev.queue q).cap ≠ 0 →
    ∃ t, exec (.dlkDropAndResume p) s = .next t ∧ (t.dev.part p).frozen = false ∧ (t.dev.queue q).store = [] ∧
      (t.dev.queue q).ring = [] ∧ (t.dev.queue q).stager = []) ∧
  (∀ (s : State) (p : PartId) (i : Instr), hostRuns s → s.dev.expertLive (dieOfPart p) = true →
    (s.dev.xptWen = false ∨ (s.dev.part p).frozen = false) → (i = .dlkContinue p ∨ i = .dlkDropAndResume p) →
    ∃ t, exec i s = .next t ∧ t.dev.xptRej = satInc s.dev.xptRej ∧ t.dev.parts = s.dev.parts ∧ coresQueuesKept s t) ∧
  (∀ (s : State) (p : PartId), p ∈ (s.dev.net (s.dev.part p).net).dropPend →
    ∃ t, exec (.deadlockDrop p) s = .next t ∧
      (t.dev.net (s.dev.part p).net).dropPend = (s.dev.net (s.dev.part p).net).dropPend.erase p ∧
      ∀ q, partOfQueue q = p → (s.dev.queue q).cap ≠ 0 →
        (t.dev.queue q).store = [] ∧ (t.dev.queue q).ring = [] ∧ (t.dev.queue q).stager = [])

/-! ## Armature and packets -/

/-- A contending segment is forced to zero, recorded in CONT_SEG and counted in CONT_CNT; a core notified voids the rest of its
frame with VOID_PART; the force is lifted, the drive enables restored and the correction counted once the scrubber has corrected
the upset word (R263, R265, R266). The scrubber reads the words of a pass in turn, counts a single-bit error as corrected, and
counts the pass at its last word; a configuration frame whose reload is done is no longer in reload and its forces are lifted (R268
to R270). -/
def Obligations.ContentionAndScrub : Prop :=
  (∀ (s : State) (g : SegId) (en : BitVec 4), (s.dev.seg g).forced = false → contended (s.dev.seg g).own en = true →
    (s.dev.seg g).liftedAt = none →
    ∃ t, exec (.contentionDetect g en) s = .next t ∧ (t.dev.seg g).forced = true ∧ (t.dev.seg g).en = en ∧
      (t.dev.part (partOfSeg g)).contSeg = g ∧
      (t.dev.part (partOfSeg g)).contCnt = satInc (s.dev.part (partOfSeg g)).contCnt ∧ (∀ a, t.byteAt a = s.byteAt a)) ∧
  (∀ (s : State) (c : CoreId), (s.dev.core c).assigned = true → (s.dev.core c).inFrame = true →
    ∃ t, exec (.contentionNotice c) s = .next t ∧
      t.dev.core c = { s.dev.core c with voiding := true, flags := (s.dev.core c).flags ||| 2#8,
                                         lost := (s.dev.core c).lost ||| s.dev.framePorts (s.dev.core c) } ∧
      (∀ x, x ≠ c → t.dev.core x = s.dev.core x) ∧ (∀ q, t.dev.queue q = s.dev.queue q)) ∧
  (∀ (s : State) (g : SegId), (s.dev.seg g).forced = true → s.dev.reloadHolds g = false → g ∉ s.dev.health.badSegs →
    ∃ t, exec (.forceLift g) s = .next t ∧ onlyPart (partOfSeg g) s t ∧
      t.dev.seg g = { s.dev.seg g with en := (s.dev.seg g).ownEn, forced := false, liftedAt := some s.dev.time } ∧
      (t.dev.part (partOfSeg g)).scrubCe = satInc (s.dev.part (partOfSeg g)).scrubCe) ∧
  (∀ (s : State) (p : PartId), (s.dev.part p).scrubs = true → (s.dev.part p).scrubbing = false →
    ∃ t, exec (.scrubPassStart p) s = .next t ∧ onlyPart p s t ∧
      t.dev.part p = { s.dev.part p with scrubbing := true, scrubPos := 0 }) ∧
  (∀ (s : State) (p : PartId), (s.dev.part p).scrubs = true → (s.dev.part p).scrubbing = true →
    ∃ t, exec (.scrubRead p .clean) s = .next t ∧ onlyPart p s t ∧
      ((s.dev.part p).scrubPos + 1 < cfgWords →
        t.dev.part p = { s.dev.part p with scrubPos := (s.dev.part p).scrubPos + 1 }) ∧
      (cfgWords ≤ (s.dev.part p).scrubPos + 1 →
        t.dev.part p = { s.dev.part p with scrubPos := 0, scrubbing := false, scrubPass := satInc (s.dev.part p).scrubPass })) ∧
  (∀ (s : State) (p : PartId), (s.dev.part p).scrubs = true → (s.dev.part p).scrubbing = true →
    ∃ t, exec (.scrubRead p .single) s = .next t ∧ onlyPart p s t ∧
      (t.dev.part p).scrubCe = satInc (s.dev.part p).scrubCe ∧ (t.dev.part p).scrubUe = (s.dev.part p).scrubUe) ∧
  (∀ (s : State) (p : PartId), (s.dev.part p).scrubs = true → (s.dev.part p).scrubbing = true →
    ∃ t, exec (.scrubRead p .double) s = .next t ∧ (t.dev.part p).scrubUe = satInc (s.dev.part p).scrubUe ∧
      (t.dev.part p).scrubUeAddr = some (BitVec.ofNat 18 (s.dev.part p).scrubPos) ∧
      (cfgCoreWords ≤ (s.dev.part p).scrubPos → (t.dev.part p).reload = some (BitVec.ofNat 18 (s.dev.part p).scrubPos))) ∧
  (∀ (s : State) (p : PartId) (i : BitVec 18), (s.dev.part p).reload = some i → (s.dev.part p).segs = [] →
    ∃ t, exec (.configFrameReloadDone p) s = .next t ∧ onlyPart p s t ∧ t.dev.part p = { s.dev.part p with reload := none }) ∧
  (∀ (s : State) (p : PartId) (i : BitVec 18), (s.dev.part p).reload = some i →
    ∃ t, exec (.configFrameReloadDone p) s = .next t ∧ (t.dev.part p).reload = none ∧ coresQueuesKept s t ∧
      ∀ g : SegId, partOfSeg g = p → Config.segFrame g = i.toNat / 64 → (∃ e ∈ (s.dev.part p).segs, e.1 = g.toNat) →
        (t.dev.seg g).forced = false)

/-- The one packet that waits at a router leaves by the output of its route and waits at the next router's input, behind what is
there, or at its endpoint, a multicast in one copy for each output; no other router changes (R272 to R276). At an endpoint a
packet whose CRC does not check is discarded and counted in PKT_CRC; one of class 0 or 1 that checks is acknowledged, and its
acknowledgement ends the wait of its sender; a packet without an acknowledgement is sent again up to three times, counted in
PKT_RESEND, and then given up; a combining point whose oldest reduction times out goes on without its missing sources (R273, R274,
R278). -/
def Obligations.PacketsMove : Prop :=
  (∀ (s : State) (r : BitVec 6) (out : BitVec 3) (i : BitVec 3) (p c : Packet) (n j : Nat),
    (s.dev.router r.toNat).waiting = [(i, p)] → ((p.dmode = 0#2 ∨ p.dmode = 3#2) → (siteOf p.dst).isSome = true) →
    p.wants r.toNat out.toNat = some c → nextRouter r.toNat out.toNat = some (n, j) → n ≠ r.toNat →
    s.dev.routerUp r.toNat = true → s.dev.routerUp n = true → s.dev.bufferRoom (some (n, j)) c = true →
    ∃ t, exec (.packetForward r out) s = .next t ∧
      (t.dev.router r.toNat).waiting = (match p.rest c with | some l => [(i, l)] | none => []) ∧
      (t.dev.router n).waiting = (s.dev.router n).waiting ++ [(BitVec.ofNat 3 j, c)] ∧
      (∀ x, x ≠ r.toNat → x ≠ n → t.dev.router x = s.dev.router x) ∧ coresQueuesKept s t) ∧
  (∀ (s : State) (r : BitVec 6) (out : BitVec 3) (i : BitVec 3) (p : Packet) (site : Site),
    (s.dev.router r.toNat).waiting = [(i, p)] → p.dmode = 0#2 → siteOf p.dst = some site → routeOut r.toNat site = out.toNat →
    nextRouter r.toNat out.toNat = none → s.dev.routerUp r.toNat = true → s.dev.epRuns p.dst p.cls = true →
    ∃ t, exec (.packetForward r out) s = .next t ∧ (t.dev.router r.toNat).waiting = [] ∧
      tblGet [] t.dev.packets.inbox p.dst.toNat = tblGet [] s.dev.packets.inbox p.dst.toNat ++ [p] ∧ coresQueuesKept s t) ∧
  (∀ (s : State) (e : Endpoint) (u : BitVec 128) (p : Packet) (l : List Packet), tblGet [] s.dev.packets.inbox e.toNat = p :: l →
    ∃ t, exec (.packetReceive e u) s = .next t ∧ tblGet [] t.dev.packets.inbox e.toNat = l ∧ coresQueuesKept s t ∧
      (Packet.crcOf (p.header ^^^ u.extractLsb' 0 96) p.payload ≠ (p.crc ^^^ u.extractLsb' 96 32) →
        t.dev.packets.unacked = s.dev.packets.unacked ∧
        ∀ k, siteOf e = some (.part k) → (t.dev.part k).pktCrc = satInc (s.dev.part k).pktCrc) ∧
      (Packet.crcOf (p.header ^^^ u.extractLsb' 0 96) p.payload = (p.crc ^^^ u.extractLsb' 96 32) → p.cls.toNat < 2 →
        (p.opc = opcAck → t.dev.packets.unacked =
          s.dev.packets.unacked.filter (fun x => !(x.1.src == e && x.1.dst == p.src && x.1.seq == p.seq))) ∧
        (p.opc ≠ opcAck → ∀ k, siteOf e = some (.part k) → ∃ a, a.dst = p.src ∧ a.src = e ∧ a.opc = opcAck ∧ a.seq = p.seq ∧
          (t.dev.router k.toNat).waiting = (s.dev.router k.toNat).waiting ++ [(4#3, a)]))) ∧
  (∀ (s : State) (e : Endpoint) (p : Packet) (n : Nat), s.dev.packets.unacked.find? (fun x => x.1.src == e) = some (p, n) →
    ∃ t, exec (.packetResend e) s = .next t ∧ coresQueuesKept s t ∧
      (n < 3 → t.dev.packets.unacked = s.dev.packets.unacked.map (fun x => if x == (p, n) then (p, n + 1) else x) ∧
        ∀ k, siteOf e = some (.part k) →
          (t.dev.router k.toNat).waiting = (s.dev.router k.toNat).waiting ++ [(4#3, p)] ∧
          (t.dev.part k).pktResend = satInc (s.dev.part k).pktResend) ∧
      (3 ≤ n → t.dev.packets.unacked = s.dev.packets.unacked.erase (p, n))) ∧
  (∀ (s : State) (n : Nat) (c : Combine) (l : List Combine), tblGet [] s.dev.packets.combines n = c :: l →
    ∃ t, exec (.reductionTimeout n) s = .next t ∧ tblGet [] t.dev.packets.combines n = l ∧ coresQueuesKept s t)

/-! ## The mailbox and the image store -/

/-- INSTALL, ENROL and FLOOR are checked, answered and taken as long commands; nothing but the mailbox changes, the image store
least of all (R468, R296 to R299, R306). A long command of the image store ends: what was checked is written, firmware into the
bank that does not run (R301), unless a check or the write failed; the factory region is not written (R292). -/
def Obligations.InstallsAreChecked : Prop :=
  (∀ (s : State) (tag : Byte) (img : FwImg), mboxFree s → s.dev.mbx.longs.length < 4 →
    (∀ l ∈ s.dev.mbx.longs, ∀ x, l.job ≠ .firmware x) →
    ∃ t, exec (.installFirmware tag img) s = .next t ∧ tookLong s t tag 0x01#8 (verifyFw s.store img) (.firmware img)) ∧
  (∀ (s : State) (tag : Byte) (slot : W32) (img : SetImg), mboxFree s → s.dev.mbx.longs.length < 4 → slot.toNat < 8 →
    s.dev.slotBusy (slot.setWidth 3) = false → s.dev.slotCast (slot.setWidth 3) = false →
    ∃ t, exec (.installCastingSet tag slot img) s = .next t ∧
      tookLong s t tag 0x01#8 (verifySet s.store img) (.castingSet (slot.setWidth 3) img)) ∧
  (∀ (s : State) (tag : Byte) (img : UdImg), mboxFree s → s.dev.mbx.longs.length < 4 →
    (∀ l ∈ s.dev.mbx.longs, ∀ x, l.job ≠ .defaults x) →
    ∃ t, exec (.installUserDefaults tag img) s = .next t ∧ tookLong s t tag 0x01#8 (verifyUd s.store img) (.defaults img)) ∧
  (∀ (s : State) (tag : Byte) (img : OwnerImg), mboxFree s → s.dev.mbx.longs.length < 4 →
    (∀ l ∈ s.dev.mbx.longs, ∀ x, l.job ≠ .enrol x) →
    ∃ t, exec (.enrol tag img) s = .next t ∧ tookLong s t tag 0x02#8 (verifyOwner s.store img) (.enrol img)) ∧
  (∀ (s : State) (tag : Byte) (which : BitVec 3), mboxFree s → s.dev.mbx.longs.length < 4 →
    ∃ t, exec (.floor tag which) s = .next t ∧ tookLong s t tag 0x03#8 0#16 (.floor which)) ∧
  (∀ (s : State) (tag : Byte) (result : W16) (l : LongCmd), s.dev.fwAnswers = true →
    s.dev.mbx.longs.find? (fun x => x.tag == tag) = some l → s.dev.longRuns l = false →
    ∃ t, exec (.longCommandEnd tag result) s = .next t ∧ t.dev.mbx.longs = s.dev.mbx.longs.erase l ∧
      t.store.factory = s.store.factory ∧ coresQueuesKept s t ∧
      ((l.result ≠ 0#16 ∨ (l.job ≠ .none ∧ result = 9#16)) → t.store = s.store) ∧
      (l.result = 0#16 → result ≠ 9#16 → t.store = s.store.finish l.job) ∧
      (∀ img, l.job = .firmware img → l.result = 0#16 → result ≠ 9#16 → s.store.runB = false →
        t.store.bankB = some img ∧ t.store.bankA = s.store.bankA ∧ t.store.runB = false) ∧
      (∀ img, l.job = .firmware img → l.result = 0#16 → result ≠ 9#16 → s.store.runB = true →
        t.store.bankA = some img ∧ t.store.bankB = s.store.bankB ∧ t.store.runB = true))

/-- ATTEST writes a report of 5139 bytes and READLOG the boot records; no byte of the PSRAM outside the bytes written changes
through any view (R328, R485); an unknown opcode is answered with RESULT 1, and a command sent while another is in hand is only
counted (R468). -/
def Obligations.ReportsAndUnknownOpcodes : Prop :=
  (∀ (s : State) (tag : Byte) (nonce : BitVec 256) (dest : DevAddr), mboxFree s → s.store.factory.pufOk = true →
    s.dev.psramRange dest.toNat 5139 = true →
    ∃ t, exec (.attest tag nonce dest) s = .next t ∧ mbxAnswered t 0#16 ∧ tblGet 0#32 t.dev.mbx.res 0 = 5139#32 ∧
      t.dev.readBytes dest.toNat 8 = [1#8, 0#8, 0#8, 0#8, 0x13#8, 0x14#8, 0#8, 0#8] ∧
      (∀ i, i < 32 → t.byteAt (dest.toNat + 8 + i) = nonce.extractLsb' (8 * i) 8) ∧
      (∀ a, (∀ i, i < 5139 → locate s.dev.die1 a ≠ locate s.dev.die1 (dest.toNat + i)) → t.byteAt a = s.byteAt a) ∧
      t.store = s.store ∧ t.dev.cores = s.dev.cores ∧ t.dev.queues = s.dev.queues) ∧
  (∀ (s : State) (tag : Byte) (dest : DevAddr) (n : Nat), mboxFree s → n = 32 * s.dev.health.bootlog.flatten.length →
    s.dev.psramRange dest.toNat n = true →
    ∃ t, exec (.readlog tag dest) s = .next t ∧ mbxAnswered t 0#16 ∧ tblGet 0#32 t.dev.mbx.res 0 = BitVec.ofNat 32 n ∧
      t.dev.readBytes dest.toNat n = s.dev.health.bootlog.flatten.flatMap BootRec.bytes ∧
      (∀ a, (∀ i, i < n → locate s.dev.die1 a ≠ locate s.dev.die1 (dest.toNat + i)) → t.byteAt a = s.byteAt a) ∧
      t.store = s.store ∧ t.dev.cores = s.dev.cores ∧ t.dev.queues = s.dev.queues) ∧
  (∀ (s : State) (tag opc : Byte), mboxFree s → opc ∉ mbxOpcodes →
    ∃ t, exec (.mbxUnknownOpcode tag opc) s = .next t ∧ mbxAnswered t 1#16 ∧ onlyMailbox s t) ∧
  (∀ (s : State) (tag opc : Byte), hostRuns s → opc ∉ mbxOpcodes → s.dev.mbx.busy = true → s.dev.mbx.tag ≠ tag →
    ∃ t, exec (.mbxUnknownOpcode tag opc) s = .next t ∧ onlyMailbox s t ∧ t.dev.mbx.busy = true ∧
      t.dev.mbx.rej = satInc s.dev.mbx.rej)

/-- CAST checks its set and begins the casting of each network of the mask; RECAST, STOP and UNCAST of a cast network start its
drain (R323, R326, Table 8-9); a casting set that fails step 1 changes no network. -/
def Obligations.CastingCommands : Prop :=
  (∀ (s : State) (tag : Byte) (slot mask : W32) (t : SetImg) (ims : List NetImg), mboxFree s → s.dev.mbx.longs.length < 4 →
    slot.toNat < 8 → tblGet none s.store.slots slot.toNat = some t → maskNets t mask = some ims → s.store.factory.pufOk = true →
    ims.any s.dev.imgBusy = false → s.dev.jobBusy (fun j => match j with | .castingSet x _ => x == slot.setWidth 3 | _ => false) = false →
    s.dev.mayCast = true → ims.any (fun im => s.dev.isCast im.num || !s.dev.imgPowered im) = false →
    ∃ u l, exec (.cast tag slot mask) s = .next u ∧ mbxAnswered u 0#16 ∧ u.dev.mbx.longs = s.dev.mbx.longs ++ [l] ∧ l.tag = tag ∧
      l.opc = 0x10#8 ∧ u.store = s.store ∧ u.dev.queues = s.dev.queues ∧ u.dev.psram = s.dev.psram ∧
      (s.dev.health.passed = [] → u.dev.cores = s.dev.cores) ∧
      (l.result = 0#16 → ∀ im ∈ ims, ∃ k, (u.dev.net im.num).casting = some k ∧ k.step = 1 ∧ k.slot = slot.setWidth 3 ∧ k.tag = some tag) ∧
      (l.result ≠ 0#16 → u.dev.nets = s.dev.nets)) ∧
  (∀ (s : State) (tag : Byte) (slot net : W32) (n : NetId) (t : SetImg) (im : NetImg), mboxFree s → s.dev.mbx.longs.length < 4 →
    slot.toNat < 8 → tblGet none s.store.slots slot.toNat = some t → netArg net = some n →
    t.nets.find? (fun x => x.num == n) = some im → s.store.factory.pufOk = true → s.dev.imgBusy im = false →
    s.dev.jobBusy (fun j => match j with | .castingSet x _ => x == slot.setWidth 3 | _ => false) = false →
    s.dev.mayCast = true → s.dev.isCast n = true → s.dev.imgPowered im = true →
    ∃ u l, exec (.recast tag slot net) s = .next u ∧ mbxAnswered u 0#16 ∧ u.dev.mbx.longs = s.dev.mbx.longs ++ [l] ∧ l.opc = 0x11#8 ∧
      u.store = s.store ∧ coresQueuesKept s u ∧
      (l.result = 0#16 → (u.dev.net n).drain = some (.recast (slot.setWidth 3)) ∧ (u.dev.net n).open_ = false) ∧
      (l.result ≠ 0#16 → u.dev.nets = s.dev.nets)) ∧
  (∀ (s : State) (tag : Byte) (net : W32) (n : NetId), mboxFree s → s.dev.mbx.longs.length < 4 → netArg net = some n →
    s.dev.drainCheck n = 0#16 →
    ∃ u, exec (.stop tag net) s = .next u ∧ mbxAnswered u 0#16 ∧ (u.dev.net n).drain = some .stop ∧ (u.dev.net n).open_ = false ∧
      (∀ p, p ∈ s.dev.partsOfNet n → (s.dev.part p).cast = .released → (u.dev.part p).cast = .draining) ∧
      u.store = s.store ∧ coresQueuesKept s u) ∧
  (∀ (s : State) (tag : Byte) (net : W32) (n : NetId), mboxFree s → s.dev.mbx.longs.length < 4 → netArg net = some n →
    s.dev.drainCheck n = 0#16 → (∃ p ∈ s.dev.partsOfNet n, (s.dev.part p).cast ≠ .heldAbort) →
    ∃ u, exec (.uncast tag net) s = .next u ∧ mbxAnswered u 0#16 ∧ (u.dev.net n).drain = some .uncast ∧ (u.dev.net n).open_ = false ∧
      u.store = s.store ∧ coresQueuesKept s u)

/-- RESUME releases the partitions of a stopped network and opens its admission at the next frame boundary, the epoch unchanged
(R326); CLOSE closes a line-scan frame that is open and is turned away when none is (R72). REPAIR lets a casting that waits go
on with its next round, or aborts it (R466, Table 8-13); RETEST names the cores that are tested again (R523). -/
def Obligations.ResumeCloseAndRepair : Prop :=
  (∀ (s : State) (tag : Byte) (net : W32) (n : NetId), mboxFree s → netArg net = some n → s.dev.mayResume n = true →
    ∃ u, exec (.resume tag net) s = .next u ∧ mbxAnswered u 0#16 ∧
      (∀ p ∈ s.dev.partsOfNet n, (u.dev.part p).cast = .released) ∧ (u.dev.net n).openAt = true ∧
      (u.dev.net n).epoch = (s.dev.net n).epoch ∧ u.store = s.store ∧ u.dev.cores = s.dev.cores ∧ u.dev.psram = s.dev.psram ∧
      ((∀ p ∈ s.dev.partsOfNet n, (s.dev.part p).shut = false) → u.dev.queues = s.dev.queues)) ∧
  (∀ (s : State) (tag : Byte) (net grp : W32) (n : NetId) (g : Group) (f : W32) (a : Adm), mboxFree s →
    netArg net = some n → grp.toNat < 16 → s.dev.group n (grp.setWidth 4) = some g → g.img.lscan = true →
    g.live.find? (fun e => (s.dev.ctxsOf n (grp.setWidth 4)).any (fun c => (s.dev.ctx c).memFrame == e.1)) = some (f, a) →
    (∀ c ∈ s.dev.ctxsOf n (grp.setWidth 4), (s.dev.ctx c).memFrame = f →
      (s.dev.ctx c).net = n ∧ (s.dev.ctx c).grp = grp.setWidth 4 ∧ (s.dev.ctx c).begun = true ∧
        (s.dev.ctx c).line ≤ (s.dev.ctx c).linesM1.toNat) →
    ∃ u, exec (.close tag net grp) s = .next u ∧ mbxAnswered u 0#16 ∧ u.store = s.store ∧
      ∀ c ∈ s.dev.ctxsOf n (grp.setWidth 4), (s.dev.ctx c).memFrame = f →
        (u.dev.ctx c).memFrame = f + 1#32 ∧ (u.dev.ctx c).begun = false ∧ (u.dev.ctx c).line = 0) ∧
  (∀ (s : State) (tag : Byte) (net grp : W32) (n : NetId) (g : Group), mboxFree s → netArg net = some n → grp.toNat < 16 →
    s.dev.group n (grp.setWidth 4) = some g →
    (g.img.lscan = false ∨ ∀ e ∈ g.live, ∀ c ∈ s.dev.ctxsOf n (grp.setWidth 4), (s.dev.ctx c).memFrame ≠ e.1) →
    ∃ u, exec (.close tag net grp) s = .next u ∧ mbxAnswered u 11#16 ∧ onlyMailbox s u) ∧
  (∀ (s : State) (tag : Byte) (net grp : W32), mboxFree s →
    (netArg net = none ∨ 16 ≤ grp.toNat) →
    ∃ u, exec (.close tag net grp) s = .next u ∧ mbxAnswered u 2#16 ∧ onlyMailbox s u) ∧
  (∀ (s : State) (tag : Byte) (net : W32) (n : NetId) (k : Casting), mboxFree s → netArg net = some n →
    (s.dev.net n).casting = some k → k.paused = true →
    ∃ u, exec (.repairContinue tag net) s = .next u ∧ mbxAnswered u 0#16 ∧
      (u.dev.net n).casting = some { k with round := k.round + 1, paused := false } ∧ u.store = s.store ∧ coresQueuesKept s u) ∧
  (∀ (s : State) (tag : Byte) (net : W32) (n : NetId) (k : Casting), mboxFree s → netArg net = some n →
    (s.dev.net n).casting = some k → k.paused = true →
    ∃ u, exec (.repairAbort tag net) s = .next u ∧ mbxAnswered u 0#16 ∧ (u.dev.net n).casting = none ∧ (u.dev.net n).held = true ∧
      (∀ p ∈ s.dev.partsOfNet n, (u.dev.part p).cast = .heldAbort) ∧ u.store = s.store ∧ u.dev.cores = s.dev.cores ∧
      u.dev.psram = s.dev.psram) ∧
  (∀ (s : State) (tag : Byte) (core : W32) (c : CoreId) (cs : List CoreId), mboxFree s → s.dev.mbx.longs.length < 4 →
    s.dev.retestCores core = some (c :: cs) → s.dev.health.retest = [] → s.dev.health.retestAll = false →
    (∀ x ∈ c :: cs, (s.dev.part (partOfCore x)).act = none ∧ (s.dev.part (partOfCore x)).cast ≠ .partly) →
    (∀ n, (s.dev.net n).casting = none) →
    ∃ u, exec (.retest tag core) s = .next u ∧ mbxAnswered u 0#16 ∧ u.dev.health.retest = c :: cs ∧
      u.dev.health.rtPassed = 0#12 ∧ u.dev.health.rtFailed = 0#12 ∧ u.store = s.store ∧ coresQueuesKept s u)

/-! ## Calipers -/

/-- A caliper report on its way arrives once: a maquette frame's goes to the checker; the first and every further report of an open
frame joins it; the report that completes its frame closes it and S2 takes the step of R184, which goes out to the producing cores; a
report of a frame closed already is counted late; with CALEN 0 nothing is taken. A new S2 that a core receives waits for its next
FRAME (R181, R183, R184, R191, R192, R527). -/
def Obligations.ReportsCloseFrames : Prop :=
  (∀ (s : State) (p : PartId) (r : CalReport), (s.dev.part p).cast ≠ .uncast → r.net = (s.dev.part p).net → r ∈ s.dev.reports →
    ∃ t, exec (.caliperReport p r) s = .next t ∧ t.dev.reports = s.dev.reports.erase r ∧ coresQueuesKept s t ∧
      (r.maquette = true → (t.dev.net r.net).maq.calReps = (s.dev.net r.net).maq.calReps ++ [r] ∧ t.dev.cal = s.dev.cal ∧
        ∀ x, x ≠ r.net → t.dev.net x = s.dev.net x) ∧
      (r.maquette = false → s.dev.cal.en = false → t = { s with dev := { s.dev with reports := t.dev.reports } }) ∧
      (∀ x, r.maquette = false → s.dev.cal.en = true → s.dev.tensor r.net r.tensor = some x → r.frame ∈ x.shut →
        t = { s with dev := { s.dev with reports := t.dev.reports, cal := { s.dev.cal with late := satInc s.dev.cal.late } } }) ∧
      (∀ x, r.maquette = false → s.dev.cal.en = true → s.dev.tensor r.net r.tensor = some x → r.frame ∉ x.shut →
        s.dev.passed r.net x r.frame = false → x.frames = [] → s.dev.expected r.net r.tensor x r.frame = none →
        t.dev.tensor r.net r.tensor = some { x with frames := [⟨r.frame, false, [r]⟩] } ∧ t.dev.cal = s.dev.cal)) ∧
  (∀ (s : State) (p : PartId) (r : CalReport) (x : Tensor) (c : CoreId), (s.dev.part p).cast ≠ .uncast →
    (s.dev.part p).net = r.net → r ∈ s.dev.reports → r.maquette = false → s.dev.cal.en = true →
    s.dev.tensor r.net r.tensor = some x → x.frames = [] → r.frame ∉ x.shut → s.dev.passed r.net x r.frame = false →
    x.integer = true → x.s2New = none → x.ktNew = none → s.dev.collectorOf r.net x = some c →
    s.dev.hostMode (partOfCore c) 2 = false → s.dev.expected r.net r.tensor x r.frame = some [r.pos.toNat] →
    ∃ t y, exec (.caliperReport p r) s = .next t ∧ t.dev.tensor r.net r.tensor = some y ∧ y.closed = some r.frame ∧ r.frame ∈ y.shut ∧
      y.frames = [] ∧ y.s2 = stepS2 x.s2 (max (-32768) r.kmaxn) x.kt ∧ coresQueuesKept s t ∧
      (y.s2 ≠ x.s2 → ∀ k ∈ s.dev.coresOfStage r.net x.stage, (s.dev.core k).spare = false → (k, r.tensor, y.s2) ∈ t.dev.scales)) ∧
  (∀ (s : State) (c : CoreId) (tn : BitVec 12) (v : W32), (s.dev.core c).assigned = true → (c, tn, v) ∈ s.dev.scales →
    ∃ t, exec (.s2PacketReceive c tn v) s = .next t ∧
      t = { s with dev := { s.dev with cores := t.dev.cores, scales := s.dev.scales.erase (c, tn, v) } } ∧
      (∀ x, x ≠ c → t.dev.core x = s.dev.core x) ∧
      t.dev.core c = { s.dev.core c with s2next := (t.dev.core c).s2next } ∧
      tblGet 0#32 (t.dev.core c).s2next tn.toNat = v ∧
      ∀ x, x ≠ tn.toNat → tblGet 0#32 (t.dev.core c).s2next x = tblGet 0#32 (s.dev.core c).s2next x)

/-- The host's watch slots: WSEL names and arms a slot and clears its statistics; WCFG, S2 and DRIFT_TH reach the tensor of an
armed slot at its next frame close; a write that a slot ignores is counted (R195 to R198). -/
def Obligations.WatchSlots : Prop :=
  (∀ (s : State) (n : BitVec 6) (v : W32), hostRuns s →
    ∃ t, exec (.wselWrite n v) s = .next t ∧ (t.dev.watchAt n).part = v.setWidth 5 ∧ (t.dev.watchAt n).tensor = v.extractLsb' 16 12 ∧
      (t.dev.watchAt n).arm = v.getLsbD 31 ∧ (t.dev.watchAt n).valid = false ∧ (t.dev.watchAt n).count = 0#32 ∧
      ((t.dev.watchAt n).notensor = true ↔ s.dev.named (v.setWidth 5) (v.extractLsb' 16 12) = none) ∧
      (∀ m, m ≠ n → t.dev.watchAt m = s.dev.watchAt m) ∧ coresQueuesKept s t) ∧
  (∀ (s : State) (n : BitVec 6) (v : W32) (m : NetId) (y : Tensor), hostRuns s → s.dev.armedTensor n = some m →
    s.dev.tensor m (s.dev.watchAt n).tensor = some y →
    ∃ t, exec (.wcfgWrite n v) s = .next t ∧ (t.dev.watchAt n).kt = v.setWidth 8 ∧
      t.dev.tensor m (s.dev.watchAt n).tensor = some { y with ktNew := some (v.setWidth 8) } ∧
      (∀ k, k ≠ n → t.dev.watchAt k = s.dev.watchAt k) ∧ coresQueuesKept s t) ∧
  (∀ (s : State) (n : BitVec 6) (v : W32) (m : NetId) (y : Tensor), hostRuns s → s.dev.armedTensor n = some m →
    s.dev.tensor m (s.dev.watchAt n).tensor = some y → posFinite v = true →
    ∃ t, exec (.s2Write n v) s = .next t ∧
      t.dev.tensor m (s.dev.watchAt n).tensor = some { y with s2New := some (clampS2 v) } ∧
      (∀ k, t.dev.watchAt k = s.dev.watchAt k) ∧ coresQueuesKept s t) ∧
  (∀ (s : State) (n : BitVec 6) (v : W32) (m : NetId) (y : Tensor), hostRuns s → s.dev.armedTensor n = some m →
    s.dev.tensor m (s.dev.watchAt n).tensor = some y →
    ∃ t, exec (.driftThWrite n v) s = .next t ∧ (t.dev.watchAt n).driftTh = v ∧
      t.dev.tensor m (s.dev.watchAt n).tensor = some { y with thNew := some v } ∧
      (∀ k, k ≠ n → t.dev.watchAt k = s.dev.watchAt k) ∧ coresQueuesKept s t) ∧
  (∀ (s : State) (n : BitVec 6) (v : W32) (i : Instr), hostRuns s →
    ((s.dev.armedTensor n = none ∧ (i = .wcfgWrite n v ∨ i = .s2Write n v ∨ i = .driftThWrite n v)) ∨
      (posFinite v = false ∧ i = .s2Write n v)) →
    ∃ t, exec i s = .next t ∧ t.dev.cal = { s.dev.cal with rej := satInc s.dev.cal.rej } ∧ t.dev.nets = s.dev.nets ∧ coresQueuesKept s t)

/-! ## Casting -/

/-- A chunk of a casting section with a good CRC is stored and acknowledged, one with a bad CRC is only counted (R309, R310,
R312); the words of a chunk of a core image go to their places in the schedule memory, the descriptors, where the core writes its own
CIDX into the fourth word, the finishing descriptors or the activation table, and nowhere else. -/
def Obligations.ChunksAreStored : Prop :=
  (∀ (s : State) (p : PartId) (idx : BitVec 10) (ws : Words) (k : Casting), ws.length = 32 → idx.toNat < 750 →
    (s.dev.net (s.dev.part p).net).casting = some k → k.step = 3 → (s.dev.part p).cast = .partly →
    k.has 2 (fun x => x.part == p) = true → k.unacked.length < 64 →
    (∀ e ∈ k.unacked, e.1 ≠ (epPart p, idx.setWidth 20)) →
    (∃ t, exec (.partitionConfigChunk p idx ws true) s = .next t ∧ tblGet [] (t.dev.part p).cfgChunks idx.toNat = ws ∧
      (t.dev.net (s.dev.part p).net).casting =
        some { k with unacked := k.unacked ++ [((epPart p, idx.setWidth 20), 0)] } ∧ coresQueuesKept s t) ∧
    (∃ t, exec (.partitionConfigChunk p idx ws false) s = .next t ∧
      t.dev.part p = { s.dev.part p with pktCrc := satInc (s.dev.part p).pktCrc } ∧ coresQueuesKept s t)) ∧
  (∀ (s : State) (cl : ClusterId) (idx : BitVec 9) (ws : Words) (k : Casting), ws.length = 32 →
    (s.dev.net (s.dev.part (partOfCluster cl)).net).casting = some k → k.step = 3 →
    (s.dev.part (partOfCluster cl)).cast = .partly → k.has 5 (fun x => x.stage == cl.setWidth 11) = true →
    s.dev.configsDone s.store (s.dev.part (partOfCluster cl)).net k = true → k.unacked.length < 64 →
    (∀ e ∈ k.unacked, e.1 ≠ (epCluster cl, idx.setWidth 20)) →
    ∃ t, exec (.programCacheChunk cl idx ws true) s = .next t ∧ tblGet [] (t.dev.cluster cl).cacheChunks idx.toNat = ws ∧
      (∀ x, x ≠ cl → t.dev.cluster x = s.dev.cluster x) ∧ coresQueuesKept s t) ∧
  (∀ (s : State) (c : CoreId) (idx : BitVec 7) (ws : Words), ws.length = 32 → idx.toNat < 81 → s.dev.imageSent c idx.toNat = true →
    (s.dev.part (partOfCore c)).cast = .partly → (s.dev.core c).assigned = true → ((s.dev.core c).spare = false ∨ idx.toNat < 8) →
    ∃ t, exec (.coreImageChunk c idx ws true) s = .next t ∧ onlyCore c s t ∧
      (t.dev.core c).bitmap = (s.dev.core c).bitmap ||| 1#81 <<< idx.toNat ∧
      (idx.toNat < 64 → (t.dev.core c).desc = (s.dev.core c).desc ∧ (t.dev.core c).fin = (s.dev.core c).fin ∧
        (t.dev.core c).act = (s.dev.core c).act ∧
        (∀ i w, ws[i]? = some w → tblGet 0#64 (t.dev.core c).sched (32 * idx.toNat + i) = w) ∧
        ∀ a, a < 32 * idx.toNat ∨ 32 * idx.toNat + 32 ≤ a →
          tblGet 0#64 (t.dev.core c).sched a = tblGet 0#64 (s.dev.core c).sched a) ∧
      (64 ≤ idx.toNat → (t.dev.core c).sched = (s.dev.core c).sched) ∧
      (64 ≤ idx.toNat → idx.toNat < 72 → (t.dev.core c).fin = (s.dev.core c).fin ∧ (t.dev.core c).act = (s.dev.core c).act ∧
        ∀ i w, ws[i]? = some w → i % 4 ≠ 3 → tblGet 0#64 (t.dev.core c).desc (32 * (idx.toNat - 64) + i) = w) ∧
      (idx.toNat = 72 → (t.dev.core c).desc = (s.dev.core c).desc ∧
        (∀ i w, ws[i]? = some w → i < 8 → tblGet 0#64 (t.dev.core c).fin i = w) ∧
        ∀ i w, ws[i]? = some w → 8 ≤ i → tblGet 0#64 (t.dev.core c).act (i - 8) = w) ∧
      (72 < idx.toNat → (t.dev.core c).desc = (s.dev.core c).desc ∧ (t.dev.core c).fin = (s.dev.core c).fin ∧
        ∀ i w, ws[i]? = some w → (idx.toNat = 80 → i < 9) →
          tblGet 0#64 (t.dev.core c).act (32 * (idx.toNat - 72) - 8 + i) = w)) ∧
  (∀ (s : State) (c : CoreId) (idx : BitVec 7) (ws : Words), ws.length = 32 → idx.toNat < 81 → s.dev.imageSent c idx.toNat = true →
    (s.dev.part (partOfCore c)).cast = .partly → (s.dev.core c).assigned = true → ((s.dev.core c).spare = false ∨ idx.toNat < 8) →
    ∃ t, exec (.coreImageChunk c idx ws false) s = .next t ∧ onlyPart (partOfCore c) s t ∧
      (t.dev.part (partOfCore c)).pktCrc = satInc (s.dev.part (partOfCore c)).pktCrc) ∧
  (∀ (s : State) (p : PartId) (cl : ClusterId) (c : CoreId) (i10 : BitVec 10) (i9 : BitVec 9) (i7 : BitVec 7) (ws : Words) (ok : Bool),
    (ws.length ≠ 32 ∨ 750 ≤ i10.toNat → exec (.partitionConfigChunk p i10 ws ok) s = .refused .illFormed) ∧
    (ws.length ≠ 32 → exec (.programCacheChunk cl i9 ws ok) s = .refused .illFormed) ∧
    (ws.length ≠ 32 ∨ 81 ≤ i7.toNat → exec (.coreImageChunk c i7 ws ok) s = .refused .illFormed))

/-- An acknowledged chunk leaves the sender's list; one not acknowledged is sent again up to three times, counted in CAST_REP,
and then the casting aborts (R312, Table 8-13); a core with an assignment record has its identity (R311). The completion
reduction ends a round: with every core complete nothing is owed, else the next round begins with the cores that are incomplete
(R313, R314); a core asked answers with its bitmap, and the chunks it lacks are sent again and counted (R315). -/
def Obligations.AcknowledgementsAndRepair : Prop :=
  (∀ (s : State) (n : NetId) (src : Endpoint) (seq : BitVec 20) (k : Casting), (s.dev.net n).casting = some k →
    ∃ t, exec (.castingAck n src seq) s = .next t ∧ onlyNet n s t ∧
      t.dev.net n = { s.dev.net n with casting := some { k with unacked := k.unacked.filter (fun e => e.1 != (src, seq)) } }) ∧
  (∀ (s : State) (n : NetId) (dst : Endpoint) (seq : BitVec 20) (k : Casting) (tries : Nat), (s.dev.net n).casting = some k →
    k.unacked.find? (fun e => e.1 == (dst, seq)) = some ((dst, seq), tries) →
    ∃ t, exec (.castingAckTimeout n dst seq) s = .next t ∧ t.dev.cores = s.dev.cores ∧ t.dev.psram = s.dev.psram ∧
      (tries < 3 → t.dev.queues = s.dev.queues ∧ (t.dev.net n).casting =
          some { k with unacked := k.unacked.map (fun x => if x.1 == (dst, seq) then (x.1, x.2 + 1) else x) } ∧
        (t.dev.part (s.dev.castPart n)).castRep = satAdd (s.dev.part (s.dev.castPart n)).castRep 1) ∧
      (3 ≤ tries → (t.dev.net n).casting = none ∧ (t.dev.net n).held = true ∧
        ∀ p ∈ s.dev.partsOfNet n, (t.dev.part p).cast = .heldAbort ∧ (t.dev.part p).castStep = BitVec.ofNat 4 k.step)) ∧
  (∀ (s : State) (c : CoreId) (r : AssignRec) (im : NetImg), (s.dev.part (partOfCore c)).cast = .partly →
    (s.dev.part (partOfCore c)).net = r.net → s.dev.good c = true → (s.dev.net r.net).img = some im →
    ∃ t, exec (.assignmentRecord c r) s = .next t ∧ onlyCore c s t ∧ (t.dev.core c).assigned = true ∧
      (t.dev.core c).logical = r.logical ∧ (t.dev.core c).stage = r.stage ∧ (t.dev.core c).cidx = r.cidx ∧
      (t.dev.core c).spare = r.spare ∧ (t.dev.core c).expect = r.expect ∧ (t.dev.core c).bitmap = 0#81 ∧
      (t.dev.core c).state = if r.spare then .uncast else .transferring) ∧
  (∀ (s : State) (n : NetId) (silent : List CoreId) (k : Casting), (s.dev.net n).casting = some k → k.step = 7 → k.paused = false →
    s.dev.hostMode (s.dev.castPart n) 3 = false → k.round < 3 →
    ∃ t, exec (.completionReduction n silent) s = .next t ∧ coresQueuesKept s t ∧
      (s.dev.incompleteOf k silent = [] → (t.dev.net n).casting = some { k with incomplete := [] }) ∧
      (s.dev.incompleteOf k silent ≠ [] →
        (t.dev.net n).casting = some { k with round := k.round + 1, incomplete := s.dev.incompleteOf k silent })) ∧
  (∀ (s : State) (n : NetId) (silent : List CoreId) (k : Casting), (s.dev.net n).casting = some k → k.step = 7 → k.paused = false →
    s.dev.hostMode (s.dev.castPart n) 3 = true → k.round < 3 →
    ∃ t, exec (.completionReduction n silent) s = .next t ∧ coresQueuesKept s t ∧
      (s.dev.incompleteOf k silent = [] → (t.dev.net n).casting = some { k with incomplete := [] }) ∧
      (s.dev.incompleteOf k silent ≠ [] →
        (t.dev.net n).casting = some { k with incomplete := s.dev.incompleteOf k silent, paused := true })) ∧
  (∀ (s : State) (n : NetId) (silent : List CoreId) (k : Casting) (c : CoreId), (s.dev.net n).casting = some k → k.step = 7 →
    k.paused = false → 3 ≤ k.round → s.dev.incompleteOf k silent = [c] →
    ∃ t, exec (.completionReduction n silent) s = .next t ∧ (t.dev.core c).state = .fenced ∧ (t.dev.core c).assigned = false ∧
      t.dev.psram = s.dev.psram ∧ (∀ x, x ≠ c → t.dev.core x = s.dev.core x) ∧
      (c ∈ k.respared → (t.dev.net n).casting = none) ∧
      (((t.dev.net n).casting = none ∧ (t.dev.net n).held = true) ∨
        ∃ l x, (t.dev.net n).casting = some { k with
          place := k.place.map (fun e => if e.2 == c then (l, x) else e), respared := k.respared ++ [x], round := 0, incomplete := [x], paused := false } ∧ partOfCore x = partOfCore c)) ∧
  (∀ (s : State) (c : CoreId) (k : Casting), (s.dev.net (s.dev.part (partOfCore c)).net).casting = some k → c ∈ k.incomplete →
    ∃ t p, exec (.bitmapRequest c) s = .next t ∧
      (t.dev.router (partOfCore c).toNat).waiting = (s.dev.router (partOfCore c).toNat).waiting ++ [(4#3, p)] ∧ p.src = epCore c ∧
      p.dst = epMgmt ∧ p.payload = [(s.dev.core c).bitmap.setWidth 128] ∧
      t = { s with dev := { s.dev with packets := t.dev.packets } }) ∧
  (∀ (s : State) (c : CoreId) (b : BitVec 81) (k : Casting), (s.dev.net (s.dev.part (partOfCore c)).net).casting = some k →
    c ∈ k.incomplete →
    ∃ t, exec (.bitmapReply c b) s = .next t ∧ onlyPart (partOfCore c) s t ∧
      (t.dev.part (partOfCore c)).castRep = satAdd (s.dev.part (partOfCore c)).castRep
        ((List.range 81).filter (fun i => (s.dev.core c).expect.getLsbD i && !b.getLsbD i)).length)

/-- Sections read, and the steps of Table 8-9: a section whose digest matches takes effect once its step has come, and its local-store
image, weights or maquette frames may meet a translation fault, which aborts; one with a wrong digest aborts the casting (R316). Step 1
ends with the partitions partly cast (R308), step 3 with the queues as the image gives them; every step goes on to the next, step 8 to
step 10 where chasing is left out. A placed core with a local-store error in step 8 or 9 is fenced and the casting aborts (Table 8-13).
Chasing (R319, R320): a unit whose digest agrees is chased; a core that does not agree has its image again, as the next repair
round, with what its local store loads, and after three rounds is fenced; a partition control or a queue manager that does not agree
is configured again up to three times, counted in CAST_REP, and then the casting aborts. -/
def Obligations.SectionsAndSteps : Prop :=
  (∀ (s : State) (n : NetId) (e : Nat) (k : Casting) (im : NetImg) (st : SetImg) (x : SectionImg), (s.dev.net n).casting = some k →
    (s.dev.net n).img = some im → tblGet none s.store.slots k.slot.toNat = some st → st.sections[e]? = some x → x.net = n →
    e ∉ k.sectionsRead →
    ∃ t, exec (.sectionReadDone n e) s = .next t ∧ t.store = s.store ∧
      (x.digestOk = true → (x.kind.toNat < 6 ∨ (sectionTime st n k = true ∧ (x.kind.toNat = 8 ∨ 10 ≤ x.kind.toNat))) →
        (t.dev.net n).casting = some { k with sectionsRead := k.sectionsRead ++ [e], hashed := k.hashed ++ [x] } ∧ onlyNet n s t) ∧
      (x.digestOk = true → (x.kind.toNat = 6 ∨ x.kind.toNat = 7 ∨ x.kind.toNat = 9) → sectionTime st n k = true →
        ((t.dev.net n).casting = none ∧ (t.dev.net n).held = true) ∨
          ∃ j, (t.dev.net n).casting = some { k with sectionsRead := k.sectionsRead ++ [e], hashed := k.hashed ++ [x], shadowed := j }) ∧
      (x.digestOk = true → 6 ≤ x.kind.toNat → sectionTime st n k = false → t = s) ∧
      (x.digestOk = false → (t.dev.net n).casting = none ∧ (t.dev.net n).held = true ∧ t.dev.cores = s.dev.cores ∧
        t.dev.psram = s.dev.psram)) ∧
  (∀ (s : State) (n : NetId) (k : Casting) (im : NetImg), (s.dev.net n).casting = some k → (s.dev.net n).img = some im →
    s.dev.stepReady s.store n k im = true →
    ∃ t, exec (.castingStepEnd n none) s = .next t ∧ t.store = s.store ∧ t.dev.psram = s.dev.psram ∧
      (k.step ≠ 7 → (t.dev.net n).casting = some { k with step := if k.step = 8 ∧ k.noChase = true then 10 else k.step + 1 }) ∧
      (k.step = 7 → (t.dev.net n).casting = some { k with step := 8 } ∨ ((t.dev.net n).casting = none ∧ (t.dev.net n).held = true)) ∧
      (k.step = 7 → k.shadowed = [] → (t.dev.net n).casting = some { k with step := 8 } ∧ onlyNet n s t) ∧
      (k.step = 1 → ∀ p ∈ im.parts, (t.dev.part p).cast = .partly ∧ (t.dev.part p).net = n ∧ (t.dev.part p).regions = []) ∧
      (k.step = 3 → (im.queues.map (fun x => x.q)).Nodup → ∀ x ∈ im.queues,
        t.dev.queue x.q = { queueOf n im.streams x with rsel := (s.dev.queue x.q).rsel }) ∧
      (k.step = 2 ∨ k.step = 4 ∨ k.step = 5 ∨ k.step = 8 ∨ k.step = 9 → onlyNet n s t) ∧
      (k.step = 6 → coresQueuesKept s t)) ∧
  (∀ (s : State) (n : NetId) (k : Casting) (im : NetImg) (c : CoreId), (s.dev.net n).casting = some k → (s.dev.net n).img = some im →
    (k.step = 8 ∨ k.step = 9) → (∃ l, (l, c) ∈ k.place) → (s.dev.core c).net = n → (s.dev.core c).assigned = true →
    (s.dev.core c).spare = false → (s.dev.part (partOfCore c)).act = none →
    ∃ t, exec (.castingStepEnd n (some c)) s = .next t ∧ t.store = s.store ∧ (t.dev.core c).state = .fenced ∧
      (t.dev.net n).casting = none ∧ (t.dev.net n).held = true) ∧
  (∀ (s : State) (n : NetId) (u : ChaseUnit) (k : Casting), (s.dev.net n).casting = some k → k.step = 9 →
    ∃ t, exec (.chaseReport n u true) s = .next t ∧ onlyNet n s t ∧
      (t.dev.net n).casting = some { k with chased := if k.chased.contains u then k.chased else k.chased ++ [u] }) ∧
  (∀ (s : State) (n : NetId) (c : CoreId) (k : Casting), (s.dev.net n).casting = some k → k.step = 9 → (∃ l, (l, c) ∈ k.place) →
    ∃ t, exec (.chaseReport n (.core c) false) s = .next t ∧ t.dev.psram = s.dev.psram ∧ (∀ x, x ≠ c → t.dev.core x = s.dev.core x) ∧
      (k.round < 3 → t.dev.queues = s.dev.queues ∧
        (t.dev.net n).casting = some { k with round := k.round + 1, incomplete := [], paused := false }) ∧
      (3 ≤ k.round → (t.dev.core c).state = .fenced)) ∧
  (∀ (s : State) (n : NetId) (u : ChaseUnit) (k : Casting) (tries : Nat), (s.dev.net n).casting = some k → k.step = 9 →
    (∀ c, u ≠ .core c) → tries = ((k.badChase.find? (fun e => e.1 == u)).map (fun e => e.2)).getD 0 →
    ∃ t, exec (.chaseReport n u false) s = .next t ∧ t.dev.cores = s.dev.cores ∧ t.dev.psram = s.dev.psram ∧
      (tries < 3 → t.dev.queues = s.dev.queues ∧
        (t.dev.net n).casting = some { k with badChase := (u, tries + 1) :: k.badChase.filter (fun e => e.1 != u) } ∧
        (t.dev.part (s.dev.castPart n)).castRep = satAdd (s.dev.part (s.dev.castPart n)).castRep 1) ∧
      (3 ≤ tries → (t.dev.net n).casting = none ∧ (t.dev.net n).held = true))

/-- A partition that takes the release packet is released and acknowledges it, and the last one puts the network in service
(R321, R322); a drained network reports its calipers' slots (R191) and is then stopped, uncast or partly cast as its drain asks, and
DRAIN_TO ends a drain with the queues emptied and the frames in flight counted in FLUSH_DROP (R324 to R326). -/
def Obligations.ReleaseAndDrain : Prop :=
  (∀ (s : State) (p : PartId) (k : Casting) (im : NetImg), (s.dev.net (s.dev.part p).net).casting = some k →
    (s.dev.net (s.dev.part p).net).img = some im → k.step = 10 → (s.dev.part p).cast = .partly →
    ∃ t, exec (.networkRelease p) s = .next t ∧ (t.dev.part p).cast = .released ∧ (t.dev.part p).relAck = true ∧
      t.dev.psram = s.dev.psram ∧ t.store.slots = s.store.slots ∧ t.store.factory = s.store.factory ∧
      ((∀ q ∈ im.parts, q = p ∨ (s.dev.part q).relAck = true) →
        (t.dev.net (s.dev.part p).net).casting = none ∧ t.store.lastSet = some k.slot) ∧
      ((∃ q ∈ im.parts, q ≠ p ∧ (s.dev.part q).relAck = false) →
        (t.dev.net (s.dev.part p).net).casting = some k ∧ t.store = s.store)) ∧
  (∀ (s : State) (n : NetId) (why : DrainFor), (s.dev.net n).drain = some why → s.dev.drained n = true →
    ∃ t, exec (.drainComplete n) s = .next t ∧ t.dev.psram = s.dev.psram ∧ t.store = s.store ∧
      ((why = .stop ∨ why = .standby) → (t.dev.net n).drain = none ∧ (∀ p ∈ s.dev.partsOfNet n, (t.dev.part p).cast = .stopped) ∧
        t.dev.queues = s.dev.queues ∧ (∀ c, c ∉ s.dev.coresOfNet n → t.dev.core c = s.dev.core c) ∧
        ∀ c ∈ s.dev.coresOfNet n, (t.dev.core c).cal = [] ∧ ∀ r ∈ (s.dev.core c).lastReports, r ∈ t.dev.reports) ∧
      (why = .uncast → ∀ p ∈ s.dev.partsOfNet n, (t.dev.part p).cast = .uncast ∧ (t.dev.part p).regions = []) ∧
      (∀ k st im, why = .recast k → tblGet none s.store.slots k.toNat = some st → st.nets.find? (fun x => x.num == n) = some im →
        (∃ g, (t.dev.net n).casting = some g ∧ g.step = 2 ∧ g.slot = k) ∧ ∀ p ∈ im.parts, (t.dev.part p).cast = .partly)) ∧
  (∀ (s : State) (n : NetId) (why : DrainFor), (s.dev.net n).drain = some why →
    ∃ t, exec (.forcedFlush n) s = .next t ∧ t.store = s.store ∧ t.dev.psram = s.dev.psram ∧
      ((why = .stop ∨ why = .standby) → (t.dev.net n).drain = none ∧ (t.dev.net n).inFlight = [] ∧
        ∀ p ∈ s.dev.partsOfNet n, (t.dev.part p).cast = .stopped ∧
          (t.dev.part p).flushDrop = satAdd (s.dev.part p).flushDrop (s.dev.framesIn n).length) ∧
      (why = .uncast → ∀ p ∈ s.dev.partsOfNet n, (t.dev.part p).cast = .uncast ∧ (t.dev.part p).regions = []) ∧
      (∀ k st im, why = .recast k → tblGet none s.store.slots k.toNat = some st → st.nets.find? (fun x => x.num == n) = some im →
        (∃ g, (t.dev.net n).casting = some g ∧ g.step = 2 ∧ g.slot = k) ∧ ∀ p ∈ im.parts, (t.dev.part p).cast = .partly))

/-! ## Route memory -/

/-- A position record from a datagram or from RTE_POSIN moves the predictor to Tracking; a correction advances the position
generation; a record no newer than the last is discarded and counted; without records for POS_TO the predictor is Lost (R340 to
R343, R348). -/
def Obligations.PositionRecords : Prop :=
  (∀ (s : State) (l : PartId) (p : W16) (b : List Byte) (x : PosRec), s.dev.laneUp l = true → l = s.dev.route.poslane →
    p = s.dev.ing.posport → p ≠ 0#16 → b.length = 32 → s.dev.route.laneEn = true → s.dev.route.en = true → b.headD 0#8 = 1#8 →
    x = posOfBytes beNat b → (s.dev.route.haveRec = true → s.dev.route.last.time.toNat < x.time.toNat) →
    ∃ t, exec (.positionDatagram l p b) s = .next t ∧ t.dev.route.last = x ∧ t.dev.route.haveRec = true ∧
      t.dev.route.pstate = (if x.nopos = false then .tracking else if s.dev.route.pstate = .tracking then .lost else s.dev.route.pstate) ∧ t.dev.route.posdisc = s.dev.route.posdisc ∧ t.dev.route.index = s.dev.route.index ∧
      (s.dev.route.correction x = false → t.dev.route.pgen = s.dev.route.pgen ∧ t.dev.route.corr = s.dev.route.corr) ∧
      (s.dev.route.correction x = true →
        t.dev.route.pgen = s.dev.route.pgen + 1#4 ∧ t.dev.route.corr = satInc s.dev.route.corr) ∧ coresQueuesKept s t) ∧
  (∀ (s : State) (l : PartId) (p : W16) (b : List Byte), s.dev.laneUp l = true → l = s.dev.route.poslane → p = s.dev.ing.posport →
    p ≠ 0#16 → (b.length ≠ 32 ∨ s.dev.route.laneEn = false ∨ s.dev.route.en = false ∨ b.headD 0#8 ≠ 1#8 ∨
      (s.dev.route.haveRec = true ∧ (posOfBytes beNat b).time.toNat ≤ s.dev.route.last.time.toNat)) →
    ∃ t, exec (.positionDatagram l p b) s = .next t ∧
      t.dev.route = { s.dev.route with posdisc := satInc s.dev.route.posdisc } ∧ coresQueuesKept s t) ∧
  (∀ (s : State) (b : Byte) (x : PosRec), hostRuns s → s.dev.pwr.resetHeld = false → s.dev.pwr.supplyFail = false →
    s.dev.route.hostEn = true → s.dev.route.en = true → s.dev.route.posin.headD 0#8 = 1#8 → x = posOfBytes leNat s.dev.route.posin →
    (s.dev.route.haveRec = true → s.dev.route.last.time.toNat < x.time.toNat) →
    ∃ t, exec (.rtePosinSubmit b) s = .next t ∧ t.dev.route.last = x ∧
      t.dev.route.pstate = (if x.nopos = false then .tracking else if s.dev.route.pstate = .tracking then .lost else s.dev.route.pstate) ∧
      t.dev.route.posdisc = s.dev.route.posdisc ∧ coresQueuesKept s t) ∧
  (∀ (s : State), s.dev.route.en = true → s.dev.route.pstate = .tracking →
    ∃ t, exec .positionTimeout s = .next t ∧ t.dev.route.pstate = .lost ∧ t.dev.route.last = s.dev.route.last ∧
      t.dev.route.pgen = s.dev.route.pgen ∧ t.dev.route.index = s.dev.route.index ∧ coresQueuesKept s t)

/-- The next place of a list that is due, or of the list of the next frame where none is, gives a tile of its frame, with the generation in force and TSTAT 2 in Lost; a
comparison core that used an older tile of the frame in hand marks it superseded (R339, R344, R345, R349, R351). -/
def Obligations.TilesAndNotices : Prop :=
  (∀ (s : State) (g : BitVec 2) (upset : Bool) (x : RefGroup) (l : RefList) (pos : Nat) (r : List Nat), s.dev.route.en = true →
    s.dev.route.pstate ≠ .idle → s.dev.refGroup g = some x → x.lists = [l] → l.todo = pos :: r →
    (∀ e ∈ s.dev.route.groups, ∀ y, e.2 = some y → y.tiles = []) →
    (∀ k ∈ l.todo, s.dev.queueLive (x.dest k) = true) →
    ∃ t y u, exec (.tileIssue g upset) s = .next t ∧ t.dev.refGroup g = some y ∧ u ∈ y.tiles ∧ u.frame = l.frame ∧ u.pos = pos ∧
      u.q = x.dest pos ∧ u.pgen = s.dev.route.pgen ∧ u.epoch = (s.dev.net x.net).epoch ∧
      (s.dev.route.pstate = .lost → u.tstat = 2#2 ∧ u.upol = 0#2) ∧ (s.dev.route.passOpen = false → u.upol = 0#2) ∧
      y.lists.map (fun m => m.todo) = [r] ∧ t.dev.psram = s.dev.psram) ∧
  (∀ (s : State) (g : BitVec 2) (upset : Bool) (x z : RefGroup) (l : RefList) (pos : Nat) (r : List Nat), s.dev.route.en = true →
    s.dev.route.pstate ≠ .idle → s.dev.refGroup g = some x →
    z = s.dev.pruneRef { x with lists := x.lists.map (fun m => { m with todo := s.dev.livePlaces x m.todo }) } →
    z.lists.find? (fun m => !m.todo.isEmpty) = some l → l.todo = pos :: r →
    (∀ e ∈ s.dev.route.groups, e.1 % 4 = g.toNat → ∀ y, e.2 = some y → ∀ u ∈ y.tiles, u.frame = l.frame → u.pos ≠ pos) →
    ∃ t y u, exec (.tileIssue g upset) s = .next t ∧ t.dev.refGroup g = some y ∧ u ∈ y.tiles ∧ u.frame = l.frame ∧ u.pos = pos ∧
      u.q = x.dest pos ∧ u.pgen = s.dev.route.pgen ∧ u.epoch = (s.dev.net x.net).epoch ∧
      (s.dev.route.pstate = .lost → u.tstat = 2#2 ∧ u.upol = 0#2) ∧ (s.dev.route.passOpen = false → u.upol = 0#2) ∧
      t.dev.psram = s.dev.psram) ∧
  (∀ (s : State) (g : BitVec 2) (upset : Bool) (x z : RefGroup) (f : W32) (pos : Nat) (r : List Nat), s.dev.route.en = true →
    s.dev.route.pstate ≠ .idle → s.dev.refGroup g = some x →
    z = s.dev.pruneRef { x with lists := x.lists.map (fun m => { m with todo := s.dev.livePlaces x m.todo }) } →
    z.lists.any (fun m => !m.todo.isEmpty) = false → s.dev.nextListFrame z = some f →
    s.dev.livePlaces z (List.range (x.img.nbin * x.img.tpb)) = pos :: r →
    (∀ e ∈ s.dev.route.groups, e.1 % 4 = g.toNat → ∀ y, e.2 = some y → ∀ u ∈ y.tiles, u.frame ≠ f) →
    ∃ t y u, exec (.tileIssue g upset) s = .next t ∧ t.dev.refGroup g = some y ∧ y.lastFrame = some f ∧ u ∈ y.tiles ∧ u.frame = f ∧
      u.pos = pos ∧ u.q = x.dest pos ∧ u.pgen = s.dev.route.pgen ∧ t.dev.psram = s.dev.psram) ∧
  (∀ (s : State) (c : CoreId) (pgen : BitVec 4) (a b : W32), (s.dev.core c).assigned = true → (s.dev.core c).kind = .comparison →
    (s.dev.core c).inFrame = true → pdist a (s.dev.core c).frame ≤ pdist a b →
    (∃ u ∈ (s.dev.core c).refs, u.frame = (s.dev.core c).frame ∧ pgenOlder u.pgen pgen = true) →
    ∃ t, exec (.supersedeNotice c pgen a b) s = .next t ∧ onlyCore c s t ∧
      t.dev.core c = { s.dev.core c with flags := (s.dev.core c).flags ||| 4#8 })

/-- The tag of a candidate tile opens a candidate of its bin with the oldest block of the free list, while a pass is open (R352
to R354), and its data words are written a burst of 512 bytes at a time; a bin that falls due with a whole, untainted candidate has
its entry name the candidate's block, in hardware mode at once and in host mode by the host's decision; one without it keeps its block
and a valid one grows older (R355, R356, R360). -/
def Obligations.CandidatesCommit : Prop :=
  (∀ (s : State) (q : QueueId) (r : BitVec 10) (w : QWord) (g : BitVec 2) (x : RefGroup) (f : BitVec 25) (fs : List (BitVec 25)),
    s.dev.refGroups.any (fun e => e.2.img.cands.contains q) = true → s.dev.peek q r = .word w → w.kind = .data →
    (s.dev.candIn q).left = 0 → s.dev.edgeGroup q (w.payload.extractLsb' 46 2) = some (g, x) → w.payload.extractLsb' 56 2 = 0#2 →
    0 ≤ fullBin x.lastFirst (w.payload.extractLsb' 32 14) → (w.payload.extractLsb' 48 8).toNat < x.img.tpb → 0 < x.img.tsize →
    s.dev.route.en = true → s.dev.route.passOpen = true → s.dev.route.cands = [] → s.dev.route.free = f :: fs →
    (s.dev.seqRead q r).peek q r = .empty →
    ∃ t c, exec (.candidateTileWrite q r) s = .next t ∧ t.dev.route.cands = [c] ∧ t.dev.route.free = fs ∧ c.block = f ∧
      c.bin = BitVec.ofInt 32 (fullBin x.lastFirst (w.payload.extractLsb' 32 14)) ∧ c.tiles = [] ∧
      (t.dev.candIn q).left = 64 * x.img.tsize ∧ (t.dev.candIn q).bin = c.bin ∧ t.dev.psram = s.dev.psram) ∧
  (∀ (s : State) (q : QueueId) (r : BitVec 10) (w : QWord) (x : CandIn) (a : Nat),
    s.dev.refGroups.any (fun e => e.2.img.cands.contains q) = true → s.dev.peek q r = .word w → w.kind = .data → x = s.dev.candIn q →
    0 < x.left → x.addr = some a → a % 512 = 0 → x.held.length < 64 → (x.left = 1 ∨ (s.dev.seqRead q r).peek q r = .empty) →
    ∃ t, exec (.candidateTileWrite q r) s = .next t ∧ (t.dev.candIn q).left = x.left - 1 ∧ t.dev.route.free = s.dev.route.free ∧
      (x.held.length < 63 → (t.dev.candIn q).held = x.held ++ [w.payload] ∧ t.dev.psram = s.dev.psram) ∧
      (x.held.length = 63 → s.dev.causeFor .route (partOfQueue q) a true = none → (locate s.dev.die1 a).isSome = true →
        (t.dev.candIn q).held = [] ∧ (t.dev.candIn q).addr = some (a + 512) ∧
        t.dev.readBytes a 512 = (x.held ++ [w.payload]).flatMap bytes64) ∧
      (x.left = 1 → ∀ c ∈ t.dev.route.cands, c.bin = x.bin → (x.group, x.tile) ∈ c.tiles)) ∧
  (∀ (s : State) (b : W32), s.dev.route.en = true → s.dev.binPassed b = true →
    ∃ t, exec (.candidateDue b) s = .next t ∧ t.dev.route.cands = s.dev.route.cands.filter (fun x => x.bin != b) ∧
      t.dev.route.past = s.dev.route.past.filter (fun x => x != b) ∧ coresQueuesKept s t ∧
      (∀ x, slotOfBin x ≠ slotOfBin b → t.dev.entry x = s.dev.entry x) ∧
      (∀ c, s.dev.route.cands.find? (fun x => x.bin == b) = some c → s.dev.candHost c = false →
        (s.dev.candWhole c = true → c.tainted = false → entValid (t.dev.entry b) b = true ∧ entAddr (t.dev.entry b) = c.block ∧
          entAge (t.dev.entry b) = 0#8 ∧ t.dev.route.pend = s.dev.route.pend) ∧
        (s.dev.candWhole c = false ∨ c.tainted = true →
          entAddr (t.dev.entry b) = entAddr (s.dev.entry b) ∧ t.dev.route.pend = s.dev.route.pend)) ∧
      (∀ c, s.dev.route.cands.find? (fun x => x.bin == b) = some c → s.dev.candHost c = true →
        entAddr (t.dev.entry b) = entAddr (s.dev.entry b) ∧
        (s.dev.route.pend.length < 256 → t.dev.route.pend = s.dev.route.pend ++ [c]) ∧
        (256 ≤ s.dev.route.pend.length → t.dev.route.pend = s.dev.route.pend ∧
          t.dev.route.candDrop = satInc s.dev.route.candDrop)) ∧
      (s.dev.route.cands.find? (fun x => x.bin == b) = none → b ∈ s.dev.route.past → entValid (s.dev.entry b) b = true →
        entAge (t.dev.entry b) = satInc (entAge (s.dev.entry b)))) ∧
  (∀ (s : State) (c : Cand) (l : List Cand), hostRuns s → s.dev.route.pend = c :: l → s.dev.candHost c = true →
    (∃ t, exec .rteDecideCommit s = .next t ∧ t.dev.route.pend = l ∧ entValid (t.dev.entry c.bin) c.bin = true ∧
      entAddr (t.dev.entry c.bin) = c.block ∧ (∀ b, slotOfBin b ≠ slotOfBin c.bin → t.dev.entry b = s.dev.entry b) ∧
      coresQueuesKept s t) ∧
    (∃ t, exec .rteDecideDiscard s = .next t ∧ t.dev.route = { s.dev.route with pend := l } ∧ coresQueuesKept s t)) ∧
  (∀ (s : State), hostRuns s → s.dev.route.pend = [] → ∀ i, i = .rteDecideCommit ∨ i = .rteDecideDiscard →
    ∃ t, exec i s = .next t ∧ t.dev.route = { s.dev.route with rej := satInc s.dev.route.rej } ∧ coresQueuesKept s t)

/-- The pass and the host's registers of the RTE block: a pass opens once, its close makes every bin of it due, its abort
discards the open candidates; the free list takes blocks, the retire token comes back when no tile issued before it is
undelivered, and the fields that EN gates keep their values while EN is 1 (R351, R355, R357 to R360). -/
def Obligations.PassAndRouteRegisters : Prop :=
  (∀ (s : State), hostRuns s → s.dev.route.passOpen = false →
    ∃ t, exec .passOpen s = .next t ∧
      t.dev.route = { s.dev.route with passOpen := true, passno := satInc s.dev.route.passno, uncEvt := false } ∧ coresQueuesKept s t) ∧
  (∀ (s : State), hostRuns s → s.dev.route.passOpen = true →
    (∃ t, exec .passClose s = .next t ∧ t.dev.route.passOpen = false ∧ t.dev.route.cands = [] ∧ t.dev.route.past = [] ∧
      t.dev.route.free = s.dev.route.free ∧ coresQueuesKept s t) ∧
    (∃ t, exec .passAbort s = .next t ∧ t.dev.route.passOpen = false ∧ t.dev.route.cands = [] ∧
      t.dev.route.index = s.dev.route.index ∧ t.dev.route.pend = s.dev.route.pend ∧ coresQueuesKept s t)) ∧
  (∀ (s : State) (v : W32), hostRuns s →
    ∃ t, exec (.rteFreeWrite v) s = .next t ∧
      (s.dev.route.free.length < 256 → t.dev.route = { s.dev.route with free := s.dev.route.free ++ [v.extractLsb' 0 25] }) ∧
      (256 ≤ s.dev.route.free.length → t.dev.route = { s.dev.route with rej := satInc s.dev.route.rej }) ∧ coresQueuesKept s t) ∧
  (∀ (s : State) (v : W32), hostRuns s →
    ∃ t, exec (.rteRetireWrite v) s = .next t ∧ t.dev.route.retire = v.extractLsb' 0 16 ∧ t.dev.route.retirePend = true ∧
      t.dev.route.retired = s.dev.route.retired ∧ coresQueuesKept s t) ∧
  (∀ (s : State), s.dev.route.retirePend = true → (∀ x ∈ s.dev.undelivered, x ∉ s.dev.route.retireTiles) →
    ∃ t, exec .retireComplete s = .next t ∧ t.dev.route.retired = s.dev.route.retire ∧ t.dev.route.retirePend = false ∧
      t = { s with dev := { s.dev with route := t.dev.route } }) ∧
  (∀ (s : State) (v : W32), hostRuns s →
    ∃ t, exec (.rteCtrlWrite v) s = .next t ∧ t.dev.route.en = v.getLsbD 0 ∧ t.dev.route.laneEn = v.getLsbD 1 ∧
      t.dev.route.hostEn = v.getLsbD 2 ∧ t.dev.route.commitlag = v.extractLsb' 20 8 ∧
      (s.dev.route.en = false → t.dev.route.poslane = v.extractLsb' 3 5 ∧ t.dev.route.binlen = v.extractLsb' 8 6 ∧
        t.dev.route.horizon = v.extractLsb' 14 6 ∧ t.dev.route.rej = s.dev.route.rej) ∧
      (s.dev.route.en = true → t.dev.route.poslane = s.dev.route.poslane ∧ t.dev.route.binlen = s.dev.route.binlen ∧
        t.dev.route.horizon = s.dev.route.horizon) ∧
      (s.dev.route.en = true → v.getLsbD 0 = false → t.dev.route.pstate = .idle ∧ t.dev.route.cands = []) ∧ coresQueuesKept s t) ∧
  (∀ (s : State) (v : W32), hostRuns s →
    ∃ t, exec (.rtePredWrite v) s = .next t ∧ t.dev.route.corrTh = v.extractLsb' 0 16 ∧
      (s.dev.route.en = false → t.dev.route.posTo = v.extractLsb' 16 16 ∧ t.dev.route.rej = s.dev.route.rej) ∧
      (s.dev.route.en = true → t.dev.route.posTo = s.dev.route.posTo ∧
        (v.extractLsb' 16 16 ≠ s.dev.route.posTo → t.dev.route.rej = satInc s.dev.route.rej)) ∧ coresQueuesKept s t)

/-! ## Adaptation -/

/-- The intake writes a replay slot: its header, its place in the ring and its state, excluded when a flag of XMASK is set or a
word was lost; no byte outside the slot changes (R367 to R370); a slot that may not be written or read is excluded and counted. The feeder issues the lowest labelled slot, which is then
issued, and a full batch updates the weights by the optimiser of R375; with a candidate due its images are built and it is
pending, unless a burst of it may not run or it does not read back (R371, R375 to R377). -/
def Obligations.ReplayAndOptimiser : Prop :=
  (∀ (s : State) (u ch : BitVec 2) (f : W32) (flags : Byte) (gap : Bool) (rows : Words) (label : Option Words) (n : NetId) (c : AdChain),
    (s.dev.adaptU u).net = some n → tblGet none (s.dev.adaptU u).chains ch.toNat = some c → (s.dev.adaptU u).en = true →
    s.dev.companionsRun n = true → 1 ≤ c.img.lbloff.toNat →
    512 * c.img.lbloff.toNat + 32 + 8 * c.img.lblw.toNat ≤ 512 * c.img.slotb.toNat →
    s.dev.psramRange (slotAddr (s.dev.adaptU u) c f) (512 * c.img.slotb.toNat) = true →
    s.dev.rangeFault (partOfQueue c.img.first) (slotAddr (s.dev.adaptU u) c f) (512 * c.img.slotb.toNat) true = none →
    ∃ t c', exec (.replaySlotWrite u ch f flags gap rows label) s = .next t ∧
      tblGet none (t.dev.adaptU u).chains ch.toNat = some c' ∧
      (∃ b, tblGet none c'.slots ((s.dev.adaptU u).slotOf f) =
        some ⟨f, if gap = true ∨ flags &&& (s.dev.adaptU u).xmask ≠ 0#8 then 2#3 else 1#3, flags, b⟩) ∧
      t.dev.readBytes (slotAddr (s.dev.adaptU u) c f) 4 = bytes32 f ∧
      (∀ a, (∀ i, i < 512 * c.img.slotb.toNat → locate s.dev.die1 a ≠ locate s.dev.die1 (slotAddr (s.dev.adaptU u) c f + i)) →
        t.byteAt a = s.byteAt a) ∧
      t.dev.cores = s.dev.cores ∧ t.dev.queues = s.dev.queues) ∧
  (∀ (s : State) (u ch : BitVec 2) (n : NetId) (c : AdChain) (o : Replay), (s.dev.adaptU u).net = some n →
    tblGet none (s.dev.adaptU u).chains ch.toNat = some c → (s.dev.adaptU u).en = true → s.dev.companionsRun n = true →
    (s.dev.queue c.img.first).hasCredit 0 = true → (s.dev.queue c.img.first).images = [] →
    s.dev.nextSlot (s.dev.adaptU u) c = some o →
    s.dev.rangeFault (partOfQueue c.img.first) (slotAddr (s.dev.adaptU u) c o.frame) (512 * c.img.slotb.toNat) false = none →
    ∃ t c', exec (.feederIssue u ch) s = .next t ∧ (t.dev.adaptU u).steps = satInc (s.dev.adaptU u).steps ∧
      (t.dev.adaptU u).stepsInBatch = (s.dev.adaptU u).stepsInBatch + 1 ∧
      tblGet none (t.dev.adaptU u).chains ch.toNat = some c' ∧
      tblGet none c'.slots ((s.dev.adaptU u).slotOf o.frame) = some { o with sstate := 3#3 }) ∧
  (∀ (s : State) (u ch : BitVec 2) (f : W32) (flags : Byte) (gap : Bool) (rows : Words) (label : Option Words) (n : NetId) (c : AdChain)
    (x : Nat), (s.dev.adaptU u).net = some n → tblGet none (s.dev.adaptU u).chains ch.toNat = some c → (s.dev.adaptU u).en = true →
    s.dev.companionsRun n = true →
    s.dev.rangeFault (partOfQueue c.img.first) (slotAddr (s.dev.adaptU u) c f) (512 * c.img.slotb.toNat) true = some x →
    ∃ t c' b, exec (.replaySlotWrite u ch f flags gap rows label) s = .next t ∧ tblGet none (t.dev.adaptU u).chains ch.toNat = some c' ∧
      tblGet none c'.slots ((s.dev.adaptU u).slotOf f) = some ⟨f, 2#3, flags, b⟩ ∧
      (t.dev.adaptU u).skipExcl = satInc (s.dev.adaptU u).skipExcl ∧ coresQueuesKept s t) ∧
  (∀ (s : State) (u ch : BitVec 2) (n : NetId) (c : AdChain) (o : Replay) (x : Nat), (s.dev.adaptU u).net = some n →
    tblGet none (s.dev.adaptU u).chains ch.toNat = some c → (s.dev.adaptU u).en = true → s.dev.companionsRun n = true →
    (s.dev.queue c.img.first).hasCredit 0 = true → (s.dev.queue c.img.first).images = [] →
    s.dev.nextSlot (s.dev.adaptU u) c = some o →
    s.dev.rangeFault (partOfQueue c.img.first) (slotAddr (s.dev.adaptU u) c o.frame) (512 * c.img.slotb.toNat) false = some x →
    ∃ t c', exec (.feederIssue u ch) s = .next t ∧ (t.dev.adaptU u).skipExcl = satInc (s.dev.adaptU u).skipExcl ∧
      (t.dev.adaptU u).steps = (s.dev.adaptU u).steps ∧ tblGet none (t.dev.adaptU u).chains ch.toNat = some c' ∧
      tblGet none c'.slots ((s.dev.adaptU u).slotOf o.frame) = some { o with sstate := 2#3 } ∧ coresQueuesKept s t) ∧
  (∀ (s : State) (u : BitVec 2) (gs : List Grad) (ok : Bool) (n : NetId) (a : Adapt), a = s.dev.adaptU u → a.net = some n → a.en = true →
    a.freeze = false → s.dev.companionsRun n = true → max a.batch.toNat 1 ≤ a.stepsInBatch →
    ∃ t, exec (.batchEnd u gs ok) s = .next t ∧
      (t.dev.adaptU u).weights = (a.optimise (s.dev.momentS2 n false) (s.dev.momentS2 n true) gs
        ((a.stages.map (fun x => x.first + x.places.length + x.chans)).foldl max 0)).2 ∧
      (t.dev.adaptU u).stepsInBatch = a.stepsInBatch - max a.batch.toNat 1 ∧ t.dev.queues = s.dev.queues ∧ t.dev.cores = s.dev.cores ∧
      ((a.pending = true ∨ (satInc a.batches).toNat < max a.ncommit.toNat 1 ∨ a.busyBank = some a.candBank) →
        (t.dev.adaptU u).batches = satInc a.batches ∧ (t.dev.adaptU u).pending = a.pending ∧
        (∀ b, (∀ i, i < 8 * (((a.stages.map (fun x => x.first + x.places.length + x.chans)).foldl max 0 + 3) / 4) →
          locate s.dev.die1 b ≠ locate s.dev.die1 (512 * a.wbase.toNat + i)) → t.byteAt b = s.byteAt b)) ∧
      (a.pending = false → a.busyBank ≠ some a.candBank → max a.ncommit.toNat 1 ≤ (satInc a.batches).toNat →
        (t.dev.adaptU u).batches = 0#8 ∧
        ((∀ x ∈ a.stages, s.dev.rangeFault x.part (bankAddr x a.candBank) (8 * x.imgWords.toNat) true = none) →
          (ok = true → (t.dev.adaptU u).pending = true ∧ (t.dev.adaptU u).cand = a.candBank) ∧
          (ok = false → (t.dev.adaptU u).pending = false ∧ (t.dev.adaptU u).discTrial = satInc a.discTrial)) ∧
        ((∃ x ∈ a.stages, s.dev.rangeFault x.part (bankAddr x a.candBank) (8 * x.imgWords.toNat) true ≠ none) →
          (t.dev.adaptU u).pending = false)))

/-- A marked candidate becomes the active bank with the next epoch, and the old bank is free once its last frame is out (R380,
R381); the host's decisions and its writes of ADP_CTRL and ADP_BATCH (R378, R385). -/
def Obligations.CommitAndAdaptRegisters : Prop :=
  (∀ (s : State) (u : BitVec 2) (n : NetId), (s.dev.adaptU u).net = some n → (s.dev.adaptU u).state = .marked →
    (s.dev.adaptU u).busyBank = none → s.dev.admitting n = true →
    (∀ e ∈ (s.dev.net n).groups, ∀ g, e.2 = some g → ∀ l ∈ g.live, l.2 ≠ .pending) →
    ∃ t, exec (.adaptationCommit u) s = .next t ∧ (t.dev.adaptU u).active = (s.dev.adaptU u).cand ∧
      (t.dev.adaptU u).busyBank = some (s.dev.adaptU u).active ∧ (t.dev.adaptU u).pending = false ∧
      (t.dev.adaptU u).gen = (s.dev.adaptU u).gen + 1#32 ∧ (t.dev.net n).epoch = (s.dev.net n).epoch + 1#3 ∧
      (∀ m, m ≠ n → t.dev.net m = s.dev.net m) ∧ coresQueuesKept s t) ∧
  (∀ (s : State) (u : BitVec 2) (n : NetId) (b : BitVec 2), (s.dev.adaptU u).net = some n → (s.dev.adaptU u).busyBank = some b →
    s.dev.frameOut n (s.dev.adaptU u).lastf = true →
    ∃ t, exec (.bankFree u) s = .next t ∧ t.dev.adaptU u = { s.dev.adaptU u with busyBank := none } ∧
      t = { s with dev := { s.dev with adapt := t.dev.adapt } }) ∧
  (∀ (s : State) (u : BitVec 2), hostRuns s → (s.dev.adaptU u).net ≠ none →
    (∃ t, exec (.adpDecideCommit u) s = .next t ∧ coresQueuesKept s t ∧
      ((s.dev.adaptU u).state = .pendingHost → t.dev.adaptU u = { s.dev.adaptU u with state := .marked }) ∧
      ((s.dev.adaptU u).state ≠ .pendingHost → t.dev.adaptU u = { s.dev.adaptU u with rej := satInc (s.dev.adaptU u).rej })) ∧
    (∃ t, exec (.adpDecideDiscard u) s = .next t ∧ coresQueuesKept s t ∧
      ((s.dev.adaptU u).state = .pendingHost → (t.dev.adaptU u).pending = false ∧ (t.dev.adaptU u).cand = (s.dev.adaptU u).active ∧
        (t.dev.adaptU u).discHost = satInc (s.dev.adaptU u).discHost) ∧
      ((s.dev.adaptU u).state ≠ .pendingHost → t.dev.adaptU u = { s.dev.adaptU u with rej := satInc (s.dev.adaptU u).rej }))) ∧
  (∀ (s : State) (u : BitVec 2) (v : W32), hostRuns s → (s.dev.adaptU u).net ≠ none →
    ∃ t, exec (.adpCtrlWrite u v) s = .next t ∧ (t.dev.adaptU u).en = v.getLsbD 0 ∧ (t.dev.adaptU u).freeze = v.getLsbD 1 ∧
      (t.dev.adaptU u).ntrial = v.extractLsb' 10 4 ∧
      ((s.dev.adaptU u).en = false → (t.dev.adaptU u).ncommit = v.extractLsb' 2 8 ∧ (t.dev.adaptU u).xmask = v.extractLsb' 14 8 ∧
        (t.dev.adaptU u).rej = (s.dev.adaptU u).rej) ∧
      ((s.dev.adaptU u).en = true → (t.dev.adaptU u).ncommit = (s.dev.adaptU u).ncommit ∧
        (t.dev.adaptU u).xmask = (s.dev.adaptU u).xmask) ∧ coresQueuesKept s t) ∧
  (∀ (s : State) (u : BitVec 2) (v : W32), hostRuns s → (s.dev.adaptU u).net ≠ none →
    ∃ t, exec (.adpBatchWrite u v) s = .next t ∧ coresQueuesKept s t ∧
      ((s.dev.adaptU u).en = false → t.dev.adaptU u = { s.dev.adaptU u with batch := v.setWidth 16 }) ∧
      ((s.dev.adaptU u).en = true → v.setWidth 16 ≠ (s.dev.adaptU u).batch →
        t.dev.adaptU u = { s.dev.adaptU u with rej := satInc (s.dev.adaptU u).rej }))

/-! ## Memory and DMA -/

/-- A channel grants the burst that arbitration picks and holds it until it is done; lane 8 hands a waiting burst to its
channel; the stacks' temperature bits, self-refresh and the region descriptors (R388, R389, R394 to R397, R402, R403, R497). -/
def Obligations.MemoryCommands : Prop :=
  (∀ (s : State) (ch : Fin 192) (b : BurstReq) (g : Bool), (s.dev.chan ch.val).busy = none → (s.dev.ring (ch.val / 96)).up = true →
    (s.dev.chan ch.val).pick = some (b, g) →
    ∃ t x, exec (.memoryBurstGrant ch) s = .next t ∧ (t.dev.chan ch.val).busy = some x ∧ x.who = b.who ∧ x.addr = b.addr ∧
      (t.dev.chan ch.val).waiting = (s.dev.chan ch.val).waiting.erase b ∧ (t.dev.chan ch.val).selfRefresh = false ∧
      coresQueuesKept s t) ∧
  (∀ (s : State) (ch : Fin 192) (b : BurstReq) (n : BitVec 6), (s.dev.chan ch.val).busy = some b → b.who = .dma n → b.write = true →
    b.dead = false → b.cause = 0 → s.dev.psramRange b.addr.toNat b.data.length = true →
    ∃ t, exec (.memoryBurstDone ch) s = .next t ∧ (t.dev.chan ch.val).busy = none ∧
      t.dev.readBytes b.addr.toNat b.data.length = b.data ∧ (t.dev.dmaCh n).inFlight = (s.dev.dmaCh n).inFlight - 1 ∧
      (∀ a, (∀ i, i < b.data.length → locate s.dev.die1 a ≠ locate s.dev.die1 (b.addr.toNat + i)) → t.byteAt a = s.byteAt a) ∧
      t.dev.cores = s.dev.cores ∧ t.dev.queues = s.dev.queues) ∧
  (∀ (s : State) (ch : Fin 192) (b : BurstReq), (s.dev.chan ch.val).busy = some b →
    ∃ t, exec (.memoryBurstDone ch) s = .next t ∧ (t.dev.chan ch.val).busy = none ∧ (b.write = false → t.dev.psram = s.dev.psram) ∧
      (b.dead = true → t = { s with dev := { s.dev with chans := t.dev.chans } })) ∧
  (∀ (s : State) (ch : Fin 192) (b : BurstReq) (n : BitVec 6) (a : DevAddr), (s.dev.chan ch.val).busy = some b → b.who = .dma n →
    b.write = false → b.dead = false → b.dst = some a → (locate s.dev.die1 a.toNat).isSome = true →
    ∃ t, exec (.memoryBurstDone ch) s = .next t ∧ (t.dev.chan ch.val).busy = none ∧
      (t.dev.dmaCh n).inFlight = (s.dev.dmaCh n).inFlight ∧ coresQueuesKept s t) ∧
  (∀ (s : State) (ch : Fin 192) (b : BurstReq) (q : QueueId), (s.dev.chan ch.val).busy = some b → b.who = .spill q → b.write = true →
    b.dead = false → b.cause = 0 → (s.dev.queue q).spillBusy = true → b.tag = (s.dev.queue q).spillSeq.setWidth 64 →
    56 ≤ (s.dev.queue q).stager.length → s.dev.psramRange b.addr.toNat 512 = true →
    ∃ t, exec (.memoryBurstDone ch) s = .next t ∧ (t.dev.chan ch.val).busy = none ∧
      t.dev.readBytes b.addr.toNat 512 = spillBytes ((s.dev.queue q).stager.take 56) (s.dev.queue q).spillSeq q ∧
      (t.dev.queue q).ring = (s.dev.queue q).ring ++ [⟨(s.dev.queue q).spillSeq, b.off⟩] ∧
      (t.dev.queue q).stager = (s.dev.queue q).stager.drop 56 ∧
      (t.dev.queue q).spwords = satAdd (s.dev.queue q).spwords 56) ∧
  (∀ (s : State) (dir : Fin 2) (b : BurstReq) (pl : Nat × Nat),
    [0#2, 1#2, 2#2, 3#2].findSome? (fun k => (s.dev.ring dir.val).lane8.find? (fun x => x.cls == k)) = some b →
    locate s.dev.die1 b.addr.toNat = some pl → (s.dev.ring dir.val).up = true →
    ∃ t, exec (.farLaneGrant dir) s = .next t ∧ (t.dev.ring dir.val).lane8 = (s.dev.ring dir.val).lane8.erase b ∧
      (t.dev.chan pl.1).waiting = (s.dev.chan pl.1).waiting ++ [b] ∧ coresQueuesKept s t) ∧
  (∀ (s : State) (k : Fin 12),
    (∃ t, exec (.stackHot k) s = .next t ∧ t = { s with dev := { s.dev with hot := t.dev.hot } } ∧
      ∀ i, i < 12 → t.dev.hot.getLsbD i = (s.dev.hot.getLsbD i || i == k.val)) ∧
    (∃ t, exec (.stackCool k) s = .next t ∧ t = { s with dev := { s.dev with hot := t.dev.hot } } ∧
      ∀ i, i < 12 → t.dev.hot.getLsbD i = (s.dev.hot.getLsbD i && i != k.val))) ∧
  (∀ (s : State) (ch : Fin 192), s.dev.pwr.state = .standby → (s.dev.chan ch.val).busy = none → (s.dev.chan ch.val).waiting = [] →
    ∃ t, exec (.selfRefreshReturn ch) s = .next t ∧ t.dev.chan ch.val = { s.dev.chan ch.val with selfRefresh := true } ∧
      t = { s with dev := { s.dev with chans := t.dev.chans } }) ∧
  (∀ (s : State) (p : PartId) (j : BitVec 6) (reg : BitVec 2) (v : W32) (r : Region), hostRuns s →
    s.dev.expertLive (dieOfPart p) = true → r = tblGet {} (s.dev.part p).regions j.toNat → reg ≠ 3#2 →
    ∃ t, exec (.regionDescriptorWrite p j reg v) s = .next t ∧ coresQueuesKept s t ∧
      (s.dev.xptWen = true → r.lock = false → ((r.write reg v).v = false ∨ rangeOk s.dev.die1 (r.write reg v).start (r.write reg v).bytes = true) →
        tblGet {} (t.dev.part p).regions j.toNat = r.write reg v ∧ t.dev.memRej = s.dev.memRej) ∧
      (s.dev.xptWen = true → r.lock = false → (r.write reg v).v = true → rangeOk s.dev.die1 (r.write reg v).start (r.write reg v).bytes = false →
        tblGet {} (t.dev.part p).regions j.toNat = { r.write reg v with v := false } ∧ t.dev.memRej = satInc s.dev.memRej) ∧
      (s.dev.xptWen = true → r.lock = true → t.dev.part p = s.dev.part p ∧ t.dev.memRej = satInc s.dev.memRej) ∧
      (s.dev.xptWen = false → t.dev.part p = s.dev.part p ∧ t.dev.xptRej = satInc s.dev.xptRej))

/-- A DMA channel reads its descriptor, issues its bursts with at most eight in flight, and completes: word 3 is written and
HEAD moves on; a descriptor or ring address that may not be accessed stops the channel, and in host-assisted mode a burst that
would fault freezes it, RESUME and ABORT being the host's answers (R404 to R412). -/
def Obligations.DmaDescriptors : Prop :=
  (∀ (s : State) (n : BitVec 6), (s.dev.dmaCh n).en = true → (s.dev.dmaCh n).desc = none → (s.dev.dmaCh n).state = 0#2 →
    (s.dev.dmaCh n).head ≠ (s.dev.dmaCh n).tail → (s.dev.part (dmaPart n)).suspend = false → (s.dev.dmaCh n).inFlight = 0 →
    ∃ t, exec (.dmaDescriptorFetch n) s = .next t ∧ t.dev.cores = s.dev.cores ∧ t.dev.queues = s.dev.queues ∧
      (s.dev.burstCause (dmaPart n) (s.dev.dmaCh n).descAddr false true = none →
        (parseDesc (s.dev.memRead (s.dev.dmaCh n).descAddr 32)).2 = false →
        (t.dev.dmaCh n).desc = some (parseDesc (s.dev.memRead (s.dev.dmaCh n).descAddr 32)).1 ∧ (t.dev.dmaCh n).off = 0 ∧
        t.dev.psram = s.dev.psram) ∧
      (s.dev.burstCause (dmaPart n) (s.dev.dmaCh n).descAddr false true = none →
        (parseDesc (s.dev.memRead (s.dev.dmaCh n).descAddr 32)).2 = true →
        s.dev.burstCause (dmaPart n) ((s.dev.dmaCh n).descAddr + 24) true true = none →
        (t.dev.dmaCh n).desc = none ∧ (t.dev.dmaCh n).head = (s.dev.dmaCh n).nextHead ∧
        (t.dev.dmaCh n).done = satInc (s.dev.dmaCh n).done) ∧
      (∀ k, s.dev.burstCause (dmaPart n) (s.dev.dmaCh n).descAddr false true = some k →
        (t.dev.dmaCh n).en = false ∧ (t.dev.dmaCh n).state = 3#2 ∧ t.dev.psram = s.dev.psram)) ∧
  (∀ (s : State) (n : BitVec 6) (x : DmaDesc) (c : DmaChan), c = s.dev.dmaCh n → c.desc = some x → c.state = 0#2 → c.aborted = false →
    (s.dev.part (dmaPart n)).suspend = false → c.inFlight < 8 → c.off < x.len.toNat →
    (s.dev.hostMode (dmaPart n) 0 = false ∨ s.dev.dmaWouldFault (dmaPart n) x c.off = none) →
    ∃ t, exec (.dmaBurstIssue n) s = .next t ∧ (t.dev.dmaCh n).off = c.off + x.burstLen c.off ∧ coresQueuesKept s t ∧
      (((locate s.dev.die1 (x.dst + BitVec.ofNat 40 c.off).toNat).isSome = true ∨
          (x.fill = false ∧ (locate s.dev.die1 (x.src.setWidth 40 + BitVec.ofNat 40 c.off).toNat).isSome = true)) →
        (t.dev.dmaCh n).inFlight = c.inFlight + 1) ∧
      (locate s.dev.die1 (x.dst + BitVec.ofNat 40 c.off).toNat = none →
        (x.fill = true ∨ locate s.dev.die1 (x.src.setWidth 40 + BitVec.ofNat 40 c.off).toNat = none) →
        (t.dev.dmaCh n).inFlight = c.inFlight)) ∧
  (∀ (s : State) (n : BitVec 6) (x : DmaDesc) (a : Nat) (w : Bool), (s.dev.dmaCh n).desc = some x → (s.dev.dmaCh n).state = 0#2 →
    (s.dev.dmaCh n).aborted = false → (s.dev.part (dmaPart n)).suspend = false → (s.dev.dmaCh n).inFlight < 8 → (s.dev.dmaCh n).off < x.len.toNat →
    s.dev.hostMode (dmaPart n) 0 = true → s.dev.dmaWouldFault (dmaPart n) x (s.dev.dmaCh n).off = some (a, w) →
    ∃ t, exec (.dmaBurstIssue n) s = .next t ∧ (t.dev.dmaCh n).state = 1#2 ∧
      (t.dev.dmaCh n).resume = BitVec.ofNat 32 (s.dev.dmaCh n).off ∧ (t.dev.dmaCh n).inFlight = (s.dev.dmaCh n).inFlight ∧
      coresQueuesKept s t) ∧
  (∀ (s : State) (n : BitVec 6) (x : DmaDesc) (c : DmaChan) (w : W64), c = s.dev.dmaCh n → c.desc = some x → c.inFlight = 0 →
    (c.aborted = true ∨ (c.state = 0#2 ∧ x.len.toNat ≤ c.off)) →
    w = (if c.aborted then statusWord 3 2 (x.len.toNat - c.resume.toNat) else if c.fcause = 0 then statusWord 1 0 0
      else statusWord 2 c.fcause c.fbytes) →
    s.dev.burstCause (dmaPart n) (c.descAddr + 24) true true = none → s.dev.psramRange (c.descAddr + 24) 8 = true →
    ∃ t, exec (.dmaDescriptorComplete n) s = .next t ∧ (t.dev.dmaCh n).head = c.nextHead ∧ (t.dev.dmaCh n).desc = none ∧
      (t.dev.dmaCh n).done = satInc c.done ∧ (t.dev.dmaCh n).en = (c.en && !x.stop) ∧
      t.dev.readBytes (c.descAddr + 24) 8 = bytes64 w ∧
      (∀ a, (∀ i, i < 8 → locate s.dev.die1 a ≠ locate s.dev.die1 (c.descAddr + 24 + i)) → t.byteAt a = s.byteAt a) ∧
      t.dev.cores = s.dev.cores ∧ t.dev.queues = s.dev.queues) ∧
  (∀ (s : State) (n : BitVec 6) (x : DmaDesc) (c : DmaChan) (k : Nat), c = s.dev.dmaCh n → c.desc = some x → c.inFlight = 0 →
    (c.aborted = true ∨ (c.state = 0#2 ∧ x.len.toNat ≤ c.off)) →
    s.dev.burstCause (dmaPart n) (c.descAddr + 24) true true = some k →
    ∃ t, exec (.dmaDescriptorComplete n) s = .next t ∧ (t.dev.dmaCh n).en = false ∧ (t.dev.dmaCh n).state = 3#2 ∧
      (t.dev.dmaCh n).head = c.head ∧ coresQueuesKept s t) ∧
  (∀ (s : State) (n : BitVec 6) (x : DmaDesc), hostRuns s → s.dev.dmaPresent n = true → (s.dev.dmaCh n).desc = some x →
    (s.dev.dmaCh n).state = 1#2 → s.dev.dmaWouldFault (dmaPart n) x (s.dev.dmaCh n).off = none →
    ∃ t, exec (.dmaResume n) s = .next t ∧ t.dev.dmaCh n = { s.dev.dmaCh n with state := 0#2, resume := 0#32 } ∧ coresQueuesKept s t) ∧
  (∀ (s : State) (n : BitVec 6) (x : DmaDesc), hostRuns s → s.dev.dmaPresent n = true → (s.dev.dmaCh n).desc = some x →
    (s.dev.dmaCh n).state = 1#2 → (s.dev.dmaCh n).inFlight = 0 →
    s.dev.burstCause (dmaPart n) ((s.dev.dmaCh n).descAddr + 24) true true = none →
    ∃ t, exec (.dmaAbort n) s = .next t ∧ (t.dev.dmaCh n).desc = none ∧ (t.dev.dmaCh n).head = (s.dev.dmaCh n).nextHead ∧
      (t.dev.dmaCh n).state = 0#2 ∧ t.dev.cores = s.dev.cores ∧ t.dev.queues = s.dev.queues) ∧
  (∀ (s : State) (n : BitVec 6) (x : DmaDesc), hostRuns s → s.dev.dmaPresent n = true → (s.dev.dmaCh n).desc = some x →
    (s.dev.dmaCh n).state = 1#2 → (s.dev.dmaCh n).inFlight ≠ 0 →
    ∃ t, exec (.dmaAbort n) s = .next t ∧ t.dev.dmaCh n = { s.dev.dmaCh n with state := 0#2, aborted := true } ∧ coresQueuesKept s t) ∧
  (∀ (s : State) (n : BitVec 6) (x : DmaDesc) (a : Nat) (w : Bool), hostRuns s → s.dev.dmaPresent n = true →
    (s.dev.dmaCh n).desc = some x → (s.dev.dmaCh n).state = 1#2 →
    s.dev.dmaWouldFault (dmaPart n) x (s.dev.dmaCh n).off = some (a, w) →
    ∃ t, exec (.dmaResume n) s = .next t ∧ (t.dev.dmaCh n).state = 1#2 ∧ (t.dev.dmaCh n).desc = some x ∧
      (t.dev.part (dmaPart n)).tfDma = satInc (s.dev.part (dmaPart n)).tfDma ∧ coresQueuesKept s t) ∧
  (∀ (s : State) (n : BitVec 6) (i : Instr), hostRuns s → s.dev.dmaPresent n = true →
    ((s.dev.dmaCh n).desc = none ∨ (s.dev.dmaCh n).state ≠ 1#2) →
    i = .dmaResume n ∨ i = .dmaAbort n →
    ∃ t, exec i s = .next t ∧ t.dev.dma = s.dev.dma ∧ t.dev.memRej = satInc s.dev.memRej ∧ coresQueuesKept s t)

/-- The registers of a DMA channel and the suspension of a partition's channels (R409, R416). -/
def Obligations.DmaRegisters : Prop :=
  (∀ (s : State) (n : BitVec 6), hostRuns s → s.dev.dmaPresent n = true →
    ∃ t, exec (.dmaResetRing n) s = .next t ∧ coresQueuesKept s t ∧
      ((s.dev.dmaCh n).en = false → (t.dev.dmaCh n).head = 0#12 ∧ (t.dev.dmaCh n).tail = 0#12 ∧ (t.dev.dmaCh n).state = 0#2 ∧
        (t.dev.dmaCh n).rbase = (s.dev.dmaCh n).rbase ∧ t.dev.memRej = s.dev.memRej) ∧
      ((s.dev.dmaCh n).en = true → t.dev.dmaCh n = s.dev.dmaCh n ∧ t.dev.memRej = satInc s.dev.memRej)) ∧
  (∀ (s : State) (n : BitVec 6) (v : W32), hostRuns s → s.dev.dmaPresent n = true →
    ∃ t, exec (.dmaRbaseWrite n v) s = .next t ∧ coresQueuesKept s t ∧
      ((s.dev.dmaCh n).en = false → t.dev.dmaCh n = { s.dev.dmaCh n with rbase := v }) ∧
      ((s.dev.dmaCh n).en = true → t.dev.dmaCh n = s.dev.dmaCh n ∧ t.dev.memRej = satInc s.dev.memRej)) ∧
  (∀ (s : State) (n : BitVec 6) (v : W32), hostRuns s → s.dev.dmaPresent n = true →
    ∃ t, exec (.dmaRcfgWrite n v) s = .next t ∧ coresQueuesKept s t ∧ (t.dev.dmaCh n).en = v.getLsbD 12 ∧
      ((s.dev.dmaCh n).en = false → (t.dev.dmaCh n).rsizeM1 = v.setWidth 12 ∧
        ((s.dev.dmaCh n).state = 3#2 → v.getLsbD 12 = true → (t.dev.dmaCh n).state = 0#2)) ∧
      ((s.dev.dmaCh n).en = true → (t.dev.dmaCh n).rsizeM1 = (s.dev.dmaCh n).rsizeM1)) ∧
  (∀ (s : State) (n : BitVec 6) (v : W32), hostRuns s → s.dev.dmaPresent n = true →
    ∃ t, exec (.dmaTailWrite n v) s = .next t ∧ coresQueuesKept s t ∧
      ((v.setWidth 12 : BitVec 12).toNat ≤ (s.dev.dmaCh n).rsizeM1.toNat → t.dev.dmaCh n = { s.dev.dmaCh n with tail := v.setWidth 12 }) ∧
      ((s.dev.dmaCh n).rsizeM1.toNat < (v.setWidth 12 : BitVec 12).toNat →
        t.dev.dmaCh n = s.dev.dmaCh n ∧ t.dev.memRej = satInc s.dev.memRej)) ∧
  (∀ (s : State) (p : PartId), hostRuns s → s.dev.diePresent (dieOfPart p) = true →
    (∃ t, exec (.dmaSuspend p) s = .next t ∧ t.dev.part p = { s.dev.part p with suspend := true } ∧
      (∀ x, x ≠ p → t.dev.part x = s.dev.part x) ∧ coresQueuesKept s t) ∧
    (∃ t, exec (.dmaUnsuspend p) s = .next t ∧ t.dev.part p = { s.dev.part p with suspend := false, suspended := false } ∧
      (∀ x, x ≠ p → t.dev.part x = s.dev.part x) ∧ coresQueuesKept s t)) ∧
  (∀ (s : State) (p : PartId), (s.dev.part p).suspend = true → (∀ n ∈ dmaOf p, (s.dev.dmaCh n).inFlight = 0) →
    ∃ t, exec (.dmaSuspended p) s = .next t ∧ onlyPart p s t ∧ t.dev.part p = { s.dev.part p with suspended := true })

/-! ## Maquette frames -/

/-- A maquette frame falls due and enters at a free slot with the next number of the maquette counter, or takes the slot of a
waiting camera frame, which is refused, or displaces the next one (R79, R527); a block report reaches the checker while a frame is in
flight. A check counts a run: outputs and block reports within their bounds end it, a first mismatch is reported and asks for a
confirmation frame, a confirmed one fences its core, and a frame that was voided counts nothing and another falls due (R82, R528 to
R531); a trial's frames decide its candidate (R379). -/
def Obligations.MaquetteFrames : Prop :=
  (∀ (s : State) (n : NetId), s.dev.netReleasedNow n = true →
    ∃ t, exec (.maquetteDue n) s = .next t ∧ onlyNet n s t ∧
      t.dev.net n = { s.dev.net n with maq := { (s.dev.net n).maq with due := true } }) ∧
  (∀ (s : State) (n : NetId) (g : BitVec 4) (i : Instr), s.dev.maqWants n = true → s.dev.freeSlot n g = true →
    i = .maquetteInject n g ∨ i = .maquetteForceSlot n g →
    ∃ t x, exec i s = .next t ∧ (t.dev.net n).maq.counter = (s.dev.net n).maq.counter + 1#32 ∧
      (t.dev.net n).maq.inFlight = (s.dev.net n).maq.inFlight ++ [(s.dev.net n).maq.counter] ∧
      t.dev.group n g = some x ∧ x.last = some ((s.dev.net n).maq.counter, true)) ∧
  (∀ (s : State) (n : NetId) (g : BitVec 4) (x : Group), s.dev.maqWants n = true → s.dev.group n g = some x →
    x.img.maqFrames ≠ [] → s.dev.freeSlot n g = false → (∀ e ∈ x.live, e.2 ≠ .pending) →
    ∃ t, exec (.maquetteForceSlot n g) s = .next t ∧ onlyNet n s t ∧ t.dev.group n g = some { x with displace := true }) ∧
  (∀ (s : State) (n : NetId) (g : BitVec 4) (x : Group) (f : W32) (a : Adm), s.dev.maqWants n = true → s.dev.group n g = some x →
    x.img.maqFrames ≠ [] → s.dev.freeSlot n g = false → x.live.find? (fun e => e.2 == .pending) = some (f, a) →
    ∃ t y, exec (.maquetteForceSlot n g) s = .next t ∧ t.dev.group n g = some y ∧ (f, .refused) ∈ y.live ∧
      ((∃ e ∈ y.live, e.2 ≠ .refused) → y.taken = true ∧ (t.dev.net n).maq = (s.dev.net n).maq) ∧
      ((∀ e ∈ y.live, e.2 = .refused) →
        (t.dev.net n).maq.inFlight = (s.dev.net n).maq.inFlight ++ [(s.dev.net n).maq.counter])) ∧
  (∀ (s : State) (n : NetId) (r : BlockRep), (n, r) ∈ s.dev.blockReps →
    ∃ t, exec (.blockReport n r) s = .next t ∧
      t = { s with dev := { s.dev with nets := t.dev.nets, blockReps := s.dev.blockReps.erase (n, r) } } ∧
      (∀ m, m ≠ n → t.dev.net m = s.dev.net m) ∧
      t.dev.net n = if (s.dev.net n).maq.inFlight = [] then s.dev.net n
        else { s.dev.net n with maq := { (s.dev.net n).maq with reports := (s.dev.net n).maq.reports ++ [r] } }) ∧
  (∀ (s : State) (n : NetId) (f : W32) (l : List W32) (ok : Bool) (tn : BitVec 12), (s.dev.net n).maq.inFlight = f :: l → f ∈ (s.dev.net n).maq.voided →
    (s.dev.net n).maq.trial = false →
    ∃ t, exec (.maquetteCheck n ok tn) s = .next t ∧ onlyNet n s t ∧ (t.dev.net n).maq.inFlight = l ∧ (t.dev.net n).maq.due = true) ∧
  (∀ (s : State) (n : NetId) (f : W32) (l : List W32) (ok : Bool) (tn : BitVec 12) (m : Maq), (s.dev.net n).maq = m → m.inFlight = f :: l → f ∉ m.voided →
    m.trial = false → (s.dev.net n).probation = false →
    ∃ t, exec (.maquetteCheck n ok tn) s = .next t ∧ (t.dev.net n).maq.inFlight = l ∧ t.dev.health.mqRun = satInc s.dev.health.mqRun ∧
      ((s.dev.maqBad n f ok tn).1 = none → (s.dev.maqBad n f ok tn).2 = [] →
        t.dev.health.mqMis = s.dev.health.mqMis ∧ (t.dev.net n).maq.due = m.due ∧ (t.dev.net n).maq.confirm = false ∧
        t.dev.health.mqTrans = (if m.confirm then satInc s.dev.health.mqTrans else s.dev.health.mqTrans) ∧ coresQueuesKept s t) ∧
      (((s.dev.maqBad n f ok tn).1 ≠ none ∨ (s.dev.maqBad n f ok tn).2 ≠ []) →
        t.dev.health.mqMis = satInc s.dev.health.mqMis ∧
        (m.confirm = false → (t.dev.net n).maq.due = true ∧ (t.dev.net n).maq.confirm = true ∧ coresQueuesKept s t) ∧
        (∀ st ci c r, m.confirm = true → m.suspect = some (st, ci) → r ∈ (s.dev.maqBad n f ok tn).2 → r.stage = st → r.cidx = ci →
          s.dev.coreAt n st ci = some c →
          t.dev.health.mqFenced = satInc s.dev.health.mqFenced ∧ (t.dev.core c).state = .fenced))) ∧
  (∀ (s : State) (n : NetId) (f : W32) (l : List W32) (ok : Bool) (tn : BitVec 12) (m : Maq), (s.dev.net n).maq = m → m.inFlight = f :: l → f ∉ m.voided →
    m.trial = false → m.confirm = false → (s.dev.net n).probation = true →
    ∃ t, exec (.maquetteCheck n ok tn) s = .next t ∧ t.dev.health.mqRun = satInc s.dev.health.mqRun ∧ coresQueuesKept s t ∧
      ((s.dev.maqBad n f ok tn).1 = none → (s.dev.maqBad n f ok tn).2 = [] → (t.dev.net n).maq.passed = true) ∧
      (((s.dev.maqBad n f ok tn).1 ≠ none ∨ (s.dev.maqBad n f ok tn).2 ≠ []) → 2 ≤ m.tries →
        (t.dev.net n).held = true ∧ ∀ p ∈ s.dev.partsOfNet n, (t.dev.part p).cast = .heldAbort)) ∧
  (∀ (s : State) (n : NetId) (f : W32) (l : List W32) (ok : Bool) (tn : BitVec 12) (u : BitVec 2), (s.dev.net n).maq.inFlight = f :: l →
    f ∉ (s.dev.net n).maq.voided → (s.dev.net n).maq.trial = true → s.dev.trialUnit n = some u →
    ∃ t, exec (.maquetteCheck n ok tn) s = .next t ∧ t.dev.health.mqRun = satInc s.dev.health.mqRun ∧ coresQueuesKept s t ∧
      ((s.dev.maqBad n f ok tn).1 = none → l = [] → (s.dev.adaptU u).trialLeft = 0 → (t.dev.adaptU u).state = .marked) ∧
      ((s.dev.maqBad n f ok tn).1 ≠ none → (t.dev.adaptU u).pending = false ∧ (t.dev.net n).maq.trial = false ∧
        (t.dev.adaptU u).discTrial = satInc (s.dev.adaptU u).discTrial))

/-! ## Fencing, degraded variants and re-tests -/

/-- A core in service that stopped by a fault is fenced: logged with its cause, its logical ID mapped to the chosen spare, which
is to be checked; with no spare in host-assisted mode the host is asked (R510 to R513, R518, R520). The spare is checked,
reloaded with the identity of the core that it replaces, chased and started (R514, R515); a fault during the activation fences
the spare and stops the network in that partition (R516). -/
def Obligations.FencesAndSpares : Prop :=
  (∀ (s : State) (c : CoreId) (cause : BitVec 3), (s.dev.core c).state = .faulted →
    ∃ t, exec (.fenceStart c cause) s = .next t ∧ (t.dev.core c).state = .fenced ∧ (t.dev.core c).assigned = false ∧
      t.dev.psram = s.dev.psram) ∧
  (∀ (s : State) (c x : CoreId) (cause : BitVec 3), (s.dev.core c).state = .faulted → (s.dev.core c).assigned = true →
    (s.dev.core c).spare = false → (s.dev.part (partOfCore c)).act = none → (s.dev.net (s.dev.core c).net).casting = none →
    (s.dev.part (partOfCore c)).cast ≠ .draining → s.dev.chooseSpare c = some x → s.dev.health.flog.length < 64 →
    ∃ t, exec (.fenceStart c cause) s = .next t ∧ (t.dev.core c).state = .fenced ∧ (t.dev.core c).assigned = false ∧
      tblGet none t.dev.map (s.dev.core c).logical.toNat = some x ∧ t.dev.health.mapgen = s.dev.health.mapgen + 1#32 ∧
      t.dev.health.flog = s.dev.health.flog ++ [⟨c, causeOf (s.dev.core c).fault cause, s.dev.health.mapgen⟩] ∧
      (t.dev.part (partOfCore c)).act = some ⟨c, x, .check⟩ ∧
      (t.dev.part (partOfCore c)).fcnt = satInc (s.dev.part (partOfCore c)).fcnt) ∧
  (∀ (s : State) (c : CoreId) (cause : BitVec 3), (s.dev.core c).state = .faulted →
    ((s.dev.core c).assigned = false ∨ (s.dev.core c).spare = true) → s.dev.health.flog.length < 64 →
    ∃ t, exec (.fenceStart c cause) s = .next t ∧ (t.dev.core c).state = .fenced ∧ (∀ y, y ≠ c → t.dev.core y = s.dev.core y) ∧
      t.dev.health.flog = s.dev.health.flog ++ [⟨c, causeOf (s.dev.core c).fault cause, s.dev.health.mapgen⟩] ∧
      t.dev.queues = s.dev.queues ∧ t.dev.nets = s.dev.nets ∧ t.dev.psram = s.dev.psram) ∧
  (∀ (s : State) (c : CoreId) (cause : BitVec 3), (s.dev.core c).state = .faulted → (s.dev.core c).assigned = true →
    (s.dev.core c).spare = false → (s.dev.part (partOfCore c)).act = none → (s.dev.net (s.dev.core c).net).casting = none →
    (s.dev.part (partOfCore c)).cast = .released → s.dev.chooseSpare c = none → s.dev.hostMode (partOfCore c) 1 = true →
    (s.dev.net (s.dev.core c).net).degraded = [] → (s.dev.net (s.dev.core c).net).switchAt = [] →
    ∃ t, exec (.fenceStart c cause) s = .next t ∧ (t.dev.core c).state = .fenced ∧
      (t.dev.part (partOfCore c)).cast = .stopped ∧
      (t.dev.part (partOfCore c)).faultWait = some ((s.dev.core c).stage, c)) ∧
  (∀ (s : State) (c : CoreId) (cause : BitVec 3), (s.dev.core c).state = .faulted → (s.dev.core c).assigned = true →
    (s.dev.core c).spare = false → (s.dev.part (partOfCore c)).act = none → (s.dev.net (s.dev.core c).net).casting = none →
    (s.dev.part (partOfCore c)).cast = .released → s.dev.chooseSpare c = none → s.dev.hostMode (partOfCore c) 1 = false →
    (s.dev.core c).stage ∉ (s.dev.net (s.dev.core c).net).degraded →
    (∀ e ∈ (s.dev.net (s.dev.core c).net).switchAt, e.1 ≠ (s.dev.core c).stage) →
    ∃ t, exec (.fenceStart c cause) s = .next t ∧
      (s.dev.canDegrade (s.dev.core c).net (s.dev.core c).stage = true → ∃ f,
        (t.dev.net (s.dev.core c).net).switchAt = (s.dev.net (s.dev.core c).net).switchAt ++ [((s.dev.core c).stage, f)] ∧
        tblGet none t.dev.map (s.dev.core c).logical.toNat = none ∧ (t.dev.part (partOfCore c)).cast = .released) ∧
      (s.dev.canDegrade (s.dev.core c).net (s.dev.core c).stage = false →
        (t.dev.part (partOfCore c)).cast = .stopped ∧ (t.dev.part (partOfCore c)).faultWait = (s.dev.part (partOfCore c)).faultWait)) ∧
  (∀ (s : State) (p : PartId) (a : Activation), (s.dev.part p).act = some a → a.phase = .check →
    (∃ t, exec (.spareCheckComplete p true) s = .next t ∧ onlyPart p s t ∧
      t.dev.part p = { s.dev.part p with act := some { a with phase := .reload } }) ∧
    (∃ t, exec (.spareCheckComplete p false) s = .next t ∧ (t.dev.part p).act = none ∧ (t.dev.core a.spare).state = .fenced ∧
      ((s.dev.part p).cast = .released → (t.dev.part p).cast = .stopped) ∧ t.dev.psram = s.dev.psram)) ∧
  (∀ (s : State) (p : PartId) (a : Activation), (s.dev.part p).act = some a → a.phase = .reload →
    (∀ im, s.dev.stageImg (s.dev.core a.failed).net (s.dev.core a.failed).stage = some im →
      im.streamed = true ∨ s.dev.shadowFault (partOfCore a.spare) im = none) →
    ∃ t, exec (.spareReloadComplete p true) s = .next t ∧ (t.dev.part p).act = some { a with phase := .chase } ∧
      (t.dev.core a.spare).logical = (s.dev.core a.failed).logical ∧ (t.dev.core a.spare).stage = (s.dev.core a.failed).stage ∧
      (t.dev.core a.spare).cidx = (s.dev.core a.failed).cidx ∧ (t.dev.core a.spare).assigned = true ∧
      (∀ y, y ≠ a.spare → t.dev.core y = s.dev.core y) ∧ t.dev.queues = s.dev.queues ∧ t.dev.psram = s.dev.psram) ∧
  (∀ (s : State) (p : PartId) (a : Activation) (i : Instr), (s.dev.part p).act = some a →
    ((i = .spareReloadComplete p false ∧ a.phase = .reload) ∨
      (i = .spareChaseComplete p false ∧ a.phase = .chase ∧ (s.dev.part p).frozen = false)) →
    ∃ t, exec i s = .next t ∧ (t.dev.part p).act = none ∧ (t.dev.core a.spare).state = .fenced ∧
      ((s.dev.part p).cast = .released → (t.dev.part p).cast = .stopped) ∧ t.dev.psram = s.dev.psram) ∧
  (∀ (s : State) (p : PartId) (a : Activation), (s.dev.part p).act = some a → a.phase = .chase → (s.dev.part p).frozen = false →
    ∃ t, exec (.spareChaseComplete p true) s = .next t ∧ (t.dev.part p).act = none ∧ (t.dev.core a.spare).state = .running ∧
      (t.dev.core a.spare).frames = (s.dev.core a.failed).frames ∧ (∀ y, y ≠ a.spare → t.dev.core y = s.dev.core y) ∧
      t.dev.queues = s.dev.queues ∧ t.dev.psram = s.dev.psram)

/-- The host's answers to a second fault, and the switch of a stage to its degraded variant when every remaining core stands at
FRAME (R520, R521). Firmware moves the oldest entry of the fence log to the fence list with a new generation of the health
record (R300, R511); a core that passes its re-test leaves the lists and the map generation moves, at the next casting where its
partition is in retention or off (R523). -/
def Obligations.DegradedAndRetested : Prop :=
  (∀ (s : State) (p : PartId) (st : StageId) (c : CoreId), hostRuns s → s.dev.diePresent (dieOfPart p) = true →
    (s.dev.part p).faultWait = some (st, c) → s.dev.canDegrade (s.dev.part p).net st = true →
    ∃ t f, exec (.faultDegradeResume p) s = .next t ∧ (t.dev.part p).faultWait = none ∧
      (t.dev.net (s.dev.part p).net).switchAt = (s.dev.net (s.dev.part p).net).switchAt ++ [(st, f)] ∧
      tblGet none t.dev.map (s.dev.core c).logical.toNat = none ∧
      (s.dev.companion (s.dev.part p).net p = false → (t.dev.net (s.dev.part p).net).openAt = true)) ∧
  (∀ (s : State) (p : PartId), hostRuns s → s.dev.diePresent (dieOfPart p) = true →
    (∀ st c, (s.dev.part p).faultWait = some (st, c) → s.dev.canDegrade (s.dev.part p).net st = false) →
    ∃ t, exec (.faultDegradeResume p) s = .next t ∧ t.dev.pwr = { s.dev.pwr with rej := satInc s.dev.pwr.rej } ∧
      t.dev.parts = s.dev.parts ∧ coresQueuesKept s t) ∧
  (∀ (s : State) (p : PartId), hostRuns s → s.dev.diePresent (dieOfPart p) = true →
    ∃ t, exec (.faultKeepStopped p) s = .next t ∧ coresQueuesKept s t ∧
      ((s.dev.part p).faultWait ≠ none → t.dev.part p = { s.dev.part p with faultWait := none } ∧ t.dev.pwr = s.dev.pwr) ∧
      ((s.dev.part p).faultWait = none → t.dev.part p = s.dev.part p ∧ t.dev.pwr = { s.dev.pwr with rej := satInc s.dev.pwr.rej })) ∧
  (∀ (s : State) (n : NetId) (st : StageId) (f : W32) (im : StageImg) (c : CoreId) (cs : List CoreId),
    (s.dev.net n).switchAt.find? (fun e => e.1 == st) = some (st, f) → s.dev.stageImg n st = some im →
    s.dev.byLogical (s.dev.coresOfStage n st) = c :: cs → (∀ x ∈ c :: cs, (s.dev.core x).atFrame = true) →
    ∃ t, exec (.degradedSwitch n st) s = .next t ∧ (t.dev.net n).degraded = (s.dev.net n).degraded ++ [st] ∧
      (t.dev.net n).switchAt = (s.dev.net n).switchAt.filter (fun e => e.1 != st) ∧
      (t.dev.part (partOfCore c)).degCnt = satInc (s.dev.part (partOfCore c)).degCnt ∧ t.dev.psram = s.dev.psram) ∧
  (∀ (s : State) (f : Fence) (l : List Fence), s.dev.health.flog = f :: l → s.dev.health.fwDown = false →
    ∃ t, exec .fenceLogCommit s = .next t ∧ t.store = { s.store with hgen := s.store.hgen + 1#64 } ∧
      t.dev = { s.dev with health := { s.dev.health with flog := l, fences := s.dev.health.fences ++ [f] } }) ∧
  (∀ (s : State) (c : CoreId), c ∈ s.dev.health.retest →
    (∃ t, exec (.retestCoreDone c true) s = .next t ∧ t.dev.health.retest = s.dev.health.retest.erase c ∧
      t.dev.health.rtPassed = satInc s.dev.health.rtPassed ∧ t.dev.queues = s.dev.queues ∧ (∀ y, y ≠ c → t.dev.core y = s.dev.core y) ∧
      ((s.dev.part (partOfCore c)).power = .on →
        t.dev.health.fences = s.dev.health.fences.filter (fun f => f.phys != c) ∧
        t.dev.health.flog = s.dev.health.flog.filter (fun f => f.phys != c) ∧
        t.dev.health.mapgen = s.dev.health.mapgen + 1#32 ∧ (t.dev.core c).state = .uncast) ∧
      ((s.dev.part (partOfCore c)).power ≠ .on → t.dev.health.fences = s.dev.health.fences ∧ c ∈ t.dev.health.passed ∧
        t.dev.health.mapgen = s.dev.health.mapgen ∧ t.dev.cores = s.dev.cores)) ∧
    (∃ t, exec (.retestCoreDone c false) s = .next t ∧ t.dev.health.retest = s.dev.health.retest.erase c ∧
      t.dev.health.fences = s.dev.health.fences ∧ t.dev.health.rtFailed = satInc s.dev.health.rtFailed ∧ coresQueuesKept s t))

/-! ## Watchdog, ageing and supply setpoints -/

/-- A kick in its window with the expected signature changes nothing; otherwise the watchdog expires and firmware is down: the
third expiry within ten minutes starts the other bank, three more hold the controller. Firmware that starts again answers what
was in flight (R524 to R526). -/
def Obligations.WatchdogAndRestart : Prop :=
  (∀ (s : State) (sig : W32) (ms : Nat), 50 ≤ ms → ms ≤ 100 → sig = s.dev.health.wdExpected →
    exec (.watchdogKick sig ms) s = .next s) ∧
  (∀ (s : State) (sig : W32) (ms : Nat) (i : Instr), s.dev.fwRuns = true →
    (i = .watchdogExpire sig ∨ (i = .watchdogKick sig ms ∧ ¬(50 ≤ ms ∧ ms ≤ 100 ∧ sig = s.dev.health.wdExpected))) →
    ∃ t, exec i s = .next t ∧ t.dev.health.fwDown = true ∧ t.dev.health.wdCnt = satInc s.dev.health.wdCnt ∧
      t.dev.health.wdSig = sig ∧ coresQueuesKept s t ∧ t.store = { s.store with runB := t.store.runB } ∧
      ((s.dev.health.recent s.dev.time).length < 3 → t.dev.health.wdHeld = false ∧ t.store.runB = s.store.runB) ∧
      (3 ≤ (s.dev.health.recent s.dev.time).length → s.dev.health.wdSwitched = true → t.dev.health.wdHeld = true ∧ t.store.runB = s.store.runB) ∧
      (3 ≤ (s.dev.health.recent s.dev.time).length → s.dev.health.wdSwitched = false →
        t.dev.health.wdHeld = false ∧ (t.store.runB = (s.store.runB ^^ s.store.otherVerifies)))) ∧
  (∀ (s : State), s.dev.health.fwDown = true → s.dev.health.wdHeld = false →
    ∃ t, exec .firmwareRestart s = .next t ∧ t.dev.health.fwDown = false ∧ t.dev.mbx.busy = false ∧ t.dev.mbx.longs = [] ∧
      (s.dev.mbx.busy = true → t.dev.mbx.result = 12#16) ∧ t.store = s.store ∧ coresQueuesKept s t ∧
      (s.dev.pwr.stage ≠ 7#4 → ∀ n, (t.dev.net n).casting = none))

/-- A patina sample is stored; a slack below 25 ps raises the margin by 5 mV per the gain, derates the partition when the
supply's limit is passed, or in host-assisted mode waits for the host, whose commands apply or drop the plan (R532 to R536). AVS
setpoints move by at most 10 mV a step and count only once acknowledged; while a step settles the monitor takes the lower
setpoint (R534, R543); an alert has the regulator's status read (Table 16-3). -/
def Obligations.MarginsAndSetpoints : Prop :=
  (∀ (s : State) (p : PartId) (m : BitVec 2) (raw : BitVec 20) (temp : Byte) (norm : W16), s.dev.fwRuns = true →
    s.dev.diePresent (dieOfPart p) = true →
    ∃ t mv, exec (.patinaSample p m raw temp norm) s = .next t ∧
      t.dev.part p = { s.dev.part p with mons := (s.dev.part p).mons.set m.toNat { raw := raw, temp := temp, norm := norm, rail := mv } } ∧
      (∀ x, x ≠ p → t.dev.part x = s.dev.part x) ∧ coresQueuesKept s t) ∧
  (∀ (s : State) (p : PartId) (slack : Int) (ks : Nat), s.dev.fwRuns = true → s.dev.diePresent (dieOfPart p) = true →
    ∃ t, exec (.marginPlan p slack ks) s = .next t ∧ (t.dev.part p).slack = BitVec.ofInt 16 slack ∧ coresQueuesKept s t ∧
      (25 ≤ slack → (t.dev.part p).margin = (s.dev.part p).margin ∧ (t.dev.part p).derated = (s.dev.part p).derated) ∧
      (slack < 25 → (s.dev.part p).derated = false → s.dev.hostMode p 5 = false →
        (s.dev.die (dieOfPart p)).vbase.toNat + newMargin (s.dev.part p).margin slack ks ≤ (s.dev.die (dieOfPart p)).vmax.toNat →
        (t.dev.part p).margin = BitVec.ofNat 8 (newMargin (s.dev.part p).margin slack ks)) ∧
      (slack < 25 → (s.dev.part p).derated = false → s.dev.hostMode p 5 = true →
        (s.dev.die (dieOfPart p)).vbase.toNat + newMargin (s.dev.part p).margin slack ks ≤ (s.dev.die (dieOfPart p)).vmax.toNat →
        (t.dev.part p).margin = (s.dev.part p).margin ∧ (t.dev.part p).propValid = true ∧
        (t.dev.part p).proposed = BitVec.ofNat 8 (newMargin (s.dev.part p).margin slack ks)) ∧
      (slack < 25 → (s.dev.part p).derated = false → s.dev.hostMode p 5 = false →
        (s.dev.die (dieOfPart p)).vmax.toNat < (s.dev.die (dieOfPart p)).vbase.toNat + newMargin (s.dev.part p).margin slack ks →
        (t.dev.part p).derated = true)) ∧
  (∀ (s : State) (p : PartId), hostRuns s → s.dev.diePresent (dieOfPart p) = true →
    (∃ t, exec (.pMcmdApply p) s = .next t ∧ coresQueuesKept s t ∧
      ((s.dev.part p).propValid = true → (t.dev.part p).margin = (s.dev.part p).proposed ∧ (t.dev.part p).propValid = false) ∧
      ((s.dev.part p).derProp = true → (t.dev.part p).derated = true ∧ (t.dev.part p).derProp = false) ∧
      ((s.dev.part p).propValid = false → (s.dev.part p).derProp = false →
        t.dev.part p = s.dev.part p ∧ t.dev.pwr = { s.dev.pwr with rej := satInc s.dev.pwr.rej })) ∧
    (∃ t, exec (.pMcmdReject p) s = .next t ∧ coresQueuesKept s t ∧
      t.dev.part p = { s.dev.part p with propValid := false, derProp := false } ∧
      ((s.dev.part p).propValid = true ∨ (s.dev.part p).derProp = true → t.dev.pwr = s.dev.pwr))) ∧
  (∀ (s : State) (i : Fin 2) (ack : Bool), s.dev.fwRuns = true → s.dev.diePresent i.val = true → (s.dev.die i.val).railOn = true →
    (s.dev.die i.val).unackedAvs = none → (s.dev.die i.val).avs.toNat ≠ s.dev.avsTarget i.val →
    ∃ t v, exec (.avsStep i ack) s = .next t ∧ onlyDie i.val s t ∧ v = BitVec.ofNat 16 (avsNext (s.dev.die i.val).avs.toNat (s.dev.avsTarget i.val)) ∧
      (ack = true → (t.dev.die i.val).avs = v ∧ (t.dev.die i.val).unackedAvs = none ∧
        ((t.dev.die i.val).monitorAvs = v ∨ (t.dev.die i.val).monitorAvs = (s.dev.die i.val).avs)) ∧
      (ack = false → t.dev.die i.val = { s.dev.die i.val with unackedAvs := some v })) ∧
  (∀ (s : State) (i : Fin 2), ∃ t, exec (.avsStepSettle i) s = .next t ∧ onlyDie i.val s t ∧
      t.dev.die i.val = { s.dev.die i.val with monitorAvs := (s.dev.die i.val).avs }) ∧
  (∀ (s : State) (i : Fin 2) (v : W16), s.dev.fwRuns = true → (s.dev.die i.val).unackedAvs = some v →
    ∃ t, exec (.pmbusRetry i true) s = .next t ∧ onlyDie i.val s t ∧ (t.dev.die i.val).avs = v ∧ (t.dev.die i.val).unackedAvs = none) ∧
  (∀ (s : State) (i : Fin 2), exec (.pmbusRetry i false) s = .next s) ∧
  (∀ (s : State) (v : W16), s.dev.fwRuns = true →
    ∃ t, exec (.pmbAlert v) s = .next t ∧ t = { s with dev := { s.dev with pins := { s.dev.pins with pmbStatus := v } } })

/-! ## Ingest, PTP and chain links -/

/-- A frame that a lane takes waits in its FIFO, one with a bad check or too long is dropped and counted, and a full FIFO drops
it (R419 to R422); a lane's link comes up and goes down (R430, R451, R483). -/
def Obligations.LanesReceive : Prop :=
  (∀ (s : State) (l : PartId) (f : EthFrame), s.dev.laneUp l = true →
    ∃ t, exec (.ethFrameReceive l f) s = .next t ∧ onlyLane l s t ∧
      ((f.fcsOk = false ∨ 9216 < f.length) → t.dev.lane l = { s.dev.lane l with dropBad := satInc (s.dev.lane l).dropBad }) ∧
      (f.fcsOk = true → f.length ≤ 9216 → f.body = .arpRequest (s.dev.lane l).ip →
        t.dev.lane l = { s.dev.lane l with tx := (s.dev.lane l).tx ++ [.arpRequest (s.dev.lane l).ip] }) ∧
      (f.fcsOk = true → f.length ≤ 9216 → (f.body = .pause ∨ f.body = .ptp ∨ f.body = .other) → t = s) ∧
      (f.fcsOk = true → f.length ≤ 9216 → f.body = .igmpQuery → (s.dev.lane l).ptpEn = true →
        t.dev.lane l = { s.dev.lane l with tx := (s.dev.lane l).tx ++ [.igmpQuery] }) ∧
      (∀ src dst fragment port, f.fcsOk = true → f.length ≤ 9216 → f.body = .ipv4 src dst fragment port →
        (fragment = true ∨ (dst ≠ (s.dev.lane l).ip ∧ isMulticast dst = false) ∨ s.dev.takesPort l src port = false) →
        t.dev.lane l = { s.dev.lane l with dropBad := satInc (s.dev.lane l).dropBad }) ∧
      (∀ src dst port, f.fcsOk = true → f.length ≤ 9216 → f.body = .ipv4 src dst false port →
        (dst = (s.dev.lane l).ip ∨ isMulticast dst = true) → s.dev.takesPort l src port = true →
        ((s.dev.lane l).fifo.sum + f.length ≤ fifoBytes → t.dev.lane l = { s.dev.lane l with
          fifo := (s.dev.lane l).fifo ++ [f.length], rxpkt := satInc (s.dev.lane l).rxpkt }) ∧
        (fifoBytes < (s.dev.lane l).fifo.sum + f.length → t.dev.lane l = { s.dev.lane l with
          dropFifo := satInc (s.dev.lane l).dropFifo }))) ∧
  (∀ (s : State) (l : PartId), s.dev.lanePresent l = true → s.dev.opticsUp = true →
    ∃ t, exec (.laneLinkUp l) s = .next t ∧ onlyLane l s t ∧ t.dev.lane l = { s.dev.lane l with link := true, fecLock := true }) ∧
  (∀ (s : State) (l : PartId), (s.dev.lane l).link = true →
    ∃ t, exec (.laneLinkDown l) s = .next t ∧ (t.dev.lane l).link = false ∧ (t.dev.lane l).fecLock = false ∧
      (t.dev.lane l).fifo = [] ∧ ∀ x, x ≠ l → t.dev.lane x = s.dev.lane x)

/-- A leader opens a block and begins a member frame; one that its context does not take makes a bad block, and one of a network out
of service is refused and counted. A data packet is counted with the packets lost before it, in the block that is open or in a new
one; a trailer and BLKTO close the block, MEMTO makes the frame of a member that has not begun missing (R426 to R434, R439); the
context registers (R426, R428). -/
def Obligations.BlocksAndMembers : Prop :=
  (∀ (s : State) (l : PartId) (port : W16) (src : W32) (h : Leader) (c : BitVec 10) (x : Context), s.dev.laneUp l = true →
    s.dev.packetCtx l port src = some c → x = s.dev.ctx c → x.bound = true → s.dev.ctxServed c = true → x.block = none →
    (x.lastBlock = none ∨ ∃ k, x.lastBlock = some k ∧ blockDist k h.block = 1) →
    ∃ t b, exec (.gvspLeader l port src h) s = .next t ∧ (t.dev.ctx c).block = some b ∧ b.id = h.block ∧
      (h.supported = true → h.pixfmt = x.pixfmt → h.width = x.widthM1.toNat + 1 → h.height = x.blockLines →
        b.bad = false ∧ (t.dev.ctx c).begun = true ∧ (t.dev.ctx c).memFrame = x.memFrame ∧
        (t.dev.ctx c).frames = (if x.begun then x.frames else satInc x.frames) ∧ (x.begun = false → (t.dev.ctx c).lastf = x.memFrame)) ∧
      ((h.supported = false ∨ h.pixfmt ≠ x.pixfmt ∨ h.width ≠ x.widthM1.toNat + 1 ∨ h.height ≠ x.blockLines) →
        b.bad = true ∧ (t.dev.ctx c).fmterr = satInc x.fmterr)) ∧
  (∀ (s : State) (l : PartId) (port : W16) (src : W32) (h : Leader) (c : BitVec 10), s.dev.laneUp l = true →
    s.dev.packetCtx l port src = some c → (s.dev.ctx c).bound = true → s.dev.ctxServed c = false →
    ∃ t, exec (.gvspLeader l port src h) s = .next t ∧
      t.dev.ctx c = { s.dev.ctx c with refused := satInc (s.dev.ctx c).refused } ∧ coresQueuesKept s t) ∧
  (∀ (s : State) (l : PartId) (port : W16) (src : W32) (blk : W64) (pid : Nat) (bytes : List Byte) (c : BitVec 10) (b : Block),
    s.dev.laneUp l = true → s.dev.packetCtx l port src = some c → (s.dev.ctx c).bound = true → s.dev.ctxServed c = true →
    (s.dev.ctx c).block = some b → b.id = blk → b.bad = false → b.lastPid < pid →
    ∃ t b', exec (.gvspDataPacket l port src blk pid bytes) s = .next t ∧ (t.dev.ctx c).block = some b' ∧ b'.id = blk ∧
      b'.lastPid = pid ∧ (t.dev.ctx c).pktlost = satAdd (s.dev.ctx c).pktlost (pid - b.lastPid - 1)) ∧
  (∀ (s : State) (l : PartId) (port : W16) (src : W32) (blk : W64) (pid : Nat) (bytes : List Byte) (c : BitVec 10),
    s.dev.laneUp l = true → s.dev.packetCtx l port src = some c → (s.dev.ctx c).bound = true → s.dev.ctxServed c = true →
    (s.dev.ctx c).block = none → ((s.dev.ctx c).lastBlock = none ∨ ∃ k, (s.dev.ctx c).lastBlock = some k ∧ blockDist k blk = 1) → 0 < pid →
    ∃ t b', exec (.gvspDataPacket l port src blk pid bytes) s = .next t ∧ (t.dev.ctx c).block = some b' ∧ b'.id = blk ∧
      b'.lastPid = pid ∧ (t.dev.ctx c).pktlost = satAdd (s.dev.ctx c).pktlost (pid - 1)) ∧
  (∀ (s : State) (l : PartId) (port : W16) (src : W32) (blk : W64) (c : BitVec 10), s.dev.laneUp l = true →
    s.dev.packetCtx l port src = some c → (s.dev.ctx c).bound = true → s.dev.ctxServed c = true →
    ((∃ b, (s.dev.ctx c).block = some b ∧ b.id = blk) ∨ ((s.dev.ctx c).block = none ∧ (s.dev.ctx c).lastBlock = none)) →
    ∃ t, exec (.gvspTrailer l port src blk) s = .next t ∧ (t.dev.ctx c).block = none ∧ (t.dev.ctx c).lastBlock = some blk) ∧
  (∀ (s : State) (c : BitVec 10) (b : Block), (s.dev.ctx c).bound = true → (s.dev.ctx c).blkto ≠ 0#16 → (s.dev.ctx c).block = some b →
    ∃ t, exec (.blockTimeout c) s = .next t ∧ (t.dev.ctx c).block = none ∧ (t.dev.ctx c).lastBlock = some b.id) ∧
  (∀ (s : State) (c : BitVec 10) (x : Context) (f : W32) (g : Group), x = s.dev.ctx c → x.bound = true → x.memto ≠ 0#16 →
    x.begun = false → f = x.nextFrame (x.dead.length + 1) x.memFrame → s.dev.group x.net x.grp = some g → g.status f ≠ none →
    ∃ t, exec (.memberTimeout c) s = .next t ∧ (t.dev.ctx c).dead = x.dead ++ [f] ∧ (t.dev.ctx c).begun = false ∧
      (t.dev.ctx c).memFrame = x.memFrame) ∧
  (∀ (s : State) (v : W32) (c : BitVec 10), hostRuns s → c = s.dev.ing.ctxSel →
    ∃ t, exec (.ctxCfgWrite v) s = .next t ∧ (t.dev.ctx c).lane = v.extractLsb' 1 5 ∧ (t.dev.ctx c).udpport = v.extractLsb' 16 16 ∧
      ((∀ e ∈ s.dev.ing.ctxs, ¬(e.1 ≠ c.toNat ∧ e.2.en = true ∧ e.2.lane = v.extractLsb' 1 5 ∧ e.2.udpport = v.extractLsb' 16 16)) →
        (t.dev.ctx c).en = v.getLsbD 0 ∧ t.dev.ing.rej = s.dev.ing.rej) ∧
      ((∃ e ∈ s.dev.ing.ctxs, e.1 ≠ c.toNat ∧ e.2.en = true ∧ e.2.lane = v.extractLsb' 1 5 ∧ e.2.udpport = v.extractLsb' 16 16) →
        (t.dev.ctx c).en = false ∧ (v.getLsbD 0 = true → t.dev.ing.rej = satInc s.dev.ing.rej)) ∧
      ((s.dev.ctx c).en = false → (∀ x, x ≠ c → t.dev.ctx x = s.dev.ctx x) ∧ coresQueuesKept s t) ∧
      ((s.dev.ctx c).en = true → (s.dev.ctx c).bound = true → v.getLsbD 0 = false → (t.dev.ctx c).block = none)) ∧
  (∀ (s : State) (v : W32) (c : BitVec 10), hostRuns s → c = s.dev.ing.ctxSel →
    ∃ t, exec (.ctxBindWrite v) s = .next t ∧ (∀ x, x ≠ c → t.dev.ctx x = s.dev.ctx x) ∧ coresQueuesKept s t ∧
      ((s.dev.ctx c).en = false → (t.dev.ctx c).net = v.extractLsb' 0 5 ∧ (t.dev.ctx c).grp = v.extractLsb' 5 4 ∧
        (t.dev.ctx c).member = v.extractLsb' 9 4) ∧
      ((s.dev.ctx c).en = true → t.dev.ctx c = s.dev.ctx c ∧ t.dev.ing.rej = satInc s.dev.ing.rej))

/-- The PTP states: the best announce, a Sync of the lane in use and a valid time take the device toward valid, silence takes it
to holdover, and a latch without its bit captures nothing (R440 to R443). A chain port trains with the neighbour that it must
have and otherwise tries again; it goes down with its channels broken; a word of a channel that ends here enters its queue, one that
a sending channel reads goes out while its port is up;
CHNID changes only while no channel is cast (R445 to R450). -/
def Obligations.TimeBaseAndChain : Prop :=
  (∀ (s : State) (l : PartId), s.dev.laneUp l = true → (s.dev.lane l).ptpEn = true → s.dev.ing.ptpState ≠ 0#3 →
    ∃ t, exec (.ptpMessage l (.announce true)) s = .next t ∧ t.dev.ing.plane = l ∧
      ((s.dev.ing.ptpState = 1#3 ∨ s.dev.ing.plane ≠ l) → t.dev.ing.ptpState = 2#3) ∧ coresQueuesKept s t) ∧
  (∀ (s : State) (l : PartId) (ofs : W32), s.dev.laneUp l = true → (s.dev.lane l).ptpEn = true → s.dev.ing.plane = l →
    2 ≤ s.dev.ing.ptpState.toNat →
    (∃ t, exec (.ptpMessage l (.sync ofs)) s = .next t ∧ t.dev.ing.ptpOfs = ofs ∧ t.dev.ing.ptpState = s.dev.ing.ptpState ∧
      coresQueuesKept s t) ∧
    (∃ t, exec (.ptpMessage l .valid) s = .next t ∧ t.dev.ing.ptpState = 3#3 ∧ coresQueuesKept s t)) ∧
  (∀ (s : State) (l : PartId) (m : PtpMsg), s.dev.laneUp l = true → (s.dev.lane l).ptpEn = true →
    (m = .announce false ∨ (m = .announce true ∧ s.dev.ing.ptpState = 0#3) ∨ (∀ b, m ≠ .announce b) ∧ (s.dev.ing.plane ≠ l ∨ s.dev.ing.ptpState.toNat < 2)) →
    ∃ t, exec (.ptpMessage l m) s = .next t ∧ onlyLane l s t) ∧
  (∀ (s : State) (l : PartId) (m : PtpMsg), s.dev.laneUp l = true → (s.dev.lane l).ptpEn = false →
    ∃ t, exec (.ptpMessage l m) s = .next t ∧ onlyLane l s t ∧
      t.dev.lane l = { s.dev.lane l with dropBad := satInc (s.dev.lane l).dropBad }) ∧
  (∀ (s : State), s.dev.ing.ptpState = 2#3 ∨ s.dev.ing.ptpState = 3#3 →
    ∃ t, exec .ptpHoldover s = .next t ∧ t.dev.ing = { s.dev.ing with ptpState := 4#3 } ∧ coresQueuesKept s t) ∧
  (∀ (s : State) (v : W32), hostRuns s → v.getLsbD 0 = false →
    ∃ t, exec (.ptpLatch v) s = .next t ∧ coresQueuesKept s t ∧ t.dev.ing = s.dev.ing) ∧
  (∀ (s : State) (e : Bool) (peer : BitVec 4) (lat : W16), s.dev.opticsUp = true → s.dev.portUp e = false →
    ∃ t, exec (.chainPortTrain e peer lat) s = .next t ∧ coresQueuesKept s t ∧
      (s.dev.peerId e = some peer → t.dev.portUp e = true ∧ t.dev.portUp (!e) = s.dev.portUp (!e)) ∧
      (s.dev.peerId e ≠ some peer → t.dev.portUp e = false ∧ t.dev.ing = s.dev.ing.setRetry e true)) ∧
  (∀ (s : State) (e : Bool), ∃ t, exec (.chainTrainRetry e) s = .next t ∧
      t = { s with dev := { s.dev with ing := s.dev.ing.setRetry e false } }) ∧
  (∀ (s : State) (e : Bool), s.dev.portUp e = true →
    ∃ t, exec (.chainLinkDown e) s = .next t ∧ t.dev.portUp e = false ∧ t.dev.portUp (!e) = s.dev.portUp (!e) ∧
      t.dev.ing.chans = s.dev.ing.chans.map
        (fun c => if c.img.east = e then { c with broken := true, inFrame := false, sent := 0 } else c) ∧ t.dev.cores = s.dev.cores ∧ t.dev.psram = s.dev.psram) ∧
  (∀ (s : State) (v : W32), hostRuns s →
    ∃ t, exec (.chnidWrite v) s = .next t ∧ t.dev.ing.posport = v.extractLsb' 0 16 ∧
      (s.dev.ing.chans = [] → t.dev.ing.chnid = v.extractLsb' 16 4 ∧
        (v.extractLsb' 16 4 ≠ s.dev.ing.chnid → t.dev.ing.eup = false ∧ t.dev.ing.wup = false)) ∧
      (s.dev.ing.chans ≠ [] → v.extractLsb' 16 4 ≠ s.dev.ing.chnid →
        t.dev.ing.chnid = s.dev.ing.chnid ∧ t.dev.ing.rej = satInc s.dev.ing.rej) ∧ t.dev.cores = s.dev.cores ∧ t.dev.psram = s.dev.psram) ∧
  (∀ (s : State) (e ok : Bool) (ch : BitVec 5) (c : Chan) (w : QWord), s.dev.portUp e = true →
    s.dev.ing.chans.find? (fun x => x.img.chan == ch && x.img.east == e && !x.img.sends) = some c →
    (c.broken = false ∨ (ok = true ∧ w.isStart = true)) → plainQueue s c.img.q → 0 < ((s.dev.queue c.img.q).prod 0).credits →
    ((s.dev.queue c.img.q).prod 0).dropToMarker = false →
    ∃ t k, exec (.chainWordReceive e ch w ok) s = .next t ∧ k = (if ok = true ∧ w.isStart = true then 1 else c.sent + 1) ∧
      t.dev.ing.chans = s.dev.ing.chans.map
        (fun x => if x = c then { x with broken := false, sent := k, inFrame := decide (k ≠ c.img.frameWords) } else x) ∧
      (t.dev.queue c.img.q).tail = (s.dev.queue c.img.q).tail + 1#32 ∧
      ((t.dev.queue c.img.q).prod 0).credits = ((s.dev.queue c.img.q).prod 0).credits - 1) ∧
  (∀ (s : State) (e ok : Bool) (ch : BitVec 5) (c : Chan) (w : QWord), s.dev.portUp e = true →
    s.dev.ing.chans.find? (fun x => x.img.chan == ch && x.img.east == e && !x.img.sends) = some c → c.broken = true →
    (ok = false ∨ w.isStart = false) →
    ∃ t, exec (.chainWordReceive e ch w ok) s = .next t ∧ t.dev.ing.chans = s.dev.ing.chans ∧ coresQueuesKept s t) ∧
  (∀ (s : State) (e ok : Bool) (ch : BitVec 5) (w : QWord), s.dev.portUp e = true → s.dev.portUp (!e) = true →
    s.dev.ing.chans.find? (fun x => x.img.chan == ch && x.img.east == e && !x.img.sends) = none →
    ∃ t, exec (.chainWordReceive e ch w ok) s = .next t ∧ t.dev.ing.forwarded = s.dev.ing.forwarded ++ [(!e, ch, w)] ∧
      coresQueuesKept s t) ∧
  (∀ (s : State) (q : QueueId) (r : BitVec 10) (x : Rcv) (c : Chan) (w : QWord), (s.dev.queue q).rcv r = some x → steadyRcv x →
    s.dev.chanSending q r = some c → s.dev.peek q r = .word w →
    ∃ t y, exec (.sequentialRead q r) s = .next t ∧ (t.dev.queue q).rcv r = some y ∧ y.r = x.r + 1#32 ∧ queueFrame q s t ∧
      (s.dev.portUp c.img.east = true → (c.broken = false ∨ w.isStart = true) →
        t.dev.ing.forwarded = s.dev.ing.forwarded ++ [(c.img.east, c.img.chan, w)]) ∧
      ((s.dev.portUp c.img.east = false ∨ (c.broken = true ∧ w.isStart = false)) → t.dev.ing.forwarded = s.dev.ing.forwarded))

/-! ## The SDIO card and the host's registers -/

/-- The commands of Table 13-1: the card's identification and state (R455 to R457), the bytes of CMD52 in each function, the transfers
of CMD53 in functions 0 and 1, the stream and the bulk window (R476), the forms that it refuses, and a command that the card does not
know (R456). That only the selected card takes CMD52 and CMD53 is the model's reading (assumption 102), and that byte 0 of function 2
reads a free value its own. -/
def Obligations.CardCommands : Prop :=
  (∀ (s : State), exec .cmd0 s = .next s) ∧
  (∀ (s : State), s.bus = true → s.dev.card.inactive = false →
    (∃ t, exec .cmd3 s = .next t ∧ t.dev.card.selected = false ∧ t.dev.card.resp.extractLsb' 16 16 = t.dev.card.rca ∧
      t = { s with dev := { s.dev with card := t.dev.card, fresh := s.dev.fresh + 1 } }) ∧
    (∀ arg, ∃ t, exec (.cmd5 arg) s = .next t ∧ onlyCard s t ∧ t.dev.card.resp.getLsbD 31 = true ∧
      t.dev.card.resp.extractLsb' 28 3 = 3#3 ∧ t.dev.card.resp.getLsbD 24 = (arg.getLsbD 24 && !s.dev.card.v18)) ∧
    (∀ a, ∃ t, exec (.cmd7 a) s = .next t ∧ onlyCard s t ∧ t.dev.card.selected = (a != 0#16 && a == s.dev.card.rca)) ∧
    (∃ t, exec .cmd11 s = .next t ∧ onlyCard s t ∧ t.dev.card.v18 = true) ∧
    (∀ a, ∃ t, exec (.cmd15 a) s = .next t ∧ onlyCard s t ∧ t.dev.card.inactive = (a == s.dev.card.rca)) ∧
    (∃ t, exec .cmd19 s = .next t ∧ onlyCard s t ∧ (s.dev.card.tunes = true → t.dev.card.data = tuningBlock) ∧
      (s.dev.card.tunes = false → t.dev.card.illegal = true)) ∧
    (∀ i, answered i = false → ∃ t, exec (.sdioIllegalCommand i) s = .next t ∧ onlyCard s t ∧
      t.dev.card = { s.dev.card with illegal := true })) ∧
  (∀ (s : State) (a : BitVec 17) (b : Byte), s.bus = true → s.dev.card.inactive = false → s.dev.card.selected = true →
    (∃ t u, exec (.cmd52 true 1#3 a b) s = .next t ∧ exec (.registerWrite a b) s = .next u ∧
      t = { u with dev := { u.dev with card := t.dev.card } }) ∧
    (∃ t, exec (.cmd52 false 0#3 a b) s = .next t ∧ onlyCard s t ∧ t.dev.card.resp.extractLsb' 0 8 = fn0Read s.dev a.toNat) ∧
    (∃ t, exec (.cmd52 true 0#3 a b) s = .next t ∧ onlyCard s t ∧ t.dev.card.resp.extractLsb' 0 8 = b ∧
      (a.toNat ≠ 6 → tblGet 0#8 t.dev.card.cccr a.toNat = b &&& fn0Mask a.toNat ∧ t.dev.card.rca = s.dev.card.rca) ∧
      (a.toNat = 6 → b.getLsbD 3 = true → t.dev.card.cccr = [] ∧ t.dev.card.rca = 0#16 ∧ t.dev.card.selected = false)) ∧
    (∃ t, exec (.cmd52 false 1#3 a b) s = .next t ∧ t.dev.card.resp.extractLsb' 0 8 = (byteRead s.store a s.dev.hostHere).1 ∧
      t = { s with dev := { (byteRead s.store a s.dev.hostHere).2 with card := t.dev.card } }) ∧
    (∀ w, ∃ t, exec (.cmd52 w 2#3 a b) s = .next t ∧ t.dev.card.resp.getLsbD 8 = (a != 0#17) ∧
      t = { s with dev := { s.dev.hostHere with card := t.dev.card, fresh := t.dev.fresh } }) ∧
    (a.toNat < 0x10000 → s.dev.f23 = true → s.dev.psramRange (bulkAddr s.dev a.toNat) 1 = true →
      s.dev.bulkReach (bulkAddr s.dev a.toNat) = true →
      (∃ t, exec (.cmd52 false 3#3 a b) s = .next t ∧ t.dev.card.resp.extractLsb' 0 8 = s.dev.readByte (bulkAddr s.dev a.toNat) ∧
        coresQueuesKept s t) ∧
      (∃ t, exec (.cmd52 true 3#3 a b) s = .next t ∧ t.dev.readByte (bulkAddr s.dev a.toNat) = b ∧ t.dev.cores = s.dev.cores)) ∧
    (0x10008 ≤ a.toNat → ∀ w, ∃ t, exec (.cmd52 w 3#3 a b) s = .next t ∧ t.dev.card.resp.getLsbD 8 = true ∧
      t = { s with dev := { s.dev.hostHere with card := t.dev.card } }) ∧
    (∀ (w : Bool) (fn : BitVec 3), 4 ≤ fn.toNat → ∃ t, exec (.cmd52 w fn a b) s = .next t ∧ t.dev.card.resp.getLsbD 9 = true ∧
      t = { s with dev := { s.dev.hostHere with card := t.dev.card } })) ∧
  (∀ (s : State) (w block incr : Bool) (fn : BitVec 3) (a : BitVec 17) (n : BitVec 9) (bytes : List Byte) (u : Nat × Nat), s.bus = true →
    s.dev.card.inactive = false → s.dev.card.selected = true → u = s.dev.transfer fn block n bytes.length →
    (4 ≤ fn.toNat ∨ formOk w fn.toNat block incr a.toNat n u.1 u.2 = false) →
    ∃ t, exec (.cmd53 w fn block incr a n bytes) s = .next t ∧ t.dev.card.resp.getLsbD 9 = decide (4 ≤ fn.toNat) ∧
      t.dev.card.resp.getLsbD 8 = decide (fn.toNat < 4) ∧ t.dev.card.data = [] ∧ coresQueuesKept s t) ∧
  (∀ (s : State) (a : BitVec 17) (n : BitVec 9) (bytes : List Byte), s.bus = true → s.dev.card.inactive = false →
    s.dev.card.selected = true → n ≠ 0#9 → bytes.length = n.toNat → a.toNat + n.toNat ≤ 0x20000 →
    (∃ t, exec (.cmd53 false 0#3 false true a n []) s = .next t ∧ onlyCard s t ∧
      t.dev.card.data = (List.range n.toNat).map (fun i => fn0Read s.dev (a.toNat + i))) ∧
    (n.toNat % 4 = 0 → ∃ t, exec (.cmd53 true 1#3 false true a n bytes) s = .next t ∧
      t = { s with dev := { (bytes.zipIdx.foldl (fun d e => byteWrite (BitVec.ofNat 17 (a.toNat + e.2)) e.1 d) s.dev.hostHere) with
        card := t.dev.card } })) ∧
  (∀ (s : State) (a : BitVec 17) (n : BitVec 9) (bytes : List Byte), s.bus = true → s.dev.card.inactive = false →
    s.dev.card.selected = true → s.dev.f23 = true → 16 ≤ n.toNat → n.toNat % 16 = 0 → bytes.length = n.toNat →
    a.toNat + n.toNat ≤ 0x10000 → s.dev.psramRange (bulkAddr s.dev a.toNat) n.toNat = true →
    (∀ i, i < n.toNat → s.dev.bulkReach (bulkAddr s.dev a.toNat + i) = true) →
    (∃ t, exec (.cmd53 true 3#3 false true a n bytes) s = .next t ∧
      t.dev.readBytes (bulkAddr s.dev a.toNat) n.toNat = bytes ∧
      (∀ x, (∀ i, i < n.toNat → locate s.dev.die1 x ≠ locate s.dev.die1 (bulkAddr s.dev a.toNat + i)) → t.byteAt x = s.byteAt x) ∧
      t.dev.cores = s.dev.cores ∧ t.dev.queues = s.dev.queues) ∧
    (∃ t, exec (.cmd53 false 3#3 false true a n []) s = .next t ∧
      t.dev.card.data = s.dev.readBytes (bulkAddr s.dev a.toNat) n.toNat ∧ coresQueuesKept s t)) ∧
  (∀ (s : State), s.bus = true → s.dev.card.inactive = false → s.dev.card.selected = true → s.dev.f23 = true →
    s.dev.blockSize 2#3 = 512 → s.dev.evt.repeat_ = [] → s.dev.eventsWait = true → s.dev.recordTurn = none →
    ∃ t, exec (.cmd53 false 2#3 true false 0#17 1#9 []) s = .next t ∧ t.dev.card.data.length = 512 ∧
      t.dev.card.data.take 2 = [1#8, 0#8] ∧ t.dev.evt.bseq = s.dev.evt.bseq + 1#32 ∧ t.dev.evt.queue = s.dev.evt.queue.drop 15 ∧
      coresQueuesKept s t)

/-- Bytes 0 to 2 of a register are staged and byte 3 applies them (R462); P_MODE takes its ten bits (R465); REPEAT sends the
last blocks again (R475); the record writer holds the words of a packet until it is whole, puts it into its ring, counts
it lost when it does not fit, and gives that of a maquette frame to the checker alone (R473, R79); pending data ages (R460); a silent
host is counted, and with FALLBACK what waits for it goes on (R479). -/
def Obligations.HostRegisters : Prop :=
  (∀ (s : State) (a : BitVec 17) (b : Byte), s.bus = true → a.toNat % 4 ≠ 3 →
    ∃ t, exec (.registerWrite a b) s = .next t ∧ t = { s with dev := { s.dev.hostHere with card := t.dev.card } } ∧
      t.dev.card.stageAddr = some (reg1 a) ∧ byteOf t.dev.card.staged (a.toNat % 4) = b) ∧
  (∀ (s : State) (b : Byte), s.bus = true → s.dev.regAnswers 0x101C = true → s.dev.card.stageAddr = some (reg1 0x101F#17) →
    ∃ t, exec (.registerWrite 0x101F#17 b) s = .next t ∧ t.dev.evt.hostTo = s.dev.card.staged.extractLsb' 0 16 ∧
      t.dev.evt.fallback = s.dev.card.staged.getLsbD 16 ∧ coresQueuesKept s t) ∧
  (∀ (s : State) (p : PartId) (v : W32), hostRuns s → s.dev.diePresent (dieOfPart p) = true →
    ∃ t, exec (.pModeWrite p v) s = .next t ∧ t.dev.part p = { s.dev.part p with mode := v.extractLsb' 0 10 } ∧
      (∀ x, x ≠ p → t.dev.part x = s.dev.part x) ∧ coresQueuesKept s t) ∧
  (∀ (s : State) (k : BitVec 4), hostRuns s →
    ∃ t, exec (.streamRepeat k) s = .next t ∧ coresQueuesKept s t ∧
      (1 ≤ k.toNat → k.toNat ≤ 8 → k.toNat ≤ s.dev.evt.kept.length →
        t.dev.evt.repeat_ = s.dev.evt.kept.drop (s.dev.evt.kept.length - k.toNat)) ∧
      (k = 0#4 ∨ 8 < k.toNat ∨ s.dev.evt.kept.length < k.toNat → t.dev.evt.repeat_ = s.dev.evt.repeat_)) ∧
  (∀ (s : State) (n : BitVec 6) (x : Rcv) (w : QWord) (r : Rout), r = s.dev.rout n → r.valid = true → r.left = 1 →
    (s.dev.queue r.q).rcv r.rcv = some x → x.skip = 0 → s.dev.peek r.q r.rcv = .word w →
    (((r.held ++ [w]).headD {}).kind == .header && ((r.held ++ [w]).headD {}).payload.getLsbD 54) = false →
    r.occ + itemRoom (s.dev.itemOf n (r.held ++ [w])).length ≤ r.ringBytes →
    (∀ a ∈ r.units (s.dev.itemOf n (r.held ++ [w])).length, s.dev.directOk r.part a true false = true) →
    ∃ t, exec (.recordItemWrite n) s = .next t ∧ (t.dev.rout n).items = r.items ++ [s.dev.itemOf n (r.held ++ [w])] ∧
      (t.dev.rout n).rseq = r.rseq + 1#32 ∧ (t.dev.rout n).left = 0 ∧ (t.dev.rout n).lost = r.lost) ∧
  (∀ (s : State) (n : BitVec 6) (x : Rcv) (w : QWord) (r : Rout), r = s.dev.rout n → r.valid = true → r.left = 1 →
    (s.dev.queue r.q).rcv r.rcv = some x → x.skip = 0 → s.dev.peek r.q r.rcv = .word w →
    (((r.held ++ [w]).headD {}).kind == .header && ((r.held ++ [w]).headD {}).payload.getLsbD 54) = false →
    r.ringBytes < r.occ + itemRoom (s.dev.itemOf n (r.held ++ [w])).length →
    ∃ t, exec (.recordItemWrite n) s = .next t ∧ (t.dev.rout n).items = r.items ∧ (t.dev.rout n).rseq = r.rseq + 1#32 ∧
      (t.dev.rout n).left = 0 ∧ (t.dev.rout n).lost = satInc r.lost ∧ t.dev.psram = s.dev.psram) ∧
  (∀ (s : State) (n : BitVec 6) (x : Rcv) (w : QWord) (r : Rout), r = s.dev.rout n → r.valid = true → r.left = 1 →
    (s.dev.queue r.q).rcv r.rcv = some x → x.skip = 0 → s.dev.peek r.q r.rcv = .word w →
    (((r.held ++ [w]).headD {}).kind == .header && ((r.held ++ [w]).headD {}).payload.getLsbD 54) = true →
    ∃ t, exec (.recordItemWrite n) s = .next t ∧ (t.dev.rout n).items = r.items ∧ (t.dev.rout n).rseq = r.rseq ∧
      (t.dev.net r.net).maq.outs = (s.dev.net r.net).maq.outs ++ [(n, r.held ++ [w])] ∧ t.dev.psram = s.dev.psram) ∧
  (∀ (s : State) (n : BitVec 6), (s.dev.rout n).valid = false → exec (.recordItemWrite n) s = .next s) ∧
  (∀ (s : State), s.dev.evt.strAge ≠ 0#16 → s.dev.blocksPending ≠ 0 →
    ∃ t, exec .strAgeElapsed s = .next t ∧ t = { s with dev := { s.dev with evt := { s.dev.evt with aged := true } } }) ∧
  (∀ (s : State), s.dev.evt.hostTo ≠ 0#16 → s.dev.evt.silent = false → s.dev.pwr.resetHeld = false → s.dev.pwr.supplyFail = false →
    ∃ t, exec .hostSilent s = .next t ∧ t.dev.evt.silent = true ∧ t.dev.evt.hostSil = satInc s.dev.evt.hostSil ∧
      (s.dev.evt.fallback = false → t.dev.evt.fallen = s.dev.evt.fallen ∧ coresQueuesKept s t) ∧
      (s.dev.evt.fallback = true → t.dev.evt.fallen = true ∧ t.dev.route.pend = [] ∧ ∀ n, (t.dev.dmaCh n).state ≠ 1#2))

/-! ## Clock, resets, bring-up and power -/

/-- A loss of lock of more than 1 µs takes the compute dies into reset and the links down; after 1 ms of lock a package warm
reset follows, through which the compute dies of a clock that is lost again stay in reset, while a shorter loss leaves no trace (R52 to R54);
a partition takes its next division at the boundary (R50), and below /4 the frames of its network in flight are marked in the network and
in the cores that have begun one (R75, R80). -/
def Obligations.RootClock : Prop :=
  (∀ (s : State), ∃ t, exec .pllLockLost s = .next t ∧ t = { s with dev := { s.dev with pll := t.dev.pll } } ∧
      t.dev.pll = { s.dev.pll with locked := false, lossTimer := true, stableTimer := false }) ∧
  (∀ (s : State), s.dev.pll.lossTimer = true → s.dev.pll.locked = false → s.dev.pll.lossOn = false →
    ∃ t, exec .rootClockLoss s = .next t ∧ t.dev.pll.lossOn = true ∧ t.dev.pll.lossTimer = false ∧ (t.dev.die 0).inReset = true ∧
      (s.dev.die1 = true → (t.dev.die 1).inReset = true) ∧ (∀ l, (t.dev.lane l).link = false) ∧
      (∀ p : PartId, p.toNat < 16 → (s.dev.part p).power ≠ .off → (t.dev.part p).cast = .uncast)) ∧
  (∀ (s : State), s.dev.pll.locked = false →
    ∃ t, exec .pllLockRegained s = .next t ∧ t = { s with dev := { s.dev with pll := t.dev.pll } } ∧ t.dev.pll.locked = true ∧
      t.dev.pll.lossTimer = false ∧ t.dev.pll.lossOn = s.dev.pll.lossOn ∧ t.dev.pll.stableTimer = s.dev.pll.lossOn) ∧
  (∀ (s : State), s.dev.pll.lossOn = true → s.dev.pll.locked = true → s.dev.pll.stableTimer = true →
    ∃ t, exec .clockLossRecovery s = .next t ∧ t.dev.pll.lossOn = false ∧ t.dev.pwr.stage = 1#4 ∧ t.dev.pwr.lastKind = 5#3 ∧
      t.dev.pwr.warmCnt = satInc s.dev.pwr.warmCnt ∧ t.dev.psram = s.dev.psram ∧ t.dev.cores = [] ∧ t.dev.queues = []) ∧
  (∀ (s : State) (p : PartId) (v : Div), (s.dev.part p).divNext = some v → (s.dev.part p).power = .on →
    ∃ t, exec (.divisionChange p) s = .next t ∧ t.dev.part p = { s.dev.part p with div := v, divNext := none } ∧
      (∀ x, x ≠ p → t.dev.part x = s.dev.part x) ∧ t.dev.queues = s.dev.queues ∧ t.dev.psram = s.dev.psram ∧
      ((s.dev.part p).cast = .uncast ∨ (v = .d4 ∧ (s.dev.part p).div = .d4) → onlyPart p s t) ∧
      ((s.dev.part p).cast ≠ .uncast → v ≠ .d4 → ∀ c, (s.dev.core c).assigned = true → (s.dev.core c).net = (s.dev.part p).net →
        (s.dev.core c).inFrame = true → (t.dev.core c).flags.getLsbD 7 = true)) ∧
  (∀ (s : State) (p : PartId), (s.dev.part p).divNext = none ∨ (s.dev.part p).power ≠ .on → exec (.divisionChange p) s = .next s)

/-- RST_ARM arms one reset command; an armed command on a resource that may be reset resets it and uses the arming, any other is
counted in RST_REJ (R490 to R493, Table 14-4). A reserved spare, which runs nothing, has only its counters and its logic cells cleared.
A package reset empties the map, each entry counted in MAPGEN (R37), and switches every rail on again (R544). -/
def Obligations.ResetCommands : Prop :=
  (∀ (s : State) (v : W32), s.bus = true → s.dev.pwr.fwUp = true →
    ∃ t, exec (.rstArmWrite v) s = .next t ∧ t.dev.pwr.armed = (s.dev.pwr.armed || v.extractLsb' 0 8 == 0xA5#8) ∧ coresQueuesKept s t) ∧
  (∀ (s : State), ∃ t, exec .rstArmExpire s = .next t ∧ t = { s with dev := { s.dev with pwr := { s.dev.pwr with armed := false } } }) ∧
  (∀ (s : State) (k : ResetKind) (i : Instr), s.bus = true → s.dev.pwr.fwUp = true →
    (i = .resetPackageWarm ∧ k = .warm ∨ (∃ c, i = .resetCore c ∧ k = .core c) ∨ (∃ c, i = .resetCluster c ∧ k = .cluster c) ∨
      (∃ p, i = .resetPartition p ∧ k = .partition p) ∨ (∃ j, i = .resetComputeDie j ∧ k = .die j)) →
    (s.dev.pwr.armed = false ∨ s.dev.resetTarget k = false ∨ s.dev.resetStage k = false ∨ s.dev.resetFree k = false) →
    ∃ t, exec i s = .next t ∧ t.dev.pwr = { s.dev.pwr with armed := false, rej := satInc s.dev.pwr.rej } ∧
      t.dev.parts = s.dev.parts ∧ coresQueuesKept s t) ∧
  (∀ (s : State) (c : CoreId), s.bus = true → s.dev.pwr.fwUp = true → s.dev.pwr.armed = true → s.dev.resetTarget (.core c) = true →
    s.dev.resetStage (.core c) = true → s.dev.resetFree (.core c) = true → (s.dev.core c).assigned = true →
    (s.dev.core c).spare = false →
    ∃ t, exec (.resetCore c) s = .next t ∧ (t.dev.core c).state = .transferring ∧ (t.dev.core c).pc = 0x100#11 ∧
      (t.dev.core c).logical = (s.dev.core c).logical ∧ (t.dev.core c).frames = (s.dev.core c).frames ∧
      ResetKind.core c ∈ t.dev.pwr.busy ∧ t.dev.pwr.armed = false ∧ t.dev.pwr.lastKind = 1#3 ∧
      (t.dev.part (partOfCore c)).rstCore = satInc (s.dev.part (partOfCore c)).rstCore) ∧
  (∀ (s : State) (cl : ClusterId), s.bus = true → s.dev.pwr.fwUp = true → s.dev.pwr.armed = true →
    s.dev.resetTarget (.cluster cl) = true → s.dev.resetStage (.cluster cl) = true → s.dev.resetFree (.cluster cl) = true →
    ∃ t, exec (.resetCluster cl) s = .next t ∧ (t.dev.cluster cl).inReset = true ∧ t.dev.pwr.lastKind = 2#3 ∧
      (∀ c ∈ coresOfCluster cl, (s.dev.core c).assigned = true → (s.dev.core c).spare = false →
        (t.dev.core c).state = .transferring) ∧
      (t.dev.part (partOfCluster cl)).rstCluster = satInc (s.dev.part (partOfCluster cl)).rstCluster) ∧
  (∀ (s : State) (p : PartId), s.bus = true → s.dev.pwr.fwUp = true → s.dev.pwr.armed = true →
    s.dev.resetTarget (.partition p) = true → s.dev.resetStage (.partition p) = true → s.dev.resetFree (.partition p) = true →
    ∃ t, exec (.resetPartition p) s = .next t ∧ (t.dev.part p).inReset = true ∧ (t.dev.part p).frozen = false ∧
      (t.dev.part p).cast = (s.dev.part p).cast ∧ t.dev.pwr.lastKind = 3#3 ∧
      (∀ c ∈ coresOfPart p, (s.dev.core c).assigned = true → (s.dev.core c).spare = false →
        (t.dev.core c).state = .transferring) ∧
      (t.dev.part p).rstPart = satInc (s.dev.part p).rstPart) ∧
  (∀ (s : State) (i : Fin 2), s.bus = true → s.dev.pwr.fwUp = true → s.dev.pwr.armed = true → s.dev.resetTarget (.die i) = true →
    s.dev.resetStage (.die i) = true → s.dev.resetFree (.die i) = true →
    ∃ t, exec (.resetComputeDie i) s = .next t ∧ (t.dev.die i.val).inReset = true ∧ t.dev.pwr.lastKind = 4#3 ∧
      t.dev.pwr.dieCnt = satInc s.dev.pwr.dieCnt ∧ t.dev.psram = s.dev.psram ∧
      (∀ p, dieOfPart p = i.val → (s.dev.part p).power ≠ .off →
        (t.dev.part p).cast = .uncast ∧ (t.dev.part p).mode = 0x0C0#10 ∧ (t.dev.part p).regions = (s.dev.part p).regions)) ∧
  (∀ (s : State), s.bus = true → s.dev.pwr.fwUp = true → s.dev.pwr.armed = true → s.dev.resetFree .warm = true →
    ∃ t, exec .resetPackageWarm s = .next t ∧ t.dev.pwr.stage = 1#4 ∧ t.dev.pwr.lastKind = 5#3 ∧ t.dev.pwr.fwUp = false ∧
      t.dev.pwr.warmCnt = satInc s.dev.pwr.warmCnt ∧ t.dev.psram = s.dev.psram ∧ t.dev.cores = [] ∧ t.dev.queues = [] ∧
      t.dev.health.fences = s.dev.health.fences ∧ t.dev.route.index = s.dev.route.index ∧ t.dev.pins.rails = 0xF#4 ∧
      t.dev.health.mapgen = s.dev.health.mapgen + BitVec.ofNat 32 s.dev.mapped ∧ t.store = s.store ∧
      (s.dev.pll.lossOn = true → ∀ i, (s.dev.die i).inReset = true → (t.dev.die i).inReset = true))

/-- The end of a reset returns its resource to service (Table 14-4); RESET_N low for 10 µs or a core rail that fails is a
power-on reset that holds until it is released, and RESET_N low for 1 to 10 µs is one or is nothing (R546, R551 to R553). -/
def Obligations.ResetsEnd : Prop :=
  (∀ (s : State) (k : ResetKind), k ∈ s.dev.pwr.busy → s.dev.pwr.busy.Nodup →
    ∃ t, exec (.resetComplete k) s = .next t ∧
      (∀ c, k = .core c → (s.dev.core c).state = .transferring → (s.dev.core c).assigned = true →
        (s.dev.core c).spare = false →
        (s.dev.stageImg (s.dev.core c).net (s.dev.core c).stage = none ∧ (s.dev.core c).lsErr = [] ∨
          ∃ im, s.dev.stageImg (s.dev.core c).net (s.dev.core c).stage = some im ∧ im.streamed = false ∧
            s.dev.shadowFault (partOfCore c) im = none) →
        k ∉ t.dev.pwr.busy ∧ (t.dev.core c).state = .running ∧ (t.dev.core c).frames = (s.dev.core c).frames) ∧
      (∀ cl, k = .cluster cl → k ∉ t.dev.pwr.busy ∧ (t.dev.cluster cl).inReset = false) ∧
      (∀ p, k = .partition p → k ∉ t.dev.pwr.busy ∧ (t.dev.part p).inReset = false) ∧
      (∀ i : Fin 2, k = .die i → (s.dev.die i.val).resetLvl = false → (s.dev.die i.val).testing = false → s.dev.pll.lossOn = false →
        k ∉ t.dev.pwr.busy ∧ (t.dev.die i.val).inReset = false) ∧
      (k = .warm → k ∉ t.dev.pwr.busy)) ∧
  (∀ (s : State) (n : Nat), n < 1000 → exec (.resetNAssert n) s = .next s) ∧
  (∀ (s : State) (n : Nat), 1000 ≤ n → n < 10000 →
    ∃ t, exec (.resetNAssert n) s = .next t ∧ t.store = s.store ∧
      (t = { s with dev := { s.dev with fresh := t.dev.fresh } } ∨
        (t.dev.pwr.resetHeld = true ∧ t.dev.pins.resetN = false ∧ t.dev.pwr.stage = 1#4 ∧ t.dev.pwr.lastKind = 6#3))) ∧
  (∀ (s : State) (n : Nat), 10000 ≤ n →
    ∃ t, exec (.resetNAssert n) s = .next t ∧ t.dev.pwr.resetHeld = true ∧ t.dev.pins.resetN = false ∧ t.dev.pwr.stage = 1#4 ∧
      t.dev.pwr.lastKind = 6#3 ∧ t.dev.psram = [] ∧ t.dev.cores = [] ∧ t.dev.queues = [] ∧ t.dev.health.flog = [] ∧
      t.dev.health.fences = s.dev.health.fences ∧ t.store = s.store) ∧
  (∀ (s : State) (st : BitVec 2) (tn : Bool), s.dev.pwr.resetHeld = true →
    ∃ t, exec (.resetNRelease st tn) s = .next t ∧ t.dev.pwr = { s.dev.pwr with resetHeld := false } ∧
      t.dev.pins = { s.dev.pins with resetN := true, strap := st, testN := tn } ∧ coresQueuesKept s t) ∧
  (∀ (s : State) (r : CoreRail), (r = .vddMr1 → s.dev.die1 = true) →
    ∃ t, exec (.supplyFail r) s = .next t ∧ t.dev.pwr.supplyFail = true ∧ t.dev.pwr.stage = 1#4 ∧ t.dev.psram = [] ∧
      t.dev.cores = [] ∧ t.dev.pins.rails = 0xF#4 ∧ t.dev.health.fences = s.dev.health.fences ∧ t.store = s.store) ∧
  (∀ (s : State), ∃ t, exec .supplyRestored s = .next t ∧
      t = { s with dev := { s.dev with pwr := { s.dev.pwr with supplyFail := false } } }) ∧
  (∀ (s : State), ∃ t, exec .opticalRailFail s = .next t ∧ (∀ l, (t.dev.lane l).link = false) ∧ t.dev.ing.eup = false ∧
      t.dev.ing.wup = false ∧ t.dev.pwr = s.dev.pwr ∧ t.store = s.store)

/-- The stages of bring-up end in their order (R481 to R489): without lock stage 1 stays, stage 2 starts firmware from the bank
that verifies, stages 3 and 4 train and test, stage 5 fences the cores that fail on the cold path, and stage 9 makes the device
ready. -/
def Obligations.BringUpStages : Prop :=
  (∀ (s : State) (r : StageReport), s.dev.pwr.resetHeld = false → s.dev.pwr.supplyFail = false → s.dev.pll.lossOn = false →
    (s.dev.pwr.stage = 1#4 → ∃ t, exec (.bringupStageEnd r) s = .next t ∧ coresQueuesKept s t ∧
      t.store = s.store ∧ (r.stop = false → s.dev.pll.locked = true → t.dev.pwr.stage = 2#4 ∧ t.dev.pwr.stopped = false) ∧
      (r.stop = true ∨ s.dev.pll.locked = false → t.dev.pwr.stage = 1#4 ∧ t.dev.pwr.stopped = true)) ∧
    (∀ b, s.dev.pwr.stage = 2#4 → s.dev.pwr.stopped = false → r.stop = false → s.store.bootBank = some b →
      s.store.factory.verifies = true → s.store.factory.defaults = [] → s.store.ud = none →
      ∃ t, exec (.bringupStageEnd r) s = .next t ∧ t.dev.pwr.stage = 3#4 ∧ t.dev.pwr.fwUp = true ∧ t.store.runB = b ∧
        t.dev.health.flog = [] ∧ t.store.factory = s.store.factory ∧ coresQueuesKept s t) ∧
    (s.dev.pwr.stage = 3#4 → s.dev.fwRuns = true →
      ∃ t, exec (.bringupStageEnd r) s = .next t ∧ t.dev.pwr.stage = 4#4 ∧ (t.dev.ring 0).up = true ∧ coresQueuesKept s t ∧
        (∀ l : PartId, s.dev.lanePresent l = true → (t.dev.lane l).link = r.lanesUp.getLsbD l.toNat)) ∧
    (s.dev.pwr.stage = 4#4 → s.dev.fwRuns = true →
      ∃ t, exec (.bringupStageEnd r) s = .next t ∧ t.dev.pwr.stage = 5#4 ∧ coresQueuesKept s t ∧
        ∀ g, g ∈ t.dev.health.badSegs ↔ g ∈ s.dev.health.badSegs ∨ g ∈ r.segmentsFailed) ∧
    (s.dev.pwr.stage = 5#4 → s.dev.fwRuns = true → (s.dev.pwr.fast = false → ∀ i ∈ s.dev.dies_, (s.dev.die i).warn = false) →
      ∃ t, exec (.bringupStageEnd r) s = .next t ∧ t.dev.pwr.stage = 6#4 ∧ coresQueuesKept s t ∧
        (s.dev.pwr.fast = true → t.dev.health.fences = s.dev.health.fences ∧ t.store = s.store) ∧
        (s.dev.pwr.fast = false → ∀ c ∈ r.coresFailed, s.dev.diePresent (dieOfCore c) = true → t.dev.good c = false)) ∧
    (s.dev.pwr.stage = 6#4 → s.dev.fwRuns = true →
      ∃ t, exec (.bringupStageEnd r) s = .next t ∧ t.dev.pwr.stage = 7#4 ∧ coresQueuesKept s t) ∧
    (s.dev.pwr.stage = 7#4 → s.dev.fwRuns = true → s.dev.pwr.bootNets = [] →
      ∃ t, exec (.bringupStageEnd r) s = .next t ∧ t.dev.pwr.stage = 8#4 ∧ t.dev.nets = s.dev.nets ∧ coresQueuesKept s t) ∧
    (s.dev.pwr.stage = 8#4 → s.dev.fwRuns = true → (∀ n, (s.dev.net n).probation = true → (s.dev.net n).maq.passed = true) →
      ∃ t, exec (.bringupStageEnd r) s = .next t ∧ t.dev.pwr.stage = 9#4 ∧ t.dev.nets = s.dev.nets ∧ coresQueuesKept s t) ∧
    (s.dev.pwr.stage = 9#4 → s.dev.fwRuns = true →
      ∃ t, exec (.bringupStageEnd r) s = .next t ∧ t.dev.pwr.stage = 15#4 ∧ t.dev.pwr.ready = true ∧ t.dev.pwr.state = .running ∧
        (∀ n, (s.dev.net n).probation = true → (s.dev.net n).maq.passed = true →
          (t.dev.net n).probation = false ∧ (t.dev.net n).openAt = true) ∧ coresQueuesKept s t))

/-- The package's power states: an armed command drains the cast networks, entry powers the dies off, deep standby loses the
PSRAM unless it is retained, and WAKE brings the device back (R494, R497 to R499). A stopped partition goes into retention and
an uncast one off; P_PWR_ON brings them back under the brown-out warning in force (R48), and a retention whose check fails leaves the
partition held (R495, R496). That an ignored power command uses up the arming is the model's choice (assumption 62), and so is that
WAKE is ignored in package standby while a loss of the root clock lasts (assumption 138). -/
def Obligations.PowerStates : Prop :=
  (∀ (s : State) (i : Instr) (st : PwrState) (keep : Bool), s.bus = true → s.dev.pwr.fwUp = true →
    (i = .packageStandby ∧ st = .enterStandby ∧ keep = false ∨ i = .deepStandby ∧ st = .enterDeep ∧ keep = false ∨
      i = .deepStandbyRetained ∧ st = .enterDeep ∧ keep = true) → s.dev.pwr.armed = true → s.dev.runningNow = true →
    ∃ t, exec i s = .next t ∧ t.dev.pwr.armed = false ∧ t.store = s.store ∧ coresQueuesKept s t ∧ t.dev.pwr.state = st ∧
      t.dev.pwr.psret = keep ∧ ∀ n, s.dev.isCast n = true → (s.dev.net n).drain = none →
        (t.dev.net n).drain = some .standby ∧ (t.dev.net n).recordAtStandby = true ∧ (t.dev.net n).open_ = false) ∧
  (∀ (s : State), (∀ n, (s.dev.net n).drain = none ∧ (s.dev.net n).casting = none) →
    (∀ n, s.dev.isCast n = true → (s.dev.net n).recordAtStandby = true) →
    (s.dev.pwr.state = .enterStandby →
      ∃ t, exec .powerStateEntered s = .next t ∧ t.dev.pwr.state = .standby ∧ t.dev.pwr.ready = false ∧ (t.dev.die 0).railOn = false ∧
        (∀ i, i < 96 → (t.dev.chan i).selfRefresh = true) ∧ t.dev.psram = s.dev.psram ∧ t.store = s.store) ∧
    (s.dev.pwr.state = .enterDeep →
      (∀ p, s.dev.diePresent (dieOfPart p) = false → (s.dev.part p).cast = .uncast) →
      ∃ t, exec .powerStateEntered s = .next t ∧ t.dev.pwr.state = .deep ∧ (t.dev.die 0).railOn = false ∧ t.dev.route.index = [] ∧
        t.dev.pins.rails = s.dev.pins.rails &&& ~~~((if s.dev.pwr.psret then 0xC#4 else 0xF#4) &&& s.dev.pins.pmbTargets) ∧
        t.dev.psram = (if s.dev.pwr.psret then s.dev.psram else []) ∧ (∀ l, (t.dev.lane l).link = false) ∧ t.store = s.store)) ∧
  (∀ (s : State), s.bus = true → s.dev.pwr.fwUp = true → (s.dev.pwr.state = .standby ∧ s.dev.pll.lossOn = false ∨ s.dev.pwr.state = .deep) →
    ∃ t, exec .wake s = .next t ∧ t.dev.psram = s.dev.psram ∧
      (s.dev.pwr.state = .standby → t.dev.pwr.state = .waking ∧ t.dev.pwr.stage = 4#4 ∧ (t.dev.die 0).railOn = true) ∧
      (s.dev.pwr.state = .deep → t.dev.pwr.stage = 1#4 ∧ t.dev.pwr.warmCnt = satInc s.dev.pwr.warmCnt ∧ t.dev.pwr.state = .running ∧
        t.dev.pwr.fullTrain = !s.dev.pwr.psret)) ∧
  (∀ (s : State) (p : PartId), hostRuns s → s.dev.diePresent (dieOfPart p) = true → (s.dev.part p).power = .on →
    (s.dev.part p).powerTo = none →
    (∃ t, exec (.pPwrRetention p) s = .next t ∧ coresQueuesKept s t ∧
      ((s.dev.part p).cast = .stopped → (s.dev.part p).inReset = false → (s.dev.net (s.dev.part p).net).drain = none →
        t.dev.part p = { s.dev.part p with powerTo := some .retention, pwrReq := 1#2 }) ∧
      ((s.dev.part p).cast ≠ .stopped → t.dev.part p = s.dev.part p ∧ t.dev.pwr = { s.dev.pwr with rej := satInc s.dev.pwr.rej })) ∧
    (∃ t, exec (.pPwrOff p) s = .next t ∧ coresQueuesKept s t ∧
      ((s.dev.part p).cast = .uncast ∨ (s.dev.part p).cast = .heldAbort → (s.dev.net (s.dev.part p).net).casting = none →
        t.dev.part p = { s.dev.part p with powerTo := some .off, pwrReq := 2#2 }) ∧
      ((s.dev.part p).cast ≠ .uncast → (s.dev.part p).cast ≠ .heldAbort →
        t.dev.part p = s.dev.part p ∧ t.dev.pwr = { s.dev.pwr with rej := satInc s.dev.pwr.rej }))) ∧
  (∀ (s : State) (p : PartId), hostRuns s → s.dev.diePresent (dieOfPart p) = true → (s.dev.part p).power ≠ .on →
    (s.dev.part p).powerTo = none →
    ∃ t, exec (.pPwrOn p) s = .next t ∧ t.dev.part p = { s.dev.part p with powerTo := some .on, pwrReq := 0#2 } ∧
      (∀ x, x ≠ p → t.dev.part x = s.dev.part x) ∧ coresQueuesKept s t) ∧
  (∀ (s : State) (p : PartId),
    ((s.dev.part p).powerTo = some .retention → ∃ t, exec (.partitionPowerTransitionDone p) s = .next t ∧
      (t.dev.part p).power = .retention ∧ (t.dev.part p).powerTo = none ∧ (t.dev.part p).shut = true ∧
      (t.dev.part p).retEntries = satInc (s.dev.part p).retEntries ∧ (t.dev.part p).cast = (s.dev.part p).cast ∧ t.store = s.store) ∧
    ((s.dev.part p).powerTo = some .off → ∃ t, exec (.partitionPowerTransitionDone p) s = .next t ∧
      (t.dev.part p).power = .off ∧ (t.dev.part p).powerTo = none ∧ (t.dev.part p).cast = .uncast ∧ (t.dev.part p).regions = [] ∧
      t.dev.psram = s.dev.psram) ∧
    ((s.dev.part p).powerTo = some .on → (s.dev.part p).power = .off → ∃ t, exec (.partitionPowerTransitionDone p) s = .next t ∧
      onlyPart p s t ∧ (t.dev.part p).power = .on ∧ (t.dev.part p).powerTo = none ∧
      (t.dev.part p).bow = (s.dev.die (dieOfPart p)).warn ∧ (t.dev.part p).cast = (s.dev.part p).cast)) ∧
  (∀ (s : State) (p : PartId) (ok : Bool), (s.dev.part p).powerTo = some .on → (s.dev.part p).power = .retention →
    ∃ t, exec (.retentionExitCheck p ok) s = .next t ∧ (t.dev.part p).power = .on ∧ (t.dev.part p).powerTo = none ∧
      (t.dev.part p).checkFail = (!ok) ∧ (t.dev.part p).bow = ((s.dev.part p).bow || (s.dev.die (dieOfPart p)).warn) ∧ (ok = true → (t.dev.part p).cast = (s.dev.part p).cast) ∧
      (ok = false → (t.dev.part p).cast = .heldAbort ∧ (t.dev.part p).castStep = 9#4) ∧ coresQueuesKept s t) ∧
  (∀ (s : State) (i : Instr), s.bus = true → s.dev.pwr.fwUp = true → i = .packageStandby ∨ i = .deepStandby ∨ i = .deepStandbyRetained →
    s.dev.pwr.armed = false ∨ s.dev.runningNow = false → ∃ t, exec i s = .next t ∧ t.dev.pwr.armed = false) ∧
  (∀ (s : State), s.bus = true → s.dev.pwr.fwUp = true → s.dev.pwr.state = .standby → s.dev.pll.lossOn = true →
    ∃ t, exec .wake s = .next t ∧ t.dev.pwr = { s.dev.pwr with rej := satInc s.dev.pwr.rej } ∧ t.dev.dies = s.dev.dies ∧
      coresQueuesKept s t)

/-- A supply sample below the warning level asks /8 of the die's partitions, one below the reset level resets the die, and
recovery ends both: in hardware mode at once, in host-assisted mode at BOACK (R501 to R504). -/
def Obligations.BrownOuts : Prop :=
  (∀ (s : State) (i : Fin 2) (mv : W16), s.dev.monitored i.val = true → mv.toNat * 100 < 95 * (s.dev.die i.val).monitorAvs.toNat →
    ∃ t, exec (.brownoutWarning i mv) s = .next t ∧ (t.dev.die i.val).warn = true ∧ coresQueuesKept s t ∧
      ((s.dev.die i.val).warn = false → (t.dev.die i.val).boMin = mv ∧ (t.dev.die i.val).warns = satInc (s.dev.die i.val).warns ∧
        ∀ p, dieOfPart p = i.val → (s.dev.part p).power = .on → (t.dev.part p).bow = true) ∧
      ((s.dev.die i.val).warn = true → (t.dev.die i.val).boMin = minW (s.dev.die i.val).boMin mv ∧
        (t.dev.die i.val).warns = (s.dev.die i.val).warns ∧ t.dev.parts = s.dev.parts)) ∧
  (∀ (s : State) (i : Fin 2) (mv : W16), (s.dev.die i.val).warn = true →
    ∃ t, exec (.brownoutWarningReport i mv) s = .next t ∧
      t.dev.die i.val = { s.dev.die i.val with boMin := minW (s.dev.die i.val).boMin mv } ∧ t.dev.parts = s.dev.parts ∧ coresQueuesKept s t) ∧
  (∀ (s : State) (i : Fin 2) (us : W32), s.dev.monitored i.val = true → (s.dev.die i.val).warn = true →
    ∃ t, exec (.brownoutRecovery i us) s = .next t ∧ (t.dev.die i.val).warn = false ∧ (t.dev.die i.val).dur = us ∧ coresQueuesKept s t ∧
      (∀ p, dieOfPart p = i.val → (s.dev.part p).bow = true → (s.dev.die i.val).recastNets = [] →
        (s.dev.hostMode p 9 = false → (t.dev.part p).bow = false) ∧
        (s.dev.hostMode p 9 = true → (t.dev.part p).bow = true ∧ (t.dev.part p).awaitAck = true))) ∧
  (∀ (s : State) (i : Fin 2) (mv : W16), s.dev.monitored i.val = true → (s.dev.die i.val).resetLvl = false →
    mv.toNat * 100 < 90 * (s.dev.die i.val).monitorAvs.toNat →
    ∃ t, exec (.brownoutReset i mv) s = .next t ∧ (t.dev.die i.val).resetLvl = true ∧ (t.dev.die i.val).inReset = true ∧
      (t.dev.die i.val).resets = satInc (s.dev.die i.val).resets ∧ t.dev.psram = s.dev.psram ∧
      ∀ p, dieOfPart p = i.val → (s.dev.part p).power ≠ .off → (t.dev.part p).cast = .uncast) ∧
  (∀ (s : State) (i : Fin 2), (s.dev.die i.val).testing = true →
    ∃ t, exec (.dieArmatureTestDone i) s = .next t ∧ (t.dev.die i.val).testing = false ∧ (t.dev.die i.val).inReset = false) ∧
  (∀ (s : State) (tag : Byte) (mask : W32), mboxFree s →
    (∀ p : PartId, mask.getLsbD p.toNat = true → (s.dev.part p).awaitAck = true →
      (s.dev.die (dieOfPart p)).warn = false ∧ (s.dev.die (dieOfPart p)).resetLvl = false) →
    ∃ t, exec (.boack tag mask) s = .next t ∧ mbxAnswered t 0#16 ∧
      ∀ p : PartId, mask.getLsbD p.toNat = true → (s.dev.part p).awaitAck = true →
        (t.dev.part p).awaitAck = false ∧ (t.dev.part p).bow = false)

/-- The test access port: BYPASS captures 0, IDCODE the identity of the part, SAMPLE the signal balls, and EXTEST takes the
copper signals from the device, which changes nothing in it and keeps every command of the host from it (R554). -/
def Obligations.TestPort : Prop :=
  ∀ (s : State), (∃ t, exec .jtagBypass s = .next t ∧ t.tap.dr = 0#32 ∧ t.dev = s.dev ∧ t.store = s.store) ∧
    (∃ t, exec .jtagIdcode s = .next t ∧ t.tap.dr.getLsbD 0 = true ∧ t.tap.dr.extractLsb' 28 4 = s.store.factory.revision ∧
      t.tap.dr.extractLsb' 12 16 = (if s.dev.die1 then 0x9640#16 else 0x9620#16) ∧ t.dev = s.dev ∧ t.store = s.store) ∧
    (∀ pins, ∃ t, exec (.jtagSamplePreload pins) s = .next t ∧ t.tap.boundary = pins ∧ t.dev = s.dev ∧ t.store = s.store) ∧
    (∃ t, exec .jtagExtest s = .next t ∧ t.bus = false ∧ t.dev = s.dev ∧ t.store = s.store) ∧
    (∀ i, hostCommand i = true → s.bus = false → exec i s = .next s)

/-! ## Rules of the number formats, the power commands and the latch -/

/-- Every NaN written is the canonical quiet NaN of its format, whatever the NaN it came from: in a narrowing to a float format (R166,
Table 5-2) and in every FP32 addition and multiplication of the MAC array. -/
def Obligations.NaNsAreCanonical : Prop :=
  (fmtNan .e4m3 = 0x7F ∧ fmtNan .e5m2 = 0x7E ∧ fmtNan .bf16 = 0x7FC0 ∧ fmtNan .fp16 = 0x7E00 ∧ fmtNan .fp32 = 0x7FC00000) ∧
  (∀ (f : Fmt) (inf : Bool) (w : W32), isFloatFmt f = true → of32 w = .nan → narrowFloat f inf w = (fmtNan f, .nan)) ∧
  (∀ (f : Fmt) (inf : Bool) (w : W32), isFloatFmt f = true → ofCode f (narrowFloat f inf w).1 = .nan →
    (narrowFloat f inf w).1 = fmtNan f) ∧
  (∀ a b : W32, (of32 (add32 a b) = .nan → add32 a b = nan32) ∧ (of32 (mul32 a b) = .nan → mul32 a b = nan32)) ∧
  (∀ a b : X19, of32 (mulX19 a b) = .nan → mulX19 a b = nan32)

/-- PWR_CMD 1 to 3 without arming or while the device does not run, and PWR_CMD 4 outside standby and deep standby, are ignored and
counted in RST_REJ (R499). -/
def Obligations.PowerCommandsIgnored : Prop :=
  (∀ (s : State) (i : Instr), s.bus = true → s.dev.pwr.fwUp = true → i = .packageStandby ∨ i = .deepStandby ∨ i = .deepStandbyRetained →
    s.dev.pwr.armed = false ∨ s.dev.runningNow = false →
    ∃ t, exec i s = .next t ∧ t.dev.pwr = { s.dev.pwr with armed := t.dev.pwr.armed, rej := satInc s.dev.pwr.rej } ∧ t.dev.nets = s.dev.nets ∧
      t.dev.parts = s.dev.parts ∧ t.dev.dies = s.dev.dies ∧ t.store = s.store ∧ coresQueuesKept s t) ∧
  (∀ (s : State), s.bus = true → s.dev.pwr.fwUp = true → s.dev.pwr.state ≠ .standby → s.dev.pwr.state ≠ .deep →
    ∃ t, exec .wake s = .next t ∧ t.dev.pwr = { s.dev.pwr with rej := satInc s.dev.pwr.rej } ∧ t.dev.nets = s.dev.nets ∧
      t.dev.parts = s.dev.parts ∧ t.dev.dies = s.dev.dies ∧ t.store = s.store ∧ coresQueuesKept s t)

/-- A write of 1 to PTP_LATCH captures the PTP time, as seconds and nanoseconds, and TIME (R443). -/
def Obligations.LatchCapturesTheTime : Prop :=
  ∀ (s : State) (v : W32), hostRuns s → v.getLsbD 0 = true →
    ∃ t, exec (.ptpLatch v) s = .next t ∧ coresQueuesKept s t ∧
      t.dev.ing = { s.dev.ing with lsec := BitVec.ofNat 32 (s.dev.ptpNow.toNat / 1000000000),
                                   lns := BitVec.ofNat 30 (s.dev.ptpNow.toNat % 1000000000), ltime := s.dev.time }

/-! ## The whole machine -/

/-- A step takes the command at the front of the queue: it is that command's effect on the machine with the rest of the queue. -/
def Obligations.StepRunsTheFrontCommand : Prop :=
  ∀ (s : State) (c : Instr) (rest : List Instr), s.pending = c :: rest → step s = exec c { s with pending := rest }

/-- With no command waiting a step is one cycle of the logic-cell clock (the model's choice, assumption 1): TIME and PTP time move on,
and of a core nothing changes but the flip-flops and the value of its logic block (R283, R285, R287). -/
def Obligations.EmptyQueueTicks : Prop :=
  ∀ (s : State), s.pending = [] →
    ∃ t, step s = .next t ∧
      t = { s with dev := { s.dev with time := s.dev.time + 1#48, ptpThirds := s.dev.ptpThirds + 10, cores := t.dev.cores } } ∧
      ∀ e ∈ t.dev.cores, ∃ k, (e.1, k) ∈ s.dev.cores ∧ e.2 = { k with ff := e.2.ff, patch := e.2.patch } ∧ (k.luts = [] → e.2 = k)

/-- No command changes the queue of waiting commands, and a step takes exactly the one at its front. -/
def Obligations.CommandsKeepTheQueue : Prop :=
  (∀ (i : Instr) (s t : State), exec i s = .next t → t.pending = s.pending) ∧
  (∀ (s t : State) (c : Instr) (rest : List Instr), s.pending = c :: rest → step s = .next t → t.pending = rest)

/-- Every well-formed command answers a next state, in every state; the only refusal is that of a chunk that is no chunk (R309, R310). -/
def Obligations.WellFormedCommandsAnswer : Prop :=
  ∀ (i : Instr) (s : State), (i.wf = true → Safe i s) ∧ (i.wf = false → exec i s = .refused .illFormed)

/-- The image store: no step writes the factory region (R292); no step but the end of a long command of the mailbox writes a firmware
bank, a slot, the owner block or a user-defaults block (R301, R306). -/
def Obligations.ImageStoreKept : Prop :=
  (∀ (s t : State), step s = .next t → t.store.factory = s.store.factory) ∧
  (∀ (s t : State), step s = .next t → (∀ tag r, s.pending.head? ≠ some (.longCommandEnd tag r)) → imagesKept s.store t.store)

/-- The words of the schedule instructions: each decodes to its instruction with every field as encoded, a word whose reserved fields
are 0 is the one that its instruction encodes, and opcodes 0xA to 0xF are none (R96, R97). The little-endian fields of a casting set's
header, of a manifest entry and of a defaults entry read back as they were written (R13). -/
def Obligations.SequencerWordsRoundTrip : Prop :=
  (∀ i : SeqInstr, decodeSeq (encodeSeq i) = some i) ∧
  (∀ (w : W64) (i : SeqInstr), decodeSeq w = some i → reservedClear w = true → encodeSeq i = w) ∧
  (∀ w : W64, 10 ≤ (w.extractLsb' 60 4).toNat → decodeSeq w = none) ∧
  (∀ h : SetHeader, setHeaderOf (setHeaderBytes h) = some h) ∧ (∀ m : ManifestEntry, manifestOf (manifestBytes m) = m) ∧
  (∀ e : DefEntry, defEntryOf (defEntryBytes e) = e)

/-- The state after a power-on, where the spec gives values: bring-up in stage 1, nothing cast, the modes and settings at their reset
values, no index entry, and nothing waiting. -/
def Obligations.PowerOnValues : Prop :=
  State.reset.pending = [] ∧ State.reset.dev.pwr.stage = 1#4 ∧ State.reset.dev.pwr.ready = false ∧ State.reset.dev.route.index = [] ∧
  State.reset.dev.route.en = false ∧ State.reset.dev.evt.hostTo = 1000#16 ∧ State.reset.dev.evt.queue = [] ∧
  State.reset.dev.xptWen = false ∧ State.reset.dev.mbx.busy = false ∧ State.reset.dev.health.mqInt = 10#12 ∧
  (∀ p, (State.reset.dev.part p).cast = .uncast ∧ (State.reset.dev.part p).mode = 0x0C0#10 ∧
    (State.reset.dev.part p).drainTo = 50#10 ∧ (State.reset.dev.part p).regions = []) ∧
  (∀ c, (State.reset.dev.core c).assigned = false ∧ (State.reset.dev.core c).state = .uncast)
end

