-- ==== Sys2Proof/Laws/Tbl.lean ====
section
/-! SUPPORT. Read-after-write and the canonical form of sparse tables: every table operation keeps it. -/
namespace Sys2Proof

variable {α : Type}

theorem tblGet_put_same (d v : α) (n : Nat) : ∀ t : Tbl α, tblGet d (tblPut n v t) n = v
  | [] => by simp [tblPut, tblGet]
  | (k, w) :: t => by
    have ih := tblGet_put_same d v n t
    by_cases h1 : n < k
    · simp [tblPut, h1, tblGet]
    · by_cases h2 : n = k
      · simp [tblPut, h2, tblGet]
      · have h3 : k ≠ n := fun h => h2 h.symm
        simp [tblPut, h1, h2, tblGet, h3, ih]

theorem tblGet_put_other (d v : α) {n m : Nat} (h : n ≠ m) :
    ∀ t : Tbl α, tblGet d (tblPut n v t) m = tblGet d t m
  | [] => by simp [tblPut, tblGet, h]
  | (k, w) :: t => by
    have ih := tblGet_put_other d v h t
    by_cases h1 : n < k
    · simp [tblPut, h1, tblGet, h]
    · by_cases h2 : n = k
      · subst h2; simp [tblPut, tblGet, h]
      · simp [tblPut, h1, h2, tblGet, ih]

theorem tblGet_drop_same (d : α) (n : Nat) : ∀ t : Tbl α, tblGet d (tblDrop n t) n = d
  | [] => rfl
  | (k, w) :: t => by
    have ih := tblGet_drop_same d n t
    by_cases h : k = n
    · simpa [tblDrop, h] using ih
    · simpa [tblDrop, h, tblGet] using ih

theorem tblGet_drop_other (d : α) {n m : Nat} (hnm : n ≠ m) :
    ∀ t : Tbl α, tblGet d (tblDrop n t) m = tblGet d t m
  | [] => rfl
  | (k, w) :: t => by
    have ih := tblGet_drop_other d hnm t
    by_cases h : k = n
    · have : k ≠ m := fun e => hnm (h ▸ e)
      simpa [tblDrop, h, tblGet, hnm] using ih
    · by_cases h2 : k = m
      · subst h2
        simp [tblDrop, h, tblGet]
      · simpa [tblDrop, h, tblGet, h2] using ih

@[simp] theorem tblGet_set_same [DecidableEq α] (d v : α) (t : Tbl α) (n : Nat) :
    tblGet d (tblSet d t n v) n = v := by
  unfold tblSet
  split
  · rw [tblGet_drop_same]; symm; assumption
  · exact tblGet_put_same d v n t

theorem tblGet_set_other [DecidableEq α] (d v : α) (t : Tbl α) {n m : Nat} (h : n ≠ m) :
    tblGet d (tblSet d t n v) m = tblGet d t m := by
  unfold tblSet
  split
  · exact tblGet_drop_other d h t
  · exact tblGet_put_other d v h t

theorem tblGet_set [DecidableEq α] (d v : α) (t : Tbl α) (n m : Nat) :
    tblGet d (tblSet d t n v) m = if n = m then v else tblGet d t m := by
  by_cases h : n = m
  · subst h; simp
  · simp [h, tblGet_set_other d v t h]

theorem tblPut_keys {n : Nat} {v : α} : ∀ {t : Tbl α} {e : Nat × α}, e ∈ tblPut n v t → e = (n, v) ∨ e ∈ t
  | [], e, he => by simpa [tblPut] using he
  | (k, w) :: t, e, he => by
    unfold tblPut at he
    split at he
    · simpa using he
    · split at he
      · rcases List.mem_cons.1 he with h | h
        · exact .inl h
        · exact .inr (List.mem_cons_of_mem _ h)
      · rcases List.mem_cons.1 he with h | h
        · exact .inr (h ▸ List.mem_cons_self)
        · rcases tblPut_keys h with h | h
          · exact .inl h
          · exact .inr (List.mem_cons_of_mem _ h)

theorem tblPut_sorted {n : Nat} {v : α} : ∀ {t : Tbl α}, t.Pairwise (fun a b => a.1 < b.1) →
    (tblPut n v t).Pairwise (fun a b => a.1 < b.1)
  | [], _ => by simp [tblPut]
  | (k, w) :: t, h => by
    obtain ⟨h1, h2⟩ := List.pairwise_cons.1 h
    unfold tblPut
    split
    · rename_i hk
      refine List.pairwise_cons.2 ⟨fun e he => ?_, h⟩
      rcases List.mem_cons.1 he with rfl | he
      · exact hk
      · exact hk.trans (h1 e he)
    · split
      · rename_i _ hk
        exact List.pairwise_cons.2 ⟨fun e he => hk ▸ h1 e he, h2⟩
      · refine List.pairwise_cons.2 ⟨fun e he => ?_, tblPut_sorted h2⟩
        rcases tblPut_keys he with rfl | he
        · simp; omega
        · exact h1 e he

theorem tblSet_wf [DecidableEq α] {d v : α} {t : Tbl α} {n : Nat} (h : tblWf d t) :
    tblWf d (tblSet d t n v) := by
  unfold tblSet
  split
  · exact ⟨h.1.filter _, fun e he => h.2 e (List.mem_filter.1 he).1⟩
  · rename_i hv
    refine ⟨tblPut_sorted h.1, fun e he => ?_⟩
    rcases tblPut_keys he with rfl | he
    · exact hv
    · exact h.2 e he

theorem tblMod_wf [DecidableEq α] {d : α} {t : Tbl α} {n : Nat} {f : α → α} (h : tblWf d t) :
    tblWf d (tblMod d t n f) := tblSet_wf h

@[simp] theorem tblGet_mod_same [DecidableEq α] (d : α) (t : Tbl α) (n : Nat) (f : α → α) :
    tblGet d (tblMod d t n f) n = f (tblGet d t n) := by simp [tblMod]

theorem tblGet_mod_other [DecidableEq α] (d : α) (t : Tbl α) {n m : Nat} (f : α → α) (h : n ≠ m) :
    tblGet d (tblMod d t n f) m = tblGet d t m := tblGet_set_other d _ t h

theorem tblMap_wf [DecidableEq α] {d : α} {f : Nat → α → α} : ∀ {t : Tbl α}, tblWf d (tblMap d t f)
  | [] => ⟨List.Pairwise.nil, fun _ h => absurd h (List.not_mem_nil)⟩
  | _ :: t => tblSet_wf (tblMap_wf (t := t))

/-- A key of a mapped table reads as `f` of what it read as, whatever the form of the table, where `f` keeps the default. -/
theorem tblGet_map [DecidableEq α] (d : α) (f : Nat → α → α) (n : Nat) (h : f n d = d) :
    ∀ t : Tbl α, tblGet d (tblMap d t f) n = f n (tblGet d t n)
  | [] => by simp [tblMap, tblGet, h]
  | (k, v) :: t => by
    have ih := tblGet_map d f n h t
    simp only [tblMap, List.foldr_cons, tblGet] at ih ⊢
    by_cases hk : k = n
    · subst hk; simp
    · rw [tblGet_set_other d _ _ hk, ih, if_neg hk]

/-- A key that a table does not list reads as the default in the mapped table. -/
theorem tblGet_map_unlisted [DecidableEq α] (d : α) (f : Nat → α → α) (n : Nat) :
    ∀ t : Tbl α, (∀ e ∈ t, e.1 ≠ n) → tblGet d (tblMap d t f) n = d
  | [], _ => rfl
  | (k, v) :: t, h => by
    have ih := tblGet_map_unlisted d f n t (fun e he => h e (List.mem_cons_of_mem _ he))
    simp only [tblMap, List.foldr_cons] at ih ⊢
    rw [tblGet_set_other d _ _ (h (k, v) (List.mem_cons_self ..)), ih]

end Sys2Proof
end

