-- ==== Sys2Proof/Laws/State.lean ====
section
/-! SUPPORT. Updates of the device field by field: what each named update leaves as it was, what reading the updated unit gives,
and that the tables of units keep their canonical form. -/
namespace Sys2Proof.Machine

open Sys2Proof

/-! ## What an update leaves -/
section
variable (d : Dev) (c : CoreId) (f : Core → Core)
@[simp] theorem Dev.modCore_l : (d.modCore c f).l = d.l := rfl
@[simp] theorem Dev.modCore_die1 : (d.modCore c f).die1 = d.die1 := rfl
@[simp] theorem Dev.modCore_pll : (d.modCore c f).pll = d.pll := rfl
@[simp] theorem Dev.modCore_pins : (d.modCore c f).pins = d.pins := rfl
@[simp] theorem Dev.modCore_time : (d.modCore c f).time = d.time := rfl
@[simp] theorem Dev.modCore_ptpThirds : (d.modCore c f).ptpThirds = d.ptpThirds := rfl
@[simp] theorem Dev.modCore_fresh : (d.modCore c f).fresh = d.fresh := rfl
@[simp] theorem Dev.modCore_xptPage : (d.modCore c f).xptPage = d.xptPage := rfl
@[simp] theorem Dev.modCore_xptWen : (d.modCore c f).xptWen = d.xptWen := rfl
@[simp] theorem Dev.modCore_xptRej : (d.modCore c f).xptRej = d.xptRej := rfl
@[simp] theorem Dev.modCore_queues : (d.modCore c f).queues = d.queues := rfl
@[simp] theorem Dev.modCore_clusters : (d.modCore c f).clusters = d.clusters := rfl
@[simp] theorem Dev.modCore_parts : (d.modCore c f).parts = d.parts := rfl
@[simp] theorem Dev.modCore_nets : (d.modCore c f).nets = d.nets := rfl
@[simp] theorem Dev.modCore_map : (d.modCore c f).map = d.map := rfl
@[simp] theorem Dev.modCore_packets : (d.modCore c f).packets = d.packets := rfl
@[simp] theorem Dev.modCore_bridgeAbsorb : (d.modCore c f).bridgeAbsorb = d.bridgeAbsorb := rfl
@[simp] theorem Dev.modCore_psram : (d.modCore c f).psram = d.psram := rfl
@[simp] theorem Dev.modCore_chans : (d.modCore c f).chans = d.chans := rfl
@[simp] theorem Dev.modCore_rings : (d.modCore c f).rings = d.rings := rfl
@[simp] theorem Dev.modCore_hot : (d.modCore c f).hot = d.hot := rfl
@[simp] theorem Dev.modCore_memRej : (d.modCore c f).memRej = d.memRej := rfl
@[simp] theorem Dev.modCore_dma : (d.modCore c f).dma = d.dma := rfl
@[simp] theorem Dev.modCore_ing : (d.modCore c f).ing = d.ing := rfl
@[simp] theorem Dev.modCore_route : (d.modCore c f).route = d.route := rfl
@[simp] theorem Dev.modCore_adapt : (d.modCore c f).adapt = d.adapt := rfl
@[simp] theorem Dev.modCore_cal : (d.modCore c f).cal = d.cal := rfl
@[simp] theorem Dev.modCore_reports : (d.modCore c f).reports = d.reports := rfl
@[simp] theorem Dev.modCore_scales : (d.modCore c f).scales = d.scales := rfl
@[simp] theorem Dev.modCore_blockReps : (d.modCore c f).blockReps = d.blockReps := rfl
@[simp] theorem Dev.modCore_evt : (d.modCore c f).evt = d.evt := rfl
@[simp] theorem Dev.modCore_routs : (d.modCore c f).routs = d.routs := rfl
@[simp] theorem Dev.modCore_mbx : (d.modCore c f).mbx = d.mbx := rfl
@[simp] theorem Dev.modCore_card : (d.modCore c f).card = d.card := rfl
@[simp] theorem Dev.modCore_pwr : (d.modCore c f).pwr = d.pwr := rfl
@[simp] theorem Dev.modCore_dies : (d.modCore c f).dies = d.dies := rfl
@[simp] theorem Dev.modCore_doms : (d.modCore c f).doms = d.doms := rfl
@[simp] theorem Dev.modCore_health : (d.modCore c f).health = d.health := rfl
end

section
variable (d : Dev) (q : QueueId) (f : Queue → Queue)
@[simp] theorem Dev.modQueue_l : (d.modQueue q f).l = d.l := rfl
@[simp] theorem Dev.modQueue_die1 : (d.modQueue q f).die1 = d.die1 := rfl
@[simp] theorem Dev.modQueue_pll : (d.modQueue q f).pll = d.pll := rfl
@[simp] theorem Dev.modQueue_pins : (d.modQueue q f).pins = d.pins := rfl
@[simp] theorem Dev.modQueue_time : (d.modQueue q f).time = d.time := rfl
@[simp] theorem Dev.modQueue_ptpThirds : (d.modQueue q f).ptpThirds = d.ptpThirds := rfl
@[simp] theorem Dev.modQueue_fresh : (d.modQueue q f).fresh = d.fresh := rfl
@[simp] theorem Dev.modQueue_xptPage : (d.modQueue q f).xptPage = d.xptPage := rfl
@[simp] theorem Dev.modQueue_xptWen : (d.modQueue q f).xptWen = d.xptWen := rfl
@[simp] theorem Dev.modQueue_xptRej : (d.modQueue q f).xptRej = d.xptRej := rfl
@[simp] theorem Dev.modQueue_cores : (d.modQueue q f).cores = d.cores := rfl
@[simp] theorem Dev.modQueue_clusters : (d.modQueue q f).clusters = d.clusters := rfl
@[simp] theorem Dev.modQueue_parts : (d.modQueue q f).parts = d.parts := rfl
@[simp] theorem Dev.modQueue_nets : (d.modQueue q f).nets = d.nets := rfl
@[simp] theorem Dev.modQueue_map : (d.modQueue q f).map = d.map := rfl
@[simp] theorem Dev.modQueue_packets : (d.modQueue q f).packets = d.packets := rfl
@[simp] theorem Dev.modQueue_bridgeAbsorb : (d.modQueue q f).bridgeAbsorb = d.bridgeAbsorb := rfl
@[simp] theorem Dev.modQueue_psram : (d.modQueue q f).psram = d.psram := rfl
@[simp] theorem Dev.modQueue_chans : (d.modQueue q f).chans = d.chans := rfl
@[simp] theorem Dev.modQueue_rings : (d.modQueue q f).rings = d.rings := rfl
@[simp] theorem Dev.modQueue_hot : (d.modQueue q f).hot = d.hot := rfl
@[simp] theorem Dev.modQueue_memRej : (d.modQueue q f).memRej = d.memRej := rfl
@[simp] theorem Dev.modQueue_dma : (d.modQueue q f).dma = d.dma := rfl
@[simp] theorem Dev.modQueue_ing : (d.modQueue q f).ing = d.ing := rfl
@[simp] theorem Dev.modQueue_route : (d.modQueue q f).route = d.route := rfl
@[simp] theorem Dev.modQueue_adapt : (d.modQueue q f).adapt = d.adapt := rfl
@[simp] theorem Dev.modQueue_cal : (d.modQueue q f).cal = d.cal := rfl
@[simp] theorem Dev.modQueue_reports : (d.modQueue q f).reports = d.reports := rfl
@[simp] theorem Dev.modQueue_scales : (d.modQueue q f).scales = d.scales := rfl
@[simp] theorem Dev.modQueue_blockReps : (d.modQueue q f).blockReps = d.blockReps := rfl
@[simp] theorem Dev.modQueue_evt : (d.modQueue q f).evt = d.evt := rfl
@[simp] theorem Dev.modQueue_routs : (d.modQueue q f).routs = d.routs := rfl
@[simp] theorem Dev.modQueue_mbx : (d.modQueue q f).mbx = d.mbx := rfl
@[simp] theorem Dev.modQueue_card : (d.modQueue q f).card = d.card := rfl
@[simp] theorem Dev.modQueue_pwr : (d.modQueue q f).pwr = d.pwr := rfl
@[simp] theorem Dev.modQueue_dies : (d.modQueue q f).dies = d.dies := rfl
@[simp] theorem Dev.modQueue_doms : (d.modQueue q f).doms = d.doms := rfl
@[simp] theorem Dev.modQueue_health : (d.modQueue q f).health = d.health := rfl
end

section
variable (d : Dev) (q : QueueId) (v : Queue)
@[simp] theorem Dev.setQueue_l : (d.setQueue q v).l = d.l := rfl
@[simp] theorem Dev.setQueue_die1 : (d.setQueue q v).die1 = d.die1 := rfl
@[simp] theorem Dev.setQueue_pll : (d.setQueue q v).pll = d.pll := rfl
@[simp] theorem Dev.setQueue_pins : (d.setQueue q v).pins = d.pins := rfl
@[simp] theorem Dev.setQueue_time : (d.setQueue q v).time = d.time := rfl
@[simp] theorem Dev.setQueue_ptpThirds : (d.setQueue q v).ptpThirds = d.ptpThirds := rfl
@[simp] theorem Dev.setQueue_fresh : (d.setQueue q v).fresh = d.fresh := rfl
@[simp] theorem Dev.setQueue_xptPage : (d.setQueue q v).xptPage = d.xptPage := rfl
@[simp] theorem Dev.setQueue_xptWen : (d.setQueue q v).xptWen = d.xptWen := rfl
@[simp] theorem Dev.setQueue_xptRej : (d.setQueue q v).xptRej = d.xptRej := rfl
@[simp] theorem Dev.setQueue_cores : (d.setQueue q v).cores = d.cores := rfl
@[simp] theorem Dev.setQueue_clusters : (d.setQueue q v).clusters = d.clusters := rfl
@[simp] theorem Dev.setQueue_parts : (d.setQueue q v).parts = d.parts := rfl
@[simp] theorem Dev.setQueue_nets : (d.setQueue q v).nets = d.nets := rfl
@[simp] theorem Dev.setQueue_map : (d.setQueue q v).map = d.map := rfl
@[simp] theorem Dev.setQueue_packets : (d.setQueue q v).packets = d.packets := rfl
@[simp] theorem Dev.setQueue_bridgeAbsorb : (d.setQueue q v).bridgeAbsorb = d.bridgeAbsorb := rfl
@[simp] theorem Dev.setQueue_psram : (d.setQueue q v).psram = d.psram := rfl
@[simp] theorem Dev.setQueue_chans : (d.setQueue q v).chans = d.chans := rfl
@[simp] theorem Dev.setQueue_rings : (d.setQueue q v).rings = d.rings := rfl
@[simp] theorem Dev.setQueue_hot : (d.setQueue q v).hot = d.hot := rfl
@[simp] theorem Dev.setQueue_memRej : (d.setQueue q v).memRej = d.memRej := rfl
@[simp] theorem Dev.setQueue_dma : (d.setQueue q v).dma = d.dma := rfl
@[simp] theorem Dev.setQueue_ing : (d.setQueue q v).ing = d.ing := rfl
@[simp] theorem Dev.setQueue_route : (d.setQueue q v).route = d.route := rfl
@[simp] theorem Dev.setQueue_adapt : (d.setQueue q v).adapt = d.adapt := rfl
@[simp] theorem Dev.setQueue_cal : (d.setQueue q v).cal = d.cal := rfl
@[simp] theorem Dev.setQueue_reports : (d.setQueue q v).reports = d.reports := rfl
@[simp] theorem Dev.setQueue_scales : (d.setQueue q v).scales = d.scales := rfl
@[simp] theorem Dev.setQueue_blockReps : (d.setQueue q v).blockReps = d.blockReps := rfl
@[simp] theorem Dev.setQueue_evt : (d.setQueue q v).evt = d.evt := rfl
@[simp] theorem Dev.setQueue_routs : (d.setQueue q v).routs = d.routs := rfl
@[simp] theorem Dev.setQueue_mbx : (d.setQueue q v).mbx = d.mbx := rfl
@[simp] theorem Dev.setQueue_card : (d.setQueue q v).card = d.card := rfl
@[simp] theorem Dev.setQueue_pwr : (d.setQueue q v).pwr = d.pwr := rfl
@[simp] theorem Dev.setQueue_dies : (d.setQueue q v).dies = d.dies := rfl
@[simp] theorem Dev.setQueue_doms : (d.setQueue q v).doms = d.doms := rfl
@[simp] theorem Dev.setQueue_health : (d.setQueue q v).health = d.health := rfl
end

section
variable (d : Dev) (p : PartId) (f : Partition → Partition)
@[simp] theorem Dev.modPart_l : (d.modPart p f).l = d.l := rfl
@[simp] theorem Dev.modPart_die1 : (d.modPart p f).die1 = d.die1 := rfl
@[simp] theorem Dev.modPart_pll : (d.modPart p f).pll = d.pll := rfl
@[simp] theorem Dev.modPart_pins : (d.modPart p f).pins = d.pins := rfl
@[simp] theorem Dev.modPart_time : (d.modPart p f).time = d.time := rfl
@[simp] theorem Dev.modPart_ptpThirds : (d.modPart p f).ptpThirds = d.ptpThirds := rfl
@[simp] theorem Dev.modPart_fresh : (d.modPart p f).fresh = d.fresh := rfl
@[simp] theorem Dev.modPart_xptPage : (d.modPart p f).xptPage = d.xptPage := rfl
@[simp] theorem Dev.modPart_xptWen : (d.modPart p f).xptWen = d.xptWen := rfl
@[simp] theorem Dev.modPart_xptRej : (d.modPart p f).xptRej = d.xptRej := rfl
@[simp] theorem Dev.modPart_cores : (d.modPart p f).cores = d.cores := rfl
@[simp] theorem Dev.modPart_queues : (d.modPart p f).queues = d.queues := rfl
@[simp] theorem Dev.modPart_clusters : (d.modPart p f).clusters = d.clusters := rfl
@[simp] theorem Dev.modPart_nets : (d.modPart p f).nets = d.nets := rfl
@[simp] theorem Dev.modPart_map : (d.modPart p f).map = d.map := rfl
@[simp] theorem Dev.modPart_packets : (d.modPart p f).packets = d.packets := rfl
@[simp] theorem Dev.modPart_bridgeAbsorb : (d.modPart p f).bridgeAbsorb = d.bridgeAbsorb := rfl
@[simp] theorem Dev.modPart_psram : (d.modPart p f).psram = d.psram := rfl
@[simp] theorem Dev.modPart_chans : (d.modPart p f).chans = d.chans := rfl
@[simp] theorem Dev.modPart_rings : (d.modPart p f).rings = d.rings := rfl
@[simp] theorem Dev.modPart_hot : (d.modPart p f).hot = d.hot := rfl
@[simp] theorem Dev.modPart_memRej : (d.modPart p f).memRej = d.memRej := rfl
@[simp] theorem Dev.modPart_dma : (d.modPart p f).dma = d.dma := rfl
@[simp] theorem Dev.modPart_ing : (d.modPart p f).ing = d.ing := rfl
@[simp] theorem Dev.modPart_route : (d.modPart p f).route = d.route := rfl
@[simp] theorem Dev.modPart_adapt : (d.modPart p f).adapt = d.adapt := rfl
@[simp] theorem Dev.modPart_cal : (d.modPart p f).cal = d.cal := rfl
@[simp] theorem Dev.modPart_reports : (d.modPart p f).reports = d.reports := rfl
@[simp] theorem Dev.modPart_scales : (d.modPart p f).scales = d.scales := rfl
@[simp] theorem Dev.modPart_blockReps : (d.modPart p f).blockReps = d.blockReps := rfl
@[simp] theorem Dev.modPart_evt : (d.modPart p f).evt = d.evt := rfl
@[simp] theorem Dev.modPart_routs : (d.modPart p f).routs = d.routs := rfl
@[simp] theorem Dev.modPart_mbx : (d.modPart p f).mbx = d.mbx := rfl
@[simp] theorem Dev.modPart_card : (d.modPart p f).card = d.card := rfl
@[simp] theorem Dev.modPart_pwr : (d.modPart p f).pwr = d.pwr := rfl
@[simp] theorem Dev.modPart_dies : (d.modPart p f).dies = d.dies := rfl
@[simp] theorem Dev.modPart_doms : (d.modPart p f).doms = d.doms := rfl
@[simp] theorem Dev.modPart_health : (d.modPart p f).health = d.health := rfl
end

section
variable (d : Dev) (n : NetId) (f : Network → Network)
@[simp] theorem Dev.modNet_l : (d.modNet n f).l = d.l := rfl
@[simp] theorem Dev.modNet_die1 : (d.modNet n f).die1 = d.die1 := rfl
@[simp] theorem Dev.modNet_pll : (d.modNet n f).pll = d.pll := rfl
@[simp] theorem Dev.modNet_pins : (d.modNet n f).pins = d.pins := rfl
@[simp] theorem Dev.modNet_time : (d.modNet n f).time = d.time := rfl
@[simp] theorem Dev.modNet_ptpThirds : (d.modNet n f).ptpThirds = d.ptpThirds := rfl
@[simp] theorem Dev.modNet_fresh : (d.modNet n f).fresh = d.fresh := rfl
@[simp] theorem Dev.modNet_xptPage : (d.modNet n f).xptPage = d.xptPage := rfl
@[simp] theorem Dev.modNet_xptWen : (d.modNet n f).xptWen = d.xptWen := rfl
@[simp] theorem Dev.modNet_xptRej : (d.modNet n f).xptRej = d.xptRej := rfl
@[simp] theorem Dev.modNet_cores : (d.modNet n f).cores = d.cores := rfl
@[simp] theorem Dev.modNet_queues : (d.modNet n f).queues = d.queues := rfl
@[simp] theorem Dev.modNet_clusters : (d.modNet n f).clusters = d.clusters := rfl
@[simp] theorem Dev.modNet_parts : (d.modNet n f).parts = d.parts := rfl
@[simp] theorem Dev.modNet_map : (d.modNet n f).map = d.map := rfl
@[simp] theorem Dev.modNet_packets : (d.modNet n f).packets = d.packets := rfl
@[simp] theorem Dev.modNet_bridgeAbsorb : (d.modNet n f).bridgeAbsorb = d.bridgeAbsorb := rfl
@[simp] theorem Dev.modNet_psram : (d.modNet n f).psram = d.psram := rfl
@[simp] theorem Dev.modNet_chans : (d.modNet n f).chans = d.chans := rfl
@[simp] theorem Dev.modNet_rings : (d.modNet n f).rings = d.rings := rfl
@[simp] theorem Dev.modNet_hot : (d.modNet n f).hot = d.hot := rfl
@[simp] theorem Dev.modNet_memRej : (d.modNet n f).memRej = d.memRej := rfl
@[simp] theorem Dev.modNet_dma : (d.modNet n f).dma = d.dma := rfl
@[simp] theorem Dev.modNet_ing : (d.modNet n f).ing = d.ing := rfl
@[simp] theorem Dev.modNet_route : (d.modNet n f).route = d.route := rfl
@[simp] theorem Dev.modNet_adapt : (d.modNet n f).adapt = d.adapt := rfl
@[simp] theorem Dev.modNet_cal : (d.modNet n f).cal = d.cal := rfl
@[simp] theorem Dev.modNet_reports : (d.modNet n f).reports = d.reports := rfl
@[simp] theorem Dev.modNet_scales : (d.modNet n f).scales = d.scales := rfl
@[simp] theorem Dev.modNet_blockReps : (d.modNet n f).blockReps = d.blockReps := rfl
@[simp] theorem Dev.modNet_evt : (d.modNet n f).evt = d.evt := rfl
@[simp] theorem Dev.modNet_routs : (d.modNet n f).routs = d.routs := rfl
@[simp] theorem Dev.modNet_mbx : (d.modNet n f).mbx = d.mbx := rfl
@[simp] theorem Dev.modNet_card : (d.modNet n f).card = d.card := rfl
@[simp] theorem Dev.modNet_pwr : (d.modNet n f).pwr = d.pwr := rfl
@[simp] theorem Dev.modNet_dies : (d.modNet n f).dies = d.dies := rfl
@[simp] theorem Dev.modNet_doms : (d.modNet n f).doms = d.doms := rfl
@[simp] theorem Dev.modNet_health : (d.modNet n f).health = d.health := rfl
end

section
variable (d : Dev) (c : ClusterId) (f : Cluster → Cluster)
@[simp] theorem Dev.modCluster_l : (d.modCluster c f).l = d.l := rfl
@[simp] theorem Dev.modCluster_die1 : (d.modCluster c f).die1 = d.die1 := rfl
@[simp] theorem Dev.modCluster_pll : (d.modCluster c f).pll = d.pll := rfl
@[simp] theorem Dev.modCluster_pins : (d.modCluster c f).pins = d.pins := rfl
@[simp] theorem Dev.modCluster_time : (d.modCluster c f).time = d.time := rfl
@[simp] theorem Dev.modCluster_ptpThirds : (d.modCluster c f).ptpThirds = d.ptpThirds := rfl
@[simp] theorem Dev.modCluster_fresh : (d.modCluster c f).fresh = d.fresh := rfl
@[simp] theorem Dev.modCluster_xptPage : (d.modCluster c f).xptPage = d.xptPage := rfl
@[simp] theorem Dev.modCluster_xptWen : (d.modCluster c f).xptWen = d.xptWen := rfl
@[simp] theorem Dev.modCluster_xptRej : (d.modCluster c f).xptRej = d.xptRej := rfl
@[simp] theorem Dev.modCluster_cores : (d.modCluster c f).cores = d.cores := rfl
@[simp] theorem Dev.modCluster_queues : (d.modCluster c f).queues = d.queues := rfl
@[simp] theorem Dev.modCluster_parts : (d.modCluster c f).parts = d.parts := rfl
@[simp] theorem Dev.modCluster_nets : (d.modCluster c f).nets = d.nets := rfl
@[simp] theorem Dev.modCluster_map : (d.modCluster c f).map = d.map := rfl
@[simp] theorem Dev.modCluster_packets : (d.modCluster c f).packets = d.packets := rfl
@[simp] theorem Dev.modCluster_bridgeAbsorb : (d.modCluster c f).bridgeAbsorb = d.bridgeAbsorb := rfl
@[simp] theorem Dev.modCluster_psram : (d.modCluster c f).psram = d.psram := rfl
@[simp] theorem Dev.modCluster_chans : (d.modCluster c f).chans = d.chans := rfl
@[simp] theorem Dev.modCluster_rings : (d.modCluster c f).rings = d.rings := rfl
@[simp] theorem Dev.modCluster_hot : (d.modCluster c f).hot = d.hot := rfl
@[simp] theorem Dev.modCluster_memRej : (d.modCluster c f).memRej = d.memRej := rfl
@[simp] theorem Dev.modCluster_dma : (d.modCluster c f).dma = d.dma := rfl
@[simp] theorem Dev.modCluster_ing : (d.modCluster c f).ing = d.ing := rfl
@[simp] theorem Dev.modCluster_route : (d.modCluster c f).route = d.route := rfl
@[simp] theorem Dev.modCluster_adapt : (d.modCluster c f).adapt = d.adapt := rfl
@[simp] theorem Dev.modCluster_cal : (d.modCluster c f).cal = d.cal := rfl
@[simp] theorem Dev.modCluster_reports : (d.modCluster c f).reports = d.reports := rfl
@[simp] theorem Dev.modCluster_scales : (d.modCluster c f).scales = d.scales := rfl
@[simp] theorem Dev.modCluster_blockReps : (d.modCluster c f).blockReps = d.blockReps := rfl
@[simp] theorem Dev.modCluster_evt : (d.modCluster c f).evt = d.evt := rfl
@[simp] theorem Dev.modCluster_routs : (d.modCluster c f).routs = d.routs := rfl
@[simp] theorem Dev.modCluster_mbx : (d.modCluster c f).mbx = d.mbx := rfl
@[simp] theorem Dev.modCluster_card : (d.modCluster c f).card = d.card := rfl
@[simp] theorem Dev.modCluster_pwr : (d.modCluster c f).pwr = d.pwr := rfl
@[simp] theorem Dev.modCluster_dies : (d.modCluster c f).dies = d.dies := rfl
@[simp] theorem Dev.modCluster_doms : (d.modCluster c f).doms = d.doms := rfl
@[simp] theorem Dev.modCluster_health : (d.modCluster c f).health = d.health := rfl
end

section
variable (d : Dev) (i : Nat) (f : Die → Die)
@[simp] theorem Dev.modDie_l : (d.modDie i f).l = d.l := rfl
@[simp] theorem Dev.modDie_die1 : (d.modDie i f).die1 = d.die1 := rfl
@[simp] theorem Dev.modDie_pll : (d.modDie i f).pll = d.pll := rfl
@[simp] theorem Dev.modDie_pins : (d.modDie i f).pins = d.pins := rfl
@[simp] theorem Dev.modDie_time : (d.modDie i f).time = d.time := rfl
@[simp] theorem Dev.modDie_ptpThirds : (d.modDie i f).ptpThirds = d.ptpThirds := rfl
@[simp] theorem Dev.modDie_fresh : (d.modDie i f).fresh = d.fresh := rfl
@[simp] theorem Dev.modDie_xptPage : (d.modDie i f).xptPage = d.xptPage := rfl
@[simp] theorem Dev.modDie_xptWen : (d.modDie i f).xptWen = d.xptWen := rfl
@[simp] theorem Dev.modDie_xptRej : (d.modDie i f).xptRej = d.xptRej := rfl
@[simp] theorem Dev.modDie_cores : (d.modDie i f).cores = d.cores := rfl
@[simp] theorem Dev.modDie_queues : (d.modDie i f).queues = d.queues := rfl
@[simp] theorem Dev.modDie_clusters : (d.modDie i f).clusters = d.clusters := rfl
@[simp] theorem Dev.modDie_parts : (d.modDie i f).parts = d.parts := rfl
@[simp] theorem Dev.modDie_nets : (d.modDie i f).nets = d.nets := rfl
@[simp] theorem Dev.modDie_map : (d.modDie i f).map = d.map := rfl
@[simp] theorem Dev.modDie_packets : (d.modDie i f).packets = d.packets := rfl
@[simp] theorem Dev.modDie_bridgeAbsorb : (d.modDie i f).bridgeAbsorb = d.bridgeAbsorb := rfl
@[simp] theorem Dev.modDie_psram : (d.modDie i f).psram = d.psram := rfl
@[simp] theorem Dev.modDie_chans : (d.modDie i f).chans = d.chans := rfl
@[simp] theorem Dev.modDie_rings : (d.modDie i f).rings = d.rings := rfl
@[simp] theorem Dev.modDie_hot : (d.modDie i f).hot = d.hot := rfl
@[simp] theorem Dev.modDie_memRej : (d.modDie i f).memRej = d.memRej := rfl
@[simp] theorem Dev.modDie_dma : (d.modDie i f).dma = d.dma := rfl
@[simp] theorem Dev.modDie_ing : (d.modDie i f).ing = d.ing := rfl
@[simp] theorem Dev.modDie_route : (d.modDie i f).route = d.route := rfl
@[simp] theorem Dev.modDie_adapt : (d.modDie i f).adapt = d.adapt := rfl
@[simp] theorem Dev.modDie_cal : (d.modDie i f).cal = d.cal := rfl
@[simp] theorem Dev.modDie_reports : (d.modDie i f).reports = d.reports := rfl
@[simp] theorem Dev.modDie_scales : (d.modDie i f).scales = d.scales := rfl
@[simp] theorem Dev.modDie_blockReps : (d.modDie i f).blockReps = d.blockReps := rfl
@[simp] theorem Dev.modDie_evt : (d.modDie i f).evt = d.evt := rfl
@[simp] theorem Dev.modDie_routs : (d.modDie i f).routs = d.routs := rfl
@[simp] theorem Dev.modDie_mbx : (d.modDie i f).mbx = d.mbx := rfl
@[simp] theorem Dev.modDie_card : (d.modDie i f).card = d.card := rfl
@[simp] theorem Dev.modDie_pwr : (d.modDie i f).pwr = d.pwr := rfl
@[simp] theorem Dev.modDie_doms : (d.modDie i f).doms = d.doms := rfl
@[simp] theorem Dev.modDie_health : (d.modDie i f).health = d.health := rfl
end

section
variable (d : Dev) (i : Nat) (f : Channel → Channel)
@[simp] theorem Dev.modChan_l : (d.modChan i f).l = d.l := rfl
@[simp] theorem Dev.modChan_die1 : (d.modChan i f).die1 = d.die1 := rfl
@[simp] theorem Dev.modChan_pll : (d.modChan i f).pll = d.pll := rfl
@[simp] theorem Dev.modChan_pins : (d.modChan i f).pins = d.pins := rfl
@[simp] theorem Dev.modChan_time : (d.modChan i f).time = d.time := rfl
@[simp] theorem Dev.modChan_ptpThirds : (d.modChan i f).ptpThirds = d.ptpThirds := rfl
@[simp] theorem Dev.modChan_fresh : (d.modChan i f).fresh = d.fresh := rfl
@[simp] theorem Dev.modChan_xptPage : (d.modChan i f).xptPage = d.xptPage := rfl
@[simp] theorem Dev.modChan_xptWen : (d.modChan i f).xptWen = d.xptWen := rfl
@[simp] theorem Dev.modChan_xptRej : (d.modChan i f).xptRej = d.xptRej := rfl
@[simp] theorem Dev.modChan_cores : (d.modChan i f).cores = d.cores := rfl
@[simp] theorem Dev.modChan_queues : (d.modChan i f).queues = d.queues := rfl
@[simp] theorem Dev.modChan_clusters : (d.modChan i f).clusters = d.clusters := rfl
@[simp] theorem Dev.modChan_parts : (d.modChan i f).parts = d.parts := rfl
@[simp] theorem Dev.modChan_nets : (d.modChan i f).nets = d.nets := rfl
@[simp] theorem Dev.modChan_map : (d.modChan i f).map = d.map := rfl
@[simp] theorem Dev.modChan_packets : (d.modChan i f).packets = d.packets := rfl
@[simp] theorem Dev.modChan_bridgeAbsorb : (d.modChan i f).bridgeAbsorb = d.bridgeAbsorb := rfl
@[simp] theorem Dev.modChan_psram : (d.modChan i f).psram = d.psram := rfl
@[simp] theorem Dev.modChan_rings : (d.modChan i f).rings = d.rings := rfl
@[simp] theorem Dev.modChan_hot : (d.modChan i f).hot = d.hot := rfl
@[simp] theorem Dev.modChan_memRej : (d.modChan i f).memRej = d.memRej := rfl
@[simp] theorem Dev.modChan_dma : (d.modChan i f).dma = d.dma := rfl
@[simp] theorem Dev.modChan_ing : (d.modChan i f).ing = d.ing := rfl
@[simp] theorem Dev.modChan_route : (d.modChan i f).route = d.route := rfl
@[simp] theorem Dev.modChan_adapt : (d.modChan i f).adapt = d.adapt := rfl
@[simp] theorem Dev.modChan_cal : (d.modChan i f).cal = d.cal := rfl
@[simp] theorem Dev.modChan_reports : (d.modChan i f).reports = d.reports := rfl
@[simp] theorem Dev.modChan_scales : (d.modChan i f).scales = d.scales := rfl
@[simp] theorem Dev.modChan_blockReps : (d.modChan i f).blockReps = d.blockReps := rfl
@[simp] theorem Dev.modChan_evt : (d.modChan i f).evt = d.evt := rfl
@[simp] theorem Dev.modChan_routs : (d.modChan i f).routs = d.routs := rfl
@[simp] theorem Dev.modChan_mbx : (d.modChan i f).mbx = d.mbx := rfl
@[simp] theorem Dev.modChan_card : (d.modChan i f).card = d.card := rfl
@[simp] theorem Dev.modChan_pwr : (d.modChan i f).pwr = d.pwr := rfl
@[simp] theorem Dev.modChan_dies : (d.modChan i f).dies = d.dies := rfl
@[simp] theorem Dev.modChan_doms : (d.modChan i f).doms = d.doms := rfl
@[simp] theorem Dev.modChan_health : (d.modChan i f).health = d.health := rfl
end

section
variable (d : Dev) (i : Nat) (f : Ring → Ring)
@[simp] theorem Dev.modRing_l : (d.modRing i f).l = d.l := rfl
@[simp] theorem Dev.modRing_die1 : (d.modRing i f).die1 = d.die1 := rfl
@[simp] theorem Dev.modRing_pll : (d.modRing i f).pll = d.pll := rfl
@[simp] theorem Dev.modRing_pins : (d.modRing i f).pins = d.pins := rfl
@[simp] theorem Dev.modRing_time : (d.modRing i f).time = d.time := rfl
@[simp] theorem Dev.modRing_ptpThirds : (d.modRing i f).ptpThirds = d.ptpThirds := rfl
@[simp] theorem Dev.modRing_fresh : (d.modRing i f).fresh = d.fresh := rfl
@[simp] theorem Dev.modRing_xptPage : (d.modRing i f).xptPage = d.xptPage := rfl
@[simp] theorem Dev.modRing_xptWen : (d.modRing i f).xptWen = d.xptWen := rfl
@[simp] theorem Dev.modRing_xptRej : (d.modRing i f).xptRej = d.xptRej := rfl
@[simp] theorem Dev.modRing_cores : (d.modRing i f).cores = d.cores := rfl
@[simp] theorem Dev.modRing_queues : (d.modRing i f).queues = d.queues := rfl
@[simp] theorem Dev.modRing_clusters : (d.modRing i f).clusters = d.clusters := rfl
@[simp] theorem Dev.modRing_parts : (d.modRing i f).parts = d.parts := rfl
@[simp] theorem Dev.modRing_nets : (d.modRing i f).nets = d.nets := rfl
@[simp] theorem Dev.modRing_map : (d.modRing i f).map = d.map := rfl
@[simp] theorem Dev.modRing_packets : (d.modRing i f).packets = d.packets := rfl
@[simp] theorem Dev.modRing_bridgeAbsorb : (d.modRing i f).bridgeAbsorb = d.bridgeAbsorb := rfl
@[simp] theorem Dev.modRing_psram : (d.modRing i f).psram = d.psram := rfl
@[simp] theorem Dev.modRing_chans : (d.modRing i f).chans = d.chans := rfl
@[simp] theorem Dev.modRing_hot : (d.modRing i f).hot = d.hot := rfl
@[simp] theorem Dev.modRing_memRej : (d.modRing i f).memRej = d.memRej := rfl
@[simp] theorem Dev.modRing_dma : (d.modRing i f).dma = d.dma := rfl
@[simp] theorem Dev.modRing_ing : (d.modRing i f).ing = d.ing := rfl
@[simp] theorem Dev.modRing_route : (d.modRing i f).route = d.route := rfl
@[simp] theorem Dev.modRing_adapt : (d.modRing i f).adapt = d.adapt := rfl
@[simp] theorem Dev.modRing_cal : (d.modRing i f).cal = d.cal := rfl
@[simp] theorem Dev.modRing_reports : (d.modRing i f).reports = d.reports := rfl
@[simp] theorem Dev.modRing_scales : (d.modRing i f).scales = d.scales := rfl
@[simp] theorem Dev.modRing_blockReps : (d.modRing i f).blockReps = d.blockReps := rfl
@[simp] theorem Dev.modRing_evt : (d.modRing i f).evt = d.evt := rfl
@[simp] theorem Dev.modRing_routs : (d.modRing i f).routs = d.routs := rfl
@[simp] theorem Dev.modRing_mbx : (d.modRing i f).mbx = d.mbx := rfl
@[simp] theorem Dev.modRing_card : (d.modRing i f).card = d.card := rfl
@[simp] theorem Dev.modRing_pwr : (d.modRing i f).pwr = d.pwr := rfl
@[simp] theorem Dev.modRing_dies : (d.modRing i f).dies = d.dies := rfl
@[simp] theorem Dev.modRing_doms : (d.modRing i f).doms = d.doms := rfl
@[simp] theorem Dev.modRing_health : (d.modRing i f).health = d.health := rfl
end

section
variable (d : Dev) (n : BitVec 6) (f : DmaChan → DmaChan)
@[simp] theorem Dev.modDma_l : (d.modDma n f).l = d.l := rfl
@[simp] theorem Dev.modDma_die1 : (d.modDma n f).die1 = d.die1 := rfl
@[simp] theorem Dev.modDma_pll : (d.modDma n f).pll = d.pll := rfl
@[simp] theorem Dev.modDma_pins : (d.modDma n f).pins = d.pins := rfl
@[simp] theorem Dev.modDma_time : (d.modDma n f).time = d.time := rfl
@[simp] theorem Dev.modDma_ptpThirds : (d.modDma n f).ptpThirds = d.ptpThirds := rfl
@[simp] theorem Dev.modDma_fresh : (d.modDma n f).fresh = d.fresh := rfl
@[simp] theorem Dev.modDma_xptPage : (d.modDma n f).xptPage = d.xptPage := rfl
@[simp] theorem Dev.modDma_xptWen : (d.modDma n f).xptWen = d.xptWen := rfl
@[simp] theorem Dev.modDma_xptRej : (d.modDma n f).xptRej = d.xptRej := rfl
@[simp] theorem Dev.modDma_cores : (d.modDma n f).cores = d.cores := rfl
@[simp] theorem Dev.modDma_queues : (d.modDma n f).queues = d.queues := rfl
@[simp] theorem Dev.modDma_clusters : (d.modDma n f).clusters = d.clusters := rfl
@[simp] theorem Dev.modDma_parts : (d.modDma n f).parts = d.parts := rfl
@[simp] theorem Dev.modDma_nets : (d.modDma n f).nets = d.nets := rfl
@[simp] theorem Dev.modDma_map : (d.modDma n f).map = d.map := rfl
@[simp] theorem Dev.modDma_packets : (d.modDma n f).packets = d.packets := rfl
@[simp] theorem Dev.modDma_bridgeAbsorb : (d.modDma n f).bridgeAbsorb = d.bridgeAbsorb := rfl
@[simp] theorem Dev.modDma_psram : (d.modDma n f).psram = d.psram := rfl
@[simp] theorem Dev.modDma_chans : (d.modDma n f).chans = d.chans := rfl
@[simp] theorem Dev.modDma_rings : (d.modDma n f).rings = d.rings := rfl
@[simp] theorem Dev.modDma_hot : (d.modDma n f).hot = d.hot := rfl
@[simp] theorem Dev.modDma_memRej : (d.modDma n f).memRej = d.memRej := rfl
@[simp] theorem Dev.modDma_ing : (d.modDma n f).ing = d.ing := rfl
@[simp] theorem Dev.modDma_route : (d.modDma n f).route = d.route := rfl
@[simp] theorem Dev.modDma_adapt : (d.modDma n f).adapt = d.adapt := rfl
@[simp] theorem Dev.modDma_cal : (d.modDma n f).cal = d.cal := rfl
@[simp] theorem Dev.modDma_reports : (d.modDma n f).reports = d.reports := rfl
@[simp] theorem Dev.modDma_scales : (d.modDma n f).scales = d.scales := rfl
@[simp] theorem Dev.modDma_blockReps : (d.modDma n f).blockReps = d.blockReps := rfl
@[simp] theorem Dev.modDma_evt : (d.modDma n f).evt = d.evt := rfl
@[simp] theorem Dev.modDma_routs : (d.modDma n f).routs = d.routs := rfl
@[simp] theorem Dev.modDma_mbx : (d.modDma n f).mbx = d.mbx := rfl
@[simp] theorem Dev.modDma_card : (d.modDma n f).card = d.card := rfl
@[simp] theorem Dev.modDma_pwr : (d.modDma n f).pwr = d.pwr := rfl
@[simp] theorem Dev.modDma_dies : (d.modDma n f).dies = d.dies := rfl
@[simp] theorem Dev.modDma_doms : (d.modDma n f).doms = d.doms := rfl
@[simp] theorem Dev.modDma_health : (d.modDma n f).health = d.health := rfl
end

section
variable (d : Dev) (f : Ingest → Ingest)
@[simp] theorem Dev.modIng_l : (d.modIng f).l = d.l := rfl
@[simp] theorem Dev.modIng_die1 : (d.modIng f).die1 = d.die1 := rfl
@[simp] theorem Dev.modIng_pll : (d.modIng f).pll = d.pll := rfl
@[simp] theorem Dev.modIng_pins : (d.modIng f).pins = d.pins := rfl
@[simp] theorem Dev.modIng_time : (d.modIng f).time = d.time := rfl
@[simp] theorem Dev.modIng_ptpThirds : (d.modIng f).ptpThirds = d.ptpThirds := rfl
@[simp] theorem Dev.modIng_fresh : (d.modIng f).fresh = d.fresh := rfl
@[simp] theorem Dev.modIng_xptPage : (d.modIng f).xptPage = d.xptPage := rfl
@[simp] theorem Dev.modIng_xptWen : (d.modIng f).xptWen = d.xptWen := rfl
@[simp] theorem Dev.modIng_xptRej : (d.modIng f).xptRej = d.xptRej := rfl
@[simp] theorem Dev.modIng_cores : (d.modIng f).cores = d.cores := rfl
@[simp] theorem Dev.modIng_queues : (d.modIng f).queues = d.queues := rfl
@[simp] theorem Dev.modIng_clusters : (d.modIng f).clusters = d.clusters := rfl
@[simp] theorem Dev.modIng_parts : (d.modIng f).parts = d.parts := rfl
@[simp] theorem Dev.modIng_nets : (d.modIng f).nets = d.nets := rfl
@[simp] theorem Dev.modIng_map : (d.modIng f).map = d.map := rfl
@[simp] theorem Dev.modIng_packets : (d.modIng f).packets = d.packets := rfl
@[simp] theorem Dev.modIng_bridgeAbsorb : (d.modIng f).bridgeAbsorb = d.bridgeAbsorb := rfl
@[simp] theorem Dev.modIng_psram : (d.modIng f).psram = d.psram := rfl
@[simp] theorem Dev.modIng_chans : (d.modIng f).chans = d.chans := rfl
@[simp] theorem Dev.modIng_rings : (d.modIng f).rings = d.rings := rfl
@[simp] theorem Dev.modIng_hot : (d.modIng f).hot = d.hot := rfl
@[simp] theorem Dev.modIng_memRej : (d.modIng f).memRej = d.memRej := rfl
@[simp] theorem Dev.modIng_dma : (d.modIng f).dma = d.dma := rfl
@[simp] theorem Dev.modIng_route : (d.modIng f).route = d.route := rfl
@[simp] theorem Dev.modIng_adapt : (d.modIng f).adapt = d.adapt := rfl
@[simp] theorem Dev.modIng_cal : (d.modIng f).cal = d.cal := rfl
@[simp] theorem Dev.modIng_reports : (d.modIng f).reports = d.reports := rfl
@[simp] theorem Dev.modIng_scales : (d.modIng f).scales = d.scales := rfl
@[simp] theorem Dev.modIng_blockReps : (d.modIng f).blockReps = d.blockReps := rfl
@[simp] theorem Dev.modIng_evt : (d.modIng f).evt = d.evt := rfl
@[simp] theorem Dev.modIng_routs : (d.modIng f).routs = d.routs := rfl
@[simp] theorem Dev.modIng_mbx : (d.modIng f).mbx = d.mbx := rfl
@[simp] theorem Dev.modIng_card : (d.modIng f).card = d.card := rfl
@[simp] theorem Dev.modIng_pwr : (d.modIng f).pwr = d.pwr := rfl
@[simp] theorem Dev.modIng_dies : (d.modIng f).dies = d.dies := rfl
@[simp] theorem Dev.modIng_doms : (d.modIng f).doms = d.doms := rfl
@[simp] theorem Dev.modIng_health : (d.modIng f).health = d.health := rfl
end

section
variable (d : Dev) (l : PartId) (f : Lane → Lane)
@[simp] theorem Dev.modLane_l : (d.modLane l f).l = d.l := rfl
@[simp] theorem Dev.modLane_die1 : (d.modLane l f).die1 = d.die1 := rfl
@[simp] theorem Dev.modLane_pll : (d.modLane l f).pll = d.pll := rfl
@[simp] theorem Dev.modLane_pins : (d.modLane l f).pins = d.pins := rfl
@[simp] theorem Dev.modLane_time : (d.modLane l f).time = d.time := rfl
@[simp] theorem Dev.modLane_ptpThirds : (d.modLane l f).ptpThirds = d.ptpThirds := rfl
@[simp] theorem Dev.modLane_fresh : (d.modLane l f).fresh = d.fresh := rfl
@[simp] theorem Dev.modLane_xptPage : (d.modLane l f).xptPage = d.xptPage := rfl
@[simp] theorem Dev.modLane_xptWen : (d.modLane l f).xptWen = d.xptWen := rfl
@[simp] theorem Dev.modLane_xptRej : (d.modLane l f).xptRej = d.xptRej := rfl
@[simp] theorem Dev.modLane_cores : (d.modLane l f).cores = d.cores := rfl
@[simp] theorem Dev.modLane_queues : (d.modLane l f).queues = d.queues := rfl
@[simp] theorem Dev.modLane_clusters : (d.modLane l f).clusters = d.clusters := rfl
@[simp] theorem Dev.modLane_parts : (d.modLane l f).parts = d.parts := rfl
@[simp] theorem Dev.modLane_nets : (d.modLane l f).nets = d.nets := rfl
@[simp] theorem Dev.modLane_map : (d.modLane l f).map = d.map := rfl
@[simp] theorem Dev.modLane_packets : (d.modLane l f).packets = d.packets := rfl
@[simp] theorem Dev.modLane_bridgeAbsorb : (d.modLane l f).bridgeAbsorb = d.bridgeAbsorb := rfl
@[simp] theorem Dev.modLane_psram : (d.modLane l f).psram = d.psram := rfl
@[simp] theorem Dev.modLane_chans : (d.modLane l f).chans = d.chans := rfl
@[simp] theorem Dev.modLane_rings : (d.modLane l f).rings = d.rings := rfl
@[simp] theorem Dev.modLane_hot : (d.modLane l f).hot = d.hot := rfl
@[simp] theorem Dev.modLane_memRej : (d.modLane l f).memRej = d.memRej := rfl
@[simp] theorem Dev.modLane_dma : (d.modLane l f).dma = d.dma := rfl
@[simp] theorem Dev.modLane_route : (d.modLane l f).route = d.route := rfl
@[simp] theorem Dev.modLane_adapt : (d.modLane l f).adapt = d.adapt := rfl
@[simp] theorem Dev.modLane_cal : (d.modLane l f).cal = d.cal := rfl
@[simp] theorem Dev.modLane_reports : (d.modLane l f).reports = d.reports := rfl
@[simp] theorem Dev.modLane_scales : (d.modLane l f).scales = d.scales := rfl
@[simp] theorem Dev.modLane_blockReps : (d.modLane l f).blockReps = d.blockReps := rfl
@[simp] theorem Dev.modLane_evt : (d.modLane l f).evt = d.evt := rfl
@[simp] theorem Dev.modLane_routs : (d.modLane l f).routs = d.routs := rfl
@[simp] theorem Dev.modLane_mbx : (d.modLane l f).mbx = d.mbx := rfl
@[simp] theorem Dev.modLane_card : (d.modLane l f).card = d.card := rfl
@[simp] theorem Dev.modLane_pwr : (d.modLane l f).pwr = d.pwr := rfl
@[simp] theorem Dev.modLane_dies : (d.modLane l f).dies = d.dies := rfl
@[simp] theorem Dev.modLane_doms : (d.modLane l f).doms = d.doms := rfl
@[simp] theorem Dev.modLane_health : (d.modLane l f).health = d.health := rfl
end

section
variable (d : Dev) (c : BitVec 10) (f : Context → Context)
@[simp] theorem Dev.modCtx_l : (d.modCtx c f).l = d.l := rfl
@[simp] theorem Dev.modCtx_die1 : (d.modCtx c f).die1 = d.die1 := rfl
@[simp] theorem Dev.modCtx_pll : (d.modCtx c f).pll = d.pll := rfl
@[simp] theorem Dev.modCtx_pins : (d.modCtx c f).pins = d.pins := rfl
@[simp] theorem Dev.modCtx_time : (d.modCtx c f).time = d.time := rfl
@[simp] theorem Dev.modCtx_ptpThirds : (d.modCtx c f).ptpThirds = d.ptpThirds := rfl
@[simp] theorem Dev.modCtx_fresh : (d.modCtx c f).fresh = d.fresh := rfl
@[simp] theorem Dev.modCtx_xptPage : (d.modCtx c f).xptPage = d.xptPage := rfl
@[simp] theorem Dev.modCtx_xptWen : (d.modCtx c f).xptWen = d.xptWen := rfl
@[simp] theorem Dev.modCtx_xptRej : (d.modCtx c f).xptRej = d.xptRej := rfl
@[simp] theorem Dev.modCtx_cores : (d.modCtx c f).cores = d.cores := rfl
@[simp] theorem Dev.modCtx_queues : (d.modCtx c f).queues = d.queues := rfl
@[simp] theorem Dev.modCtx_clusters : (d.modCtx c f).clusters = d.clusters := rfl
@[simp] theorem Dev.modCtx_parts : (d.modCtx c f).parts = d.parts := rfl
@[simp] theorem Dev.modCtx_nets : (d.modCtx c f).nets = d.nets := rfl
@[simp] theorem Dev.modCtx_map : (d.modCtx c f).map = d.map := rfl
@[simp] theorem Dev.modCtx_packets : (d.modCtx c f).packets = d.packets := rfl
@[simp] theorem Dev.modCtx_bridgeAbsorb : (d.modCtx c f).bridgeAbsorb = d.bridgeAbsorb := rfl
@[simp] theorem Dev.modCtx_psram : (d.modCtx c f).psram = d.psram := rfl
@[simp] theorem Dev.modCtx_chans : (d.modCtx c f).chans = d.chans := rfl
@[simp] theorem Dev.modCtx_rings : (d.modCtx c f).rings = d.rings := rfl
@[simp] theorem Dev.modCtx_hot : (d.modCtx c f).hot = d.hot := rfl
@[simp] theorem Dev.modCtx_memRej : (d.modCtx c f).memRej = d.memRej := rfl
@[simp] theorem Dev.modCtx_dma : (d.modCtx c f).dma = d.dma := rfl
@[simp] theorem Dev.modCtx_route : (d.modCtx c f).route = d.route := rfl
@[simp] theorem Dev.modCtx_adapt : (d.modCtx c f).adapt = d.adapt := rfl
@[simp] theorem Dev.modCtx_cal : (d.modCtx c f).cal = d.cal := rfl
@[simp] theorem Dev.modCtx_reports : (d.modCtx c f).reports = d.reports := rfl
@[simp] theorem Dev.modCtx_scales : (d.modCtx c f).scales = d.scales := rfl
@[simp] theorem Dev.modCtx_blockReps : (d.modCtx c f).blockReps = d.blockReps := rfl
@[simp] theorem Dev.modCtx_evt : (d.modCtx c f).evt = d.evt := rfl
@[simp] theorem Dev.modCtx_routs : (d.modCtx c f).routs = d.routs := rfl
@[simp] theorem Dev.modCtx_mbx : (d.modCtx c f).mbx = d.mbx := rfl
@[simp] theorem Dev.modCtx_card : (d.modCtx c f).card = d.card := rfl
@[simp] theorem Dev.modCtx_pwr : (d.modCtx c f).pwr = d.pwr := rfl
@[simp] theorem Dev.modCtx_dies : (d.modCtx c f).dies = d.dies := rfl
@[simp] theorem Dev.modCtx_doms : (d.modCtx c f).doms = d.doms := rfl
@[simp] theorem Dev.modCtx_health : (d.modCtx c f).health = d.health := rfl
end

section
variable (d : Dev) (f : Route → Route)
@[simp] theorem Dev.modRoute_l : (d.modRoute f).l = d.l := rfl
@[simp] theorem Dev.modRoute_die1 : (d.modRoute f).die1 = d.die1 := rfl
@[simp] theorem Dev.modRoute_pll : (d.modRoute f).pll = d.pll := rfl
@[simp] theorem Dev.modRoute_pins : (d.modRoute f).pins = d.pins := rfl
@[simp] theorem Dev.modRoute_time : (d.modRoute f).time = d.time := rfl
@[simp] theorem Dev.modRoute_ptpThirds : (d.modRoute f).ptpThirds = d.ptpThirds := rfl
@[simp] theorem Dev.modRoute_fresh : (d.modRoute f).fresh = d.fresh := rfl
@[simp] theorem Dev.modRoute_xptPage : (d.modRoute f).xptPage = d.xptPage := rfl
@[simp] theorem Dev.modRoute_xptWen : (d.modRoute f).xptWen = d.xptWen := rfl
@[simp] theorem Dev.modRoute_xptRej : (d.modRoute f).xptRej = d.xptRej := rfl
@[simp] theorem Dev.modRoute_cores : (d.modRoute f).cores = d.cores := rfl
@[simp] theorem Dev.modRoute_queues : (d.modRoute f).queues = d.queues := rfl
@[simp] theorem Dev.modRoute_clusters : (d.modRoute f).clusters = d.clusters := rfl
@[simp] theorem Dev.modRoute_parts : (d.modRoute f).parts = d.parts := rfl
@[simp] theorem Dev.modRoute_nets : (d.modRoute f).nets = d.nets := rfl
@[simp] theorem Dev.modRoute_map : (d.modRoute f).map = d.map := rfl
@[simp] theorem Dev.modRoute_packets : (d.modRoute f).packets = d.packets := rfl
@[simp] theorem Dev.modRoute_bridgeAbsorb : (d.modRoute f).bridgeAbsorb = d.bridgeAbsorb := rfl
@[simp] theorem Dev.modRoute_psram : (d.modRoute f).psram = d.psram := rfl
@[simp] theorem Dev.modRoute_chans : (d.modRoute f).chans = d.chans := rfl
@[simp] theorem Dev.modRoute_rings : (d.modRoute f).rings = d.rings := rfl
@[simp] theorem Dev.modRoute_hot : (d.modRoute f).hot = d.hot := rfl
@[simp] theorem Dev.modRoute_memRej : (d.modRoute f).memRej = d.memRej := rfl
@[simp] theorem Dev.modRoute_dma : (d.modRoute f).dma = d.dma := rfl
@[simp] theorem Dev.modRoute_ing : (d.modRoute f).ing = d.ing := rfl
@[simp] theorem Dev.modRoute_adapt : (d.modRoute f).adapt = d.adapt := rfl
@[simp] theorem Dev.modRoute_cal : (d.modRoute f).cal = d.cal := rfl
@[simp] theorem Dev.modRoute_reports : (d.modRoute f).reports = d.reports := rfl
@[simp] theorem Dev.modRoute_scales : (d.modRoute f).scales = d.scales := rfl
@[simp] theorem Dev.modRoute_blockReps : (d.modRoute f).blockReps = d.blockReps := rfl
@[simp] theorem Dev.modRoute_evt : (d.modRoute f).evt = d.evt := rfl
@[simp] theorem Dev.modRoute_routs : (d.modRoute f).routs = d.routs := rfl
@[simp] theorem Dev.modRoute_mbx : (d.modRoute f).mbx = d.mbx := rfl
@[simp] theorem Dev.modRoute_card : (d.modRoute f).card = d.card := rfl
@[simp] theorem Dev.modRoute_pwr : (d.modRoute f).pwr = d.pwr := rfl
@[simp] theorem Dev.modRoute_dies : (d.modRoute f).dies = d.dies := rfl
@[simp] theorem Dev.modRoute_doms : (d.modRoute f).doms = d.doms := rfl
@[simp] theorem Dev.modRoute_health : (d.modRoute f).health = d.health := rfl
end

section
variable (d : Dev) (u : BitVec 2) (f : Adapt → Adapt)
@[simp] theorem Dev.modAdapt_l : (d.modAdapt u f).l = d.l := rfl
@[simp] theorem Dev.modAdapt_die1 : (d.modAdapt u f).die1 = d.die1 := rfl
@[simp] theorem Dev.modAdapt_pll : (d.modAdapt u f).pll = d.pll := rfl
@[simp] theorem Dev.modAdapt_pins : (d.modAdapt u f).pins = d.pins := rfl
@[simp] theorem Dev.modAdapt_time : (d.modAdapt u f).time = d.time := rfl
@[simp] theorem Dev.modAdapt_ptpThirds : (d.modAdapt u f).ptpThirds = d.ptpThirds := rfl
@[simp] theorem Dev.modAdapt_fresh : (d.modAdapt u f).fresh = d.fresh := rfl
@[simp] theorem Dev.modAdapt_xptPage : (d.modAdapt u f).xptPage = d.xptPage := rfl
@[simp] theorem Dev.modAdapt_xptWen : (d.modAdapt u f).xptWen = d.xptWen := rfl
@[simp] theorem Dev.modAdapt_xptRej : (d.modAdapt u f).xptRej = d.xptRej := rfl
@[simp] theorem Dev.modAdapt_cores : (d.modAdapt u f).cores = d.cores := rfl
@[simp] theorem Dev.modAdapt_queues : (d.modAdapt u f).queues = d.queues := rfl
@[simp] theorem Dev.modAdapt_clusters : (d.modAdapt u f).clusters = d.clusters := rfl
@[simp] theorem Dev.modAdapt_parts : (d.modAdapt u f).parts = d.parts := rfl
@[simp] theorem Dev.modAdapt_nets : (d.modAdapt u f).nets = d.nets := rfl
@[simp] theorem Dev.modAdapt_map : (d.modAdapt u f).map = d.map := rfl
@[simp] theorem Dev.modAdapt_packets : (d.modAdapt u f).packets = d.packets := rfl
@[simp] theorem Dev.modAdapt_bridgeAbsorb : (d.modAdapt u f).bridgeAbsorb = d.bridgeAbsorb := rfl
@[simp] theorem Dev.modAdapt_psram : (d.modAdapt u f).psram = d.psram := rfl
@[simp] theorem Dev.modAdapt_chans : (d.modAdapt u f).chans = d.chans := rfl
@[simp] theorem Dev.modAdapt_rings : (d.modAdapt u f).rings = d.rings := rfl
@[simp] theorem Dev.modAdapt_hot : (d.modAdapt u f).hot = d.hot := rfl
@[simp] theorem Dev.modAdapt_memRej : (d.modAdapt u f).memRej = d.memRej := rfl
@[simp] theorem Dev.modAdapt_dma : (d.modAdapt u f).dma = d.dma := rfl
@[simp] theorem Dev.modAdapt_ing : (d.modAdapt u f).ing = d.ing := rfl
@[simp] theorem Dev.modAdapt_route : (d.modAdapt u f).route = d.route := rfl
@[simp] theorem Dev.modAdapt_cal : (d.modAdapt u f).cal = d.cal := rfl
@[simp] theorem Dev.modAdapt_reports : (d.modAdapt u f).reports = d.reports := rfl
@[simp] theorem Dev.modAdapt_scales : (d.modAdapt u f).scales = d.scales := rfl
@[simp] theorem Dev.modAdapt_blockReps : (d.modAdapt u f).blockReps = d.blockReps := rfl
@[simp] theorem Dev.modAdapt_evt : (d.modAdapt u f).evt = d.evt := rfl
@[simp] theorem Dev.modAdapt_routs : (d.modAdapt u f).routs = d.routs := rfl
@[simp] theorem Dev.modAdapt_mbx : (d.modAdapt u f).mbx = d.mbx := rfl
@[simp] theorem Dev.modAdapt_card : (d.modAdapt u f).card = d.card := rfl
@[simp] theorem Dev.modAdapt_pwr : (d.modAdapt u f).pwr = d.pwr := rfl
@[simp] theorem Dev.modAdapt_dies : (d.modAdapt u f).dies = d.dies := rfl
@[simp] theorem Dev.modAdapt_doms : (d.modAdapt u f).doms = d.doms := rfl
@[simp] theorem Dev.modAdapt_health : (d.modAdapt u f).health = d.health := rfl
end

section
variable (d : Dev) (f : Cal → Cal)
@[simp] theorem Dev.modCal_l : (d.modCal f).l = d.l := rfl
@[simp] theorem Dev.modCal_die1 : (d.modCal f).die1 = d.die1 := rfl
@[simp] theorem Dev.modCal_pll : (d.modCal f).pll = d.pll := rfl
@[simp] theorem Dev.modCal_pins : (d.modCal f).pins = d.pins := rfl
@[simp] theorem Dev.modCal_time : (d.modCal f).time = d.time := rfl
@[simp] theorem Dev.modCal_ptpThirds : (d.modCal f).ptpThirds = d.ptpThirds := rfl
@[simp] theorem Dev.modCal_fresh : (d.modCal f).fresh = d.fresh := rfl
@[simp] theorem Dev.modCal_xptPage : (d.modCal f).xptPage = d.xptPage := rfl
@[simp] theorem Dev.modCal_xptWen : (d.modCal f).xptWen = d.xptWen := rfl
@[simp] theorem Dev.modCal_xptRej : (d.modCal f).xptRej = d.xptRej := rfl
@[simp] theorem Dev.modCal_cores : (d.modCal f).cores = d.cores := rfl
@[simp] theorem Dev.modCal_queues : (d.modCal f).queues = d.queues := rfl
@[simp] theorem Dev.modCal_clusters : (d.modCal f).clusters = d.clusters := rfl
@[simp] theorem Dev.modCal_parts : (d.modCal f).parts = d.parts := rfl
@[simp] theorem Dev.modCal_nets : (d.modCal f).nets = d.nets := rfl
@[simp] theorem Dev.modCal_map : (d.modCal f).map = d.map := rfl
@[simp] theorem Dev.modCal_packets : (d.modCal f).packets = d.packets := rfl
@[simp] theorem Dev.modCal_bridgeAbsorb : (d.modCal f).bridgeAbsorb = d.bridgeAbsorb := rfl
@[simp] theorem Dev.modCal_psram : (d.modCal f).psram = d.psram := rfl
@[simp] theorem Dev.modCal_chans : (d.modCal f).chans = d.chans := rfl
@[simp] theorem Dev.modCal_rings : (d.modCal f).rings = d.rings := rfl
@[simp] theorem Dev.modCal_hot : (d.modCal f).hot = d.hot := rfl
@[simp] theorem Dev.modCal_memRej : (d.modCal f).memRej = d.memRej := rfl
@[simp] theorem Dev.modCal_dma : (d.modCal f).dma = d.dma := rfl
@[simp] theorem Dev.modCal_ing : (d.modCal f).ing = d.ing := rfl
@[simp] theorem Dev.modCal_route : (d.modCal f).route = d.route := rfl
@[simp] theorem Dev.modCal_adapt : (d.modCal f).adapt = d.adapt := rfl
@[simp] theorem Dev.modCal_reports : (d.modCal f).reports = d.reports := rfl
@[simp] theorem Dev.modCal_scales : (d.modCal f).scales = d.scales := rfl
@[simp] theorem Dev.modCal_blockReps : (d.modCal f).blockReps = d.blockReps := rfl
@[simp] theorem Dev.modCal_evt : (d.modCal f).evt = d.evt := rfl
@[simp] theorem Dev.modCal_routs : (d.modCal f).routs = d.routs := rfl
@[simp] theorem Dev.modCal_mbx : (d.modCal f).mbx = d.mbx := rfl
@[simp] theorem Dev.modCal_card : (d.modCal f).card = d.card := rfl
@[simp] theorem Dev.modCal_pwr : (d.modCal f).pwr = d.pwr := rfl
@[simp] theorem Dev.modCal_dies : (d.modCal f).dies = d.dies := rfl
@[simp] theorem Dev.modCal_doms : (d.modCal f).doms = d.doms := rfl
@[simp] theorem Dev.modCal_health : (d.modCal f).health = d.health := rfl
end

section
variable (d : Dev) (f : Evt → Evt)
@[simp] theorem Dev.modEvt_l : (d.modEvt f).l = d.l := rfl
@[simp] theorem Dev.modEvt_die1 : (d.modEvt f).die1 = d.die1 := rfl
@[simp] theorem Dev.modEvt_pll : (d.modEvt f).pll = d.pll := rfl
@[simp] theorem Dev.modEvt_pins : (d.modEvt f).pins = d.pins := rfl
@[simp] theorem Dev.modEvt_time : (d.modEvt f).time = d.time := rfl
@[simp] theorem Dev.modEvt_ptpThirds : (d.modEvt f).ptpThirds = d.ptpThirds := rfl
@[simp] theorem Dev.modEvt_fresh : (d.modEvt f).fresh = d.fresh := rfl
@[simp] theorem Dev.modEvt_xptPage : (d.modEvt f).xptPage = d.xptPage := rfl
@[simp] theorem Dev.modEvt_xptWen : (d.modEvt f).xptWen = d.xptWen := rfl
@[simp] theorem Dev.modEvt_xptRej : (d.modEvt f).xptRej = d.xptRej := rfl
@[simp] theorem Dev.modEvt_cores : (d.modEvt f).cores = d.cores := rfl
@[simp] theorem Dev.modEvt_queues : (d.modEvt f).queues = d.queues := rfl
@[simp] theorem Dev.modEvt_clusters : (d.modEvt f).clusters = d.clusters := rfl
@[simp] theorem Dev.modEvt_parts : (d.modEvt f).parts = d.parts := rfl
@[simp] theorem Dev.modEvt_nets : (d.modEvt f).nets = d.nets := rfl
@[simp] theorem Dev.modEvt_map : (d.modEvt f).map = d.map := rfl
@[simp] theorem Dev.modEvt_packets : (d.modEvt f).packets = d.packets := rfl
@[simp] theorem Dev.modEvt_bridgeAbsorb : (d.modEvt f).bridgeAbsorb = d.bridgeAbsorb := rfl
@[simp] theorem Dev.modEvt_psram : (d.modEvt f).psram = d.psram := rfl
@[simp] theorem Dev.modEvt_chans : (d.modEvt f).chans = d.chans := rfl
@[simp] theorem Dev.modEvt_rings : (d.modEvt f).rings = d.rings := rfl
@[simp] theorem Dev.modEvt_hot : (d.modEvt f).hot = d.hot := rfl
@[simp] theorem Dev.modEvt_memRej : (d.modEvt f).memRej = d.memRej := rfl
@[simp] theorem Dev.modEvt_dma : (d.modEvt f).dma = d.dma := rfl
@[simp] theorem Dev.modEvt_ing : (d.modEvt f).ing = d.ing := rfl
@[simp] theorem Dev.modEvt_route : (d.modEvt f).route = d.route := rfl
@[simp] theorem Dev.modEvt_adapt : (d.modEvt f).adapt = d.adapt := rfl
@[simp] theorem Dev.modEvt_cal : (d.modEvt f).cal = d.cal := rfl
@[simp] theorem Dev.modEvt_reports : (d.modEvt f).reports = d.reports := rfl
@[simp] theorem Dev.modEvt_scales : (d.modEvt f).scales = d.scales := rfl
@[simp] theorem Dev.modEvt_blockReps : (d.modEvt f).blockReps = d.blockReps := rfl
@[simp] theorem Dev.modEvt_routs : (d.modEvt f).routs = d.routs := rfl
@[simp] theorem Dev.modEvt_mbx : (d.modEvt f).mbx = d.mbx := rfl
@[simp] theorem Dev.modEvt_card : (d.modEvt f).card = d.card := rfl
@[simp] theorem Dev.modEvt_pwr : (d.modEvt f).pwr = d.pwr := rfl
@[simp] theorem Dev.modEvt_dies : (d.modEvt f).dies = d.dies := rfl
@[simp] theorem Dev.modEvt_doms : (d.modEvt f).doms = d.doms := rfl
@[simp] theorem Dev.modEvt_health : (d.modEvt f).health = d.health := rfl
end

section
variable (d : Dev) (n : BitVec 6) (f : Rout → Rout)
@[simp] theorem Dev.modRout_l : (d.modRout n f).l = d.l := rfl
@[simp] theorem Dev.modRout_die1 : (d.modRout n f).die1 = d.die1 := rfl
@[simp] theorem Dev.modRout_pll : (d.modRout n f).pll = d.pll := rfl
@[simp] theorem Dev.modRout_pins : (d.modRout n f).pins = d.pins := rfl
@[simp] theorem Dev.modRout_time : (d.modRout n f).time = d.time := rfl
@[simp] theorem Dev.modRout_ptpThirds : (d.modRout n f).ptpThirds = d.ptpThirds := rfl
@[simp] theorem Dev.modRout_fresh : (d.modRout n f).fresh = d.fresh := rfl
@[simp] theorem Dev.modRout_xptPage : (d.modRout n f).xptPage = d.xptPage := rfl
@[simp] theorem Dev.modRout_xptWen : (d.modRout n f).xptWen = d.xptWen := rfl
@[simp] theorem Dev.modRout_xptRej : (d.modRout n f).xptRej = d.xptRej := rfl
@[simp] theorem Dev.modRout_cores : (d.modRout n f).cores = d.cores := rfl
@[simp] theorem Dev.modRout_queues : (d.modRout n f).queues = d.queues := rfl
@[simp] theorem Dev.modRout_clusters : (d.modRout n f).clusters = d.clusters := rfl
@[simp] theorem Dev.modRout_parts : (d.modRout n f).parts = d.parts := rfl
@[simp] theorem Dev.modRout_nets : (d.modRout n f).nets = d.nets := rfl
@[simp] theorem Dev.modRout_map : (d.modRout n f).map = d.map := rfl
@[simp] theorem Dev.modRout_packets : (d.modRout n f).packets = d.packets := rfl
@[simp] theorem Dev.modRout_bridgeAbsorb : (d.modRout n f).bridgeAbsorb = d.bridgeAbsorb := rfl
@[simp] theorem Dev.modRout_psram : (d.modRout n f).psram = d.psram := rfl
@[simp] theorem Dev.modRout_chans : (d.modRout n f).chans = d.chans := rfl
@[simp] theorem Dev.modRout_rings : (d.modRout n f).rings = d.rings := rfl
@[simp] theorem Dev.modRout_hot : (d.modRout n f).hot = d.hot := rfl
@[simp] theorem Dev.modRout_memRej : (d.modRout n f).memRej = d.memRej := rfl
@[simp] theorem Dev.modRout_dma : (d.modRout n f).dma = d.dma := rfl
@[simp] theorem Dev.modRout_ing : (d.modRout n f).ing = d.ing := rfl
@[simp] theorem Dev.modRout_route : (d.modRout n f).route = d.route := rfl
@[simp] theorem Dev.modRout_adapt : (d.modRout n f).adapt = d.adapt := rfl
@[simp] theorem Dev.modRout_cal : (d.modRout n f).cal = d.cal := rfl
@[simp] theorem Dev.modRout_reports : (d.modRout n f).reports = d.reports := rfl
@[simp] theorem Dev.modRout_scales : (d.modRout n f).scales = d.scales := rfl
@[simp] theorem Dev.modRout_blockReps : (d.modRout n f).blockReps = d.blockReps := rfl
@[simp] theorem Dev.modRout_evt : (d.modRout n f).evt = d.evt := rfl
@[simp] theorem Dev.modRout_mbx : (d.modRout n f).mbx = d.mbx := rfl
@[simp] theorem Dev.modRout_card : (d.modRout n f).card = d.card := rfl
@[simp] theorem Dev.modRout_pwr : (d.modRout n f).pwr = d.pwr := rfl
@[simp] theorem Dev.modRout_dies : (d.modRout n f).dies = d.dies := rfl
@[simp] theorem Dev.modRout_doms : (d.modRout n f).doms = d.doms := rfl
@[simp] theorem Dev.modRout_health : (d.modRout n f).health = d.health := rfl
end

section
variable (d : Dev) (f : Mbx → Mbx)
@[simp] theorem Dev.modMbx_l : (d.modMbx f).l = d.l := rfl
@[simp] theorem Dev.modMbx_die1 : (d.modMbx f).die1 = d.die1 := rfl
@[simp] theorem Dev.modMbx_pll : (d.modMbx f).pll = d.pll := rfl
@[simp] theorem Dev.modMbx_pins : (d.modMbx f).pins = d.pins := rfl
@[simp] theorem Dev.modMbx_time : (d.modMbx f).time = d.time := rfl
@[simp] theorem Dev.modMbx_ptpThirds : (d.modMbx f).ptpThirds = d.ptpThirds := rfl
@[simp] theorem Dev.modMbx_fresh : (d.modMbx f).fresh = d.fresh := rfl
@[simp] theorem Dev.modMbx_xptPage : (d.modMbx f).xptPage = d.xptPage := rfl
@[simp] theorem Dev.modMbx_xptWen : (d.modMbx f).xptWen = d.xptWen := rfl
@[simp] theorem Dev.modMbx_xptRej : (d.modMbx f).xptRej = d.xptRej := rfl
@[simp] theorem Dev.modMbx_cores : (d.modMbx f).cores = d.cores := rfl
@[simp] theorem Dev.modMbx_queues : (d.modMbx f).queues = d.queues := rfl
@[simp] theorem Dev.modMbx_clusters : (d.modMbx f).clusters = d.clusters := rfl
@[simp] theorem Dev.modMbx_parts : (d.modMbx f).parts = d.parts := rfl
@[simp] theorem Dev.modMbx_nets : (d.modMbx f).nets = d.nets := rfl
@[simp] theorem Dev.modMbx_map : (d.modMbx f).map = d.map := rfl
@[simp] theorem Dev.modMbx_packets : (d.modMbx f).packets = d.packets := rfl
@[simp] theorem Dev.modMbx_bridgeAbsorb : (d.modMbx f).bridgeAbsorb = d.bridgeAbsorb := rfl
@[simp] theorem Dev.modMbx_psram : (d.modMbx f).psram = d.psram := rfl
@[simp] theorem Dev.modMbx_chans : (d.modMbx f).chans = d.chans := rfl
@[simp] theorem Dev.modMbx_rings : (d.modMbx f).rings = d.rings := rfl
@[simp] theorem Dev.modMbx_hot : (d.modMbx f).hot = d.hot := rfl
@[simp] theorem Dev.modMbx_memRej : (d.modMbx f).memRej = d.memRej := rfl
@[simp] theorem Dev.modMbx_dma : (d.modMbx f).dma = d.dma := rfl
@[simp] theorem Dev.modMbx_ing : (d.modMbx f).ing = d.ing := rfl
@[simp] theorem Dev.modMbx_route : (d.modMbx f).route = d.route := rfl
@[simp] theorem Dev.modMbx_adapt : (d.modMbx f).adapt = d.adapt := rfl
@[simp] theorem Dev.modMbx_cal : (d.modMbx f).cal = d.cal := rfl
@[simp] theorem Dev.modMbx_reports : (d.modMbx f).reports = d.reports := rfl
@[simp] theorem Dev.modMbx_scales : (d.modMbx f).scales = d.scales := rfl
@[simp] theorem Dev.modMbx_blockReps : (d.modMbx f).blockReps = d.blockReps := rfl
@[simp] theorem Dev.modMbx_evt : (d.modMbx f).evt = d.evt := rfl
@[simp] theorem Dev.modMbx_routs : (d.modMbx f).routs = d.routs := rfl
@[simp] theorem Dev.modMbx_card : (d.modMbx f).card = d.card := rfl
@[simp] theorem Dev.modMbx_pwr : (d.modMbx f).pwr = d.pwr := rfl
@[simp] theorem Dev.modMbx_dies : (d.modMbx f).dies = d.dies := rfl
@[simp] theorem Dev.modMbx_doms : (d.modMbx f).doms = d.doms := rfl
@[simp] theorem Dev.modMbx_health : (d.modMbx f).health = d.health := rfl
end

section
variable (d : Dev) (f : Card → Card)
@[simp] theorem Dev.modCard_l : (d.modCard f).l = d.l := rfl
@[simp] theorem Dev.modCard_die1 : (d.modCard f).die1 = d.die1 := rfl
@[simp] theorem Dev.modCard_pll : (d.modCard f).pll = d.pll := rfl
@[simp] theorem Dev.modCard_pins : (d.modCard f).pins = d.pins := rfl
@[simp] theorem Dev.modCard_time : (d.modCard f).time = d.time := rfl
@[simp] theorem Dev.modCard_ptpThirds : (d.modCard f).ptpThirds = d.ptpThirds := rfl
@[simp] theorem Dev.modCard_fresh : (d.modCard f).fresh = d.fresh := rfl
@[simp] theorem Dev.modCard_xptPage : (d.modCard f).xptPage = d.xptPage := rfl
@[simp] theorem Dev.modCard_xptWen : (d.modCard f).xptWen = d.xptWen := rfl
@[simp] theorem Dev.modCard_xptRej : (d.modCard f).xptRej = d.xptRej := rfl
@[simp] theorem Dev.modCard_cores : (d.modCard f).cores = d.cores := rfl
@[simp] theorem Dev.modCard_queues : (d.modCard f).queues = d.queues := rfl
@[simp] theorem Dev.modCard_clusters : (d.modCard f).clusters = d.clusters := rfl
@[simp] theorem Dev.modCard_parts : (d.modCard f).parts = d.parts := rfl
@[simp] theorem Dev.modCard_nets : (d.modCard f).nets = d.nets := rfl
@[simp] theorem Dev.modCard_map : (d.modCard f).map = d.map := rfl
@[simp] theorem Dev.modCard_packets : (d.modCard f).packets = d.packets := rfl
@[simp] theorem Dev.modCard_bridgeAbsorb : (d.modCard f).bridgeAbsorb = d.bridgeAbsorb := rfl
@[simp] theorem Dev.modCard_psram : (d.modCard f).psram = d.psram := rfl
@[simp] theorem Dev.modCard_chans : (d.modCard f).chans = d.chans := rfl
@[simp] theorem Dev.modCard_rings : (d.modCard f).rings = d.rings := rfl
@[simp] theorem Dev.modCard_hot : (d.modCard f).hot = d.hot := rfl
@[simp] theorem Dev.modCard_memRej : (d.modCard f).memRej = d.memRej := rfl
@[simp] theorem Dev.modCard_dma : (d.modCard f).dma = d.dma := rfl
@[simp] theorem Dev.modCard_ing : (d.modCard f).ing = d.ing := rfl
@[simp] theorem Dev.modCard_route : (d.modCard f).route = d.route := rfl
@[simp] theorem Dev.modCard_adapt : (d.modCard f).adapt = d.adapt := rfl
@[simp] theorem Dev.modCard_cal : (d.modCard f).cal = d.cal := rfl
@[simp] theorem Dev.modCard_reports : (d.modCard f).reports = d.reports := rfl
@[simp] theorem Dev.modCard_scales : (d.modCard f).scales = d.scales := rfl
@[simp] theorem Dev.modCard_blockReps : (d.modCard f).blockReps = d.blockReps := rfl
@[simp] theorem Dev.modCard_evt : (d.modCard f).evt = d.evt := rfl
@[simp] theorem Dev.modCard_routs : (d.modCard f).routs = d.routs := rfl
@[simp] theorem Dev.modCard_mbx : (d.modCard f).mbx = d.mbx := rfl
@[simp] theorem Dev.modCard_pwr : (d.modCard f).pwr = d.pwr := rfl
@[simp] theorem Dev.modCard_dies : (d.modCard f).dies = d.dies := rfl
@[simp] theorem Dev.modCard_doms : (d.modCard f).doms = d.doms := rfl
@[simp] theorem Dev.modCard_health : (d.modCard f).health = d.health := rfl
end

section
variable (d : Dev) (f : Pwr → Pwr)
@[simp] theorem Dev.modPwr_l : (d.modPwr f).l = d.l := rfl
@[simp] theorem Dev.modPwr_die1 : (d.modPwr f).die1 = d.die1 := rfl
@[simp] theorem Dev.modPwr_pll : (d.modPwr f).pll = d.pll := rfl
@[simp] theorem Dev.modPwr_pins : (d.modPwr f).pins = d.pins := rfl
@[simp] theorem Dev.modPwr_time : (d.modPwr f).time = d.time := rfl
@[simp] theorem Dev.modPwr_ptpThirds : (d.modPwr f).ptpThirds = d.ptpThirds := rfl
@[simp] theorem Dev.modPwr_fresh : (d.modPwr f).fresh = d.fresh := rfl
@[simp] theorem Dev.modPwr_xptPage : (d.modPwr f).xptPage = d.xptPage := rfl
@[simp] theorem Dev.modPwr_xptWen : (d.modPwr f).xptWen = d.xptWen := rfl
@[simp] theorem Dev.modPwr_xptRej : (d.modPwr f).xptRej = d.xptRej := rfl
@[simp] theorem Dev.modPwr_cores : (d.modPwr f).cores = d.cores := rfl
@[simp] theorem Dev.modPwr_queues : (d.modPwr f).queues = d.queues := rfl
@[simp] theorem Dev.modPwr_clusters : (d.modPwr f).clusters = d.clusters := rfl
@[simp] theorem Dev.modPwr_parts : (d.modPwr f).parts = d.parts := rfl
@[simp] theorem Dev.modPwr_nets : (d.modPwr f).nets = d.nets := rfl
@[simp] theorem Dev.modPwr_map : (d.modPwr f).map = d.map := rfl
@[simp] theorem Dev.modPwr_packets : (d.modPwr f).packets = d.packets := rfl
@[simp] theorem Dev.modPwr_bridgeAbsorb : (d.modPwr f).bridgeAbsorb = d.bridgeAbsorb := rfl
@[simp] theorem Dev.modPwr_psram : (d.modPwr f).psram = d.psram := rfl
@[simp] theorem Dev.modPwr_chans : (d.modPwr f).chans = d.chans := rfl
@[simp] theorem Dev.modPwr_rings : (d.modPwr f).rings = d.rings := rfl
@[simp] theorem Dev.modPwr_hot : (d.modPwr f).hot = d.hot := rfl
@[simp] theorem Dev.modPwr_memRej : (d.modPwr f).memRej = d.memRej := rfl
@[simp] theorem Dev.modPwr_dma : (d.modPwr f).dma = d.dma := rfl
@[simp] theorem Dev.modPwr_ing : (d.modPwr f).ing = d.ing := rfl
@[simp] theorem Dev.modPwr_route : (d.modPwr f).route = d.route := rfl
@[simp] theorem Dev.modPwr_adapt : (d.modPwr f).adapt = d.adapt := rfl
@[simp] theorem Dev.modPwr_cal : (d.modPwr f).cal = d.cal := rfl
@[simp] theorem Dev.modPwr_reports : (d.modPwr f).reports = d.reports := rfl
@[simp] theorem Dev.modPwr_scales : (d.modPwr f).scales = d.scales := rfl
@[simp] theorem Dev.modPwr_blockReps : (d.modPwr f).blockReps = d.blockReps := rfl
@[simp] theorem Dev.modPwr_evt : (d.modPwr f).evt = d.evt := rfl
@[simp] theorem Dev.modPwr_routs : (d.modPwr f).routs = d.routs := rfl
@[simp] theorem Dev.modPwr_mbx : (d.modPwr f).mbx = d.mbx := rfl
@[simp] theorem Dev.modPwr_card : (d.modPwr f).card = d.card := rfl
@[simp] theorem Dev.modPwr_dies : (d.modPwr f).dies = d.dies := rfl
@[simp] theorem Dev.modPwr_doms : (d.modPwr f).doms = d.doms := rfl
@[simp] theorem Dev.modPwr_health : (d.modPwr f).health = d.health := rfl
end

section
variable (d : Dev) (f : Health → Health)
@[simp] theorem Dev.modHealth_l : (d.modHealth f).l = d.l := rfl
@[simp] theorem Dev.modHealth_die1 : (d.modHealth f).die1 = d.die1 := rfl
@[simp] theorem Dev.modHealth_pll : (d.modHealth f).pll = d.pll := rfl
@[simp] theorem Dev.modHealth_pins : (d.modHealth f).pins = d.pins := rfl
@[simp] theorem Dev.modHealth_time : (d.modHealth f).time = d.time := rfl
@[simp] theorem Dev.modHealth_ptpThirds : (d.modHealth f).ptpThirds = d.ptpThirds := rfl
@[simp] theorem Dev.modHealth_fresh : (d.modHealth f).fresh = d.fresh := rfl
@[simp] theorem Dev.modHealth_xptPage : (d.modHealth f).xptPage = d.xptPage := rfl
@[simp] theorem Dev.modHealth_xptWen : (d.modHealth f).xptWen = d.xptWen := rfl
@[simp] theorem Dev.modHealth_xptRej : (d.modHealth f).xptRej = d.xptRej := rfl
@[simp] theorem Dev.modHealth_cores : (d.modHealth f).cores = d.cores := rfl
@[simp] theorem Dev.modHealth_queues : (d.modHealth f).queues = d.queues := rfl
@[simp] theorem Dev.modHealth_clusters : (d.modHealth f).clusters = d.clusters := rfl
@[simp] theorem Dev.modHealth_parts : (d.modHealth f).parts = d.parts := rfl
@[simp] theorem Dev.modHealth_nets : (d.modHealth f).nets = d.nets := rfl
@[simp] theorem Dev.modHealth_map : (d.modHealth f).map = d.map := rfl
@[simp] theorem Dev.modHealth_packets : (d.modHealth f).packets = d.packets := rfl
@[simp] theorem Dev.modHealth_bridgeAbsorb : (d.modHealth f).bridgeAbsorb = d.bridgeAbsorb := rfl
@[simp] theorem Dev.modHealth_psram : (d.modHealth f).psram = d.psram := rfl
@[simp] theorem Dev.modHealth_chans : (d.modHealth f).chans = d.chans := rfl
@[simp] theorem Dev.modHealth_rings : (d.modHealth f).rings = d.rings := rfl
@[simp] theorem Dev.modHealth_hot : (d.modHealth f).hot = d.hot := rfl
@[simp] theorem Dev.modHealth_memRej : (d.modHealth f).memRej = d.memRej := rfl
@[simp] theorem Dev.modHealth_dma : (d.modHealth f).dma = d.dma := rfl
@[simp] theorem Dev.modHealth_ing : (d.modHealth f).ing = d.ing := rfl
@[simp] theorem Dev.modHealth_route : (d.modHealth f).route = d.route := rfl
@[simp] theorem Dev.modHealth_adapt : (d.modHealth f).adapt = d.adapt := rfl
@[simp] theorem Dev.modHealth_cal : (d.modHealth f).cal = d.cal := rfl
@[simp] theorem Dev.modHealth_reports : (d.modHealth f).reports = d.reports := rfl
@[simp] theorem Dev.modHealth_scales : (d.modHealth f).scales = d.scales := rfl
@[simp] theorem Dev.modHealth_blockReps : (d.modHealth f).blockReps = d.blockReps := rfl
@[simp] theorem Dev.modHealth_evt : (d.modHealth f).evt = d.evt := rfl
@[simp] theorem Dev.modHealth_routs : (d.modHealth f).routs = d.routs := rfl
@[simp] theorem Dev.modHealth_mbx : (d.modHealth f).mbx = d.mbx := rfl
@[simp] theorem Dev.modHealth_card : (d.modHealth f).card = d.card := rfl
@[simp] theorem Dev.modHealth_pwr : (d.modHealth f).pwr = d.pwr := rfl
@[simp] theorem Dev.modHealth_dies : (d.modHealth f).dies = d.dies := rfl
@[simp] theorem Dev.modHealth_doms : (d.modHealth f).doms = d.doms := rfl
end

section
variable (d : Dev) (code : W16) (aux : Byte) (args : List W32)
@[simp] theorem Dev.raiseAux_l : (d.raiseAux code aux args).l = d.l := rfl
@[simp] theorem Dev.raiseAux_die1 : (d.raiseAux code aux args).die1 = d.die1 := rfl
@[simp] theorem Dev.raiseAux_pll : (d.raiseAux code aux args).pll = d.pll := rfl
@[simp] theorem Dev.raiseAux_pins : (d.raiseAux code aux args).pins = d.pins := rfl
@[simp] theorem Dev.raiseAux_time : (d.raiseAux code aux args).time = d.time := rfl
@[simp] theorem Dev.raiseAux_ptpThirds : (d.raiseAux code aux args).ptpThirds = d.ptpThirds := rfl
@[simp] theorem Dev.raiseAux_fresh : (d.raiseAux code aux args).fresh = d.fresh := rfl
@[simp] theorem Dev.raiseAux_xptPage : (d.raiseAux code aux args).xptPage = d.xptPage := rfl
@[simp] theorem Dev.raiseAux_xptWen : (d.raiseAux code aux args).xptWen = d.xptWen := rfl
@[simp] theorem Dev.raiseAux_xptRej : (d.raiseAux code aux args).xptRej = d.xptRej := rfl
@[simp] theorem Dev.raiseAux_cores : (d.raiseAux code aux args).cores = d.cores := rfl
@[simp] theorem Dev.raiseAux_queues : (d.raiseAux code aux args).queues = d.queues := rfl
@[simp] theorem Dev.raiseAux_clusters : (d.raiseAux code aux args).clusters = d.clusters := rfl
@[simp] theorem Dev.raiseAux_parts : (d.raiseAux code aux args).parts = d.parts := rfl
@[simp] theorem Dev.raiseAux_nets : (d.raiseAux code aux args).nets = d.nets := rfl
@[simp] theorem Dev.raiseAux_map : (d.raiseAux code aux args).map = d.map := rfl
@[simp] theorem Dev.raiseAux_packets : (d.raiseAux code aux args).packets = d.packets := rfl
@[simp] theorem Dev.raiseAux_bridgeAbsorb : (d.raiseAux code aux args).bridgeAbsorb = d.bridgeAbsorb := rfl
@[simp] theorem Dev.raiseAux_psram : (d.raiseAux code aux args).psram = d.psram := rfl
@[simp] theorem Dev.raiseAux_chans : (d.raiseAux code aux args).chans = d.chans := rfl
@[simp] theorem Dev.raiseAux_rings : (d.raiseAux code aux args).rings = d.rings := rfl
@[simp] theorem Dev.raiseAux_hot : (d.raiseAux code aux args).hot = d.hot := rfl
@[simp] theorem Dev.raiseAux_memRej : (d.raiseAux code aux args).memRej = d.memRej := rfl
@[simp] theorem Dev.raiseAux_dma : (d.raiseAux code aux args).dma = d.dma := rfl
@[simp] theorem Dev.raiseAux_ing : (d.raiseAux code aux args).ing = d.ing := rfl
@[simp] theorem Dev.raiseAux_route : (d.raiseAux code aux args).route = d.route := rfl
@[simp] theorem Dev.raiseAux_adapt : (d.raiseAux code aux args).adapt = d.adapt := rfl
@[simp] theorem Dev.raiseAux_cal : (d.raiseAux code aux args).cal = d.cal := rfl
@[simp] theorem Dev.raiseAux_reports : (d.raiseAux code aux args).reports = d.reports := rfl
@[simp] theorem Dev.raiseAux_scales : (d.raiseAux code aux args).scales = d.scales := rfl
@[simp] theorem Dev.raiseAux_blockReps : (d.raiseAux code aux args).blockReps = d.blockReps := rfl
@[simp] theorem Dev.raiseAux_routs : (d.raiseAux code aux args).routs = d.routs := rfl
@[simp] theorem Dev.raiseAux_mbx : (d.raiseAux code aux args).mbx = d.mbx := rfl
@[simp] theorem Dev.raiseAux_card : (d.raiseAux code aux args).card = d.card := rfl
@[simp] theorem Dev.raiseAux_pwr : (d.raiseAux code aux args).pwr = d.pwr := rfl
@[simp] theorem Dev.raiseAux_dies : (d.raiseAux code aux args).dies = d.dies := rfl
@[simp] theorem Dev.raiseAux_doms : (d.raiseAux code aux args).doms = d.doms := rfl
@[simp] theorem Dev.raiseAux_health : (d.raiseAux code aux args).health = d.health := rfl
end

section
variable (d : Dev) (code : W16) (p : PartId) (args : List W32)
@[simp] theorem Dev.raise_l : (d.raise code p args).l = d.l := rfl
@[simp] theorem Dev.raise_die1 : (d.raise code p args).die1 = d.die1 := rfl
@[simp] theorem Dev.raise_pll : (d.raise code p args).pll = d.pll := rfl
@[simp] theorem Dev.raise_pins : (d.raise code p args).pins = d.pins := rfl
@[simp] theorem Dev.raise_time : (d.raise code p args).time = d.time := rfl
@[simp] theorem Dev.raise_ptpThirds : (d.raise code p args).ptpThirds = d.ptpThirds := rfl
@[simp] theorem Dev.raise_fresh : (d.raise code p args).fresh = d.fresh := rfl
@[simp] theorem Dev.raise_xptPage : (d.raise code p args).xptPage = d.xptPage := rfl
@[simp] theorem Dev.raise_xptWen : (d.raise code p args).xptWen = d.xptWen := rfl
@[simp] theorem Dev.raise_xptRej : (d.raise code p args).xptRej = d.xptRej := rfl
@[simp] theorem Dev.raise_cores : (d.raise code p args).cores = d.cores := rfl
@[simp] theorem Dev.raise_queues : (d.raise code p args).queues = d.queues := rfl
@[simp] theorem Dev.raise_clusters : (d.raise code p args).clusters = d.clusters := rfl
@[simp] theorem Dev.raise_parts : (d.raise code p args).parts = d.parts := rfl
@[simp] theorem Dev.raise_nets : (d.raise code p args).nets = d.nets := rfl
@[simp] theorem Dev.raise_map : (d.raise code p args).map = d.map := rfl
@[simp] theorem Dev.raise_packets : (d.raise code p args).packets = d.packets := rfl
@[simp] theorem Dev.raise_bridgeAbsorb : (d.raise code p args).bridgeAbsorb = d.bridgeAbsorb := rfl
@[simp] theorem Dev.raise_psram : (d.raise code p args).psram = d.psram := rfl
@[simp] theorem Dev.raise_chans : (d.raise code p args).chans = d.chans := rfl
@[simp] theorem Dev.raise_rings : (d.raise code p args).rings = d.rings := rfl
@[simp] theorem Dev.raise_hot : (d.raise code p args).hot = d.hot := rfl
@[simp] theorem Dev.raise_memRej : (d.raise code p args).memRej = d.memRej := rfl
@[simp] theorem Dev.raise_dma : (d.raise code p args).dma = d.dma := rfl
@[simp] theorem Dev.raise_ing : (d.raise code p args).ing = d.ing := rfl
@[simp] theorem Dev.raise_route : (d.raise code p args).route = d.route := rfl
@[simp] theorem Dev.raise_adapt : (d.raise code p args).adapt = d.adapt := rfl
@[simp] theorem Dev.raise_cal : (d.raise code p args).cal = d.cal := rfl
@[simp] theorem Dev.raise_reports : (d.raise code p args).reports = d.reports := rfl
@[simp] theorem Dev.raise_scales : (d.raise code p args).scales = d.scales := rfl
@[simp] theorem Dev.raise_blockReps : (d.raise code p args).blockReps = d.blockReps := rfl
@[simp] theorem Dev.raise_routs : (d.raise code p args).routs = d.routs := rfl
@[simp] theorem Dev.raise_mbx : (d.raise code p args).mbx = d.mbx := rfl
@[simp] theorem Dev.raise_card : (d.raise code p args).card = d.card := rfl
@[simp] theorem Dev.raise_pwr : (d.raise code p args).pwr = d.pwr := rfl
@[simp] theorem Dev.raise_dies : (d.raise code p args).dies = d.dies := rfl
@[simp] theorem Dev.raise_doms : (d.raise code p args).doms = d.doms := rfl
@[simp] theorem Dev.raise_health : (d.raise code p args).health = d.health := rfl
end

section
variable (d : Dev) (code : W16) (args : List W32)
@[simp] theorem Dev.raise0_l : (d.raise0 code args).l = d.l := rfl
@[simp] theorem Dev.raise0_die1 : (d.raise0 code args).die1 = d.die1 := rfl
@[simp] theorem Dev.raise0_pll : (d.raise0 code args).pll = d.pll := rfl
@[simp] theorem Dev.raise0_pins : (d.raise0 code args).pins = d.pins := rfl
@[simp] theorem Dev.raise0_time : (d.raise0 code args).time = d.time := rfl
@[simp] theorem Dev.raise0_ptpThirds : (d.raise0 code args).ptpThirds = d.ptpThirds := rfl
@[simp] theorem Dev.raise0_fresh : (d.raise0 code args).fresh = d.fresh := rfl
@[simp] theorem Dev.raise0_xptPage : (d.raise0 code args).xptPage = d.xptPage := rfl
@[simp] theorem Dev.raise0_xptWen : (d.raise0 code args).xptWen = d.xptWen := rfl
@[simp] theorem Dev.raise0_xptRej : (d.raise0 code args).xptRej = d.xptRej := rfl
@[simp] theorem Dev.raise0_cores : (d.raise0 code args).cores = d.cores := rfl
@[simp] theorem Dev.raise0_queues : (d.raise0 code args).queues = d.queues := rfl
@[simp] theorem Dev.raise0_clusters : (d.raise0 code args).clusters = d.clusters := rfl
@[simp] theorem Dev.raise0_parts : (d.raise0 code args).parts = d.parts := rfl
@[simp] theorem Dev.raise0_nets : (d.raise0 code args).nets = d.nets := rfl
@[simp] theorem Dev.raise0_map : (d.raise0 code args).map = d.map := rfl
@[simp] theorem Dev.raise0_packets : (d.raise0 code args).packets = d.packets := rfl
@[simp] theorem Dev.raise0_bridgeAbsorb : (d.raise0 code args).bridgeAbsorb = d.bridgeAbsorb := rfl
@[simp] theorem Dev.raise0_psram : (d.raise0 code args).psram = d.psram := rfl
@[simp] theorem Dev.raise0_chans : (d.raise0 code args).chans = d.chans := rfl
@[simp] theorem Dev.raise0_rings : (d.raise0 code args).rings = d.rings := rfl
@[simp] theorem Dev.raise0_hot : (d.raise0 code args).hot = d.hot := rfl
@[simp] theorem Dev.raise0_memRej : (d.raise0 code args).memRej = d.memRej := rfl
@[simp] theorem Dev.raise0_dma : (d.raise0 code args).dma = d.dma := rfl
@[simp] theorem Dev.raise0_ing : (d.raise0 code args).ing = d.ing := rfl
@[simp] theorem Dev.raise0_route : (d.raise0 code args).route = d.route := rfl
@[simp] theorem Dev.raise0_adapt : (d.raise0 code args).adapt = d.adapt := rfl
@[simp] theorem Dev.raise0_cal : (d.raise0 code args).cal = d.cal := rfl
@[simp] theorem Dev.raise0_reports : (d.raise0 code args).reports = d.reports := rfl
@[simp] theorem Dev.raise0_scales : (d.raise0 code args).scales = d.scales := rfl
@[simp] theorem Dev.raise0_blockReps : (d.raise0 code args).blockReps = d.blockReps := rfl
@[simp] theorem Dev.raise0_routs : (d.raise0 code args).routs = d.routs := rfl
@[simp] theorem Dev.raise0_mbx : (d.raise0 code args).mbx = d.mbx := rfl
@[simp] theorem Dev.raise0_card : (d.raise0 code args).card = d.card := rfl
@[simp] theorem Dev.raise0_pwr : (d.raise0 code args).pwr = d.pwr := rfl
@[simp] theorem Dev.raise0_dies : (d.raise0 code args).dies = d.dies := rfl
@[simp] theorem Dev.raise0_doms : (d.raise0 code args).doms = d.doms := rfl
@[simp] theorem Dev.raise0_health : (d.raise0 code args).health = d.health := rfl
end

/-! ## Reading a unit after an update -/

/-- `modCore` changes the unit that it names and no other. -/
theorem Dev.core_modCore (d : Dev) (c c' : CoreId) (f : Core → Core) :
    (d.modCore c f).core c' = if c = c' then f (d.core c) else d.core c' := by
  by_cases h : c = c'
  · subst h; simp [Dev.core, Dev.modCore]
  · have h' : c.toNat ≠ c'.toNat := fun e => h (BitVec.eq_of_toNat_eq e)
    simp [Dev.core, Dev.modCore, h, tblGet_mod_other _ _ _ h']
@[simp] theorem Dev.core_modCore_same (d : Dev) (c : CoreId) (f : Core → Core) : (d.modCore c f).core c = f (d.core c) := by
  simp [Dev.core_modCore]

/-- `modQueue` changes the unit that it names and no other. -/
theorem Dev.queue_modQueue (d : Dev) (q q' : QueueId) (f : Queue → Queue) :
    (d.modQueue q f).queue q' = if q = q' then f (d.queue q) else d.queue q' := by
  by_cases h : q = q'
  · subst h; simp [Dev.queue, Dev.modQueue]
  · have h' : q.toNat ≠ q'.toNat := fun e => h (BitVec.eq_of_toNat_eq e)
    simp [Dev.queue, Dev.modQueue, h, tblGet_mod_other _ _ _ h']
@[simp] theorem Dev.queue_modQueue_same (d : Dev) (q : QueueId) (f : Queue → Queue) : (d.modQueue q f).queue q = f (d.queue q) := by
  simp [Dev.queue_modQueue]

/-- `modPart` changes the unit that it names and no other. -/
theorem Dev.part_modPart (d : Dev) (p p' : PartId) (f : Partition → Partition) :
    (d.modPart p f).part p' = if p = p' then f (d.part p) else d.part p' := by
  by_cases h : p = p'
  · subst h; simp [Dev.part, Dev.modPart]
  · have h' : p.toNat ≠ p'.toNat := fun e => h (BitVec.eq_of_toNat_eq e)
    simp [Dev.part, Dev.modPart, h, tblGet_mod_other _ _ _ h']
@[simp] theorem Dev.part_modPart_same (d : Dev) (p : PartId) (f : Partition → Partition) : (d.modPart p f).part p = f (d.part p) := by
  simp [Dev.part_modPart]

/-- `modNet` changes the unit that it names and no other. -/
theorem Dev.net_modNet (d : Dev) (n n' : NetId) (f : Network → Network) :
    (d.modNet n f).net n' = if n = n' then f (d.net n) else d.net n' := by
  by_cases h : n = n'
  · subst h; simp [Dev.net, Dev.modNet]
  · have h' : n.toNat ≠ n'.toNat := fun e => h (BitVec.eq_of_toNat_eq e)
    simp [Dev.net, Dev.modNet, h, tblGet_mod_other _ _ _ h']
@[simp] theorem Dev.net_modNet_same (d : Dev) (n : NetId) (f : Network → Network) : (d.modNet n f).net n = f (d.net n) := by
  simp [Dev.net_modNet]

/-- `modCluster` changes the unit that it names and no other. -/
theorem Dev.cluster_modCluster (d : Dev) (c c' : ClusterId) (f : Cluster → Cluster) :
    (d.modCluster c f).cluster c' = if c = c' then f (d.cluster c) else d.cluster c' := by
  by_cases h : c = c'
  · subst h; simp [Dev.cluster, Dev.modCluster]
  · have h' : c.toNat ≠ c'.toNat := fun e => h (BitVec.eq_of_toNat_eq e)
    simp [Dev.cluster, Dev.modCluster, h, tblGet_mod_other _ _ _ h']
@[simp] theorem Dev.cluster_modCluster_same (d : Dev) (c : ClusterId) (f : Cluster → Cluster) : (d.modCluster c f).cluster c = f (d.cluster c) := by
  simp [Dev.cluster_modCluster]

/-- `modDma` changes the unit that it names and no other. -/
theorem Dev.dmaCh_modDma (d : Dev) (n n' : BitVec 6) (f : DmaChan → DmaChan) :
    (d.modDma n f).dmaCh n' = if n = n' then f (d.dmaCh n) else d.dmaCh n' := by
  by_cases h : n = n'
  · subst h; simp [Dev.dmaCh, Dev.modDma]
  · have h' : n.toNat ≠ n'.toNat := fun e => h (BitVec.eq_of_toNat_eq e)
    simp [Dev.dmaCh, Dev.modDma, h, tblGet_mod_other _ _ _ h']
@[simp] theorem Dev.dmaCh_modDma_same (d : Dev) (n : BitVec 6) (f : DmaChan → DmaChan) : (d.modDma n f).dmaCh n = f (d.dmaCh n) := by
  simp [Dev.dmaCh_modDma]

/-- `modRout` changes the unit that it names and no other. -/
theorem Dev.rout_modRout (d : Dev) (n n' : BitVec 6) (f : Rout → Rout) :
    (d.modRout n f).rout n' = if n = n' then f (d.rout n) else d.rout n' := by
  by_cases h : n = n'
  · subst h; simp [Dev.rout, Dev.modRout]
  · have h' : n.toNat ≠ n'.toNat := fun e => h (BitVec.eq_of_toNat_eq e)
    simp [Dev.rout, Dev.modRout, h, tblGet_mod_other _ _ _ h']
@[simp] theorem Dev.rout_modRout_same (d : Dev) (n : BitVec 6) (f : Rout → Rout) : (d.modRout n f).rout n = f (d.rout n) := by
  simp [Dev.rout_modRout]

/-- `modAdapt` changes the unit that it names and no other. -/
theorem Dev.adaptU_modAdapt (d : Dev) (u u' : BitVec 2) (f : Adapt → Adapt) :
    (d.modAdapt u f).adaptU u' = if u = u' then f (d.adaptU u) else d.adaptU u' := by
  by_cases h : u = u'
  · subst h; simp [Dev.adaptU, Dev.modAdapt]
  · have h' : u.toNat ≠ u'.toNat := fun e => h (BitVec.eq_of_toNat_eq e)
    simp [Dev.adaptU, Dev.modAdapt, h, tblGet_mod_other _ _ _ h']
@[simp] theorem Dev.adaptU_modAdapt_same (d : Dev) (u : BitVec 2) (f : Adapt → Adapt) : (d.modAdapt u f).adaptU u = f (d.adaptU u) := by
  simp [Dev.adaptU_modAdapt]

/-- `modLane` changes the unit that it names and no other. -/
theorem Dev.lane_modLane (d : Dev) (l l' : PartId) (f : Lane → Lane) :
    (d.modLane l f).lane l' = if l = l' then f (d.lane l) else d.lane l' := by
  by_cases h : l = l'
  · subst h; simp [Dev.lane, Dev.modLane, Dev.modIng]
  · have h' : l.toNat ≠ l'.toNat := fun e => h (BitVec.eq_of_toNat_eq e)
    simp [Dev.lane, Dev.modLane, Dev.modIng, h, tblGet_mod_other _ _ _ h']
@[simp] theorem Dev.lane_modLane_same (d : Dev) (l : PartId) (f : Lane → Lane) : (d.modLane l f).lane l = f (d.lane l) := by
  simp [Dev.lane_modLane]

/-- `modCtx` changes the unit that it names and no other. -/
theorem Dev.ctx_modCtx (d : Dev) (c c' : BitVec 10) (f : Context → Context) :
    (d.modCtx c f).ctx c' = if c = c' then f (d.ctx c) else d.ctx c' := by
  by_cases h : c = c'
  · subst h; simp [Dev.ctx, Dev.modCtx, Dev.modIng]
  · have h' : c.toNat ≠ c'.toNat := fun e => h (BitVec.eq_of_toNat_eq e)
    simp [Dev.ctx, Dev.modCtx, Dev.modIng, h, tblGet_mod_other _ _ _ h']
@[simp] theorem Dev.ctx_modCtx_same (d : Dev) (c : BitVec 10) (f : Context → Context) : (d.modCtx c f).ctx c = f (d.ctx c) := by
  simp [Dev.ctx_modCtx]

/-- `modDie` changes the unit that it names and no other. -/
theorem Dev.die_modDie (d : Dev) (i j : Nat) (f : Die → Die) :
    (d.modDie i f).die j = if i = j then f (d.die i) else d.die j := by
  by_cases h : i = j
  · subst h; simp [Dev.die, Dev.modDie]
  · simp [Dev.die, Dev.modDie, h, tblGet_mod_other _ _ _ h]
@[simp] theorem Dev.die_modDie_same (d : Dev) (i : Nat) (f : Die → Die) : (d.modDie i f).die i = f (d.die i) := by
  simp [Dev.die_modDie]

/-- `modChan` changes the unit that it names and no other. -/
theorem Dev.chan_modChan (d : Dev) (i j : Nat) (f : Channel → Channel) :
    (d.modChan i f).chan j = if i = j then f (d.chan i) else d.chan j := by
  by_cases h : i = j
  · subst h; simp [Dev.chan, Dev.modChan]
  · simp [Dev.chan, Dev.modChan, h, tblGet_mod_other _ _ _ h]
@[simp] theorem Dev.chan_modChan_same (d : Dev) (i : Nat) (f : Channel → Channel) : (d.modChan i f).chan i = f (d.chan i) := by
  simp [Dev.chan_modChan]

/-- `modRing` changes the unit that it names and no other. -/
theorem Dev.ring_modRing (d : Dev) (i j : Nat) (f : Ring → Ring) :
    (d.modRing i f).ring j = if i = j then f (d.ring i) else d.ring j := by
  by_cases h : i = j
  · subst h; simp [Dev.ring, Dev.modRing]
  · simp [Dev.ring, Dev.modRing, h, tblGet_mod_other _ _ _ h]
@[simp] theorem Dev.ring_modRing_same (d : Dev) (i : Nat) (f : Ring → Ring) : (d.modRing i f).ring i = f (d.ring i) := by
  simp [Dev.ring_modRing]

/-! ## Units that an update of another kind leaves -/

section
variable (d : Dev) (c : CoreId) (f : Core → Core)
@[simp] theorem Dev.modCore_queue_other (x : QueueId) : (d.modCore c f).queue x = d.queue x := rfl
@[simp] theorem Dev.modCore_part_other (x : PartId) : (d.modCore c f).part x = d.part x := rfl
@[simp] theorem Dev.modCore_net_other (x : NetId) : (d.modCore c f).net x = d.net x := rfl
@[simp] theorem Dev.modCore_cluster_other (x : ClusterId) : (d.modCore c f).cluster x = d.cluster x := rfl
@[simp] theorem Dev.modCore_dmaCh_other (x : BitVec 6) : (d.modCore c f).dmaCh x = d.dmaCh x := rfl
@[simp] theorem Dev.modCore_rout_other (x : BitVec 6) : (d.modCore c f).rout x = d.rout x := rfl
@[simp] theorem Dev.modCore_adaptU_other (x : BitVec 2) : (d.modCore c f).adaptU x = d.adaptU x := rfl
@[simp] theorem Dev.modCore_die_other (x : Nat) : (d.modCore c f).die x = d.die x := rfl
@[simp] theorem Dev.modCore_chan_other (x : Nat) : (d.modCore c f).chan x = d.chan x := rfl
@[simp] theorem Dev.modCore_ring_other (x : Nat) : (d.modCore c f).ring x = d.ring x := rfl
@[simp] theorem Dev.modCore_lane_other (x : PartId) : (d.modCore c f).lane x = d.lane x := rfl
@[simp] theorem Dev.modCore_ctx_other (x : BitVec 10) : (d.modCore c f).ctx x = d.ctx x := rfl
end

section
variable (d : Dev) (q : QueueId) (f : Queue → Queue)
@[simp] theorem Dev.modQueue_core_other (x : CoreId) : (d.modQueue q f).core x = d.core x := rfl
@[simp] theorem Dev.modQueue_part_other (x : PartId) : (d.modQueue q f).part x = d.part x := rfl
@[simp] theorem Dev.modQueue_net_other (x : NetId) : (d.modQueue q f).net x = d.net x := rfl
@[simp] theorem Dev.modQueue_cluster_other (x : ClusterId) : (d.modQueue q f).cluster x = d.cluster x := rfl
@[simp] theorem Dev.modQueue_dmaCh_other (x : BitVec 6) : (d.modQueue q f).dmaCh x = d.dmaCh x := rfl
@[simp] theorem Dev.modQueue_rout_other (x : BitVec 6) : (d.modQueue q f).rout x = d.rout x := rfl
@[simp] theorem Dev.modQueue_adaptU_other (x : BitVec 2) : (d.modQueue q f).adaptU x = d.adaptU x := rfl
@[simp] theorem Dev.modQueue_die_other (x : Nat) : (d.modQueue q f).die x = d.die x := rfl
@[simp] theorem Dev.modQueue_chan_other (x : Nat) : (d.modQueue q f).chan x = d.chan x := rfl
@[simp] theorem Dev.modQueue_ring_other (x : Nat) : (d.modQueue q f).ring x = d.ring x := rfl
@[simp] theorem Dev.modQueue_lane_other (x : PartId) : (d.modQueue q f).lane x = d.lane x := rfl
@[simp] theorem Dev.modQueue_ctx_other (x : BitVec 10) : (d.modQueue q f).ctx x = d.ctx x := rfl
end

section
variable (d : Dev) (q : QueueId) (v : Queue)
@[simp] theorem Dev.setQueue_core_other (x : CoreId) : (d.setQueue q v).core x = d.core x := rfl
@[simp] theorem Dev.setQueue_part_other (x : PartId) : (d.setQueue q v).part x = d.part x := rfl
@[simp] theorem Dev.setQueue_net_other (x : NetId) : (d.setQueue q v).net x = d.net x := rfl
@[simp] theorem Dev.setQueue_cluster_other (x : ClusterId) : (d.setQueue q v).cluster x = d.cluster x := rfl
@[simp] theorem Dev.setQueue_dmaCh_other (x : BitVec 6) : (d.setQueue q v).dmaCh x = d.dmaCh x := rfl
@[simp] theorem Dev.setQueue_rout_other (x : BitVec 6) : (d.setQueue q v).rout x = d.rout x := rfl
@[simp] theorem Dev.setQueue_adaptU_other (x : BitVec 2) : (d.setQueue q v).adaptU x = d.adaptU x := rfl
@[simp] theorem Dev.setQueue_die_other (x : Nat) : (d.setQueue q v).die x = d.die x := rfl
@[simp] theorem Dev.setQueue_chan_other (x : Nat) : (d.setQueue q v).chan x = d.chan x := rfl
@[simp] theorem Dev.setQueue_ring_other (x : Nat) : (d.setQueue q v).ring x = d.ring x := rfl
@[simp] theorem Dev.setQueue_lane_other (x : PartId) : (d.setQueue q v).lane x = d.lane x := rfl
@[simp] theorem Dev.setQueue_ctx_other (x : BitVec 10) : (d.setQueue q v).ctx x = d.ctx x := rfl
end

section
variable (d : Dev) (p : PartId) (f : Partition → Partition)
@[simp] theorem Dev.modPart_core_other (x : CoreId) : (d.modPart p f).core x = d.core x := rfl
@[simp] theorem Dev.modPart_queue_other (x : QueueId) : (d.modPart p f).queue x = d.queue x := rfl
@[simp] theorem Dev.modPart_net_other (x : NetId) : (d.modPart p f).net x = d.net x := rfl
@[simp] theorem Dev.modPart_cluster_other (x : ClusterId) : (d.modPart p f).cluster x = d.cluster x := rfl
@[simp] theorem Dev.modPart_dmaCh_other (x : BitVec 6) : (d.modPart p f).dmaCh x = d.dmaCh x := rfl
@[simp] theorem Dev.modPart_rout_other (x : BitVec 6) : (d.modPart p f).rout x = d.rout x := rfl
@[simp] theorem Dev.modPart_adaptU_other (x : BitVec 2) : (d.modPart p f).adaptU x = d.adaptU x := rfl
@[simp] theorem Dev.modPart_die_other (x : Nat) : (d.modPart p f).die x = d.die x := rfl
@[simp] theorem Dev.modPart_chan_other (x : Nat) : (d.modPart p f).chan x = d.chan x := rfl
@[simp] theorem Dev.modPart_ring_other (x : Nat) : (d.modPart p f).ring x = d.ring x := rfl
@[simp] theorem Dev.modPart_lane_other (x : PartId) : (d.modPart p f).lane x = d.lane x := rfl
@[simp] theorem Dev.modPart_ctx_other (x : BitVec 10) : (d.modPart p f).ctx x = d.ctx x := rfl
end

section
variable (d : Dev) (n : NetId) (f : Network → Network)
@[simp] theorem Dev.modNet_core_other (x : CoreId) : (d.modNet n f).core x = d.core x := rfl
@[simp] theorem Dev.modNet_queue_other (x : QueueId) : (d.modNet n f).queue x = d.queue x := rfl
@[simp] theorem Dev.modNet_part_other (x : PartId) : (d.modNet n f).part x = d.part x := rfl
@[simp] theorem Dev.modNet_cluster_other (x : ClusterId) : (d.modNet n f).cluster x = d.cluster x := rfl
@[simp] theorem Dev.modNet_dmaCh_other (x : BitVec 6) : (d.modNet n f).dmaCh x = d.dmaCh x := rfl
@[simp] theorem Dev.modNet_rout_other (x : BitVec 6) : (d.modNet n f).rout x = d.rout x := rfl
@[simp] theorem Dev.modNet_adaptU_other (x : BitVec 2) : (d.modNet n f).adaptU x = d.adaptU x := rfl
@[simp] theorem Dev.modNet_die_other (x : Nat) : (d.modNet n f).die x = d.die x := rfl
@[simp] theorem Dev.modNet_chan_other (x : Nat) : (d.modNet n f).chan x = d.chan x := rfl
@[simp] theorem Dev.modNet_ring_other (x : Nat) : (d.modNet n f).ring x = d.ring x := rfl
@[simp] theorem Dev.modNet_lane_other (x : PartId) : (d.modNet n f).lane x = d.lane x := rfl
@[simp] theorem Dev.modNet_ctx_other (x : BitVec 10) : (d.modNet n f).ctx x = d.ctx x := rfl
end

section
variable (d : Dev) (c : ClusterId) (f : Cluster → Cluster)
@[simp] theorem Dev.modCluster_core_other (x : CoreId) : (d.modCluster c f).core x = d.core x := rfl
@[simp] theorem Dev.modCluster_queue_other (x : QueueId) : (d.modCluster c f).queue x = d.queue x := rfl
@[simp] theorem Dev.modCluster_part_other (x : PartId) : (d.modCluster c f).part x = d.part x := rfl
@[simp] theorem Dev.modCluster_net_other (x : NetId) : (d.modCluster c f).net x = d.net x := rfl
@[simp] theorem Dev.modCluster_dmaCh_other (x : BitVec 6) : (d.modCluster c f).dmaCh x = d.dmaCh x := rfl
@[simp] theorem Dev.modCluster_rout_other (x : BitVec 6) : (d.modCluster c f).rout x = d.rout x := rfl
@[simp] theorem Dev.modCluster_adaptU_other (x : BitVec 2) : (d.modCluster c f).adaptU x = d.adaptU x := rfl
@[simp] theorem Dev.modCluster_die_other (x : Nat) : (d.modCluster c f).die x = d.die x := rfl
@[simp] theorem Dev.modCluster_chan_other (x : Nat) : (d.modCluster c f).chan x = d.chan x := rfl
@[simp] theorem Dev.modCluster_ring_other (x : Nat) : (d.modCluster c f).ring x = d.ring x := rfl
@[simp] theorem Dev.modCluster_lane_other (x : PartId) : (d.modCluster c f).lane x = d.lane x := rfl
@[simp] theorem Dev.modCluster_ctx_other (x : BitVec 10) : (d.modCluster c f).ctx x = d.ctx x := rfl
end

section
variable (d : Dev) (i : Nat) (f : Die → Die)
@[simp] theorem Dev.modDie_core_other (x : CoreId) : (d.modDie i f).core x = d.core x := rfl
@[simp] theorem Dev.modDie_queue_other (x : QueueId) : (d.modDie i f).queue x = d.queue x := rfl
@[simp] theorem Dev.modDie_part_other (x : PartId) : (d.modDie i f).part x = d.part x := rfl
@[simp] theorem Dev.modDie_net_other (x : NetId) : (d.modDie i f).net x = d.net x := rfl
@[simp] theorem Dev.modDie_cluster_other (x : ClusterId) : (d.modDie i f).cluster x = d.cluster x := rfl
@[simp] theorem Dev.modDie_dmaCh_other (x : BitVec 6) : (d.modDie i f).dmaCh x = d.dmaCh x := rfl
@[simp] theorem Dev.modDie_rout_other (x : BitVec 6) : (d.modDie i f).rout x = d.rout x := rfl
@[simp] theorem Dev.modDie_adaptU_other (x : BitVec 2) : (d.modDie i f).adaptU x = d.adaptU x := rfl
@[simp] theorem Dev.modDie_chan_other (x : Nat) : (d.modDie i f).chan x = d.chan x := rfl
@[simp] theorem Dev.modDie_ring_other (x : Nat) : (d.modDie i f).ring x = d.ring x := rfl
@[simp] theorem Dev.modDie_lane_other (x : PartId) : (d.modDie i f).lane x = d.lane x := rfl
@[simp] theorem Dev.modDie_ctx_other (x : BitVec 10) : (d.modDie i f).ctx x = d.ctx x := rfl
end

section
variable (d : Dev) (i : Nat) (f : Channel → Channel)
@[simp] theorem Dev.modChan_core_other (x : CoreId) : (d.modChan i f).core x = d.core x := rfl
@[simp] theorem Dev.modChan_queue_other (x : QueueId) : (d.modChan i f).queue x = d.queue x := rfl
@[simp] theorem Dev.modChan_part_other (x : PartId) : (d.modChan i f).part x = d.part x := rfl
@[simp] theorem Dev.modChan_net_other (x : NetId) : (d.modChan i f).net x = d.net x := rfl
@[simp] theorem Dev.modChan_cluster_other (x : ClusterId) : (d.modChan i f).cluster x = d.cluster x := rfl
@[simp] theorem Dev.modChan_dmaCh_other (x : BitVec 6) : (d.modChan i f).dmaCh x = d.dmaCh x := rfl
@[simp] theorem Dev.modChan_rout_other (x : BitVec 6) : (d.modChan i f).rout x = d.rout x := rfl
@[simp] theorem Dev.modChan_adaptU_other (x : BitVec 2) : (d.modChan i f).adaptU x = d.adaptU x := rfl
@[simp] theorem Dev.modChan_die_other (x : Nat) : (d.modChan i f).die x = d.die x := rfl
@[simp] theorem Dev.modChan_ring_other (x : Nat) : (d.modChan i f).ring x = d.ring x := rfl
@[simp] theorem Dev.modChan_lane_other (x : PartId) : (d.modChan i f).lane x = d.lane x := rfl
@[simp] theorem Dev.modChan_ctx_other (x : BitVec 10) : (d.modChan i f).ctx x = d.ctx x := rfl
end

section
variable (d : Dev) (i : Nat) (f : Ring → Ring)
@[simp] theorem Dev.modRing_core_other (x : CoreId) : (d.modRing i f).core x = d.core x := rfl
@[simp] theorem Dev.modRing_queue_other (x : QueueId) : (d.modRing i f).queue x = d.queue x := rfl
@[simp] theorem Dev.modRing_part_other (x : PartId) : (d.modRing i f).part x = d.part x := rfl
@[simp] theorem Dev.modRing_net_other (x : NetId) : (d.modRing i f).net x = d.net x := rfl
@[simp] theorem Dev.modRing_cluster_other (x : ClusterId) : (d.modRing i f).cluster x = d.cluster x := rfl
@[simp] theorem Dev.modRing_dmaCh_other (x : BitVec 6) : (d.modRing i f).dmaCh x = d.dmaCh x := rfl
@[simp] theorem Dev.modRing_rout_other (x : BitVec 6) : (d.modRing i f).rout x = d.rout x := rfl
@[simp] theorem Dev.modRing_adaptU_other (x : BitVec 2) : (d.modRing i f).adaptU x = d.adaptU x := rfl
@[simp] theorem Dev.modRing_die_other (x : Nat) : (d.modRing i f).die x = d.die x := rfl
@[simp] theorem Dev.modRing_chan_other (x : Nat) : (d.modRing i f).chan x = d.chan x := rfl
@[simp] theorem Dev.modRing_lane_other (x : PartId) : (d.modRing i f).lane x = d.lane x := rfl
@[simp] theorem Dev.modRing_ctx_other (x : BitVec 10) : (d.modRing i f).ctx x = d.ctx x := rfl
end

section
variable (d : Dev) (n : BitVec 6) (f : DmaChan → DmaChan)
@[simp] theorem Dev.modDma_core_other (x : CoreId) : (d.modDma n f).core x = d.core x := rfl
@[simp] theorem Dev.modDma_queue_other (x : QueueId) : (d.modDma n f).queue x = d.queue x := rfl
@[simp] theorem Dev.modDma_part_other (x : PartId) : (d.modDma n f).part x = d.part x := rfl
@[simp] theorem Dev.modDma_net_other (x : NetId) : (d.modDma n f).net x = d.net x := rfl
@[simp] theorem Dev.modDma_cluster_other (x : ClusterId) : (d.modDma n f).cluster x = d.cluster x := rfl
@[simp] theorem Dev.modDma_rout_other (x : BitVec 6) : (d.modDma n f).rout x = d.rout x := rfl
@[simp] theorem Dev.modDma_adaptU_other (x : BitVec 2) : (d.modDma n f).adaptU x = d.adaptU x := rfl
@[simp] theorem Dev.modDma_die_other (x : Nat) : (d.modDma n f).die x = d.die x := rfl
@[simp] theorem Dev.modDma_chan_other (x : Nat) : (d.modDma n f).chan x = d.chan x := rfl
@[simp] theorem Dev.modDma_ring_other (x : Nat) : (d.modDma n f).ring x = d.ring x := rfl
@[simp] theorem Dev.modDma_lane_other (x : PartId) : (d.modDma n f).lane x = d.lane x := rfl
@[simp] theorem Dev.modDma_ctx_other (x : BitVec 10) : (d.modDma n f).ctx x = d.ctx x := rfl
end

section
variable (d : Dev) (f : Ingest → Ingest)
@[simp] theorem Dev.modIng_core_other (x : CoreId) : (d.modIng f).core x = d.core x := rfl
@[simp] theorem Dev.modIng_queue_other (x : QueueId) : (d.modIng f).queue x = d.queue x := rfl
@[simp] theorem Dev.modIng_part_other (x : PartId) : (d.modIng f).part x = d.part x := rfl
@[simp] theorem Dev.modIng_net_other (x : NetId) : (d.modIng f).net x = d.net x := rfl
@[simp] theorem Dev.modIng_cluster_other (x : ClusterId) : (d.modIng f).cluster x = d.cluster x := rfl
@[simp] theorem Dev.modIng_dmaCh_other (x : BitVec 6) : (d.modIng f).dmaCh x = d.dmaCh x := rfl
@[simp] theorem Dev.modIng_rout_other (x : BitVec 6) : (d.modIng f).rout x = d.rout x := rfl
@[simp] theorem Dev.modIng_adaptU_other (x : BitVec 2) : (d.modIng f).adaptU x = d.adaptU x := rfl
@[simp] theorem Dev.modIng_die_other (x : Nat) : (d.modIng f).die x = d.die x := rfl
@[simp] theorem Dev.modIng_chan_other (x : Nat) : (d.modIng f).chan x = d.chan x := rfl
@[simp] theorem Dev.modIng_ring_other (x : Nat) : (d.modIng f).ring x = d.ring x := rfl
end

section
variable (d : Dev) (l : PartId) (f : Lane → Lane)
@[simp] theorem Dev.modLane_core_other (x : CoreId) : (d.modLane l f).core x = d.core x := rfl
@[simp] theorem Dev.modLane_queue_other (x : QueueId) : (d.modLane l f).queue x = d.queue x := rfl
@[simp] theorem Dev.modLane_part_other (x : PartId) : (d.modLane l f).part x = d.part x := rfl
@[simp] theorem Dev.modLane_net_other (x : NetId) : (d.modLane l f).net x = d.net x := rfl
@[simp] theorem Dev.modLane_cluster_other (x : ClusterId) : (d.modLane l f).cluster x = d.cluster x := rfl
@[simp] theorem Dev.modLane_dmaCh_other (x : BitVec 6) : (d.modLane l f).dmaCh x = d.dmaCh x := rfl
@[simp] theorem Dev.modLane_rout_other (x : BitVec 6) : (d.modLane l f).rout x = d.rout x := rfl
@[simp] theorem Dev.modLane_adaptU_other (x : BitVec 2) : (d.modLane l f).adaptU x = d.adaptU x := rfl
@[simp] theorem Dev.modLane_die_other (x : Nat) : (d.modLane l f).die x = d.die x := rfl
@[simp] theorem Dev.modLane_chan_other (x : Nat) : (d.modLane l f).chan x = d.chan x := rfl
@[simp] theorem Dev.modLane_ring_other (x : Nat) : (d.modLane l f).ring x = d.ring x := rfl
end

section
variable (d : Dev) (c : BitVec 10) (f : Context → Context)
@[simp] theorem Dev.modCtx_core_other (x : CoreId) : (d.modCtx c f).core x = d.core x := rfl
@[simp] theorem Dev.modCtx_queue_other (x : QueueId) : (d.modCtx c f).queue x = d.queue x := rfl
@[simp] theorem Dev.modCtx_part_other (x : PartId) : (d.modCtx c f).part x = d.part x := rfl
@[simp] theorem Dev.modCtx_net_other (x : NetId) : (d.modCtx c f).net x = d.net x := rfl
@[simp] theorem Dev.modCtx_cluster_other (x : ClusterId) : (d.modCtx c f).cluster x = d.cluster x := rfl
@[simp] theorem Dev.modCtx_dmaCh_other (x : BitVec 6) : (d.modCtx c f).dmaCh x = d.dmaCh x := rfl
@[simp] theorem Dev.modCtx_rout_other (x : BitVec 6) : (d.modCtx c f).rout x = d.rout x := rfl
@[simp] theorem Dev.modCtx_adaptU_other (x : BitVec 2) : (d.modCtx c f).adaptU x = d.adaptU x := rfl
@[simp] theorem Dev.modCtx_die_other (x : Nat) : (d.modCtx c f).die x = d.die x := rfl
@[simp] theorem Dev.modCtx_chan_other (x : Nat) : (d.modCtx c f).chan x = d.chan x := rfl
@[simp] theorem Dev.modCtx_ring_other (x : Nat) : (d.modCtx c f).ring x = d.ring x := rfl
end

section
variable (d : Dev) (f : Route → Route)
@[simp] theorem Dev.modRoute_core_other (x : CoreId) : (d.modRoute f).core x = d.core x := rfl
@[simp] theorem Dev.modRoute_queue_other (x : QueueId) : (d.modRoute f).queue x = d.queue x := rfl
@[simp] theorem Dev.modRoute_part_other (x : PartId) : (d.modRoute f).part x = d.part x := rfl
@[simp] theorem Dev.modRoute_net_other (x : NetId) : (d.modRoute f).net x = d.net x := rfl
@[simp] theorem Dev.modRoute_cluster_other (x : ClusterId) : (d.modRoute f).cluster x = d.cluster x := rfl
@[simp] theorem Dev.modRoute_dmaCh_other (x : BitVec 6) : (d.modRoute f).dmaCh x = d.dmaCh x := rfl
@[simp] theorem Dev.modRoute_rout_other (x : BitVec 6) : (d.modRoute f).rout x = d.rout x := rfl
@[simp] theorem Dev.modRoute_adaptU_other (x : BitVec 2) : (d.modRoute f).adaptU x = d.adaptU x := rfl
@[simp] theorem Dev.modRoute_die_other (x : Nat) : (d.modRoute f).die x = d.die x := rfl
@[simp] theorem Dev.modRoute_chan_other (x : Nat) : (d.modRoute f).chan x = d.chan x := rfl
@[simp] theorem Dev.modRoute_ring_other (x : Nat) : (d.modRoute f).ring x = d.ring x := rfl
@[simp] theorem Dev.modRoute_lane_other (x : PartId) : (d.modRoute f).lane x = d.lane x := rfl
@[simp] theorem Dev.modRoute_ctx_other (x : BitVec 10) : (d.modRoute f).ctx x = d.ctx x := rfl
end

section
variable (d : Dev) (u : BitVec 2) (f : Adapt → Adapt)
@[simp] theorem Dev.modAdapt_core_other (x : CoreId) : (d.modAdapt u f).core x = d.core x := rfl
@[simp] theorem Dev.modAdapt_queue_other (x : QueueId) : (d.modAdapt u f).queue x = d.queue x := rfl
@[simp] theorem Dev.modAdapt_part_other (x : PartId) : (d.modAdapt u f).part x = d.part x := rfl
@[simp] theorem Dev.modAdapt_net_other (x : NetId) : (d.modAdapt u f).net x = d.net x := rfl
@[simp] theorem Dev.modAdapt_cluster_other (x : ClusterId) : (d.modAdapt u f).cluster x = d.cluster x := rfl
@[simp] theorem Dev.modAdapt_dmaCh_other (x : BitVec 6) : (d.modAdapt u f).dmaCh x = d.dmaCh x := rfl
@[simp] theorem Dev.modAdapt_rout_other (x : BitVec 6) : (d.modAdapt u f).rout x = d.rout x := rfl
@[simp] theorem Dev.modAdapt_die_other (x : Nat) : (d.modAdapt u f).die x = d.die x := rfl
@[simp] theorem Dev.modAdapt_chan_other (x : Nat) : (d.modAdapt u f).chan x = d.chan x := rfl
@[simp] theorem Dev.modAdapt_ring_other (x : Nat) : (d.modAdapt u f).ring x = d.ring x := rfl
@[simp] theorem Dev.modAdapt_lane_other (x : PartId) : (d.modAdapt u f).lane x = d.lane x := rfl
@[simp] theorem Dev.modAdapt_ctx_other (x : BitVec 10) : (d.modAdapt u f).ctx x = d.ctx x := rfl
end

section
variable (d : Dev) (f : Cal → Cal)
@[simp] theorem Dev.modCal_core_other (x : CoreId) : (d.modCal f).core x = d.core x := rfl
@[simp] theorem Dev.modCal_queue_other (x : QueueId) : (d.modCal f).queue x = d.queue x := rfl
@[simp] theorem Dev.modCal_part_other (x : PartId) : (d.modCal f).part x = d.part x := rfl
@[simp] theorem Dev.modCal_net_other (x : NetId) : (d.modCal f).net x = d.net x := rfl
@[simp] theorem Dev.modCal_cluster_other (x : ClusterId) : (d.modCal f).cluster x = d.cluster x := rfl
@[simp] theorem Dev.modCal_dmaCh_other (x : BitVec 6) : (d.modCal f).dmaCh x = d.dmaCh x := rfl
@[simp] theorem Dev.modCal_rout_other (x : BitVec 6) : (d.modCal f).rout x = d.rout x := rfl
@[simp] theorem Dev.modCal_adaptU_other (x : BitVec 2) : (d.modCal f).adaptU x = d.adaptU x := rfl
@[simp] theorem Dev.modCal_die_other (x : Nat) : (d.modCal f).die x = d.die x := rfl
@[simp] theorem Dev.modCal_chan_other (x : Nat) : (d.modCal f).chan x = d.chan x := rfl
@[simp] theorem Dev.modCal_ring_other (x : Nat) : (d.modCal f).ring x = d.ring x := rfl
@[simp] theorem Dev.modCal_lane_other (x : PartId) : (d.modCal f).lane x = d.lane x := rfl
@[simp] theorem Dev.modCal_ctx_other (x : BitVec 10) : (d.modCal f).ctx x = d.ctx x := rfl
end

section
variable (d : Dev) (f : Evt → Evt)
@[simp] theorem Dev.modEvt_core_other (x : CoreId) : (d.modEvt f).core x = d.core x := rfl
@[simp] theorem Dev.modEvt_queue_other (x : QueueId) : (d.modEvt f).queue x = d.queue x := rfl
@[simp] theorem Dev.modEvt_part_other (x : PartId) : (d.modEvt f).part x = d.part x := rfl
@[simp] theorem Dev.modEvt_net_other (x : NetId) : (d.modEvt f).net x = d.net x := rfl
@[simp] theorem Dev.modEvt_cluster_other (x : ClusterId) : (d.modEvt f).cluster x = d.cluster x := rfl
@[simp] theorem Dev.modEvt_dmaCh_other (x : BitVec 6) : (d.modEvt f).dmaCh x = d.dmaCh x := rfl
@[simp] theorem Dev.modEvt_rout_other (x : BitVec 6) : (d.modEvt f).rout x = d.rout x := rfl
@[simp] theorem Dev.modEvt_adaptU_other (x : BitVec 2) : (d.modEvt f).adaptU x = d.adaptU x := rfl
@[simp] theorem Dev.modEvt_die_other (x : Nat) : (d.modEvt f).die x = d.die x := rfl
@[simp] theorem Dev.modEvt_chan_other (x : Nat) : (d.modEvt f).chan x = d.chan x := rfl
@[simp] theorem Dev.modEvt_ring_other (x : Nat) : (d.modEvt f).ring x = d.ring x := rfl
@[simp] theorem Dev.modEvt_lane_other (x : PartId) : (d.modEvt f).lane x = d.lane x := rfl
@[simp] theorem Dev.modEvt_ctx_other (x : BitVec 10) : (d.modEvt f).ctx x = d.ctx x := rfl
end

section
variable (d : Dev) (n : BitVec 6) (f : Rout → Rout)
@[simp] theorem Dev.modRout_core_other (x : CoreId) : (d.modRout n f).core x = d.core x := rfl
@[simp] theorem Dev.modRout_queue_other (x : QueueId) : (d.modRout n f).queue x = d.queue x := rfl
@[simp] theorem Dev.modRout_part_other (x : PartId) : (d.modRout n f).part x = d.part x := rfl
@[simp] theorem Dev.modRout_net_other (x : NetId) : (d.modRout n f).net x = d.net x := rfl
@[simp] theorem Dev.modRout_cluster_other (x : ClusterId) : (d.modRout n f).cluster x = d.cluster x := rfl
@[simp] theorem Dev.modRout_dmaCh_other (x : BitVec 6) : (d.modRout n f).dmaCh x = d.dmaCh x := rfl
@[simp] theorem Dev.modRout_adaptU_other (x : BitVec 2) : (d.modRout n f).adaptU x = d.adaptU x := rfl
@[simp] theorem Dev.modRout_die_other (x : Nat) : (d.modRout n f).die x = d.die x := rfl
@[simp] theorem Dev.modRout_chan_other (x : Nat) : (d.modRout n f).chan x = d.chan x := rfl
@[simp] theorem Dev.modRout_ring_other (x : Nat) : (d.modRout n f).ring x = d.ring x := rfl
@[simp] theorem Dev.modRout_lane_other (x : PartId) : (d.modRout n f).lane x = d.lane x := rfl
@[simp] theorem Dev.modRout_ctx_other (x : BitVec 10) : (d.modRout n f).ctx x = d.ctx x := rfl
end

section
variable (d : Dev) (f : Mbx → Mbx)
@[simp] theorem Dev.modMbx_core_other (x : CoreId) : (d.modMbx f).core x = d.core x := rfl
@[simp] theorem Dev.modMbx_queue_other (x : QueueId) : (d.modMbx f).queue x = d.queue x := rfl
@[simp] theorem Dev.modMbx_part_other (x : PartId) : (d.modMbx f).part x = d.part x := rfl
@[simp] theorem Dev.modMbx_net_other (x : NetId) : (d.modMbx f).net x = d.net x := rfl
@[simp] theorem Dev.modMbx_cluster_other (x : ClusterId) : (d.modMbx f).cluster x = d.cluster x := rfl
@[simp] theorem Dev.modMbx_dmaCh_other (x : BitVec 6) : (d.modMbx f).dmaCh x = d.dmaCh x := rfl
@[simp] theorem Dev.modMbx_rout_other (x : BitVec 6) : (d.modMbx f).rout x = d.rout x := rfl
@[simp] theorem Dev.modMbx_adaptU_other (x : BitVec 2) : (d.modMbx f).adaptU x = d.adaptU x := rfl
@[simp] theorem Dev.modMbx_die_other (x : Nat) : (d.modMbx f).die x = d.die x := rfl
@[simp] theorem Dev.modMbx_chan_other (x : Nat) : (d.modMbx f).chan x = d.chan x := rfl
@[simp] theorem Dev.modMbx_ring_other (x : Nat) : (d.modMbx f).ring x = d.ring x := rfl
@[simp] theorem Dev.modMbx_lane_other (x : PartId) : (d.modMbx f).lane x = d.lane x := rfl
@[simp] theorem Dev.modMbx_ctx_other (x : BitVec 10) : (d.modMbx f).ctx x = d.ctx x := rfl
end

section
variable (d : Dev) (f : Card → Card)
@[simp] theorem Dev.modCard_core_other (x : CoreId) : (d.modCard f).core x = d.core x := rfl
@[simp] theorem Dev.modCard_queue_other (x : QueueId) : (d.modCard f).queue x = d.queue x := rfl
@[simp] theorem Dev.modCard_part_other (x : PartId) : (d.modCard f).part x = d.part x := rfl
@[simp] theorem Dev.modCard_net_other (x : NetId) : (d.modCard f).net x = d.net x := rfl
@[simp] theorem Dev.modCard_cluster_other (x : ClusterId) : (d.modCard f).cluster x = d.cluster x := rfl
@[simp] theorem Dev.modCard_dmaCh_other (x : BitVec 6) : (d.modCard f).dmaCh x = d.dmaCh x := rfl
@[simp] theorem Dev.modCard_rout_other (x : BitVec 6) : (d.modCard f).rout x = d.rout x := rfl
@[simp] theorem Dev.modCard_adaptU_other (x : BitVec 2) : (d.modCard f).adaptU x = d.adaptU x := rfl
@[simp] theorem Dev.modCard_die_other (x : Nat) : (d.modCard f).die x = d.die x := rfl
@[simp] theorem Dev.modCard_chan_other (x : Nat) : (d.modCard f).chan x = d.chan x := rfl
@[simp] theorem Dev.modCard_ring_other (x : Nat) : (d.modCard f).ring x = d.ring x := rfl
@[simp] theorem Dev.modCard_lane_other (x : PartId) : (d.modCard f).lane x = d.lane x := rfl
@[simp] theorem Dev.modCard_ctx_other (x : BitVec 10) : (d.modCard f).ctx x = d.ctx x := rfl
end

section
variable (d : Dev) (f : Pwr → Pwr)
@[simp] theorem Dev.modPwr_core_other (x : CoreId) : (d.modPwr f).core x = d.core x := rfl
@[simp] theorem Dev.modPwr_queue_other (x : QueueId) : (d.modPwr f).queue x = d.queue x := rfl
@[simp] theorem Dev.modPwr_part_other (x : PartId) : (d.modPwr f).part x = d.part x := rfl
@[simp] theorem Dev.modPwr_net_other (x : NetId) : (d.modPwr f).net x = d.net x := rfl
@[simp] theorem Dev.modPwr_cluster_other (x : ClusterId) : (d.modPwr f).cluster x = d.cluster x := rfl
@[simp] theorem Dev.modPwr_dmaCh_other (x : BitVec 6) : (d.modPwr f).dmaCh x = d.dmaCh x := rfl
@[simp] theorem Dev.modPwr_rout_other (x : BitVec 6) : (d.modPwr f).rout x = d.rout x := rfl
@[simp] theorem Dev.modPwr_adaptU_other (x : BitVec 2) : (d.modPwr f).adaptU x = d.adaptU x := rfl
@[simp] theorem Dev.modPwr_die_other (x : Nat) : (d.modPwr f).die x = d.die x := rfl
@[simp] theorem Dev.modPwr_chan_other (x : Nat) : (d.modPwr f).chan x = d.chan x := rfl
@[simp] theorem Dev.modPwr_ring_other (x : Nat) : (d.modPwr f).ring x = d.ring x := rfl
@[simp] theorem Dev.modPwr_lane_other (x : PartId) : (d.modPwr f).lane x = d.lane x := rfl
@[simp] theorem Dev.modPwr_ctx_other (x : BitVec 10) : (d.modPwr f).ctx x = d.ctx x := rfl
end

section
variable (d : Dev) (f : Health → Health)
@[simp] theorem Dev.modHealth_core_other (x : CoreId) : (d.modHealth f).core x = d.core x := rfl
@[simp] theorem Dev.modHealth_queue_other (x : QueueId) : (d.modHealth f).queue x = d.queue x := rfl
@[simp] theorem Dev.modHealth_part_other (x : PartId) : (d.modHealth f).part x = d.part x := rfl
@[simp] theorem Dev.modHealth_net_other (x : NetId) : (d.modHealth f).net x = d.net x := rfl
@[simp] theorem Dev.modHealth_cluster_other (x : ClusterId) : (d.modHealth f).cluster x = d.cluster x := rfl
@[simp] theorem Dev.modHealth_dmaCh_other (x : BitVec 6) : (d.modHealth f).dmaCh x = d.dmaCh x := rfl
@[simp] theorem Dev.modHealth_rout_other (x : BitVec 6) : (d.modHealth f).rout x = d.rout x := rfl
@[simp] theorem Dev.modHealth_adaptU_other (x : BitVec 2) : (d.modHealth f).adaptU x = d.adaptU x := rfl
@[simp] theorem Dev.modHealth_die_other (x : Nat) : (d.modHealth f).die x = d.die x := rfl
@[simp] theorem Dev.modHealth_chan_other (x : Nat) : (d.modHealth f).chan x = d.chan x := rfl
@[simp] theorem Dev.modHealth_ring_other (x : Nat) : (d.modHealth f).ring x = d.ring x := rfl
@[simp] theorem Dev.modHealth_lane_other (x : PartId) : (d.modHealth f).lane x = d.lane x := rfl
@[simp] theorem Dev.modHealth_ctx_other (x : BitVec 10) : (d.modHealth f).ctx x = d.ctx x := rfl
end

section
variable (d : Dev) (code : W16) (aux : Byte) (args : List W32)
@[simp] theorem Dev.raiseAux_core_other (x : CoreId) : (d.raiseAux code aux args).core x = d.core x := rfl
@[simp] theorem Dev.raiseAux_queue_other (x : QueueId) : (d.raiseAux code aux args).queue x = d.queue x := rfl
@[simp] theorem Dev.raiseAux_part_other (x : PartId) : (d.raiseAux code aux args).part x = d.part x := rfl
@[simp] theorem Dev.raiseAux_net_other (x : NetId) : (d.raiseAux code aux args).net x = d.net x := rfl
@[simp] theorem Dev.raiseAux_cluster_other (x : ClusterId) : (d.raiseAux code aux args).cluster x = d.cluster x := rfl
@[simp] theorem Dev.raiseAux_dmaCh_other (x : BitVec 6) : (d.raiseAux code aux args).dmaCh x = d.dmaCh x := rfl
@[simp] theorem Dev.raiseAux_rout_other (x : BitVec 6) : (d.raiseAux code aux args).rout x = d.rout x := rfl
@[simp] theorem Dev.raiseAux_adaptU_other (x : BitVec 2) : (d.raiseAux code aux args).adaptU x = d.adaptU x := rfl
@[simp] theorem Dev.raiseAux_die_other (x : Nat) : (d.raiseAux code aux args).die x = d.die x := rfl
@[simp] theorem Dev.raiseAux_chan_other (x : Nat) : (d.raiseAux code aux args).chan x = d.chan x := rfl
@[simp] theorem Dev.raiseAux_ring_other (x : Nat) : (d.raiseAux code aux args).ring x = d.ring x := rfl
@[simp] theorem Dev.raiseAux_lane_other (x : PartId) : (d.raiseAux code aux args).lane x = d.lane x := rfl
@[simp] theorem Dev.raiseAux_ctx_other (x : BitVec 10) : (d.raiseAux code aux args).ctx x = d.ctx x := rfl
end

section
variable (d : Dev) (code : W16) (p : PartId) (args : List W32)
@[simp] theorem Dev.raise_core_other (x : CoreId) : (d.raise code p args).core x = d.core x := rfl
@[simp] theorem Dev.raise_queue_other (x : QueueId) : (d.raise code p args).queue x = d.queue x := rfl
@[simp] theorem Dev.raise_part_other (x : PartId) : (d.raise code p args).part x = d.part x := rfl
@[simp] theorem Dev.raise_net_other (x : NetId) : (d.raise code p args).net x = d.net x := rfl
@[simp] theorem Dev.raise_cluster_other (x : ClusterId) : (d.raise code p args).cluster x = d.cluster x := rfl
@[simp] theorem Dev.raise_dmaCh_other (x : BitVec 6) : (d.raise code p args).dmaCh x = d.dmaCh x := rfl
@[simp] theorem Dev.raise_rout_other (x : BitVec 6) : (d.raise code p args).rout x = d.rout x := rfl
@[simp] theorem Dev.raise_adaptU_other (x : BitVec 2) : (d.raise code p args).adaptU x = d.adaptU x := rfl
@[simp] theorem Dev.raise_die_other (x : Nat) : (d.raise code p args).die x = d.die x := rfl
@[simp] theorem Dev.raise_chan_other (x : Nat) : (d.raise code p args).chan x = d.chan x := rfl
@[simp] theorem Dev.raise_ring_other (x : Nat) : (d.raise code p args).ring x = d.ring x := rfl
@[simp] theorem Dev.raise_lane_other (x : PartId) : (d.raise code p args).lane x = d.lane x := rfl
@[simp] theorem Dev.raise_ctx_other (x : BitVec 10) : (d.raise code p args).ctx x = d.ctx x := rfl
end

section
variable (d : Dev) (code : W16) (args : List W32)
@[simp] theorem Dev.raise0_core_other (x : CoreId) : (d.raise0 code args).core x = d.core x := rfl
@[simp] theorem Dev.raise0_queue_other (x : QueueId) : (d.raise0 code args).queue x = d.queue x := rfl
@[simp] theorem Dev.raise0_part_other (x : PartId) : (d.raise0 code args).part x = d.part x := rfl
@[simp] theorem Dev.raise0_net_other (x : NetId) : (d.raise0 code args).net x = d.net x := rfl
@[simp] theorem Dev.raise0_cluster_other (x : ClusterId) : (d.raise0 code args).cluster x = d.cluster x := rfl
@[simp] theorem Dev.raise0_dmaCh_other (x : BitVec 6) : (d.raise0 code args).dmaCh x = d.dmaCh x := rfl
@[simp] theorem Dev.raise0_rout_other (x : BitVec 6) : (d.raise0 code args).rout x = d.rout x := rfl
@[simp] theorem Dev.raise0_adaptU_other (x : BitVec 2) : (d.raise0 code args).adaptU x = d.adaptU x := rfl
@[simp] theorem Dev.raise0_die_other (x : Nat) : (d.raise0 code args).die x = d.die x := rfl
@[simp] theorem Dev.raise0_chan_other (x : Nat) : (d.raise0 code args).chan x = d.chan x := rfl
@[simp] theorem Dev.raise0_ring_other (x : Nat) : (d.raise0 code args).ring x = d.ring x := rfl
@[simp] theorem Dev.raise0_lane_other (x : PartId) : (d.raise0 code args).lane x = d.lane x := rfl
@[simp] theorem Dev.raise0_ctx_other (x : BitVec 10) : (d.raise0 code args).ctx x = d.ctx x := rfl
end

/-! ## Canonical form -/

theorem Dev.modCore_wf (d : Dev) (x : CoreId) (f : Core → Core) (h : tblWf {} d.cores) : tblWf {} (d.modCore x f).cores := tblMod_wf h
theorem Dev.modQueue_wf (d : Dev) (x : QueueId) (f : Queue → Queue) (h : tblWf {} d.queues) : tblWf {} (d.modQueue x f).queues := tblMod_wf h
theorem Dev.modPart_wf (d : Dev) (x : PartId) (f : Partition → Partition) (h : tblWf {} d.parts) : tblWf {} (d.modPart x f).parts := tblMod_wf h
theorem Dev.modNet_wf (d : Dev) (x : NetId) (f : Network → Network) (h : tblWf {} d.nets) : tblWf {} (d.modNet x f).nets := tblMod_wf h

end Sys2Proof.Machine
end

