-- ==== Sys2Proof/Laws/Frame.lean ====
section
/-! SUPPORT. What each named update does in the terms of the frames, how frames chain, and what the host's writes and the
mailbox do once their conditions hold. -/
namespace Sys2Proof.Machine

open Sys2Proof

/-! ## Frames: one update, no update, two in a row -/

theorem onlyCore_mod (s : State) (c : CoreId) (f : Core → Core) : onlyCore c s { s with dev := s.dev.modCore c f } :=
  ⟨rfl, fun _ h => by simp [Dev.core_modCore, Ne.symm h]⟩
theorem onlyCore_refl (c : CoreId) (s : State) : onlyCore c s s := ⟨rfl, fun _ _ => rfl⟩
theorem onlyCore_trans {c : CoreId} {s t u : State} (h1 : onlyCore c s t) (h2 : onlyCore c t u) : onlyCore c s u :=
  ⟨by rw [h2.1]; conv => lhs; rw [h1.1], fun x hx => (h2.2 x hx).trans (h1.2 x hx)⟩
theorem onlyQueue_mod (s : State) (q : QueueId) (f : Queue → Queue) : onlyQueue q s { s with dev := s.dev.modQueue q f } :=
  ⟨rfl, fun _ h => by simp [Dev.queue_modQueue, Ne.symm h]⟩
theorem onlyQueue_refl (q : QueueId) (s : State) : onlyQueue q s s := ⟨rfl, fun _ _ => rfl⟩
theorem onlyQueue_trans {q : QueueId} {s t u : State} (h1 : onlyQueue q s t) (h2 : onlyQueue q t u) : onlyQueue q s u :=
  ⟨by rw [h2.1]; conv => lhs; rw [h1.1], fun x hx => (h2.2 x hx).trans (h1.2 x hx)⟩
theorem onlyPart_mod (s : State) (p : PartId) (f : Partition → Partition) : onlyPart p s { s with dev := s.dev.modPart p f } :=
  ⟨rfl, fun _ h => by simp [Dev.part_modPart, Ne.symm h]⟩
theorem onlyPart_refl (p : PartId) (s : State) : onlyPart p s s := ⟨rfl, fun _ _ => rfl⟩
theorem onlyPart_trans {p : PartId} {s t u : State} (h1 : onlyPart p s t) (h2 : onlyPart p t u) : onlyPart p s u :=
  ⟨by rw [h2.1]; conv => lhs; rw [h1.1], fun x hx => (h2.2 x hx).trans (h1.2 x hx)⟩
theorem onlyNet_mod (s : State) (n : NetId) (f : Network → Network) : onlyNet n s { s with dev := s.dev.modNet n f } :=
  ⟨rfl, fun _ h => by simp [Dev.net_modNet, Ne.symm h]⟩
theorem onlyNet_refl (n : NetId) (s : State) : onlyNet n s s := ⟨rfl, fun _ _ => rfl⟩
theorem onlyNet_trans {n : NetId} {s t u : State} (h1 : onlyNet n s t) (h2 : onlyNet n t u) : onlyNet n s u :=
  ⟨by rw [h2.1]; conv => lhs; rw [h1.1], fun x hx => (h2.2 x hx).trans (h1.2 x hx)⟩
theorem onlyDma_mod (s : State) (n : BitVec 6) (f : DmaChan → DmaChan) : onlyDma n s { s with dev := s.dev.modDma n f } :=
  ⟨rfl, fun _ h => by simp [Dev.dmaCh_modDma, Ne.symm h]⟩
theorem onlyDma_refl (n : BitVec 6) (s : State) : onlyDma n s s := ⟨rfl, fun _ _ => rfl⟩
theorem onlyDma_trans {n : BitVec 6} {s t u : State} (h1 : onlyDma n s t) (h2 : onlyDma n t u) : onlyDma n s u :=
  ⟨by rw [h2.1]; conv => lhs; rw [h1.1], fun x hx => (h2.2 x hx).trans (h1.2 x hx)⟩
theorem onlyCtx_mod (s : State) (c : BitVec 10) (f : Context → Context) : onlyCtx c s { s with dev := s.dev.modCtx c f } :=
  ⟨rfl, fun _ h => by simp [Dev.ctx_modCtx, Ne.symm h]⟩
theorem onlyCtx_refl (c : BitVec 10) (s : State) : onlyCtx c s s := ⟨rfl, fun _ _ => rfl⟩
theorem onlyCtx_trans {c : BitVec 10} {s t u : State} (h1 : onlyCtx c s t) (h2 : onlyCtx c t u) : onlyCtx c s u :=
  ⟨by rw [h2.1]; conv => lhs; rw [h1.1], fun x hx => (h2.2 x hx).trans (h1.2 x hx)⟩
theorem onlyLane_mod (s : State) (l : PartId) (f : Lane → Lane) : onlyLane l s { s with dev := s.dev.modLane l f } :=
  ⟨rfl, fun _ h => by simp [Dev.lane_modLane, Ne.symm h]⟩
theorem onlyLane_refl (l : PartId) (s : State) : onlyLane l s s := ⟨rfl, fun _ _ => rfl⟩
theorem onlyLane_trans {l : PartId} {s t u : State} (h1 : onlyLane l s t) (h2 : onlyLane l t u) : onlyLane l s u :=
  ⟨by rw [h2.1]; conv => lhs; rw [h1.1], fun x hx => (h2.2 x hx).trans (h1.2 x hx)⟩
theorem onlyDie_mod (s : State) (i : Nat) (f : Die → Die) : onlyDie i s { s with dev := s.dev.modDie i f } :=
  ⟨rfl, fun _ h => by simp [Dev.die_modDie, Ne.symm h]⟩
theorem onlyDie_refl (i : Nat) (s : State) : onlyDie i s s := ⟨rfl, fun _ _ => rfl⟩
theorem onlyDie_trans {i : Nat} {s t u : State} (h1 : onlyDie i s t) (h2 : onlyDie i t u) : onlyDie i s u :=
  ⟨by rw [h2.1]; conv => lhs; rw [h1.1], fun x hx => (h2.2 x hx).trans (h1.2 x hx)⟩

/-- A core that faults outside a WAITD (R109): nothing else changes. -/
theorem faultCore_faults (s : State) (c : CoreId) (f : CFault) (h : (s.dev.core c).state ≠ .waitd) :
    faultsWith c (s.dev.core c) f s { s with dev := s.dev.faultCore c f none } := by
  have hd : s.dev.faultCore c f none =
      s.dev.modCore c (fun k => { k with state := .faulted, fault := f, wait := .none, lsUe := k.lsUe }) := by
    simp [Dev.faultCore, h]
  rw [hd]
  exact ⟨onlyCore_mod s c _, by simp⟩

/-! ## Host writes (R459, R479) -/

theorem hostWrite_runs {s : State} (h : hostRuns s) (f : Dev → Dev) : hostWrite f s = { s with dev := f s.dev.hostWrote } := by
  simp [hostWrite, h.1, h.2]
/-- A host write that firmware does not answer stores nothing. -/
theorem hostWrite_unanswered {s : State} (h1 : s.bus = true) (h2 : s.dev.f1 = false) (f : Dev → Dev) :
    hostWrite f s = { s with dev := s.dev.hostWrote } := by simp [hostWrite, h1, h2]
theorem hostWrite_no_bus {s : State} (h : s.bus = false) (f : Dev → Dev) : hostWrite f s = s := by simp [hostWrite, h]
@[simp] theorem hostWrite_pending (f : Dev → Dev) (s : State) : (hostWrite f s).pending = s.pending := by
  unfold hostWrite; split <;> rfl
@[simp] theorem hostWrite_store (f : Dev → Dev) (s : State) : (hostWrite f s).store = s.store := by
  unfold hostWrite; split <;> rfl
theorem hostWritePart_runs {s : State} (h : hostRuns s) {p : PartId} (hp : s.dev.diePresent (dieOfPart p) = true) (f : Dev → Dev) :
    hostWritePart p f s = { s with dev := f s.dev.hostWrote } := by
  have : s.dev.hostWrote.diePresent (dieOfPart p) = true := hp
  simp [hostWritePart, hostWrite_runs h, this]
theorem hostWriteDie_runs {s : State} (h : hostRuns s) {i : Nat} (hi : s.dev.expertLive i = true) (f : Dev → Dev) :
    hostWriteDie i f s = { s with dev := f s.dev.hostWrote } := by
  have : s.dev.hostWrote.expertLive i = true := hi
  simp [hostWriteDie, hostWrite_runs h, this]

section
variable (d : Dev)
@[simp] theorem Dev.hostWrote_l : d.hostWrote.l = d.l := rfl
@[simp] theorem Dev.hostWrote_die1 : d.hostWrote.die1 = d.die1 := rfl
@[simp] theorem Dev.hostWrote_pll : d.hostWrote.pll = d.pll := rfl
@[simp] theorem Dev.hostWrote_pins : d.hostWrote.pins = d.pins := rfl
@[simp] theorem Dev.hostWrote_time : d.hostWrote.time = d.time := rfl
@[simp] theorem Dev.hostWrote_ptpThirds : d.hostWrote.ptpThirds = d.ptpThirds := rfl
@[simp] theorem Dev.hostWrote_fresh : d.hostWrote.fresh = d.fresh := rfl
@[simp] theorem Dev.hostWrote_xptPage : d.hostWrote.xptPage = d.xptPage := rfl
@[simp] theorem Dev.hostWrote_xptWen : d.hostWrote.xptWen = d.xptWen := rfl
@[simp] theorem Dev.hostWrote_xptRej : d.hostWrote.xptRej = d.xptRej := rfl
@[simp] theorem Dev.hostWrote_cores : d.hostWrote.cores = d.cores := rfl
@[simp] theorem Dev.hostWrote_queues : d.hostWrote.queues = d.queues := rfl
@[simp] theorem Dev.hostWrote_clusters : d.hostWrote.clusters = d.clusters := rfl
@[simp] theorem Dev.hostWrote_parts : d.hostWrote.parts = d.parts := rfl
@[simp] theorem Dev.hostWrote_nets : d.hostWrote.nets = d.nets := rfl
@[simp] theorem Dev.hostWrote_map : d.hostWrote.map = d.map := rfl
@[simp] theorem Dev.hostWrote_packets : d.hostWrote.packets = d.packets := rfl
@[simp] theorem Dev.hostWrote_bridgeAbsorb : d.hostWrote.bridgeAbsorb = d.bridgeAbsorb := rfl
@[simp] theorem Dev.hostWrote_psram : d.hostWrote.psram = d.psram := rfl
@[simp] theorem Dev.hostWrote_chans : d.hostWrote.chans = d.chans := rfl
@[simp] theorem Dev.hostWrote_rings : d.hostWrote.rings = d.rings := rfl
@[simp] theorem Dev.hostWrote_hot : d.hostWrote.hot = d.hot := rfl
@[simp] theorem Dev.hostWrote_memRej : d.hostWrote.memRej = d.memRej := rfl
@[simp] theorem Dev.hostWrote_dma : d.hostWrote.dma = d.dma := rfl
@[simp] theorem Dev.hostWrote_ing : d.hostWrote.ing = d.ing := rfl
@[simp] theorem Dev.hostWrote_route : d.hostWrote.route = d.route := rfl
@[simp] theorem Dev.hostWrote_adapt : d.hostWrote.adapt = d.adapt := rfl
@[simp] theorem Dev.hostWrote_cal : d.hostWrote.cal = d.cal := rfl
@[simp] theorem Dev.hostWrote_routs : d.hostWrote.routs = d.routs := rfl
@[simp] theorem Dev.hostWrote_mbx : d.hostWrote.mbx = d.mbx := rfl
@[simp] theorem Dev.hostWrote_pwr : d.hostWrote.pwr = d.pwr := rfl
@[simp] theorem Dev.hostWrote_dies : d.hostWrote.dies = d.dies := rfl
@[simp] theorem Dev.hostWrote_doms : d.hostWrote.doms = d.doms := rfl
@[simp] theorem Dev.hostWrote_health : d.hostWrote.health = d.health := rfl
@[simp] theorem Dev.hostWrote_core_at (x : CoreId) : d.hostWrote.core x = d.core x := rfl
@[simp] theorem Dev.hostWrote_queue_at (x : QueueId) : d.hostWrote.queue x = d.queue x := rfl
@[simp] theorem Dev.hostWrote_part_at (x : PartId) : d.hostWrote.part x = d.part x := rfl
@[simp] theorem Dev.hostWrote_net_at (x : NetId) : d.hostWrote.net x = d.net x := rfl
@[simp] theorem Dev.hostWrote_dmaCh_at (x : BitVec 6) : d.hostWrote.dmaCh x = d.dmaCh x := rfl
@[simp] theorem Dev.hostWrote_lane_at (x : PartId) : d.hostWrote.lane x = d.lane x := rfl
@[simp] theorem Dev.hostWrote_ctx_at (x : BitVec 10) : d.hostWrote.ctx x = d.ctx x := rfl
@[simp] theorem Dev.hostWrote_die_at (x : Nat) : d.hostWrote.die x = d.die x := rfl
@[simp] theorem Dev.hostWrote_cluster_at (x : ClusterId) : d.hostWrote.cluster x = d.cluster x := rfl
@[simp] theorem Dev.hostWrote_chan_at (x : Nat) : d.hostWrote.chan x = d.chan x := rfl
@[simp] theorem Dev.hostWrote_ring_at (x : Nat) : d.hostWrote.ring x = d.ring x := rfl
@[simp] theorem Dev.hostWrote_rout_at (x : BitVec 6) : d.hostWrote.rout x = d.rout x := rfl
@[simp] theorem Dev.hostWrote_adaptU_at (x : BitVec 2) : d.hostWrote.adaptU x = d.adaptU x := rfl
@[simp] theorem Dev.hostWrote_f1 : d.hostWrote.f1 = d.f1 := rfl
@[simp] theorem Dev.hostWrote_fwAnswers : d.hostWrote.fwAnswers = d.fwAnswers := rfl
@[simp] theorem Dev.hostWrote_evtQueue : d.hostWrote.evt.queue = d.evt.queue := rfl
end

/-! ## The mailbox (R468) -/

/-- A mailbox command that finds the mailbox free: its arguments and TAG are taken, then firmware acts. -/
theorem mbxCommand_free {s : State} (h : mboxFree s) (tag opc : Byte) (args : List (Nat × W32)) (f : State → State) :
    mbxCommand tag opc args f s =
      f { s with dev := (s.dev.hostWrote.modMbx (fun m => m.putArgs args)).modMbx (fun m => m.taken tag opc) } := by
  have hf : s.dev.f1 = true := by have h2 := h.2.1; simp only [Dev.fwAnswers, Bool.and_eq_true] at h2; exact h2.1.1
  have h1 : (s.dev.hostWrote.modMbx (fun m => m.putArgs args)).f1 = true := hf
  have h2 : (s.dev.hostWrote.modMbx (fun m => m.putArgs args)).fwAnswers = true := by
    rw [← h.2.1]
    simp only [Dev.fwAnswers, Dev.f1, Dev.modMbx_pwr, Dev.modMbx_health, Dev.hostWrote_pwr, Dev.hostWrote_health]
  have h3 : (s.dev.hostWrote.modMbx (fun m => m.putArgs args)).mbx.busy = false := h.2.2
  simp only [mbxCommand, hostWrite_runs ⟨h.1, hf⟩, h.1, h1, h2, h3]
  rfl
/-- A mailbox command whose signals do not reach the device changes nothing. -/
theorem mbxCommand_no_bus {s : State} (h : s.bus = false) (tag opc : Byte) (args : List (Nat × W32)) (f : State → State) :
    mbxCommand tag opc args f s = s := by simp [mbxCommand, hostWrite_no_bus h, h]

/-! ## Counters and events -/

theorem satAdd_zero {n : Nat} (x : BitVec n) : satAdd x 0 = x := by simp [satAdd, x.isLt]
theorem satAdd_toNat {n : Nat} (x : BitVec n) (k : Nat) : (satAdd x k).toNat = min (x.toNat + k) (2 ^ n - 1) := by
  unfold satAdd
  have hp : 0 < 2 ^ n := Nat.two_pow_pos n
  split
  · rw [BitVec.toNat_ofNat, Nat.mod_eq_of_lt ‹_›]; omega
  · rw [BitVec.toNat_allOnes]; omega
/-- A counter at its end stays there, any other goes up by one. -/
theorem satInc_toNat {n : Nat} (x : BitVec n) : (satInc x).toNat = min (x.toNat + 1) (2 ^ n - 1) := by
  unfold satInc
  have hx := x.isLt
  split
  · subst x; rw [BitVec.toNat_allOnes]; omega
  · rename_i h
    have h1 : x.toNat ≠ 2 ^ n - 1 := fun e => h (BitVec.eq_of_toNat_eq (by rw [BitVec.toNat_allOnes]; exact e))
    have h2 : x.toNat + 1 < 2 ^ n := by omega
    rw [BitVec.toNat_add, BitVec.toNat_ofNat, Nat.add_mod_mod, Nat.mod_eq_of_lt h2]
    omega

/-- An event whose class is off changes nothing (R470). -/
theorem Evt.put_disabled {e : Evt} {code : W16} (h : e.classen.getLsbD (evtClass code) = false) (u : Bool) (aux : Byte) (t : W64)
    (args : List W32) : e.put code u aux t args = e := by simp [Evt.put, h]
/-- The event queue never grows beyond its end (R470). -/
theorem Evt.put_length {e : Evt} (h : e.queue.length ≤ evtMax) (code : W16) (u : Bool) (aux : Byte) (t : W64) (args : List W32) :
    (e.put code u aux t args).queue.length ≤ evtMax := by
  unfold Evt.put
  split
  · exact h
  · by_cases hr : (e.lostRun != 0#32 && e.classen.getLsbD 11) = true
    · by_cases hl : e.queue.length + 2 ≤ evtMax
      · simp only [hr, if_true, hl, Evt.push, List.length_append, List.length_singleton]
      · simpa only [hr, if_true, hl, if_false] using h
    · by_cases hl : e.queue.length + 1 ≤ evtMax
      · simp only [hr, if_false, hl, if_true, Evt.push, List.length_append, List.length_singleton, Bool.false_eq_true]
      · simpa only [hr, if_false, hl, Bool.false_eq_true] using h
/-- Raising an event changes nothing but the event block. -/
theorem Dev.raiseAux_frame (d : Dev) (code : W16) (aux : Byte) (args : List W32) :
    d.raiseAux code aux args = { d with evt := (d.raiseAux code aux args).evt } := rfl
theorem Dev.raise_frame (d : Dev) (code : W16) (p : PartId) (args : List W32) :
    d.raise code p args = { d with evt := (d.raise code p args).evt } := rfl

/-- A translation fault of a requester other than DMA is counted once in its partition and in its ring, and moves nothing but the
counters and the event block (R413). -/
theorem Dev.tfault_frame (d : Dev) (who : Requester) (p : PartId) (a : Nat) :
    d.tfault who p a =
      { d with parts := (d.tfault who p a).parts, rings := (d.tfault who p a).rings, evt := (d.tfault who p a).evt } := rfl
theorem Dev.tfault_part (d : Dev) (who : Requester) (p : PartId) (a : Nat) :
    (d.tfault who p a).part p = { d.part p with tfOther := satInc (d.part p).tfOther } :=
  Dev.part_modPart_same d p (fun x => { x with tfOther := satInc x.tfOther })

end Sys2Proof.Machine
end

