-- ==== Sys2Proof/Laws/Memory.lean ====
section
/-! SUPPORT. The PSRAM: a read after a write, what a write leaves as it was, and that every memory operation keeps the canonical form. -/
namespace Sys2Proof.Machine

open Sys2Proof

/-- Two locations with one key are one location: a channel holds 2^26 bytes. -/
theorem cellKey_inj {p q : Nat × Nat} (hp : p.2 < 0x4000000) (hq : q.2 < 0x4000000) (h : cellKey p = cellKey q) : p = q := by
  simp only [cellKey] at h
  have h1 : p.1 = q.1 := by omega
  exact Prod.ext h1 (by omega)

/-- A location lies within its channel. -/
theorem locate_lt {die1 : Bool} {a : Nat} {p : Nat × Nat} (h : locate die1 a = some p) : p.2 < 0x4000000 := by
  have hs : dieSpan = 0x180000000 := rfl
  have he : spanEnd die1 ≤ 0x300000000 := by cases die1 <;> decide
  have hd : dieViewEnd die1 ≤ 0xB00000000 := by cases die1 <;> decide
  simp only [locate, hs] at h
  split at h
  · cases h; simp only; omega
  · split at h
    · cases h; simp only; omega
    · split at h
      · cases h; simp only; omega
      · cases h

theorem Dev.writeByte_some {d : Dev} {a : Nat} {p : Nat × Nat} (h : locate d.die1 a = some p) (b : Byte) :
    d.writeByte a b = { d with psram := tblSet 0#8 d.psram (cellKey p) b } := by simp only [Dev.writeByte, h]
theorem Dev.writeByte_none {d : Dev} {a : Nat} (h : locate d.die1 a = none) (b : Byte) : d.writeByte a b = d := by
  simp only [Dev.writeByte, h]
theorem Dev.readByte_some {d : Dev} {a : Nat} {p : Nat × Nat} (h : locate d.die1 a = some p) :
    d.readByte a = tblGet 0#8 d.psram (cellKey p) := by simp only [Dev.readByte, h]
theorem Dev.readByte_none {d : Dev} {a : Nat} (h : locate d.die1 a = none) : d.readByte a = 0#8 := by simp only [Dev.readByte, h]

@[simp] theorem Dev.writeByte_die1 (d : Dev) (a : Nat) (b : Byte) : (d.writeByte a b).die1 = d.die1 := by
  cases h : locate d.die1 a with
  | none => rw [Dev.writeByte_none h]
  | some p => rw [Dev.writeByte_some h]

/-- A write of a byte changes nothing but the PSRAM. -/
theorem Dev.writeByte_frame (d : Dev) (a : Nat) (b : Byte) : d.writeByte a b = { d with psram := (d.writeByte a b).psram } := by
  cases h : locate d.die1 a with
  | none => rw [Dev.writeByte_none h]
  | some p => rw [Dev.writeByte_some h]

theorem Dev.readByte_writeByte (d : Dev) (a x : Nat) (b : Byte) :
    (d.writeByte a b).readByte x = if locate d.die1 x = locate d.die1 a ∧ locate d.die1 a ≠ none then b else d.readByte x := by
  cases ha : locate d.die1 a with
  | none => rw [Dev.writeByte_none ha]; simp only [ne_eq, not_true_eq_false, and_false, if_false]
  | some p =>
    cases hx : locate d.die1 x with
    | none =>
      rw [Dev.readByte_none (d := d.writeByte a b) (by rw [Dev.writeByte_die1]; exact hx), Dev.readByte_none hx]
      simp only [reduceCtorEq, false_and, if_false]
    | some q =>
      rw [Dev.readByte_some (d := d.writeByte a b) (by rw [Dev.writeByte_die1]; exact hx), Dev.readByte_some hx, Dev.writeByte_some ha]
      simp only [tblGet_set, Option.some.injEq, ne_eq, reduceCtorEq, not_false_eq_true, and_true]
      by_cases hpq : q = p
      · rw [if_pos (by rw [hpq]), if_pos hpq]
      · rw [if_neg (fun h => hpq (cellKey_inj (locate_lt ha) (locate_lt hx) h).symm), if_neg hpq]

@[simp] theorem Dev.writeBytes_die1 (d : Dev) (a : Nat) (l : List Byte) : (d.writeBytes a l).die1 = d.die1 := by
  induction l generalizing d a with
  | nil => rfl
  | cons b t ih => simp [Dev.writeBytes, ih]

/-- A write of bytes changes nothing but the PSRAM. -/
theorem Dev.writeBytes_frame (d : Dev) (a : Nat) (l : List Byte) : d.writeBytes a l = { d with psram := (d.writeBytes a l).psram } := by
  induction l generalizing d a with
  | nil => rfl
  | cons b t ih =>
    simp only [Dev.writeBytes]
    rw [ih, Dev.writeByte_frame d a b]

/-- A byte that no written address shares storage with is as it was. -/
theorem Dev.readByte_writeBytes_other (d : Dev) (a x : Nat) (l : List Byte)
    (h : ∀ i, i < l.length → locate d.die1 x ≠ locate d.die1 (a + i)) : (d.writeBytes a l).readByte x = d.readByte x := by
  induction l generalizing d a with
  | nil => rfl
  | cons b t ih =>
    simp only [Dev.writeBytes]
    rw [ih, Dev.readByte_writeByte]
    · have := h 0 (by simp)
      simp only [Nat.add_zero] at this
      simp [this]
    · intro i hi
      have := h (i + 1) (by simpa using hi)
      simpa [Nat.add_assoc, Nat.add_comm 1 i] using this

@[simp] theorem Dev.readBytes_length (d : Dev) (a n : Nat) : (d.readBytes a n).length = n := by
  induction n generalizing a with
  | zero => rfl
  | succ n ih => simp [Dev.readBytes, ih]

theorem Dev.writeByte_wf {d : Dev} (h : Memory.wf d.psram) (a : Nat) (b : Byte) : Memory.wf (d.writeByte a b).psram := by
  cases ha : locate d.die1 a with
  | none => rw [Dev.writeByte_none ha]; exact h
  | some p => rw [Dev.writeByte_some ha]; exact tblSet_wf h

theorem Dev.writeBytes_wf {d : Dev} (h : Memory.wf d.psram) (a : Nat) (l : List Byte) : Memory.wf (d.writeBytes a l).psram := by
  induction l generalizing d a with
  | nil => exact h
  | cons b t ih => exact ih (Dev.writeByte_wf h a b) (a + 1)

@[simp] theorem Dev.writeIndex_psram (d : Dev) (a : Nat) (l : List Byte) : (d.writeIndex a l).psram = d.psram := rfl

/-- Every write of the memory ports keeps the canonical form. -/
theorem Dev.memWrite_wf {d : Dev} (h : Memory.wf d.psram) (a : Nat) (l : List Byte) : Memory.wf (d.memWrite a l).psram := by
  unfold Dev.memWrite
  split
  · simpa using h
  · exact Dev.writeBytes_wf h a l

/-- A write of the memory ports changes nothing but the PSRAM and the position index. -/
theorem Dev.memWrite_frame (d : Dev) (a : Nat) (l : List Byte) :
    d.memWrite a l = { d with psram := (d.memWrite a l).psram, route := (d.memWrite a l).route } := by
  unfold Dev.memWrite
  split
  · rfl
  · have h := Dev.writeBytes_frame d a l
    have h2 : (d.writeBytes a l).route = d.route := by rw [h]
    rw [h2]; exact h

/-- The memory of the reset state is canonical. -/
theorem reset_memory_wf : Memory.wf State.reset.dev.psram := ⟨.nil, fun _ h => nomatch h⟩

/-- A read of the whole of what a write wrote, when the addresses written lie in distinct storage. -/
theorem Dev.readBytes_writeBytes_same (d : Dev) (a : Nat) (l : List Byte)
    (h1 : ∀ i, i < l.length → locate d.die1 (a + i) ≠ none)
    (h2 : ∀ i j, i < j → j < l.length → locate d.die1 (a + i) ≠ locate d.die1 (a + j)) :
    (d.writeBytes a l).readBytes a l.length = l := by
  induction l generalizing d a with
  | nil => rfl
  | cons b t ih =>
    simp only [Dev.writeBytes, List.length_cons, Dev.readBytes]
    congr 1
    · rw [Dev.readByte_writeBytes_other, Dev.readByte_writeByte]
      · have := h1 0 (by simp)
        simp only [Nat.add_zero] at this
        simp [this]
      · intro i hi
        have := h2 0 (i + 1) (by omega) (by simpa using hi)
        simpa [Nat.add_assoc, Nat.add_comm 1 i] using this
    · apply ih
      · intro i hi
        have := h1 (i + 1) (by simpa using hi)
        simpa [Nat.add_assoc, Nat.add_comm 1 i] using this
      · intro i j hij hj
        have := h2 (i + 1) (j + 1) (by omega) (by simpa using hj)
        simpa [Nat.add_assoc, Nat.add_comm 1 i, Nat.add_comm 1 j] using this

end Sys2Proof.Machine
end

