-- ==== Sys2Proof/Tests/Slice0.lean ====
section
/-! SUPPORT. Tests: for each clause of the statements a small state that meets its hypotheses, with what one command makes of it, the
expected values taken from the rules; the ill-formed commands that the check refuses; words of schedule instructions written out from
Table 3-4. -/
namespace Sys2Proof.Tests

open Sys2Proof Sys2Proof.Machine

set_option Elab.async false

/-- The state after a command. -/
def after (i : Instr) (s : State) : State := match exec i s with | .next t => t | _ => s
/-- The device after a command. -/
def did (i : Instr) (s : State) : Dev := (after i s).dev

/-! ## States -/

/-- Partition 0 released to network 0. -/
def rel0 : Tbl Partition := [(0, { cast := .released })]
/-- Core 0 of network 0 as `k` says, partition 0 released. -/
def withCore (k : Core) : State := { dev := { parts := rel0, cores := [(0, k)] } }
/-- Core 0 stands at an instruction. -/
def at_ (i : SeqInstr) (k : Core) : State :=
  withCore { k with state := .running, assigned := true, pc := 0x100#11, sched := [(256, encodeSeq i)] }
/-- Change core 0. -/
def mod0 (f : Core → Core) (s : State) : State := { s with dev := s.dev.modCore 0#11 f }
/-- A FIRE that does nothing. -/
def idle : FireOp :=
  { rpt := 0#12, mac := 0#3, wswap := 0#1, agstep := 0#4, rden := 0#4, wren := 0#2, fin := 0#3, accbase := 0#6, abswap := 0#1, dsel := 0#4,
    eor := 0#1, eof := 0#1, flev := 0#4, llev := 0#4 }
/-- Core 0 waits in a FIRE. -/
def waiting (f : FireOp) (w : Wait) (k : Core) : State := at_ (.fire f) { k with wait := w, wdogEn := false }
/-- A plain queue of 16 words with one receiver that holds `ws`. -/
def queueOf (ws : List QWord) : Queue :=
  { floor := 16, cap := 16, rcvs := [{}], prods := [(0, { credits := 2 })], store := ws.map some }
/-- Queue 0 holds `ws`. -/
def onQueue (s : State) (ws : List QWord) : State := { s with dev := { s.dev with queues := [(0, queueOf ws)] } }
/-- Core 0 stands in a WAITD of 5 cycles. -/
def inWait (ws : List QWord) : State :=
  onQueue (mod0 (fun k => { k with state := .waitd, waitd := some 5#20 }) (at_ (.waitd 0#2 5#20 0#1 0#13) { ins := [some ⟨0#13, 0#10⟩] })) ws
/-- The host runs: firmware is up, bring-up over. -/
def host (d : Dev) : State := { dev := { d with pwr := { fwUp := true, stage := 15#4, ready := true } } }

/-! ## Words of schedule instructions (Table 3-4), written out bit by bit -/

theorem test_word_halt : decodeSeq 0x0000000000000000#64 = some .halt := by decide +kernel
theorem test_word_fire : decodeSeq 0x1FFF3A1800500001#64 =
    some (.fire { rpt := 0xFFF#12, mac := 1#3, wswap := 1#1, agstep := 0xA#4, rden := 1#4, wren := 2#2, fin := 0#3, accbase := 0#6,
                  abswap := 0#1, dsel := 5#4, eor := 0#1, eof := 0#1, flev := 0#4, llev := 0#4 }) := by decide +kernel
theorem test_word_loop : decodeSeq 0x200320A000000000#64 = some (.loop 3#12 1#3 0x500#11) := by decide +kernel
theorem test_word_endl : decodeSeq 0x3000E02040000000#64 = some (.endl 7#3 0x102#11) := by decide +kernel
theorem test_word_load : decodeSeq 0x4000803800800000#64 = some (.load 1#13 3#2 0x1001#13) := by decide +kernel
theorem test_word_frame : decodeSeq 0x5000005800000000#64 = some (.frame 5#4 2#2) := by decide +kernel
theorem test_word_rowend : decodeSeq 0x60004000000C0000#64 = some (.rowend 1#14 3#28) := by decide +kernel
theorem test_word_waitd : decodeSeq 0x7000002000018008#64 = some (.waitd 2#2 1#20 1#1 2#13) := by decide +kernel
theorem test_word_call : decodeSeq 0x80000000000000FF#64 = some (.call 0xFF#11) := by decide +kernel
theorem test_word_ret : decodeSeq 0x9000000000000000#64 = some .ret := by decide +kernel
theorem test_word_none : decodeSeq 0xA000000000000000#64 = none ∧ decodeSeq 0xF000000000000000#64 = none := by decide +kernel

/-! ## Ill-formed commands, one for each check -/

theorem test_wf_words : (Instr.partitionConfigChunk 0#5 0#10 (List.replicate 31 0#64) true).wf = false ∧
    exec (.partitionConfigChunk 0#5 0#10 (List.replicate 31 0#64) true) State.reset = .refused .illFormed := ⟨by decide +kernel, rfl⟩
theorem test_wf_config_index : (Instr.partitionConfigChunk 0#5 750#10 (List.replicate 32 0#64) true).wf = false := by decide +kernel
theorem test_wf_config_last : (Instr.partitionConfigChunk 0#5 749#10 (List.replicate 32 0#64) true).wf = true := by decide +kernel
theorem test_wf_cache : (Instr.programCacheChunk 0#7 0#9 [] true).wf = false := by decide +kernel
theorem test_wf_image_words : (Instr.coreImageChunk 0#11 0#7 (List.replicate 33 0#64) true).wf = false := by decide +kernel
theorem test_wf_image_index : (Instr.coreImageChunk 0#11 81#7 (List.replicate 32 0#64) true).wf = false := by decide +kernel
theorem test_wf_image_last : (Instr.coreImageChunk 0#11 80#7 (List.replicate 32 0#64) true).wf = true := by decide +kernel

/-! ## The core sequencer -/

theorem wit_halt : let s := at_ .halt {}
    s.dev.reached 0#11 = some .halt ∧ ((did (.halt 0#11) s).core 0#11).state = .halted := by decide +kernel
theorem wit_illegal : let s := at_ .halt {}
    s.dev.runs 0#11 = true ∧ (s.dev.core 0#11).state = .running ∧ 10 ≤ ((0xA000000000000000#64 : W64).extractLsb' 60 4).toNat ∧
      ((did (.illegalInstruction 0#11 0xA000000000000000#64) s).core 0#11).fault = .illegal := by decide +kernel
theorem wit_zero_run : let s := at_ .ret { zrun := 16, calls := [0x101#11] }
    s.dev.reached 0#11 = some .ret ∧ s.dev.zeroInstr 0#11 .ret = true ∧ 16 ≤ (s.dev.core 0#11).zrun ∧
      ((did (.zeroCycleRunFault 0#11) s).core 0#11).fault = .zeroRun := by decide +kernel
theorem wit_rowmax : let s := at_ .halt { rowmax := 5, cycCount := 6 }
    s.dev.runs 0#11 = true ∧ (s.dev.core 0#11).state = .running ∧ (s.dev.core 0#11).wdogEn = true ∧
      (s.dev.core 0#11).rowmax < (s.dev.core 0#11).cycCount ∧ ((did (.rowmaxExceeded 0#11) s).core 0#11).fault = .rowCycle := by
  decide +kernel

theorem wit_loop : let s := at_ (.loop 3#12 1#3 0x110#11) { loops := [⟨0#3, 1, 0⟩], zrun := 15 }
    s.dev.reached 0#11 = some (.loop 3#12 1#3 0x110#11) ∧ (∀ f ∈ (s.dev.core 0#11).loops, f.level ≠ 1#3) ∧ (s.dev.core 0#11).zrun < 16 ∧
      ((did (.loop 0#11) s).core 0#11).loops = [⟨1#3, 3, 0⟩, ⟨0#3, 1, 0⟩] := by decide +kernel
theorem wit_endl_again : let s := at_ (.endl 1#3 0x102#11) { loops := [⟨1#3, 3, 2⟩] }
    s.dev.reached 0#11 = some (.endl 1#3 0x102#11) ∧ (s.dev.core 0#11).loops = [⟨1#3, 3, 2⟩] ∧ (s.dev.core 0#11).zrun < 16 ∧
      ((did (.endl 0#11) s).core 0#11).pc = 0x102#11 := by decide +kernel
theorem wit_endl_over : let s := at_ (.endl 1#3 0x102#11) { loops := [⟨1#3, 3, 3⟩] }
    s.dev.reached 0#11 = some (.endl 1#3 0x102#11) ∧ (s.dev.core 0#11).loops = [⟨1#3, 3, 3⟩] ∧ (s.dev.core 0#11).zrun < 16 ∧
      ((did (.endl 0#11) s).core 0#11).pc = 0x101#11 ∧ ((did (.endl 0#11) s).core 0#11).loops = [] := by decide +kernel
theorem wit_call : let s := at_ (.call 0xFF#11) { calls := [0x120#11] }
    s.dev.reached 0#11 = some (.call 0xFF#11) ∧ (s.dev.core 0#11).calls.length < 2 ∧ (0xFF#11 : BitVec 11).toNat ≤ 0xFF ∧
      (s.dev.core 0#11).zrun < 16 ∧ ((did (.call 0#11) s).core 0#11).calls = [0x101#11, 0x120#11] := by decide +kernel
theorem wit_ret : let s := at_ .ret { calls := [0x120#11] }
    s.dev.reached 0#11 = some .ret ∧ (s.dev.core 0#11).calls = [0x120#11] ∧ (s.dev.core 0#11).zrun < 16 ∧
      ((did (.ret 0#11) s).core 0#11).pc = 0x120#11 := by decide +kernel

theorem wit_nest_loop : let s := at_ (.loop 3#12 1#3 0x110#11) { loops := [⟨1#3, 1, 0⟩] }
    s.dev.reached 0#11 = some (.loop 3#12 1#3 0x110#11) ∧ (∃ f ∈ (s.dev.core 0#11).loops, f.level = 1#3) ∧
      ((did (.loop 0#11) s).core 0#11).fault = .nesting := by decide +kernel
theorem wit_nest_endl : let s := at_ (.endl 1#3 0x102#11) { loops := [⟨0#3, 1, 0⟩] }
    s.dev.reached 0#11 = some (.endl 1#3 0x102#11) ∧ (∀ f ∈ (s.dev.core 0#11).loops.head?, f.level ≠ 1#3) ∧
      ((did (.endl 0#11) s).core 0#11).fault = .nesting := by decide +kernel
theorem wit_nest_call : let s := at_ (.call 0x100#11) {}
    s.dev.reached 0#11 = some (.call 0x100#11) ∧ 0xFF < (0x100#11 : BitVec 11).toNat ∧
      ((did (.call 0#11) s).core 0#11).fault = .nesting := by decide +kernel
theorem wit_nest_call_third : let s := at_ (.call 0#11) { calls := [0#11, 0#11] }
    s.dev.reached 0#11 = some (.call 0#11) ∧ 2 ≤ (s.dev.core 0#11).calls.length ∧
      ((did (.call 0#11) s).core 0#11).fault = .nesting := by decide +kernel
theorem wit_nest_ret : let s := at_ .ret {}
    s.dev.reached 0#11 = some .ret ∧ (s.dev.core 0#11).calls = [] ∧ ((did (.ret 0#11) s).core 0#11).fault = .nesting := by decide +kernel
theorem wit_nest_fire : let s := at_ (.fire { idle with flev := 8#4 }) {}
    s.dev.reached 0#11 = some (.fire { idle with flev := 8#4 }) ∧ levelOk (s.dev.core 0#11).loops 8#4 = false ∧
      ((did (.fire 0#11 []) s).core 0#11).fault = .nesting := by decide +kernel

theorem wit_fire_idle : let s := at_ (.fire { idle with rpt := 2#12 }) { wdogEn := false, cycCount := 7 }
    s.dev.reached 0#11 = some (.fire { idle with rpt := 2#12 }) ∧ idleFire { idle with rpt := 2#12 } ∧ idleCore (s.dev.core 0#11) ∧
      ((did (.fire 0#11 []) s).core 0#11).cycCount = 10 := by decide +kernel
theorem wit_fire_whole : let s := at_ (.fire { idle with rpt := 2#12 }) { wdogEn := false, cycCount := 7 }
    s.dev.reached 0#11 = some (.fire { idle with rpt := 2#12 }) ∧
      ((s.dev.modCore 0#11 (fun k => k.strike [])).wholeFire 0#11 { idle with rpt := 2#12 }).isSome = true ∧
      ((did (.fire 0#11 []) s).core 0#11).pc = 0x101#11 := by decide +kernel
theorem wit_wait_weights : let s := waiting idle .weights {}
    s.dev.waitsFor 0#11 .weights = some idle ∧ ((s.dev.quiet 0#11 (s.dev.core 0#11).loadLeft).core 0#11).state ≠ .faulted ∧
      (((s.dev.quiet 0#11 (s.dev.core 0#11).loadLeft).waitOver 0#11).wholeFire 0#11 idle).isSome = true ∧
      ((did (.weightBufferLoadDone 0#11) s).core 0#11).pc = 0x101#11 := by decide +kernel
theorem wit_wait_swap : let s := waiting { idle with wswap := 1#1 } .wswap {}
    s.dev.waitsFor 0#11 .wswap = some { idle with wswap := 1#1 } ∧
      ((s.dev.quiet 0#11 (s.dev.core 0#11).loadLeft).core 0#11).state ≠ .faulted ∧
      ((s.dev.quiet 0#11 (s.dev.core 0#11).loadLeft).core 0#11).wload = none ∧
      ((did (.weightBufferLoadDone 0#11) s).core 0#11).active1 = true := by decide +kernel
theorem wit_wait_drain : let s := waiting idle .drain {}
    s.dev.waitsFor 0#11 .drain = some idle ∧
      ((s.dev.cyclesDrain 0#11 (s.dev.core 0#11).drainBound).bind (fun d => (d.waitOver 0#11).wholeFire 0#11 idle)).isSome = true ∧
      ((did (.accumulatorDrainDone 0#11) s).core 0#11).cycCount = 1 := by decide +kernel
theorem wit_wait_scale : let s := waiting idle .scale {}
    s.dev.waitsFor 0#11 .scale = some idle ∧ ((s.dev.quiet 0#11 (s.dev.core 0#11).scaleLeft).core 0#11).state ≠ .faulted ∧
      (((s.dev.quiet 0#11 (s.dev.core 0#11).scaleLeft).waitOver 0#11).wholeFire 0#11 idle).isSome = true ∧
      ((did (.scaleSelectionDone 0#11) s).core 0#11).state = .running := by decide +kernel
theorem wit_wait_pass2 : let r : Row2 := { vals := [], width := 1, chans := 1, dsel := 0, age := 4, fixed := true, scales := [],
                                           out := [(.data, 5#64)], begun := true }
    let s := waiting idle .pass2 { row2 := [r] }
    s.dev.waitsFor 0#11 .pass2 = some idle ∧ idleCore { s.dev.core 0#11 with row2 := [] } ∧ (s.dev.core 0#11).outPort 0 = none ∧
      (s.dev.core 0#11).outPort 1 = none ∧ (s.dev.core 0#11).at_ = 0 ∧
      ((s.dev.cyclesPass2 0#11 idle (s.dev.core 0#11).pass2Bound).bind (fun d => (d.waitOver 0#11).wholeFire 0#11 idle)).isSome = true ∧
      ((did (.pass2RowDone 0#11) s).core 0#11).row2 = [] ∧
      ((did (.pass2RowDone 0#11) s).core 0#11).cycCount = 2 := by decide +kernel

theorem wit_frame : let s := onQueue (at_ (.frame 1#4 0#2) { wdogEn := false, ins := [some ⟨0#13, 0#10⟩] }) [startMarker 9#32 3#10 0#8 0#3]
    s.dev.reached 0#11 = some (.frame 1#4 0#2) ∧ portsOf 1#4 = [0] ∧ (s.dev.core 0#11).inPort 0 = some ⟨0#13, 0#10⟩ ∧
      s.dev.peek 0#13 0#10 = .word (startMarker 9#32 3#10 0#8 0#3) ∧ (s.dev.core 0#11).kind = .compute ∧ (s.dev.core 0#11).rowOver = false ∧
      ((did (.frame 0#11) s).core 0#11).frame = 9#32 ∧
      ((did (.frame 0#11) s).core 0#11).ctx = 3#10 := by decide +kernel
theorem wit_load : let s := onQueue (at_ (.load 0#13 0#2 7#13) { ins := [some ⟨0#13, 0#10⟩], wdogEn := false }) [{ payload := 0xAB#64 }]
    s.dev.reached 0#11 = some (.load 0#13 0#2 7#13) ∧ (s.dev.core 0#11).inPort 0 = some ⟨0#13, 0#10⟩ ∧
      s.dev.peek 0#13 0#10 = .word { payload := 0xAB#64 } ∧ (s.dev.core 0#11).kind ≠ .comparison ∧ (s.dev.core 0#11).nullTile = false ∧
      (s.dev.core 0#11).isLost 0 = false ∧ (s.dev.core 0#11).wdogEn = false ∧
      tblGet 0#64 ((did (.load 0#11 []) s).core 0#11).ls 7 = 0xAB#64 := by decide +kernel
theorem wit_rowend_fault : let s := at_ (.rowend 3#14 9#28) { cycCount := 4 }
    s.dev.reached 0#11 = some (.rowend 3#14 9#28) ∧ (s.dev.core 0#11).drains = [] ∧ (s.dev.core 0#11).wload = none ∧
      (s.dev.core 0#11).finq = none ∧ (s.dev.core 0#11).wdogEn = true ∧ ((did (.rowend 0#11 []) s).core 0#11).fault = .rowCycle := by decide +kernel
theorem wit_rowend : let s := at_ (.rowend 3#14 8#28) { cycCount := 4, rowmax := 100 }
    s.dev.reached 0#11 = some (.rowend 3#14 8#28) ∧ (s.dev.core 0#11).drains = [] ∧ (s.dev.core 0#11).wload = none ∧
      (s.dev.core 0#11).finq = none ∧ ((did (.rowend 0#11 []) s).core 0#11).rowCount = 1 ∧ ((did (.rowend 0#11 []) s).core 0#11).rowcycLast = 8#28 := by decide +kernel

theorem wit_waitd_empty : let s := onQueue (at_ (.waitd 0#2 5#20 0#1 0#13) { ins := [some ⟨0#13, 0#10⟩] }) []
    s.dev.reached 0#11 = some (.waitd 0#2 5#20 0#1 0#13) ∧ s.dev.waitdValid 0#11 0 = false ∧ (s.dev.core 0#11).zrun < 16 ∧
      ((did (.waitd 0#11) s).core 0#11).state = .waitd := by decide +kernel
theorem wit_waitd_valid : let s := onQueue (at_ (.waitd 0#2 5#20 0#1 0#13) { ins := [some ⟨0#13, 0#10⟩] }) [{ payload := 1#64 }]
    s.dev.reached 0#11 = some (.waitd 0#2 5#20 0#1 0#13) ∧ s.dev.waitdValid 0#11 0 = true ∧ (s.dev.core 0#11).zrun < 16 ∧
      ((did (.waitd 0#11) s).core 0#11).pc = 0x101#11 := by decide +kernel
theorem wit_waitd_comes : let s := inWait [{ payload := 1#64 }]
    s.dev.inWaitd 0#11 = some (0, 5#20) ∧ (5#20 : BitVec 20).toNat ≤ (5#20 : BitVec 20).toNat ∧ s.dev.waitdValid 0#11 0 = true ∧
      ((did (.waitdPortValid 0#11 5#20) s).core 0#11).holdCyc = 5#32 := by decide +kernel
theorem wit_waitd_deadline : let s := inWait []
    s.dev.inWaitd 0#11 = some (0, 5#20) ∧ s.dev.waitdValid 0#11 0 = false ∧ ((did (.waitdDeadline 0#11) s).core 0#11).flags = 8#8 ∧
      ((did (.waitdDeadline 0#11) s).core 0#11).nullSubs = 1 := by decide +kernel
theorem wit_held : let s := onQueue (mod0 (fun k => { k with state := .held }) (at_ (.frame 1#4 0#2) { ins := [some ⟨0#13, 0#10⟩] })) []
    s.dev.heldAt 0#11 = some (.frame 1#4 0#2) ∧ (s.dev.core 0#11).wait = .none ∧ s.dev.peek 0#13 0#10 = .empty ∧
      ((did (.heldCycleFire 0#11 7#32) s).core 0#11).holdCyc = 7#32 := by decide +kernel
theorem wit_held_fire : let s := mod0 (fun k => { k with state := .held }) (at_ (.fire idle) { wdogEn := false })
    s.dev.heldAt 0#11 = some (.fire idle) ∧ (s.dev.core 0#11).wait = .none ∧
      ((s.dev.modCore 0#11 (fun k => { k with holdCyc := satAdd k.holdCyc 7 })).wholeFire 0#11 idle).isSome = true ∧
      ((did (.heldCycleFire 0#11 7#32) s).core 0#11).holdCyc = 7#32 := by decide +kernel
theorem wit_gate_waitd : let s := withCore { state := .waitd }
    (s.dev.core 0#11).state = .waitd ∧ (s.dev.core 0#11).gateEn = true ∧ ((did (.stageIdleGate 0#11) s).core 0#11).gated = true := by
  decide +kernel
theorem wit_waitd_at_once : let s := onQueue (at_ (.waitd 0#2 0#20 0#1 0#13) { ins := [some ⟨0#13, 0#10⟩] }) []
    s.dev.reached 0#11 = some (.waitd 0#2 0#20 0#1 0#13) ∧ s.dev.waitdValid 0#11 0 = false ∧ (s.dev.core 0#11).zrun < 16 ∧
      ((did (.waitd 0#11) s).core 0#11).nullSubs = 1 := by decide +kernel
theorem wit_gate : let s := withCore { state := .held }
    (s.dev.core 0#11).state = .held ∧ (s.dev.core 0#11).gateEn = true ∧ ((did (.stageIdleGate 0#11) s).core 0#11).gated = true := by
  decide +kernel
theorem wit_ungate : let s := mod0 (fun k => { k with gated := true }) (at_ (.fire idle) { wdogEn := false })
    (s.dev.core 0#11).gated = true ∧ s.dev.canFire 0#11 = true ∧ ((did (.stageIdleUngate 0#11) s).core 0#11).holdCyc = 2#32 := by decide +kernel

theorem wit_writeback_running : let s := mod0 (fun k => { k with lsFix := [4#13], lsErr := [(4, 1)] }) (at_ (.fire idle) { wdogEn := false })
    4#13 ∈ (s.dev.core 0#11).lsFix ∧ (∀ x ∈ s.dev.nextAddrs 0#11, x % 8 ≠ 4) ∧
      tblGet 0 ((did (.lsWriteback 0#11 4#13) s).core 0#11).lsErr 4 = 0 := by decide +kernel
theorem wit_writeback : let s := withCore { state := .held, lsFix := [4#13], lsErr := [(4, 1)] }
    4#13 ∈ (s.dev.core 0#11).lsFix ∧ (s.dev.core 0#11).state = .held ∧ tblGet 0 (s.dev.core 0#11).lsErr 4 ≠ 2 ∧
      tblGet 0 ((did (.lsWriteback 0#11 4#13) s).core 0#11).lsErr 4 = 0 := by decide +kernel
theorem wit_writeback_two : let s := withCore { state := .held, assigned := true, lsFix := [4#13], lsErr := [(4, 2)] }
    4#13 ∈ (s.dev.core 0#11).lsFix ∧ (s.dev.core 0#11).state = .held ∧ tblGet 0 (s.dev.core 0#11).lsErr 4 = 2 ∧
      ((did (.lsWriteback 0#11 4#13) s).core 0#11).fault = .localStore := by decide +kernel
theorem wit_xcfg : let s := host { xptWen := true }
    hostRuns s ∧ s.dev.expertLive 0 = true ∧ s.dev.xptWen = true ∧ (s.dev.part 0#5).xcfgOpen = true ∧
      ((did (.xcfgWrite 0#11 0#32) s).core 0#11).wdogEn = false := by decide +kernel
theorem wit_xcfg_runs : let s := host { xptWen := true, parts := rel0 }
    hostRuns s ∧ s.dev.expertLive 0 = true ∧ (s.dev.part 0#5).xcfgOpen = false ∧
      ((did (.xcfgWrite 0#11 0#32) s).core 0#11).wdogEn = true ∧ (did (.xcfgWrite 0#11 0#32) s).xptRej = 1#32 := by decide +kernel

theorem wit_nest_ok : let s := at_ (.loop 3#12 1#3 0x110#11) { loops := [⟨0#3, 1, 0⟩], calls := [0x120#11, 0x130#11] }
    nestOk (s.dev.core 0#11) ∧ ((did (.loop 0#11) s).core 0#11).loops.length = 2 := by decide +kernel

/-! ## Queues -/

/-- Partition 0 released, queue 0 with the words `ws`, changed by `f`. -/
def onQ (ws : List QWord) (f : Queue → Queue) : State := { dev := { parts := rel0, queues := [(0, f (queueOf ws))] } }
/-- Its receiver 0 as `x`. -/
def rcvAs (x : Rcv) (q : Queue) : Queue := { q with rcvs := [x] }
/-- A word with payload `n`. -/
def wd (n : W64) : QWord := { payload := n }
/-- Receiver 0 of queue 0. -/
def rcv0 (d : Dev) : Rcv := ((d.queue 0#13).rcv 0#10).getD {}

theorem wit_queue_write : let s := onQ [wd 1#64] id
    plainQueue s 0#13 ∧ 0 < ((s.dev.queue 0#13).prod 0).credits ∧ ((s.dev.queue 0#13).prod 0).dropToMarker = false ∧
      ((did (.queueWrite 0#13 0#10 (wd 2#64)) s).queue 0#13).store = [some (wd 1#64), some (wd 2#64)] ∧
      (((did (.queueWrite 0#13 0#10 (wd 2#64)) s).queue 0#13).prod 0).credits = 1 := by decide +kernel
theorem wit_credit : let s := onQ [wd 1#64] id
    s.dev.queueLive 0#13 = true ∧ (s.dev.part (partOfQueue 0#13)).frozen = false ∧ s.dev.portForced 0#13 0#10 = false ∧
      (s.dev.queue 0#13).slot = none ∧ (s.dev.queue 0#13).elastic = 0 ∧ (∀ x ∈ (s.dev.queue 0#13).rcvs, x.detach = false) ∧
      s.dev.route.groups = [] ∧ (s.dev.net (s.dev.queue 0#13).net).groups = [] ∧ ((s.dev.queue 0#13).prod 0).credits = 2 ∧
      ((s.dev.queue 0#13).prod 0).scredits = 0 ∧ s.dev.canTake 0#13 1 = true ∧
      (((did (.creditGrant 0#13 0#10 1) s).queue 0#13).prod 0).credits = 3 := by decide +kernel
theorem wit_write_packet : let s := onQ [] (fun q => { q with pmode := .lengthPrefix })
    s.dev.queueLive 0#13 = true ∧ (s.dev.queue 0#13).hasCredit 0 = true ∧ s.dev.portForced 0#13 0#10 = false ∧
      ((s.dev.queue 0#13).prod 0).dropToMarker = false ∧
      (((did (.queueWrite 0#13 0#10 (wd 2#64)) s).queue 0#13).prod 0).credits = 1 ∧
      ((did (.queueWrite 0#13 0#10 (wd 2#64)) s).queue 0#13).wordIdx = 1 := by decide +kernel
theorem wit_absorb : let s : State := { dev := { queues := [(0, queueOf [])] } }
    s.dev.queueLive 0#13 = false ∧ (s.dev.die 0).inReset = false ∧ (s.dev.die 0).railOn = true ∧
      ((did (.queueWrite 0#13 0#10 (wd 2#64)) s).part 0#5).absorb = 1#32 := by decide +kernel
/-- The slots of an edge of two positions, one row of two words each. -/
def slots2 : SlotImg := { rows := 2, words := 2, ncore := 2, rb := 1, members := 1, grouped := false }
theorem wit_credit_slot : let s := onQ [] (fun q => { q with slot := some slots2, prods := [(0, { credits := 1, slotFrame := 1 })] })
    s.dev.queueLive 0#13 = true ∧ s.dev.portForced 0#13 0#10 = false ∧
      s.dev.canTake 0#13 ((s.dev.queue 0#13).slotNeed slots2 0 1 - (s.dev.queue 0#13).store.length) = true ∧
      (((did (.creditGrant 0#13 0#10 1) s).queue 0#13).prod 0).credits = 2 := by decide +kernel
theorem wit_credit_slot_full : let s := onQ [] (fun q => { q with cap := 1, slot := some slots2, prods := [(0, { credits := 1, slotFrame := 1 })] })
    s.dev.canTake 0#13 ((s.dev.queue 0#13).slotNeed slots2 0 1 - (s.dev.queue 0#13).store.length) = false ∧
      (((did (.creditGrant 0#13 0#10 1) s).queue 0#13).prod 0).credits = 1 ∧
      ((did (.creditGrant 0#13 0#10 1) s).queue 0#13).qhold = 1#32 := by decide +kernel
theorem wit_credit_stager : let s := onQ [] (fun q => { q with elastic := 4, spilling := true, stager := List.replicate 3 none, prods := [(0, {})] })
    s.dev.queueLive 0#13 = true ∧ (s.dev.queue 0#13).slot = none ∧ (s.dev.queue 0#13).elastic ≠ 0 ∧ (s.dev.queue 0#13).stagerRoom 1 = true ∧
      (((did (.creditGrant 0#13 0#10 1) s).queue 0#13).prod 0).scredits = 1 := by decide +kernel
theorem wit_credit_stager_full : let s := onQ [] (fun q => { q with elastic := 4, spilling := true, stager := List.replicate 112 none, prods := [(0, {})] })
    (s.dev.queue 0#13).stagerRoom 1 = false ∧ (((did (.creditGrant 0#13 0#10 1) s).queue 0#13).prod 0) = {} ∧
      ((did (.creditGrant 0#13 0#10 1) s).queue 0#13).qhold = 1#32 := by decide +kernel
theorem wit_credit_full : let s := onQ [] (fun q => { q with cap := 2 })
    s.dev.queueLive 0#13 = true ∧ s.dev.canTake 0#13 1 = false ∧ ((s.dev.queue 0#13).prod 0).credits = 2 ∧
      (((did (.creditGrant 0#13 0#10 1) s).queue 0#13).prod 0).credits = 2 ∧
      ((did (.creditGrant 0#13 0#10 1) s).queue 0#13).qhold = 1#32 := by decide +kernel

theorem wit_seq_read : let s := onQ [wd 1#64] id
    (s.dev.queue 0#13).rcv 0#10 = some {} ∧ steadyRcv {} ∧ s.dev.peek 0#13 0#10 = .word (wd 1#64) ∧
      (rcv0 (did (.sequentialRead 0#13 0#10) s)).h = 1#32 := by decide +kernel
theorem wit_seq_read_marker : let s := onQ [startMarker 0#32 0#10 0#8 1#3] (rcvAs { m := some 0#32 })
    s.dev.peek 0#13 0#10 = .word (startMarker 0#32 0#10 0#8 1#3) ∧ (rcv0 (did (.sequentialRead 0#13 0#10) s)).e = 1#3 ∧
      (rcv0 (did (.sequentialRead 0#13 0#10) s)).b = 1#32 ∧ (rcv0 (did (.sequentialRead 0#13 0#10) s)).h = 0#32 := by decide +kernel
theorem wit_seq_read_empty : let s := onQ [] id
    (s.dev.queue 0#13).rcv 0#10 = some {} ∧ s.dev.peek 0#13 0#10 = .empty ∧
      rcv0 (did (.sequentialRead 0#13 0#10) s) = {} := by decide +kernel
theorem wit_seq_read_gap : let s := onQ [wd 1#64] (rcvAs { gap := some (2#32, 1#16) })
    (s.dev.queue 0#13).rcv 0#10 = some { gap := some (2#32, 1#16) } ∧
      (match s.dev.peek 0#13 0#10 with | .gap w => decide (rcv0 (did (.sequentialRead 0#13 0#10) s) = { last := some w }) | _ => false) = true := by decide +kernel
theorem wit_windowed : let s := onQ [wd 1#64, wd 2#64] id
    s.dev.readsDead 0#13 0#10 = false ∧ (s.dev.queue 0#13).rcv 0#10 = some {} ∧ earlier (0#32 + 1#32) 0#32 = false ∧
      pdist (s.dev.queue 0#13).old (0#32 + 1#32) < (s.dev.queue 0#13).vis ∧ stale 0#3 (wd 2#64) = false ∧
      (rcv0 (did (.windowedRead 0#13 0#10 1#32) s)).last = some (wd 2#64) := by decide +kernel
theorem wit_windowed_beyond : let s := onQ [wd 1#64, wd 2#64] id
    s.dev.readsDead 0#13 0#10 = false ∧ earlier (0#32 + 2#32) 0#32 = false ∧ (s.dev.queue 0#13).cell 2#32 = none ∧
      (s.dev.queue 0#13).vis ≤ pdist (s.dev.queue 0#13).old (0#32 + 2#32) ∧
      (rcv0 (did (.windowedRead 0#13 0#10 2#32) s)).last = none := by decide +kernel

theorem wit_mark : let s := onQ [wd 1#64] (rcvAs { r := 1#32 })
    (s.dev.queue 0#13).rcv 0#10 = some { r := 1#32 } ∧ s.dev.queueFrozen 0#13 = false ∧ (rcv0 (did (.mark 0#13 0#10) s)).m = some 1#32 := by decide +kernel
theorem wit_rewind : let s := onQ [wd 1#64] (rcvAs { r := 1#32, m := some 0#32 })
    (s.dev.queue 0#13).rcv 0#10 = some { r := 1#32, m := some 0#32 } ∧ (rcv0 (did (.rewind 0#13 0#10) s)).r = 0#32 := by decide +kernel
theorem wit_rewind_none : let s := onQ [wd 1#64] (rcvAs { r := 1#32 })
    (s.dev.queue 0#13).rcv 0#10 = some { r := 1#32 } ∧ ((did (.rewind 0#13 0#10) s).queue 0#13).markerr = 1#16 := by decide +kernel
theorem wit_release : let s := onQ [wd 1#64, wd 2#64] (rcvAs { r := 2#32, m := some 0#32 })
    steadyRcv { r := 2#32, m := some 0#32 } ∧ pdist 0#32 2#32 ≤ pdist 0#32 (s.dev.queue 0#13).tail ∧
      (rcv0 (did (.release 0#13 0#10 2#32) s)).h = 2#32 ∧ (rcv0 (did (.release 0#13 0#10 2#32) s)).m = none := by decide +kernel
theorem wit_release_earlier : let s := onQ [wd 1#64] (fun q => { rcvAs { r := 9#32, h := 9#32 } q with old := 9#32 })
    (s.dev.queue 0#13).tail = 10#32 ∧ pdist 9#32 10#32 < pdist 9#32 8#32 ∧ earlier 8#32 9#32 = true ∧
      ((did (.release 0#13 0#10 8#32) s).queue 0#13).markerr = 1#16 ∧ (rcv0 (did (.release 0#13 0#10 8#32) s)).h = 9#32 := by
  decide +kernel

theorem wit_release_beyond : let s := onQ [wd 1#64] id
    steadyRcv {} ∧ pdist 0#32 (s.dev.queue 0#13).tail < pdist 0#32 9#32 ∧ earlier 9#32 0#32 = false ∧
      (rcv0 (did (.release 0#13 0#10 9#32) s)).h = 1#32 ∧ ((did (.release 0#13 0#10 9#32) s).queue 0#13).markerr = 1#16 := by decide +kernel
theorem wit_mark_frozen : let s : State := { dev := { parts := [(0, { cast := .released, frozen := true })], queues := [(0, queueOf [wd 1#64])] } }
    s.dev.queueFrozen 0#13 = true ∧ (s.dev.queue 0#13).rcv 0#10 = some {} := by decide +kernel

theorem wit_epoch : let s := onQ [{ payload := 1#64, epoch := 0#3 }] (rcvAs { e := 1#3 })
    (s.dev.queue 0#13).rcv 0#10 = some { e := 1#3 } ∧ steadyRcv { e := 1#3 } ∧ s.dev.peek 0#13 0#10 = .stale ∧
      ((did (.epochDiscard 0#13 0#10) s).queue 0#13).epdisc = 1#32 ∧ (rcv0 (did (.epochDiscard 0#13 0#10) s)).r = 1#32 := by decide +kernel
theorem wit_bad_packet : let s := onQ [wd 1#64, wd 2#64] (fun q => { rcvAs { skip := 2 } q with pmode := .lengthPrefix })
    steadyRcv { skip := 2 } ∧ ({ skip := 2 } : Rcv).skip ≠ 0 ∧ (rcv0 (did (.badPacketSkip 0#13 0#10) s)).h = 2#32 ∧
      (rcv0 (did (.badPacketSkip 0#13 0#10) s)).skip = 0 := by decide +kernel
theorem wit_spill_return : let s := onQ [wd 1#64] (fun q => { q with spilling := true, elastic := 4 })
    s.dev.queueLive 0#13 = true ∧ (s.dev.queue 0#13).ring = [] ∧ (s.dev.queue 0#13).stager = [] ∧ s.dev.queueFrozen 0#13 = false ∧
      ((did (.spillReturn 0#13) s).queue 0#13).spilling = false := by decide +kernel
theorem wit_spill_back : let s := onQ [wd 1#64] (fun q => { q with spilling := true, elastic := 4, stager := [some (wd 2#64)] })
    s.dev.queueLive 0#13 = true ∧ s.dev.queueFrozen 0#13 = false ∧ (s.dev.queue 0#13).spillBusy = false ∧ (s.dev.queue 0#13).ring = [] ∧
      s.dev.canTake 0#13 1 = true ∧ ((did (.spillReturn 0#13) s).queue 0#13).stager = [] ∧
      ((did (.spillReturn 0#13) s).queue 0#13).store.length = 2 := by decide +kernel
theorem wit_spill_ring : let s := onQ [wd 1#64] (fun q => { q with cap := 128, floor := 128, spilling := true, elastic := 4, ring := [⟨0#32, 0⟩] })
    s.dev.queueLive 0#13 = true ∧ s.dev.queueFrozen 0#13 = false ∧ (s.dev.queue 0#13).spillBusy = false ∧ (s.dev.queue 0#13).retBusy = false ∧
      (s.dev.queue 0#13).stager.length < 56 ∧ s.dev.canTake 0#13 56 = true ∧
      (locate s.dev.die1 ((s.dev.queue 0#13).burstAddr 0)).isSome = true ∧
      ((did (.spillReturn 0#13) s).queue 0#13).retBusy = true := by decide +kernel
theorem wit_void_slot : let s := onQ [startMarker 0#32 0#10 0#8 0#3] (fun q => { q with slot := some slots2, prods := [], voids := [⟨0, 0, 0, 2⟩] })
    s.dev.queueFrozen 0#13 = false ∧ (s.dev.queue 0#13).voidTurn slots2 ⟨0, 0, 0, 2⟩ = true ∧
      ((s.dev.queue 0#13).fillVoid slots2 ⟨0, 0, 0, 2⟩ ((s.dev.queue 0#13).store.length + s.dev.roomOf 0#13)).2 = true ∧
      ((did (.voidSlotFill 0#13) s).queue 0#13).voids = [] := by decide +kernel
theorem wit_void_fill : let s := onQ [] (fun q => { q with prods := [(0, { voidLeft := 3, voidRow := 1 })] })
    s.dev.queueFrozen 0#13 = false ∧ (s.dev.queue 0#13).prods = [(0, { voidLeft := 3, voidRow := 1 })] ∧ 3 ≤ s.dev.roomOf 0#13 ∧
      (((did (.voidSlotFill 0#13) s).queue 0#13).prod 0).voidLeft = 0 ∧
      ((did (.voidSlotFill 0#13) s).queue 0#13).store.length = 3 := by decide +kernel

/-- Two queues of partition 0 that its census watches: a producer of the first waits for a credit, the second holds a word. -/
def stuck (p : Partition) : State :=
  { dev := { parts := [(0, { p with cast := .released })], queues :=
      [(0, { cap := 1, rcvs := [{ part := some 0#5 }], prods := [(0, { wants := true })] }),
       (1, { cap := 1, rcvs := [{ part := some 0#5 }], store := [some (wd 1#64)] })] } }
theorem wit_census : let s := stuck { mode := 0x0D0#10 }
    (s.dev.watchedOf 0#5).find? (fun q => (s.dev.queue q).full) = some 0#13 ∧
      (s.dev.watchedOf 0#5).find? (fun q => (s.dev.queue q).nonEmpty) = some 1#13 ∧ s.dev.censusHeld 0#5 = false ∧
      s.dev.hostMode 0#5 4 = true ∧ s.dev.companion 0#5 0#5 = false ∧ ((did (.censusFire 0#5) s).part 0#5).frozen = true ∧
      ((did (.censusFire 0#5) s).part 0#5).neq = 1#13 := by decide +kernel
theorem wit_census_hardware : let s := stuck { mode := 0x0C0#10 }
    s.dev.hostMode 0#5 4 = false ∧ s.dev.censusHeld 0#5 = false ∧ (∀ o ∈ s.dev.domain 0#5 0#5, o ∉ (s.dev.net 0#5).dropPend) ∧
      ((did (.censusFire 0#5) s).net 0#5).dropPend = s.dev.domain 0#5 0#5 ∧ ((did (.censusFire 0#5) s).part 0#5).frozen = false := by
  decide +kernel
theorem wit_census_none : let s := onQ [] id
    s.dev.censusHeld 0#5 = false ∧ (s.dev.watchedOf 0#5).find? (fun q => (s.dev.queue q).full) = none ∧
      ((did (.censusFire 0#5) s).part 0#5).dlkCnt = 65536#17 := by decide +kernel
theorem wit_continue_ignored : let s := host { (stuck {}).dev with xptWen := true }
    hostRuns s ∧ s.dev.expertLive 0 = true ∧ (s.dev.part 0#5).frozen = false ∧ (did (.dlkContinue 0#5) s).xptRej = 1#32 ∧
      (did (.dlkDropAndResume 0#5) s).xptRej = 1#32 := by decide +kernel
theorem wit_continue : let s := host { (stuck { frozen := true }).dev with xptWen := true }
    hostRuns s ∧ s.dev.expertLive 0 = true ∧ (s.dev.part 0#5).frozen = true ∧
      ((did (.dlkContinue 0#5) s).part 0#5).frozen = false := by decide +kernel
theorem wit_drop_and_resume : let s := host { (stuck { frozen := true }).dev with xptWen := true, nets := [(0, { img := some { num := 0#5, parts := [0#5], interval := 4096 } })] }
    hostRuns s ∧ s.dev.expertLive 0 = true ∧ 0#5 ∈ s.dev.domain (s.dev.part 0#5).net 0#5 ∧ (s.dev.queue 1#13).cap ≠ 0 ∧
      ((did (.dlkDropAndResume 0#5) s).queue 1#13).store = [] ∧ ((did (.dlkDropAndResume 0#5) s).part 0#5).frozen = false := by
  decide +kernel
theorem wit_drop : let s : State := { dev := { (stuck {}).dev with nets := [(0, { dropPend := [0#5] })] } }
    0#5 ∈ (s.dev.net (s.dev.part 0#5).net).dropPend ∧ (s.dev.queue 1#13).cap ≠ 0 ∧
      ((did (.deadlockDrop 0#5) s).queue 1#13).store = [] := by decide +kernel

/-! ## Armature and packets -/

/-- Segment 0 as `g`, partition 0 as `p`. -/
def withSeg (g : Seg) (p : Partition) : State := { dev := { parts := [(0, { p with cast := .released, segs := [(0, g)] })] } }
theorem wit_contention : let s := withSeg { own := true, drv := 0#2, en := 1#4 } {}
    (s.dev.seg 0#24).forced = false ∧ contended (s.dev.seg 0#24).own 3#4 = true ∧ (s.dev.seg 0#24).liftedAt = none ∧
      ((did (.contentionDetect 0#24 3#4) s).seg 0#24).forced = true ∧
      ((did (.contentionDetect 0#24 3#4) s).part 0#5).contCnt = 1#32 := by decide +kernel
theorem wit_notice : let s := withCore { assigned := true, inFrame := true, flags := 1#8 }
    (s.dev.core 0#11).assigned = true ∧ (s.dev.core 0#11).inFrame = true ∧ ((did (.contentionNotice 0#11) s).core 0#11).flags = 3#8 := by
  decide +kernel
theorem wit_lift : let s := withSeg { own := true, drv := 0#2, en := 3#4, forced := true } {}
    (s.dev.seg 0#24).forced = true ∧ s.dev.reloadHolds 0#24 = false ∧ 0#24 ∉ s.dev.health.badSegs ∧
      ((did (.forceLift 0#24) s).seg 0#24).en = 1#4 := by decide +kernel
theorem wit_scrub_start : let s := withSeg {} {}
    (s.dev.part 0#5).scrubs = true ∧ (s.dev.part 0#5).scrubbing = false ∧
      ((did (.scrubPassStart 0#5) s).part 0#5).scrubbing = true := by decide +kernel

theorem wit_scrub_read : let s := withSeg {} { scrubbing := true, scrubPos := 188414 }
    (s.dev.part 0#5).scrubs = true ∧ (s.dev.part 0#5).scrubPos + 1 < cfgWords ∧
      ((did (.scrubRead 0#5 .clean) s).part 0#5).scrubPos = 188415 := by decide +kernel
theorem wit_scrub_last : let s := withSeg {} { scrubbing := true, scrubPos := 188415 }
    (s.dev.part 0#5).scrubs = true ∧ (s.dev.part 0#5).scrubbing = true ∧ cfgWords ≤ (s.dev.part 0#5).scrubPos + 1 ∧
      ((did (.scrubRead 0#5 .clean) s).part 0#5).scrubPass = 1#32 ∧ ((did (.scrubRead 0#5 .single) s).part 0#5).scrubCe = 1#32 := by
  decide +kernel
theorem wit_scrub_double : let s : State := { dev := { parts := [(0, { cast := .released, scrubbing := true, scrubPos := 188415 })] } }
    (s.dev.part 0#5).scrubs = true ∧ cfgCoreWords ≤ (s.dev.part 0#5).scrubPos ∧ ((did (.scrubRead 0#5 .double) s).part 0#5).scrubUe = 1#32 ∧
      ((did (.scrubRead 0#5 .double) s).part 0#5).scrubUeAddr = some 188415#18 ∧
      ((did (.scrubRead 0#5 .double) s).part 0#5).reload = some 188415#18 := by decide +kernel
theorem wit_reload_segs : let s := withSeg { own := true, drv := 0#2, en := 3#4, forced := true } { reload := some 3#18 }
    (s.dev.part 0#5).reload = some 3#18 ∧ (∃ e ∈ (s.dev.part 0#5).segs, e.1 = (0#24 : SegId).toNat) ∧
      partOfSeg 0#24 = 0#5 := ⟨by decide +kernel, ⟨_, List.mem_singleton.2 rfl, rfl⟩, by decide +kernel⟩
theorem wit_reload : let s : State := { dev := { parts := [(0, { cast := .released, reload := some 3#18 })] } }
    (s.dev.part 0#5).reload = some 3#18 ∧ (s.dev.part 0#5).segs = [] ∧ ((did (.configFrameReloadDone 0#5) s).part 0#5).reload = none := by
  decide +kernel

/-- A class 0 packet from partition 0's control to partition 1's. -/
def pkt : Packet := { cls := 0#2, src := epPart 0#5, dst := epPart 1#5, opc := 7#8, seq := 1#20, crc := 0#32 }
theorem wit_forward : let s : State := { dev := { packets := { routers := [(0, { waiting := [(4#3, pkt)] })] } } }
    (s.dev.router 0).waiting = [(4#3, pkt)] ∧ siteOf pkt.dst = some (.part 1#5) ∧ routeOut 0 (.part 1#5) = 1 ∧
      nextRouter 0 1 = some (1, 3) ∧ s.dev.routerUp 0 = true ∧ s.dev.routerUp 1 = true ∧ s.dev.bufferRoom (some (1, 3)) pkt = true ∧
      ((did (.packetForward 0#6 1#3) s).router 1).waiting = [(3#3, pkt)] := by decide +kernel
theorem wit_deliver : let s : State := { dev := { packets := { routers := [(1, { waiting := [(3#3, pkt)] })] }, parts := [(1, { cast := .released })] } }
    (s.dev.router 1).waiting = [(3#3, pkt)] ∧ pkt.dmode = 0#2 ∧ siteOf pkt.dst = some (.part 1#5) ∧ routeOut 1 (.part 1#5) = 4 ∧
      nextRouter 1 4 = none ∧ s.dev.routerUp 1 = true ∧ s.dev.epRuns pkt.dst pkt.cls = true ∧
      tblGet [] (did (.packetForward 1#6 4#3) s).packets.inbox pkt.dst.toNat = [pkt] := by decide +kernel
/-- A packet that is no acknowledgement, with its right CRC, and an acknowledgement of it. -/
def sent : Packet := { pkt with opc := opcAck + 1#8 }
def good : Packet := { sent with crc := Packet.crcOf sent.header sent.payload }
def ackd : Packet := { cls := 0#2, src := epPart 1#5, dst := epPart 0#5, opc := opcAck, seq := 1#20, crc := 0#32 }
def ackg : Packet := { ackd with crc := Packet.crcOf ackd.header ackd.payload }
theorem zero_upset (p : Packet) : Packet.crcOf (p.header ^^^ (0#128).extractLsb' 0 96) p.payload = Packet.crcOf p.header p.payload ∧
    p.crc ^^^ (0#128).extractLsb' 96 32 = p.crc := by
  have h0 : (0#128).extractLsb' 0 96 = 0#96 := by decide
  have h1 : (0#128).extractLsb' 96 32 = 0#32 := by decide
  rw [h0, h1]; simp
theorem wit_receive : let s : State := { dev := { packets := { inbox := [(0x881, [good])] } } }
    tblGet [] s.dev.packets.inbox 0x881 = [good] ∧ siteOf 0x881#12 = some (.part 1#5) ∧ good.cls.toNat < 2 ∧ good.opc ≠ opcAck ∧
      Packet.crcOf (good.header ^^^ (0#128).extractLsb' 0 96) good.payload = (good.crc ^^^ (0#128).extractLsb' 96 32) :=
  ⟨rfl, by decide +kernel, by decide +kernel, by simp [good, sent], by
    rw [(zero_upset good).1, (zero_upset good).2]; simp only [good, Packet.header]⟩
theorem wit_receive_ack : let s : State := { dev := { packets := { inbox := [(0x880, [ackg])], unacked := [(good, 1)] } } }
    tblGet [] s.dev.packets.inbox 0x880 = [ackg] ∧ ackg.opc = opcAck ∧ ackg.cls.toNat < 2 ∧
      Packet.crcOf (ackg.header ^^^ (0#128).extractLsb' 0 96) ackg.payload = (ackg.crc ^^^ (0#128).extractLsb' 96 32) :=
  ⟨rfl, rfl, by decide +kernel, by
    rw [(zero_upset ackg).1, (zero_upset ackg).2]; simp only [ackg, Packet.header]⟩
theorem wit_resend_over : let s : State := { dev := { packets := { unacked := [(pkt, 3)] } } }
    s.dev.packets.unacked.find? (fun x => x.1.src == 0x880#12) = some (pkt, 3) ∧ (did (.packetResend 0x880#12) s).packets.unacked = [] := by
  decide +kernel
theorem wit_crc : let s : State := { dev := { packets := { inbox := [(0x880, [pkt])] } } }
    tblGet [] s.dev.packets.inbox 0x880 = [pkt] ∧ siteOf 0x880#12 = some (.part 0#5) ∧
      Packet.crcOf (pkt.header ^^^ 0#96) pkt.payload ≠ (pkt.crc ^^^ 0#32) ∧
      ((did (.packetReceive 0x880#12 0#128) s).part 0#5).pktCrc = 1#16 := by decide +kernel
/-- CRC-32C of the nine ASCII digits, the check value of the polynomial. -/
theorem test_crc32c : crc32c [0x31#8, 0x32#8, 0x33#8, 0x34#8, 0x35#8, 0x36#8, 0x37#8, 0x38#8, 0x39#8] = 0xE3069283#32 := by decide +kernel
theorem wit_resend : let s : State := { dev := { packets := { unacked := [(pkt, 2)] } } }
    s.dev.packets.unacked = [(pkt, 2)] ∧ pkt.src = 0x880#12 ∧ siteOf 0x880#12 = some (.part 0#5) ∧ 2 < 3 ∧
      (did (.packetResend 0x880#12) s).packets.unacked = [(pkt, 3)] := by decide +kernel
theorem wit_reduction : let s : State := { dev := { packets := { combines := [(0, [{ opc := 1#8, seq := 0#20, seen := [], payload := 0#2048 }])] } } }
    tblGet [] s.dev.packets.combines 0 ≠ [] ∧ tblGet [] (did (.reductionTimeout 0) s).packets.combines 0 = [] := by decide +kernel

/-! ## The mailbox and the image store -/

/-- The mailbox is free; `d` otherwise, and the image store. -/
def mbox (d : Dev) (x : Store) : State := { host d with store := x }
/-- A firmware image of version 2 under the vendor key. -/
def fw2 : FwImg := ⟨2#24, 1, 0#512, []⟩
/-- A network of partition 0 alone, and the set of it. -/
def net0 : NetImg := { num := 0#5, parts := [0#5], interval := 4096 }
def set0 : SetImg :=
  { setver := 1#32, ownser := 1#32, signer := 5, digest := 0#512, length := 64, lanemask := 0#32, coresreq := 0, clkreq := 600,
    sections := [], nets := [net0] }
def ud0 : UdImg := ⟨1#32, 0#32, 1, 0#512, 0xFF#8, 0#32, []⟩
def own0 : OwnerImg := ⟨1#32, 1, 0#512, 5, 0#512⟩

theorem wit_install_fw : let s := mbox {} {}
    mboxFree s ∧ s.dev.mbx.longs.length < 4 ∧ s.dev.mbx.longs = [] ∧ verifyFw s.store fw2 = 0#16 ∧
      (did (.installFirmware 7#8 fw2) s).mbx.longs = [{ tag := 7#8, opc := 1#8, result := 0#16, job := .firmware fw2 }] := by decide +kernel
theorem wit_install_set : let s := mbox {} {}
    mboxFree s ∧ (7#32 : W32).toNat < 8 ∧ s.dev.slotBusy ((7#32 : W32).setWidth 3) = false ∧ s.dev.slotCast ((7#32 : W32).setWidth 3) = false ∧
      (did (.installCastingSet 7#8 7#32 set0) s).mbx.longs.length = 1 := by decide +kernel
theorem wit_install_ud : let s := mbox {} {}
    mboxFree s ∧ s.dev.mbx.longs = [] ∧ (did (.installUserDefaults 7#8 ud0) s).mbx.longs.length = 1 := by
  decide +kernel
theorem wit_enrol : let s := mbox {} {}
    mboxFree s ∧ s.dev.mbx.longs = [] ∧ (did (.enrol 7#8 own0) s).mbx.longs.length = 1 := by decide +kernel
theorem wit_floor : let s := mbox {} {}
    mboxFree s ∧ s.dev.mbx.longs.length < 4 ∧
      (did (.floor 7#8 1#3) s).mbx.longs = [{ tag := 7#8, opc := 3#8, result := 0#16, job := .floor 1#3 }] := by decide +kernel
/-- A long command of firmware `fw2` in flight. -/
def longFw (b : Bool) : State := mbox { mbx := { longs := [{ tag := 7#8, opc := 1#8, result := 0#16, job := .firmware fw2 }] } } { runB := b }
theorem wit_long_end : let s := longFw false
    s.dev.fwAnswers = true ∧ (s.dev.mbx.longs.find? (fun x => x.tag == 7#8)).map (fun l => s.dev.longRuns l) = some false ∧
      (after (.longCommandEnd 7#8 0#16) s).store.bankB = some fw2 := by decide +kernel
theorem wit_long_end_b : let s := longFw true
    s.store.runB = true ∧ (after (.longCommandEnd 7#8 0#16) s).store.bankA = some fw2 ∧
      (after (.longCommandEnd 7#8 9#16) s).store = s.store := by decide +kernel

theorem wit_attest : let s := mbox {} {}
    mboxFree s ∧ s.store.factory.pufOk = true ∧ s.dev.psramRange (0x1000#40 : DevAddr).toNat 5139 = true := by decide +kernel
theorem wit_readlog : let s := mbox {} {}
    mboxFree s ∧ 0 = 32 * s.dev.health.bootlog.flatten.length ∧ s.dev.psramRange (0x1000#40 : DevAddr).toNat 0 = true ∧
      tblGet 0#32 (did (.readlog 1#8 0x1000#40) s).mbx.res 0 = 0#32 := by decide +kernel
theorem wit_unknown : let s := mbox {} {}
    mboxFree s ∧ 0xEE#8 ∉ mbxOpcodes ∧ (did (.mbxUnknownOpcode 1#8 0xEE#8) s).mbx.result = 1#16 := by decide +kernel
theorem wit_unknown_busy : let s := mbox { mbx := { busy := true, tag := 2#8 } } {}
    hostRuns s ∧ s.dev.mbx.busy = true ∧ s.dev.mbx.tag ≠ 1#8 ∧ (did (.mbxUnknownOpcode 1#8 0xEE#8) s).mbx.rej = 1#32 := by decide +kernel

theorem wit_cast : let s := mbox {} { owner := some own0, slots := [(0, some set0)] }
    mboxFree s ∧ s.dev.mbx.longs.length < 4 ∧ tblGet none s.store.slots 0 = some set0 ∧ maskNets set0 1#32 = some [net0] ∧
      s.store.factory.pufOk = true ∧ [net0].any s.dev.imgBusy = false ∧ s.dev.mbx.longs = [] ∧
      s.dev.mayCast = true ∧ [net0].any (fun im => s.dev.isCast im.num || !s.dev.imgPowered im) = false ∧
      (((did (.cast 7#8 0#32 1#32) s).net 0#5).casting.map (fun k => k.step)) = some 1 ∧
      (did (.cast 7#8 0#32 1#32) s).mbx.longs.map (fun l => l.result) = [0#16] := by decide +kernel
/-- Network 0 cast and in service. -/
def cast0 : Dev := { parts := rel0, nets := [(0, { img := some net0, open_ := true, everCast := true })] }
theorem wit_recast : let s := mbox cast0 { owner := some own0, slots := [(0, some set0)] }
    mboxFree s ∧ netArg 0#32 = some 0#5 ∧ set0.nets.find? (fun x => x.num == 0#5) = some net0 ∧ s.dev.imgBusy net0 = false ∧
      s.dev.mbx.longs = [] ∧ s.dev.mayCast = true ∧
      s.dev.isCast 0#5 = true ∧ s.dev.imgPowered net0 = true ∧
      ((did (.recast 7#8 0#32 0#32) s).net 0#5).drain = some (.recast 0#3) := by decide +kernel
theorem wit_stop : let s := mbox cast0 {}
    mboxFree s ∧ netArg 0#32 = some 0#5 ∧ s.dev.drainCheck 0#5 = 0#16 ∧ 0#5 ∈ s.dev.partsOfNet 0#5 ∧
      ((did (.stop 7#8 0#32) s).net 0#5).drain = some .stop ∧ ((did (.stop 7#8 0#32) s).part 0#5).cast = .draining := by decide +kernel
theorem wit_uncast : let s := mbox cast0 {}
    mboxFree s ∧ s.dev.drainCheck 0#5 = 0#16 ∧ (∃ p ∈ s.dev.partsOfNet 0#5, (s.dev.part p).cast ≠ .heldAbort) ∧
      ((did (.uncast 7#8 0#32) s).net 0#5).drain = some .uncast := by decide +kernel

theorem wit_resume : let s := mbox { cast0 with parts := [(0, { cast := .stopped })] } {}
    mboxFree s ∧ netArg 0#32 = some 0#5 ∧ s.dev.mayResume 0#5 = true ∧ ((did (.resume 7#8 0#32) s).part 0#5).cast = .released ∧
      ((did (.resume 7#8 0#32) s).net 0#5).openAt = true := by decide +kernel

/-- A line-scan group of one member whose frame 0 is open. -/
def grp0 : GroupImg :=
  { grp := 0#4, members := 1, lscan := true, width := 16, lines := 16, pixfmt := 0#4, zp := 0#16, aquota := 4096, ar := 0, dests := [0#13] }
def openFrame : Dev :=
  { cast0 with
    nets := [(0, { img := some { net0 with groups := [grp0] }, open_ := true,
                   groups := [(0, some { img := grp0, counter := 1#32, live := [(0#32, .admitted 0#3)] })] })]
    ing := { ctxs := [(0, { en := true, bound := true, lscan := true, linesM1 := 15#14, begun := true, line := 3 })] } }
theorem wit_close : let s := mbox openFrame {}
    mboxFree s ∧ netArg 0#32 = some 0#5 ∧ (s.dev.group 0#5 0#4).map (fun g => (g.img.lscan, g.live)) = some (true, [(0#32, .admitted 0#3)]) ∧
      s.dev.ctxsOf 0#5 0#4 = [0#10] ∧ (s.dev.ctx 0#10).memFrame = 0#32 ∧ (s.dev.ctx 0#10).net = 0#5 ∧ (s.dev.ctx 0#10).begun = true ∧
      (s.dev.ctx 0#10).line ≤ (s.dev.ctx 0#10).linesM1.toNat ∧ (did (.close 1#8 0#32 0#32) s).mbx.result = 0#16 ∧
      ((did (.close 1#8 0#32 0#32) s).ctx 0#10).memFrame = 1#32 := by decide +kernel
theorem wit_close_away : let s := mbox { openFrame with ing := {} } {}
    mboxFree s ∧ netArg 0#32 = some 0#5 ∧ (0#32 : W32).toNat < 16 ∧ (s.dev.group 0#5 0#4).isSome = true ∧ s.dev.ctxsOf 0#5 0#4 = [] ∧
      (did (.close 1#8 0#32 0#32) s).mbx.result = 11#16 := by decide +kernel
theorem wit_close_none : let s := mbox {} {}
    mboxFree s ∧ netArg 32#32 = none ∧ 16 ≤ (16#32 : W32).toNat ∧ (did (.close 1#8 32#32 0#32) s).mbx.result = 2#16 ∧
      (did (.close 1#8 0#32 16#32) s).mbx.result = 2#16 := by decide +kernel
/-- The casting of network 0 waits for REPAIR. -/
def paused : State :=
  mbox { parts := [(0, { cast := .partly })],
         nets := [(0, { img := some net0, casting := some { step := 7, slot := 0#3, round := 1, paused := true } })] } {}
theorem wit_repair : let s := paused
    mboxFree s ∧ netArg 0#32 = some 0#5 ∧ (s.dev.net 0#5).casting = some { step := 7, slot := 0#3, round := 1, paused := true } ∧
      ((did (.repairContinue 1#8 0#32) s).net 0#5).casting = some { step := 7, slot := 0#3, round := 2 } ∧
      ((did (.repairAbort 1#8 0#32) s).net 0#5).held = true ∧ ((did (.repairAbort 1#8 0#32) s).part 0#5).cast = .heldAbort := by
  decide +kernel
theorem wit_retest : let s := mbox { health := { fences := [⟨5#11, 1#3, 0#32⟩] }, cores := [(5, { state := .fenced })] } {}
    mboxFree s ∧ s.dev.mbx.longs.length < 4 ∧ s.dev.retestCores 5#32 = some [5#11] ∧ s.dev.health.retest = [] ∧
      s.dev.health.retestAll = false ∧ (s.dev.part (partOfCore 5#11)).act = none ∧ (s.dev.part (partOfCore 5#11)).cast ≠ .partly ∧
      (did (.retest 1#8 5#32) s).health.retest = [5#11] := by decide +kernel

/-! ## Calipers -/

/-- A report of tensor 3, frame 9, from position 0, with its largest K at 240. -/
def rep0 (m : Bool) : CalReport :=
  { net := 0#5, stage := 2#11, tensor := 3#12, pos := 0#10, frame := 9#32, maquette := m, sse := 0#32, ssv := 0#32, sumv := 0#32, count := 1#32, sat := 0#32,
    nan := 0#32, const := 0#32, kmaxn := 240, kmin := 0#8, kmax := 0#8 }
/-- Tensor 3 of stage 2 of network 0, whose one core has begun frame 9. -/
def tensor3 (x : Tensor) : Dev :=
  { parts := rel0
    nets := [(0, { img := some { net0 with stages := [{ num := 2#11, channelGroups := true, cores := [{ logical := 0#11, cluster := 0#7 }] }] },
                   tensors := [(3, { x with stage := 2#11 })] })]
    cores := [(0, { assigned := true, stage := 2#11, state := .running, frameLog := [(9#32, 0)] })] }
/-- The report is on its way. -/
def onWay (r : CalReport) (d : Dev) : State := { dev := { d with reports := [r] } }
theorem wit_report_maquette : let s := onWay (rep0 true) (tensor3 {})
    (s.dev.part 0#5).cast ≠ .uncast ∧ (rep0 true).net = (s.dev.part 0#5).net ∧ rep0 true ∈ s.dev.reports ∧ (rep0 true).maquette = true ∧
      ((did (.caliperReport 0#5 (rep0 true)) s).net 0#5).maq.calReps = [rep0 true] ∧
      (did (.caliperReport 0#5 (rep0 true)) s).reports = [] := by decide +kernel
theorem wit_report_close : let s := onWay (rep0 false) (tensor3 { s2 := 0x3F800000#32 })
    (s.dev.part 0#5).cast ≠ .uncast ∧ s.dev.cal.en = true ∧ s.dev.tensor 0#5 3#12 = some { stage := 2#11, s2 := 0x3F800000#32 } ∧
      s.dev.passed 0#5 { stage := 2#11, s2 := 0x3F800000#32 } 9#32 = false ∧
      s.dev.collectorOf 0#5 { stage := 2#11, s2 := 0x3F800000#32 } = some 0#11 ∧ s.dev.hostMode 0#5 2 = false ∧
      s.dev.expected 0#5 3#12 { stage := 2#11, s2 := 0x3F800000#32 } 9#32 = some [0] ∧
      ((did (.caliperReport 0#5 (rep0 false)) s).tensor 0#5 3#12).map (fun y => (y.closed, y.shut, y.s2)) =
        some (some 9#32, [9#32], 0x40000000#32) ∧
      (did (.caliperReport 0#5 (rep0 false)) s).scales = [(0#11, 3#12, 0x40000000#32)] := by
  decide +kernel
theorem wit_report_late : let s := onWay (rep0 false) (tensor3 { shut := [9#32] })
    s.dev.tensor 0#5 3#12 = some { stage := 2#11, shut := [9#32] } ∧ s.dev.cal.en = true ∧ rep0 false ∈ s.dev.reports ∧
      (did (.caliperReport 0#5 (rep0 false)) s).cal.late = 1#32 := by decide +kernel
theorem wit_report_joins : let s := onWay (rep0 false) { tensor3 {} with cores := [] }
    s.dev.tensor 0#5 3#12 = some { stage := 2#11 } ∧ s.dev.passed 0#5 { stage := 2#11 } 9#32 = false ∧
      s.dev.expected 0#5 3#12 { stage := 2#11 } 9#32 = none ∧
      ((did (.caliperReport 0#5 (rep0 false)) s).tensor 0#5 3#12).map (fun y => y.frames) = some [⟨9#32, false, [rep0 false]⟩] := by
  decide +kernel
theorem wit_report_off : let s := onWay (rep0 false) { tensor3 {} with cal := { en := false } }
    s.dev.cal.en = false ∧ rep0 false ∈ s.dev.reports ∧ (did (.caliperReport 0#5 (rep0 false)) s).nets = s.dev.nets := by decide +kernel
theorem wit_s2_packet : let s : State := { dev := { (withCore { assigned := true }).dev with scales := [(0#11, 0xFFF#12, 5#32)] } }
    (s.dev.core 0#11).assigned = true ∧ (0#11, 0xFFF#12, 5#32) ∈ s.dev.scales ∧
      tblGet 0#32 ((did (.s2PacketReceive 0#11 0xFFF#12 5#32) s).core 0#11).s2next 4095 = 5#32 ∧
      (did (.s2PacketReceive 0#11 0xFFF#12 5#32) s).scales = [] := by decide +kernel

/-- Watch slot 63 armed on tensor 3 of partition 0. -/
def armed : State := host { tensor3 {} with cal := { watch := [(63, { part := 0#5, tensor := 3#12, arm := true })] } }
theorem wit_wsel : let s := host (tensor3 {})
    hostRuns s ∧ ((did (.wselWrite 63#6 0x80030000#32) s).watchAt 63#6).tensor = 3#12 ∧
      ((did (.wselWrite 63#6 0x80030000#32) s).watchAt 63#6).notensor = false ∧
      ((did (.wselWrite 0#6 0x80040000#32) s).watchAt 0#6).notensor = true := by decide +kernel
theorem wit_watch : let s := armed
    hostRuns s ∧ s.dev.armedTensor 63#6 = some 0#5 ∧ s.dev.tensor 0#5 (s.dev.watchAt 63#6).tensor = some { stage := 2#11 } ∧
      posFinite 0x3F800000#32 = true ∧
      ((did (.wcfgWrite 63#6 7#32) s).tensor 0#5 3#12).map (fun y => y.ktNew) = some (some 7#8) ∧
      ((did (.s2Write 63#6 0x3F800000#32) s).tensor 0#5 3#12).map (fun y => y.s2New) = some (some 0x3F800000#32) ∧
      ((did (.driftThWrite 63#6 9#32) s).tensor 0#5 3#12).map (fun y => y.thNew) = some (some 9#32) := by decide +kernel
theorem wit_watch_ignored : let s := armed
    hostRuns s ∧ s.dev.armedTensor 0#6 = none ∧ (did (.wcfgWrite 0#6 7#32) s).cal.rej = 1#32 ∧ posFinite 0x7F800000#32 = false ∧
      (did (.s2Write 63#6 0x7F800000#32) s).cal.rej = 1#32 := by decide +kernel

/-! ## Casting -/

/-- A section of network 0. -/
def sec (kind : BitVec 16) (stage : StageId) (ok : Bool) : SectionImg :=
  { kind := kind, net := 0#5, stage := stage, part := 0#5, offset := 65536, length := 256, digestOk := ok }
/-- Network 0 in its casting `k`, partition 0 partly cast, core 0 as `c`. -/
def casting0 (k : Casting) (c : Core) : State :=
  { dev := { parts := [(0, { cast := .partly })], nets := [(0, { img := some net0, casting := some k })], cores := [(0, c)] }
    store := { slots := [(0, some { set0 with sections := [sec 1#16 0#11 true, sec 1#16 0#11 false] })] } }
/-- 32 words of a chunk. -/
def chunk : Words := (List.range 32).map (fun i => BitVec.ofNat 64 (i + 1))
/-- The section of partition 0's configuration, of cluster 3's cache and of stage 0 have been hashed. -/
def hashed0 (step : Nat) : Casting := { step := step, slot := 0#3, hashed := [sec 2#16 0#11 true, sec 5#16 3#11 true, sec 4#16 0#11 true] }
theorem wit_config_chunk : let s := casting0 (hashed0 3) {}
    chunk.length = 32 ∧ (749#10 : BitVec 10).toNat < 750 ∧ (s.dev.net (s.dev.part 0#5).net).casting = some (hashed0 3) ∧
      (s.dev.part 0#5).cast = .partly ∧ (hashed0 3).has 2 (fun x => x.part == 0#5) = true ∧
      tblGet [] ((did (.partitionConfigChunk 0#5 749#10 chunk true) s).part 0#5).cfgChunks 749 = chunk ∧
      ((did (.partitionConfigChunk 0#5 749#10 chunk false) s).part 0#5).pktCrc = 1#16 := by decide +kernel
/-- Step 3 with the section of cluster 3's program cache read. -/
def hashed5 : Casting := { step := 3, slot := 0#3, hashed := [sec 5#16 3#11 true] }
theorem wit_cache_chunk : let s := casting0 hashed5 {}
    (s.dev.part (partOfCluster 3#7)).cast = .partly ∧ (s.dev.net (s.dev.part (partOfCluster 3#7)).net).casting = some hashed5 ∧
      s.dev.configsDone s.store (s.dev.part (partOfCluster 3#7)).net hashed5 = true ∧
      hashed5.has 5 (fun x => x.stage == (3#7 : ClusterId).setWidth 11) = true ∧
      tblGet [] ((did (.programCacheChunk 3#7 511#9 chunk true) s).cluster 3#7).cacheChunks 511 = chunk := by decide +kernel
theorem wit_core_chunk : let s := casting0 (hashed0 6) { assigned := true }
    (s.dev.part (partOfCore 0#11)).cast = .partly ∧ (s.dev.core 0#11).assigned = true ∧ (s.dev.core 0#11).spare = false ∧
      s.dev.imageSent 0#11 63 = true ∧
      tblGet 0#64 ((did (.coreImageChunk 0#11 63#7 chunk true) s).core 0#11).sched 2047 = 32#64 ∧
      ((did (.coreImageChunk 0#11 63#7 chunk true) s).core 0#11).bitmap = 1#81 <<< 63 ∧
      ((did (.coreImageChunk 0#11 80#7 chunk false) s).part 0#5).pktCrc = 1#16 := by decide +kernel
theorem wit_core_chunk_desc : let s := casting0 (hashed0 6) { assigned := true }
    s.dev.imageSent 0#11 71 = true ∧ tblGet 0#64 ((did (.coreImageChunk 0#11 71#7 chunk true) s).core 0#11).desc 254 = 31#64 ∧
      s.dev.imageSent 0#11 72 = true ∧ tblGet 0#64 ((did (.coreImageChunk 0#11 72#7 chunk true) s).core 0#11).fin 7 = 8#64 ∧
      tblGet 0#64 ((did (.coreImageChunk 0#11 72#7 chunk true) s).core 0#11).act 0 = 9#64 ∧
      s.dev.imageSent 0#11 80 = true ∧ tblGet 0#64 ((did (.coreImageChunk 0#11 80#7 chunk true) s).core 0#11).act 256 = 9#64 := by
  decide +kernel
theorem wit_core_chunk_spare : let s := casting0 { step := 5, slot := 0#3 } { assigned := true, spare := true }
    s.dev.imageSent 0#11 7 = true ∧ (s.dev.core 0#11).spare = true ∧ (7#7 : BitVec 7).toNat < 8 ∧
      tblGet 0#64 ((did (.coreImageChunk 0#11 7#7 chunk true) s).core 0#11).sched 255 = 32#64 ∧
      ((did (.coreImageChunk 0#11 7#7 chunk false) s).part 0#5).pktCrc = 1#16 := by decide +kernel

theorem wit_casting_ack : let s := casting0 { step := 3, slot := 0#3, unacked := [((epPart 0#5, 1#20), 0)] } {}
    (s.dev.net 0#5).casting = some { step := 3, slot := 0#3, unacked := [((epPart 0#5, 1#20), 0)] } ∧
      ((did (.castingAck 0#5 (epPart 0#5) 1#20) s).net 0#5).casting = some { step := 3, slot := 0#3 } := by decide +kernel
theorem wit_ack_timeout : let s := casting0 { step := 3, slot := 0#3, unacked := [((epPart 0#5, 1#20), 2)] } {}
    (s.dev.net 0#5).casting = some { step := 3, slot := 0#3, unacked := [((epPart 0#5, 1#20), 2)] } ∧
      ((did (.castingAckTimeout 0#5 (epPart 0#5) 1#20) s).part 0#5).castRep = 1#16 ∧ s.dev.castPart 0#5 = 0#5 := by decide +kernel
theorem wit_ack_abort : let s := casting0 { step := 3, slot := 0#3, unacked := [((epPart 0#5, 1#20), 3)] } {}
    (s.dev.net 0#5).casting = some { step := 3, slot := 0#3, unacked := [((epPart 0#5, 1#20), 3)] } ∧
      ((did (.castingAckTimeout 0#5 (epPart 0#5) 1#20) s).net 0#5).held = true ∧
      ((did (.castingAckTimeout 0#5 (epPart 0#5) 1#20) s).part 0#5).cast = .heldAbort ∧
      ((did (.castingAckTimeout 0#5 (epPart 0#5) 1#20) s).part 0#5).castStep = 3#4 := by decide +kernel

theorem wit_assignment : let s := casting0 { step := 2, slot := 0#3 } {}
    let r : AssignRec := { logical := 9#11, spare := false, cidx := 1#10, net := 0#5, stage := 2#11, alt := false, groups := [],
                           expect := 1#81, rowmax := 100#28, bentry := 0x7FFFF#19 }
    (s.dev.part (partOfCore 0#11)).cast = .partly ∧ (s.dev.part (partOfCore 0#11)).net = r.net ∧ s.dev.good 0#11 = true ∧
      (s.dev.net r.net).img = some net0 ∧ ((did (.assignmentRecord 0#11 r) s).core 0#11).logical = 9#11 ∧
      ((did (.assignmentRecord 0#11 r) s).core 0#11).state = .transferring := by decide +kernel
theorem wit_completion : let s := casting0 { step := 7, slot := 0#3, place := [(0#11, 0#11)] } { assigned := true, expect := 3#81, bitmap := 3#81 }
    (s.dev.net 0#5).casting = some { step := 7, slot := 0#3, place := [(0#11, 0#11)] } ∧ s.dev.hostMode (s.dev.castPart 0#5) 3 = false ∧
      s.dev.incompleteOf { step := 7, slot := 0#3, place := [(0#11, 0#11)] } [] = [] ∧
      ((did (.completionReduction 0#5 []) s).net 0#5).casting = some { step := 7, slot := 0#3, place := [(0#11, 0#11)] } ∧
      ((did (.completionReduction 0#5 [0#11]) s).net 0#5).casting =
        some { step := 7, slot := 0#3, place := [(0#11, 0#11)], round := 1, incomplete := [0#11] } := by decide +kernel
theorem wit_bitmap : let s := casting0 { step := 7, slot := 0#3, place := [(0#11, 0#11)], incomplete := [0#11] } { assigned := true, expect := 7#81, bitmap := 1#81 }
    0#11 ∈ [0#11] ∧ ((did (.bitmapRequest 0#11) s).router 0).waiting.map (fun e => (e.1, e.2.payload)) = [(4#3, [1#128])] ∧
      ((did (.bitmapReply 0#11 1#81) s).part 0#5).castRep = 2#16 := by decide +kernel

theorem wit_completion_host : let s : State := { (casting0 { step := 7, slot := 0#3, place := [(0#11, 0#11)] } { assigned := true, expect := 3#81 }) with
      dev := { (casting0 { step := 7, slot := 0#3, place := [(0#11, 0#11)] } { assigned := true, expect := 3#81 }).dev with
        parts := [(0, { cast := .partly, mode := 0x0C8#10 })] } }
    s.dev.hostMode (s.dev.castPart 0#5) 3 = true ∧ s.dev.incompleteOf { step := 7, slot := 0#3, place := [(0#11, 0#11)] } [] = [0#11] ∧
      ((did (.completionReduction 0#5 []) s).net 0#5).casting =
        some { step := 7, slot := 0#3, place := [(0#11, 0#11)], incomplete := [0#11], paused := true } := by decide +kernel
/-- Three rounds have left core 0 incomplete; core 1 of its cluster is a spare. -/
def thirdRound (respared : List CoreId) : State :=
  let k : Casting := { step := 7, slot := 0#3, round := 3, place := [(0#11, 0#11)], respared := respared }
  { (casting0 k {}) with dev := { (casting0 k {}).dev with
      cores := [(0, { assigned := true, expect := 3#81 }), (1, { assigned := true, spare := true })]
      nets := [(0, { img := some { net0 with stages := [{ num := 0#11, alt := some {}, cores := [{ logical := 0#11, cluster := 0#7 }] }] }, casting := some k })] } }
theorem wit_completion_fences : let s := thirdRound []
    s.dev.incompleteOf { step := 7, slot := 0#3, round := 3, place := [(0#11, 0#11)] } [] = [0#11] ∧
      ((did (.completionReduction 0#5 []) s).core 0#11).state = .fenced := by decide +kernel
theorem wit_completion_again : let s := thirdRound [0#11]
    s.dev.incompleteOf { step := 7, slot := 0#3, round := 3, place := [(0#11, 0#11)], respared := [0#11] } [] = [0#11] ∧
      ((did (.completionReduction 0#5 []) s).net 0#5).casting = none := by decide +kernel

theorem wit_section : let s := casting0 { step := 3, slot := 0#3 } {}
    (s.dev.net 0#5).img = some net0 ∧ ((tblGet none s.store.slots 0).map (fun t => t.sections.length)) = some 2 ∧
      ((did (.sectionReadDone 0#5 0) s).net 0#5).casting = some { step := 3, slot := 0#3, sectionsRead := [0], hashed := [sec 1#16 0#11 true] } ∧
      ((did (.sectionReadDone 0#5 1) s).net 0#5).held = true := by decide +kernel
/-- Sections of step 8 in slot 0: a local-store image of stage 0, and calibration. -/
def late8 (step : Nat) : State :=
  { (casting0 { step := step, slot := 0#3 } {}) with store := { slots := [(0, some { set0 with sections := [sec 6#16 0#11 true, sec 8#16 0#11 true] })] } }
theorem wit_section_late : let s := late8 8
    sectionTime { set0 with sections := [sec 6#16 0#11 true, sec 8#16 0#11 true] } 0#5 { step := 8, slot := 0#3 } = true ∧
      (sec 6#16 0#11 true).digestOk = true ∧ (sec 6#16 0#11 true).kind.toNat = 6 ∧ (sec 8#16 0#11 true).kind.toNat = 8 ∧
      ((did (.sectionReadDone 0#5 1) s).net 0#5).casting = some { step := 8, slot := 0#3, sectionsRead := [1], hashed := [sec 8#16 0#11 true] } := by
  decide +kernel
theorem wit_section_early : let s := late8 3
    sectionTime { set0 with sections := [sec 6#16 0#11 true, sec 8#16 0#11 true] } 0#5 { step := 3, slot := 0#3 } = false ∧
      6 ≤ (sec 6#16 0#11 true).kind.toNat ∧ ((did (.sectionReadDone 0#5 0) s).net 0#5).casting = some { step := 3, slot := 0#3 } := by decide +kernel
theorem wit_step_1 : let s := casting0 { step := 1, slot := 0#3 } {}
    (s.dev.net 0#5).casting = some { step := 1, slot := 0#3 } ∧ s.dev.stepReady s.store 0#5 { step := 1, slot := 0#3 } net0 = true := by decide +kernel
theorem wit_step_5 : let s := casting0 { step := 5, slot := 0#3 } {}
    s.dev.stepReady s.store 0#5 { step := 5, slot := 0#3 } net0 = true ∧
      ((did (.castingStepEnd 0#5 none) s).net 0#5).casting = some { step := 6, slot := 0#3 } := by decide +kernel
theorem wit_step_7 : let s := casting0 { step := 7, slot := 0#3 } {}
    s.dev.stepReady s.store 0#5 { step := 7, slot := 0#3 } net0 = true ∧
      ((did (.castingStepEnd 0#5 none) s).net 0#5).casting = some { step := 8, slot := 0#3 } := by decide +kernel
theorem wit_step_8 : let s := casting0 { step := 8, slot := 0#3, noChase := true } {}
    s.dev.stepReady s.store 0#5 { step := 8, slot := 0#3, noChase := true } net0 = true ∧
      ((did (.castingStepEnd 0#5 none) s).net 0#5).casting = some { step := 10, slot := 0#3, noChase := true } := by decide +kernel
theorem wit_step_3 : let s : State := { (casting0 { step := 3, slot := 0#3 } {}) with store := { slots := [(0, some set0)] } }
    s.dev.stepReady s.store 0#5 { step := 3, slot := 0#3 } net0 = true ∧ (net0.queues.map (fun x => x.q)).Nodup ∧
      ((did (.castingStepEnd 0#5 none) s).net 0#5).casting = some { step := 4, slot := 0#3 } := by decide +kernel
theorem wit_step_6 : let s : State := { (casting0 { step := 6, slot := 0#3 } {}) with store := { slots := [(0, some set0)] } }
    s.dev.stepReady s.store 0#5 { step := 6, slot := 0#3 } net0 = true ∧
      ((did (.castingStepEnd 0#5 none) s).net 0#5).casting = some { step := 7, slot := 0#3 } := by decide +kernel
theorem wit_step_fault : let s := casting0 { step := 8, slot := 0#3, place := [(0#11, 0#11)] } { assigned := true }
    (0#11, 0#11) ∈ ([(0#11, 0#11)] : List (LogicalId × CoreId)) ∧ (s.dev.core 0#11).net = 0#5 ∧ (s.dev.core 0#11).assigned = true ∧
      (s.dev.core 0#11).spare = false ∧ (s.dev.part (partOfCore 0#11)).act = none ∧
      ((did (.castingStepEnd 0#5 (some 0#11)) s).core 0#11).state = .fenced ∧
      ((did (.castingStepEnd 0#5 (some 0#11)) s).net 0#5).held = true := by decide +kernel
theorem wit_chase_core : let s := casting0 { step := 9, slot := 0#3, place := [(0#11, 0#11)] } { assigned := true }
    ((did (.chaseReport 0#5 (.core 0#11) false) s).net 0#5).casting = some { step := 9, slot := 0#3, place := [(0#11, 0#11)], round := 1 } := by
  decide +kernel
theorem wit_chase_core_over : let s := casting0 { step := 9, slot := 0#3, round := 3, place := [(0#11, 0#11)] } { assigned := true }
    ((did (.chaseReport 0#5 (.core 0#11) false) s).core 0#11).state = .fenced := by decide +kernel
theorem wit_chase_unit : let s := casting0 { step := 9, slot := 0#3, badChase := [(.partition 0#5, 2)] } {}
    (([(ChaseUnit.partition 0#5, 2)].find? (fun e => e.1 == .partition 0#5)).map (fun e => e.2)).getD 0 = 2 ∧
      ((did (.chaseReport 0#5 (.partition 0#5) false) s).net 0#5).casting =
        some { step := 9, slot := 0#3, badChase := [(.partition 0#5, 3)] } ∧
      ((did (.chaseReport 0#5 (.partition 0#5) false) s).part 0#5).castRep = 1#16 := by decide +kernel
theorem wit_chase_unit_over : let s := casting0 { step := 9, slot := 0#3, badChase := [(.queueManager 1#7, 3)] } {}
    ((did (.chaseReport 0#5 (.queueManager 1#7) false) s).net 0#5).held = true := by decide +kernel
theorem wit_chase : let s := casting0 { step := 9, slot := 0#3 } {}
    (s.dev.net 0#5).casting = some { step := 9, slot := 0#3 } ∧
      ((did (.chaseReport 0#5 (.partition 0#5) true) s).net 0#5).casting = some { step := 9, slot := 0#3, chased := [.partition 0#5] } := by
  decide +kernel

theorem wit_release_net : let s := casting0 { step := 10, slot := 2#3 } {}
    (s.dev.net (s.dev.part 0#5).net).casting = some { step := 10, slot := 2#3 } ∧ (s.dev.part 0#5).cast = .partly ∧
      (∀ q ∈ net0.parts, q = 0#5 ∨ (s.dev.part q).relAck = true) := by decide +kernel
theorem wit_release_first : let two : NetImg := { net0 with parts := [0#5, 1#5] }
    let s : State := { dev := { parts := [(0, { cast := .partly }), (1, { cast := .partly })],
                                nets := [(0, { img := some two, casting := some { step := 10, slot := 2#3 } })] } }
    (s.dev.net (s.dev.part 0#5).net).img = some two ∧ (∃ q ∈ two.parts, q ≠ 0#5 ∧ (s.dev.part q).relAck = false) ∧
      ((did (.networkRelease 0#5) s).net 0#5).casting = some { step := 10, slot := 2#3 } := by decide +kernel
theorem wit_drained : let s : State := { dev := { cast0 with nets := [(0, { img := some net0, drain := some .stop })], parts := [(0, { cast := .draining })] } }
    (s.dev.net 0#5).drain = some .stop ∧ s.dev.drained 0#5 = true ∧ ((did (.drainComplete 0#5) s).part 0#5).cast = .stopped ∧
      ((did (.forcedFlush 0#5) s).part 0#5).cast = .stopped ∧ ((did (.forcedFlush 0#5) s).net 0#5).drain = none := by decide +kernel

theorem wit_drained_cal : let s : State := { dev := { cast0 with nets := [(0, { img := some net0, drain := some .stop })], parts := [(0, { cast := .draining })],
                                                                 cores := [(0, { assigned := true, state := .halted, cal := [(0, {})] })] } }
    s.dev.drained 0#5 = true ∧ 0#11 ∈ s.dev.coresOfNet 0#5 ∧ ((did (.drainComplete 0#5) s).core 0#11).cal = [] := by decide +kernel
/-- Network 0 drains for `w`; slot 0 holds its set. -/
def drains (w : DrainFor) : State :=
  { dev := { cast0 with nets := [(0, { img := some net0, drain := some w })], parts := [(0, { cast := .draining })] }, store := { slots := [(0, some set0)] } }
theorem wit_drained_uncast : let s := drains .uncast
    (s.dev.net 0#5).drain = some .uncast ∧ s.dev.drained 0#5 = true ∧ 0#5 ∈ s.dev.partsOfNet 0#5 := by decide +kernel
theorem wit_drained_recast : let s := drains (.recast 0#3)
    (s.dev.net 0#5).drain = some (.recast 0#3) ∧ s.dev.drained 0#5 = true ∧ set0.nets.find? (fun x => x.num == 0#5) = some net0 ∧
      tblGet none s.store.slots 0 = some set0 := by decide +kernel

/-! ## Route memory -/

/-- A position record of TIME 1 as 32 bytes, big-endian. -/
def posBytes : List Byte := [1#8, 0#8, 0#8, 0#8] ++ List.replicate 11 0#8 ++ [1#8] ++ List.replicate 16 0#8
/-- Lane 0 takes position records on port 7. -/
def posLane (r : Route) : State :=
  { dev := { ing := { posport := 7#16, lanes := [(0, { en := true, link := true, fecLock := true })] }
             route := { r with en := true, laneEn := true } } }
theorem wit_datagram : let s := posLane {}
    s.dev.laneUp 0#5 = true ∧ s.dev.route.poslane = 0#5 ∧ posBytes.length = 32 ∧ posBytes.headD 0#8 = 1#8 ∧
      (posOfBytes beNat posBytes).nopos = false ∧ s.dev.route.haveRec = false ∧
      (did (.positionDatagram 0#5 7#16 posBytes) s).route.pstate = .tracking ∧
      (did (.positionDatagram 0#5 7#16 posBytes) s).route.last.time = (posOfBytes beNat posBytes).time := by decide +kernel
theorem wit_datagram_old : let s := posLane { haveRec := true, last := { time := 0xFFFFFFFFFFFFFFFF#64 } }
    s.dev.laneUp 0#5 = true ∧ (posOfBytes beNat posBytes).time.toNat ≤ s.dev.route.last.time.toNat ∧
      (did (.positionDatagram 0#5 7#16 posBytes) s).route.posdisc = 1#16 := by decide +kernel
theorem wit_posin : let s := host { route := { en := true, hostEn := true, posin := [1#8] ++ List.replicate 31 0#8 } }
    hostRuns s ∧ s.dev.pwr.resetHeld = false ∧ s.dev.pwr.supplyFail = false ∧ s.dev.route.posin.headD 0#8 = 1#8 ∧
      (posOfBytes leNat s.dev.route.posin).nopos = false ∧ (did (.rtePosinSubmit 0#8) s).route.pstate = .tracking := by decide +kernel
theorem wit_timeout : let s : State := { dev := { route := { en := true, pstate := .tracking } } }
    s.dev.route.en = true ∧ (did .positionTimeout s).route.pstate = .lost := by decide +kernel

/-- Reference group 0: one tile of one word for each of two bins. -/
def rg0 : RefGroupImg :=
  { g := 0#2, tsize := 1, tpb := 1, u := 0, nbin := 2, tmode := true, dt := 1, offset := 0, route := [0#13], grp := 0#4, cands := [5#13] }
def route0 (r : Route) (g : RefGroup) : State := { dev := { cast0 with route := { r with en := true, groups := [(0, some g)] }, queues := [(0, queueOf [])] } }
/-- The list of frame 4 with both its places still to issue. -/
def rg0List : RefGroup := { img := rg0, net := 0#5, lists := [{ frame := 4#32, first := 7, rev := false, todo := [0, 1] }] }
theorem wit_tile : let s := route0 { pstate := .lost, pgen := 3#4 } rg0List
    s.dev.route.en = true ∧ s.dev.route.pstate = .lost ∧ s.dev.refGroup 0#2 = some rg0List ∧ rg0List.tiles = [] ∧
      s.dev.route.groups = [(0, some rg0List)] ∧ rg0List.dest 0 = 0#13 ∧ rg0List.dest 1 = 0#13 ∧ s.dev.queueLive 0#13 = true ∧
      ((did (.tileIssue 0#2 false) s).refGroup 0#2).map (fun y => y.tiles.map (fun u => u.pgen)) = some [3#4] := by decide +kernel
theorem wit_tile_any : let s := route0 { pstate := .lost, pgen := 3#4 } rg0List
    let z := s.dev.pruneRef { rg0List with lists := rg0List.lists.map (fun m => { m with todo := s.dev.livePlaces rg0List m.todo }) }
    (z.lists.find? (fun m => !m.todo.isEmpty)).map (fun l => l.todo) = some [0, 1] ∧
      ((did (.tileIssue 0#2 false) s).refGroup 0#2).map (fun y => y.tiles.map (fun u => u.frame)) = some [4#32] := by decide +kernel
theorem wit_supersede : let s := withCore { assigned := true, kind := .comparison, inFrame := true, frame := 5#32, refs := [⟨5#32, 1#4⟩] }
    (s.dev.core 0#11).kind = .comparison ∧ pdist 4#32 5#32 ≤ pdist 4#32 6#32 ∧ pgenOlder 1#4 2#4 = true ∧
      ((did (.supersedeNotice 0#11 2#4 4#32 6#32) s).core 0#11).flags = 4#8 := by decide +kernel

/-- A candidate tile's tag of BINLO 9, tile 0, group 0, status 0; queue 5 holds it. -/
def candQ (w : QWord) (r : Route) : State :=
  { dev := { cast0 with route := { r with en := true, passOpen := true, groups := [(0, some { img := rg0, net := 0#5, lastFirst := 7 })] }
                        queues := [(5, queueOf [w])] } }
theorem wit_candidate_tile : let s := candQ (wd 0x0000000900000000#64) { free := [3#25, 4#25] }
    s.dev.refGroups.any (fun e => e.2.img.cands.contains 5#13) = true ∧ s.dev.peek 5#13 0#10 = .word (wd 0x0000000900000000#64) ∧
      (s.dev.candIn 5#13).left = 0 ∧ (s.dev.edgeGroup 5#13 0#2).map (fun e => (e.1, e.2.lastFirst)) = some (0#2, 7) ∧ fullBin 7 9#14 = 9 ∧
      s.dev.route.cands = [] ∧ (s.dev.seqRead 5#13 0#10).peek 5#13 0#10 = .empty ∧
      (did (.candidateTileWrite 5#13 0#10) s).route.cands.map (fun c => (c.bin, c.block)) = [(9#32, 3#25)] ∧
      (did (.candidateTileWrite 5#13 0#10) s).route.free = [4#25] := by decide +kernel
/-- Queue 5 holds a data word of the candidate tile of bin 9 that is written from `a` on. -/
def candData (left : Nat) (held : Words) : State :=
  let s := candQ (wd 0x77#64) { candIn := [(5, { left := left, bin := 9#32, addr := some 1024, held := held })],
                                cands := [{ bin := 9#32, block := 3#25, tiles := [] }] }
  { s with dev := { s.dev with parts := [(0, { cast := .released, regions := [(0, { lenM1 := 7#25, v := true, rd := true, wr := true })] })] } }
theorem wit_candidate_word : let s := candData 3 []
    s.dev.refGroups.any (fun e => e.2.img.cands.contains 5#13) = true ∧ s.dev.peek 5#13 0#10 = .word (wd 0x77#64) ∧
      (s.dev.candIn 5#13).left = 3 ∧ (s.dev.candIn 5#13).addr = some 1024 ∧ (s.dev.candIn 5#13).held = [] ∧
      (s.dev.seqRead 5#13 0#10).peek 5#13 0#10 = .empty ∧
      ((did (.candidateTileWrite 5#13 0#10) s).candIn 5#13).held = [0x77#64] := by decide +kernel
theorem wit_candidate_burst : let s := candData 1 (List.replicate 63 0#64)
    (s.dev.candIn 5#13).left = 1 ∧ (s.dev.candIn 5#13).held.length = 63 ∧ s.dev.causeFor .route (partOfQueue 5#13) 1024 true = none ∧
      (locate s.dev.die1 1024).isSome = true ∧ ((did (.candidateTileWrite 5#13 0#10) s).candIn 5#13).left = 0 ∧
      (did (.candidateTileWrite 5#13 0#10) s).readBytes 1528 2 = [0x77#8, 0#8] ∧
      (did (.candidateTileWrite 5#13 0#10) s).route.cands.map (fun c => c.tiles) = [[(0#2, 0#8)]] := by decide +kernel
/-- The bin of a candidate of the group's one tile lies behind the predicted position. -/
def due (r : Route) (m : BitVec 10) : State :=
  { dev := { cast0 with parts := [(0, { cast := .released, mode := m })]
                        cores := [(0, { assigned := true, kind := .comparison, ins := [some ⟨0#13, 0#10⟩] })]
                        route := { r with en := true, pstate := .tracking, commitlag := 0#8, groups := [(0, some { img := rg0, net := 0#5 })] } } }
def cand0 : Cand := { bin := 0#32, block := 5#25, tiles := [(0#2, 0#8)] }
theorem wit_due : let s := due { cands := [cand0] } 0#10
    s.dev.route.en = true ∧ s.dev.binPassed 0#32 = true ∧ s.dev.candHost cand0 = false ∧ s.dev.candWhole cand0 = true ∧
      entAddr ((did (.candidateDue 0#32) s).entry 0#32) = 5#25 ∧ entValid ((did (.candidateDue 0#32) s).entry 0#32) 0#32 = true := by
  decide +kernel
theorem wit_due_host : let s := due { cands := [cand0] } 0x080#10
    s.dev.binPassed 0#32 = true ∧ s.dev.candHost cand0 = true ∧ (did (.candidateDue 0#32) s).route.pend = [cand0] := by decide +kernel
theorem wit_due_tainted : let s := due { cands := [{ cand0 with tainted := true }] } 0#10
    s.dev.binPassed 0#32 = true ∧ s.dev.candHost { cand0 with tainted := true } = false ∧
      entAddr ((did (.candidateDue 0#32) s).entry 0#32) = entAddr (s.dev.entry 0#32) := by decide +kernel
theorem wit_due_full : let s := due { cands := [cand0], pend := List.replicate 256 cand0 } 0x080#10
    s.dev.candHost cand0 = true ∧ 256 ≤ s.dev.route.pend.length ∧ (did (.candidateDue 0#32) s).route.candDrop = 1#16 := by decide +kernel
theorem wit_due_ages : let s := due { past := [0#32], index := [(0, 0x8000#128)] } 0#10
    s.dev.binPassed 0#32 = true ∧ s.dev.route.cands = [] ∧ 0#32 ∈ s.dev.route.past ∧ entValid (s.dev.entry 0#32) 0#32 = true ∧
      entAge ((did (.candidateDue 0#32) s).entry 0#32) = 1#8 := by decide +kernel
theorem wit_decide : let s := host (due { pend := [cand0] } 0x080#10).dev
    hostRuns s ∧ s.dev.route.pend = [cand0] ∧ s.dev.candHost cand0 = true ∧
      entAddr ((did .rteDecideCommit s).entry 0#32) = 5#25 ∧ (did .rteDecideDiscard s).route.pend = [] := by decide +kernel
theorem wit_decide_none : let s := host {}
    hostRuns s ∧ s.dev.route.pend = [] ∧ (did .rteDecideCommit s).route.rej = 1#16 := by decide +kernel

theorem wit_pass_open : let s := host {}
    hostRuns s ∧ s.dev.route.passOpen = false ∧ (did .passOpen s).route.passno = 1#32 := by decide +kernel
theorem wit_pass_close : let s := host { (due { passOpen := true, cands := [cand0], past := [0#32] } 0#10).dev with time := 1#48 }
    hostRuns s ∧ s.dev.route.passOpen = true ∧ entAddr ((did .passClose s).entry 0#32) = 5#25 ∧ (did .passAbort s).route.cands = [] := by
  decide +kernel
theorem wit_free : let s := host {}
    hostRuns s ∧ s.dev.route.free.length < 256 ∧ (did (.rteFreeWrite 0x1FFFFFF#32) s).route.free = [0x1FFFFFF#25] := by decide +kernel
theorem wit_free_full : let s := host { route := { free := List.replicate 256 0#25 } }
    256 ≤ s.dev.route.free.length ∧ (did (.rteFreeWrite 1#32) s).route.rej = 1#16 := by decide +kernel
theorem wit_retire : let s : State := { dev := { route := { retire := 7#16, retirePend := true } } }
    s.dev.route.retirePend = true ∧ s.dev.undelivered = [] ∧ (did .retireComplete s).route.retired = 7#16 := by decide +kernel
theorem wit_rte_ctrl : let s := host { route := { en := true, pstate := .tracking, poslane := 3#5 } }
    hostRuns s ∧ s.dev.route.en = true ∧ (0#32 : W32).getLsbD 0 = false ∧ (did (.rteCtrlWrite 0#32) s).route.pstate = .idle ∧
      (did (.rteCtrlWrite 0#32) s).route.poslane = 3#5 ∧ (did (.rteCtrlWrite 1#32) (host {})).route.en = true := by decide +kernel
theorem wit_rte_pred : let s := host { route := { en := true } }
    s.dev.route.en = true ∧ (0x10000#32 : W32).extractLsb' 16 16 ≠ s.dev.route.posTo ∧
      (did (.rtePredWrite 0x10000#32) s).route.rej = 1#16 ∧ (did (.rtePredWrite 0x10000#32) (host {})).route.posTo = 1#16 := by decide +kernel

/-! ## Adaptation -/

/-- Unit 0 of network 0, whose companion partition is partition 0; chain 0 keeps slots of 1024 bytes from address 0. -/
def chain0 : AdChain := { img := { rbase := 0#32, slotb := 2#16, lbloff := 1#16, lblw := 4#16, teacher := false, first := 0#13 } }
def adapt0 (c : AdChain) (a : Adapt) : Dev :=
  { nets := [(0, { img := some { net0 with companions := [0#5] }, open_ := true })], queues := [(0, queueOf [])]
    parts := [(0, { cast := .released, regions := [(0, { lenM1 := 7#25, v := true, rd := true, wr := true })] })]
    adapt := [(0, { a with net := some 0#5, en := true, chains := [(0, some c)] })] }
theorem wit_replay : let s : State := { dev := adapt0 chain0 {} }
    (s.dev.adaptU 0#2).net = some 0#5 ∧ s.dev.companionsRun 0#5 = true ∧ 512 * 1 + 32 + 8 * 4 ≤ 512 * 2 ∧
      s.dev.psramRange (slotAddr (s.dev.adaptU 0#2) chain0 3#32) 1024 = true ∧
      s.dev.rangeFault 0#5 (slotAddr (s.dev.adaptU 0#2) chain0 3#32) 1024 true = none ∧ partOfQueue chain0.img.first = 0#5 := by decide +kernel
/-- A filled slot of frame 3 with its label. -/
def labelled3 : State :=
  { dev := (adapt0 { chain0 with slots := [(0, some ⟨3#32, 1#3, 0#8, 0⟩)] } {}).writeBytes 512 [3#8, 0#8, 0#8, 0#8, 1#8] }
theorem wit_feeder : let s := labelled3
    s.dev.companionsRun 0#5 = true ∧ (s.dev.queue 0#13).hasCredit 0 = true ∧ (s.dev.queue 0#13).images = [] ∧
      s.dev.nextSlot (s.dev.adaptU 0#2) { chain0 with slots := [(0, some ⟨3#32, 1#3, 0#8, 0⟩)] } = some ⟨3#32, 1#3, 0#8, 0⟩ ∧
      s.dev.rangeFault 0#5 (slotAddr (s.dev.adaptU 0#2) chain0 3#32) 1024 false = none := by decide +kernel
/-- No region lets partition 0 reach the slots. -/
def noRegion (d : Dev) : State := { dev := { d with parts := [(0, { cast := .released })] } }
theorem wit_replay_fault : let s := noRegion (adapt0 chain0 {})
    s.dev.companionsRun 0#5 = true ∧ (s.dev.rangeFault 0#5 (slotAddr (s.dev.adaptU 0#2) chain0 3#32) 1024 true).isSome = true ∧
      ((did (.replaySlotWrite 0#2 0#2 3#32 0#8 false [] none) s).adaptU 0#2).skipExcl = 1#16 := by decide +kernel
theorem wit_feeder_fault : let s := noRegion labelled3.dev
    s.dev.companionsRun 0#5 = true ∧ (s.dev.queue 0#13).hasCredit 0 = true ∧
      s.dev.nextSlot (s.dev.adaptU 0#2) { chain0 with slots := [(0, some ⟨3#32, 1#3, 0#8, 0⟩)] } = some ⟨3#32, 1#3, 0#8, 0⟩ ∧
      (s.dev.rangeFault 0#5 (slotAddr (s.dev.adaptU 0#2) chain0 3#32) 1024 false).isSome = true ∧
      ((did (.feederIssue 0#2 0#2) s).adaptU 0#2).skipExcl = 1#16 := by decide +kernel
theorem wit_batch_more : let s : State := { dev := adapt0 chain0 { ncommit := 3#8, batch := 2#16, stepsInBatch := 2 } }
    (satInc (s.dev.adaptU 0#2).batches).toNat < max (s.dev.adaptU 0#2).ncommit.toNat 1 ∧
      max (s.dev.adaptU 0#2).batch.toNat 1 ≤ (s.dev.adaptU 0#2).stepsInBatch ∧
      ((did (.batchEnd 0#2 [] true) s).adaptU 0#2).batches = 1#8 ∧ ((did (.batchEnd 0#2 [] true) s).adaptU 0#2).pending = false := by
  decide +kernel
theorem wit_batch_bad : let s : State := { dev := adapt0 chain0 { ncommit := 1#8, batch := 2#16, stepsInBatch := 3 } }
    (s.dev.adaptU 0#2).stages = [] ∧ ((did (.batchEnd 0#2 [] false) s).adaptU 0#2).discTrial = 1#16 := by decide +kernel
theorem wit_batch : let s : State := { dev := adapt0 chain0 { ncommit := 1#8, batch := 2#16, stepsInBatch := 3 } }
    (s.dev.adaptU 0#2).en = true ∧ (s.dev.adaptU 0#2).freeze = false ∧ s.dev.companionsRun 0#5 = true ∧
      max (s.dev.adaptU 0#2).batch.toNat 1 ≤ (s.dev.adaptU 0#2).stepsInBatch ∧ (s.dev.adaptU 0#2).stages = [] ∧
      (s.dev.adaptU 0#2).busyBank = none ∧ max (s.dev.adaptU 0#2).ncommit.toNat 1 ≤ (satInc (s.dev.adaptU 0#2).batches).toNat ∧
      ((did (.batchEnd 0#2 [] true) s).adaptU 0#2).pending = true ∧ ((did (.batchEnd 0#2 [] true) s).adaptU 0#2).stepsInBatch = 1 := by
  decide +kernel
theorem wit_adapt_commit : let s : State := { dev := adapt0 chain0 { state := .marked, active := 0#2, cand := 1#2 } }
    (s.dev.adaptU 0#2).state = .marked ∧ (s.dev.adaptU 0#2).busyBank = none ∧ s.dev.admitting 0#5 = true ∧
      (s.dev.net 0#5).groups = [] ∧ ((did (.adaptationCommit 0#2) s).adaptU 0#2).active = 1#2 ∧
      ((did (.adaptationCommit 0#2) s).net 0#5).epoch = 1#3 := by decide +kernel
theorem wit_bank_free : let s : State := { dev := adapt0 chain0 { busyBank := some 0#2 } }
    (s.dev.adaptU 0#2).busyBank = some 0#2 ∧ s.dev.frameOut 0#5 (s.dev.adaptU 0#2).lastf = true ∧
      ((did (.bankFree 0#2) s).adaptU 0#2).busyBank = none := by decide +kernel
theorem wit_adp_decide : let s := host (adapt0 chain0 { state := .pendingHost, pending := true, cand := 2#2 })
    hostRuns s ∧ (s.dev.adaptU 0#2).net ≠ none ∧ (s.dev.adaptU 0#2).state = .pendingHost ∧
      ((did (.adpDecideCommit 0#2) s).adaptU 0#2).state = .marked ∧ ((did (.adpDecideDiscard 0#2) s).adaptU 0#2).cand = 0#2 ∧
      ((did (.adpDecideDiscard 0#2) s).adaptU 0#2).discHost = 1#16 := by decide +kernel
theorem wit_adp_decide_none : let s := host (adapt0 chain0 {})
    (s.dev.adaptU 0#2).state ≠ .pendingHost ∧ ((did (.adpDecideCommit 0#2) s).adaptU 0#2).rej = 1#32 := by decide +kernel
theorem wit_adp_regs : let s := host { adapt0 chain0 {} with adapt := [(0, { net := some 0#5 })] }
    (s.dev.adaptU 0#2).en = false ∧ ((did (.adpCtrlWrite 0#2 5#32) s).adaptU 0#2).ncommit = 1#8 ∧
      ((did (.adpBatchWrite 0#2 9#32) s).adaptU 0#2).batch = 9#16 ∧
      ((did (.adpBatchWrite 0#2 9#32) (host (adapt0 chain0 {}))).adaptU 0#2).rej = 1#32 := by decide +kernel

/-! ## Memory and DMA -/

/-- A write of two bytes of a DMA channel at address 0x200. -/
def br0 : BurstReq := { who := .dma 0#6, cls := 2#2, part := 0#5, write := true, addr := 0x200#40, bytes := 2, data := [1#8, 2#8] }
def memory0 (c : Channel) : Dev := { rings := [(0, { up := true })], chans := [(16, c)], dma := [(0, { inFlight := 1 })] }
theorem wit_grant : let s : State := { dev := memory0 { waiting := [br0] } }
    (s.dev.chan (16 : Fin 192).val).busy = none ∧ (s.dev.ring ((16 : Fin 192).val / 96)).up = true ∧
      (s.dev.chan (16 : Fin 192).val).pick = some (br0, false) ∧
      ((did (.memoryBurstGrant 16) s).chan 16).waiting = [] ∧
      ((did (.memoryBurstGrant 16) s).chan 16).busy.map (fun x => x.addr) = some 0x200#40 := by decide +kernel
theorem wit_burst_done : let s : State := { dev := memory0 { busy := some br0 } }
    (s.dev.chan (16 : Fin 192).val).busy = some br0 ∧ br0.cause = 0 ∧ br0.dead = false ∧ s.dev.psramRange br0.addr.toNat br0.data.length = true ∧
      (did (.memoryBurstDone 16) s).readBytes 0x200 2 = [1#8, 2#8] ∧ ((did (.memoryBurstDone 16) s).dmaCh 0#6).inFlight = 0 := by
  decide +kernel
/-- Its read from address 0x200 to 0x600 by a DMA copy, and a spill burst of queue 0. -/
def rd0 : BurstReq := { br0 with write := false, data := [], dst := some 0x600#40 }
def sp0 : BurstReq := { who := .spill 0#13, cls := 0#2, part := 0#5, write := true, addr := 0x200#40, bytes := 512, off := 0, tag := 0#64 }
theorem wit_read_done : let s : State := { dev := memory0 { busy := some rd0 } }
    (s.dev.chan (16 : Fin 192).val).busy = some rd0 ∧ rd0.dst = some 0x600#40 ∧ (locate s.dev.die1 (0x600#40 : DevAddr).toNat).isSome = true ∧
      rd0.dead = false ∧ ((did (.memoryBurstDone 16) s).dmaCh 0#6).inFlight = 1 := by decide +kernel
theorem wit_dead_done : let s : State := { dev := memory0 { busy := some { rd0 with dead := true } } }
    (s.dev.chan (16 : Fin 192).val).busy = some { rd0 with dead := true } ∧ ((did (.memoryBurstDone 16) s).chan 16).busy = none := by decide +kernel
theorem wit_spill_done : let s : State := { dev := { memory0 { busy := some sp0 } with
      queues := [(0, { (queueOf []) with elastic := 4, spilling := true, spillBusy := true, stager := List.replicate 57 none })], parts := rel0 } }
    (s.dev.chan (16 : Fin 192).val).busy = some sp0 ∧ (s.dev.queue 0#13).spillBusy = true ∧ sp0.tag = (s.dev.queue 0#13).spillSeq.setWidth 64 ∧
      56 ≤ (s.dev.queue 0#13).stager.length ∧ s.dev.psramRange sp0.addr.toNat 512 = true ∧
      ((did (.memoryBurstDone 16) s).queue 0#13).ring = [⟨0#32, 0⟩] ∧ ((did (.memoryBurstDone 16) s).queue 0#13).stager.length = 1 := by
  decide +kernel
theorem wit_lane8 : let s : State := { dev := { rings := [(0, { up := true, lane8 := [br0] })] } }
    (s.dev.ring (0 : Fin 2).val).lane8 = [br0] ∧ (s.dev.ring (0 : Fin 2).val).up = true ∧ locate s.dev.die1 br0.addr.toNat = some (16, 0) ∧
      ((did (.farLaneGrant 0) s).chan 16).waiting = [br0] := by decide +kernel
theorem test_hot : (did (.stackHot 11) State.reset).hot = 0x800#12 ∧
    (did (.stackCool 11) (after (.stackHot 11) State.reset)).hot = 0#12 := by decide +kernel
theorem wit_self_refresh : let s : State := { dev := { pwr := { state := .standby } } }
    s.dev.pwr.state = .standby ∧ (s.dev.chan (191 : Fin 192).val).busy = none ∧ (s.dev.chan (191 : Fin 192).val).waiting = [] ∧
      ((did (.selfRefreshReturn 191) s).chan 191).selfRefresh = true := by decide +kernel
/-- Table 11-2 by hand: granule 1 of the group view lies in stack 1, die 1 follows die 0, the table maps nothing past it. -/
theorem test_locate : locate true 0 = some (0, 0) ∧ locate true 512 = some (16, 0) ∧ locate true 0x180000000 = some (96, 0) ∧
    locate true 0x300000000 = none ∧ locate false 0x180000000 = none ∧ locate true 0xC04000200 = some (1, 512) := by decide +kernel
def expert (d : Dev) : State := host { d with xptWen := true }
theorem wit_region : let s := expert {}
    hostRuns s ∧ s.dev.expertLive 0 = true ∧
      (({} : Region).write 1#2 0#32).v = false ∧ ((did (.regionDescriptorWrite 0#5 63#6 0#2 7#32) s).part 0#5).regions = [(63, { base := 7#31 })] := by
  decide +kernel
theorem wit_region_range : let s := expert { parts := [(0, { regions := [(0, { base := 0x7FFFFFFF#31 })] })] }
    let r := ({ base := 0x7FFFFFFF#31 } : Region).write 2#2 1#32
    r.v = true ∧ rangeOk s.dev.die1 r.start r.bytes = false ∧ (did (.regionDescriptorWrite 0#5 0#6 2#2 1#32) s).memRej = 1#32 := by
  decide +kernel
theorem wit_region_locked : let s := expert { parts := [(0, { regions := [(0, { lock := true })] })] }
    (tblGet {} (s.dev.part 0#5).regions 0).lock = true ∧ (did (.regionDescriptorWrite 0#5 0#6 0#2 7#32) s).memRej = 1#32 ∧
      (did (.regionDescriptorWrite 0#5 0#6 0#2 7#32) (host {})).xptRej = 1#32 := by decide +kernel

/-- DMA channel 0 with a ring at address 0 in a region that it may use, and a descriptor: 16 bytes from 0x400 to 0x600. -/
def ring0 (c : DmaChan) (m : BitVec 10) : Dev :=
  let d : Dev := { parts := [(0, { cast := .released, mode := m, regions := [(0, { lenM1 := 7#25, v := true, rd := true, wr := true, dma := true })] })]
                   rings := [(0, { up := true })], dma := [(0, { c with en := true, rsizeM1 := 1#12, tail := 1#12 })] }
  d.writeBytes 0 [0#8, 4#8, 0#8, 0#8, 0#8, 0#8, 0#8, 0#8, 0#8, 6#8, 0#8, 0#8, 0#8, 0#8, 0#8, 0#8, 16#8]
def desc0 : DmaDesc := { src := 0x400#64, dst := 0x600#40, len := 16#32 }
theorem wit_fetch : let s : State := { dev := ring0 {} 0#10 }
    (s.dev.dmaCh 0#6).en = true ∧ (s.dev.dmaCh 0#6).desc = none ∧ (s.dev.dmaCh 0#6).state = 0#2 ∧
      (s.dev.dmaCh 0#6).head ≠ (s.dev.dmaCh 0#6).tail ∧ (s.dev.part (dmaPart 0#6)).suspend = false ∧
      s.dev.burstCause (dmaPart 0#6) (s.dev.dmaCh 0#6).descAddr false true = none ∧
      (parseDesc (s.dev.memRead (s.dev.dmaCh 0#6).descAddr 32)).2 = false ∧
      ((did (.dmaDescriptorFetch 0#6) s).dmaCh 0#6).desc = some desc0 := by decide +kernel
/-- A descriptor whose LEN, 17, is no multiple of 16. -/
theorem wit_fetch_bad : let s : State := { dev := (ring0 {} 0#10).writeBytes 16 [17#8] }
    s.dev.burstCause (dmaPart 0#6) (s.dev.dmaCh 0#6).descAddr false true = none ∧
      (parseDesc (s.dev.memRead (s.dev.dmaCh 0#6).descAddr 32)).2 = true ∧
      s.dev.burstCause (dmaPart 0#6) ((s.dev.dmaCh 0#6).descAddr + 24) true true = none ∧
      ((did (.dmaDescriptorFetch 0#6) s).dmaCh 0#6).head = 1#12 := by decide +kernel
theorem wit_fetch_fault : let s : State := { dev := ring0 { rbase := 0x100#32 } 0#10 }
    s.dev.burstCause (dmaPart 0#6) (s.dev.dmaCh 0#6).descAddr false true = some 1 ∧
      ((did (.dmaDescriptorFetch 0#6) s).dmaCh 0#6).state = 3#2 := by decide +kernel
theorem wit_issue : let s : State := { dev := ring0 { desc := some desc0 } 0#10 }
    (s.dev.dmaCh 0#6).inFlight < 8 ∧ (s.dev.dmaCh 0#6).off < desc0.len.toNat ∧ s.dev.hostMode (dmaPart 0#6) 0 = false ∧
      desc0.fill = false ∧ (locate s.dev.die1 (desc0.src.setWidth 40 + BitVec.ofNat 40 0).toNat).isSome = true ∧
      ((did (.dmaBurstIssue 0#6) s).dmaCh 0#6).off = 16 ∧ ((did (.dmaBurstIssue 0#6) s).dmaCh 0#6).inFlight = 1 := by decide +kernel
theorem wit_issue_host : let s : State := { dev := ring0 { desc := some { desc0 with src := 0x100000#64 } } 1#10 }
    s.dev.hostMode (dmaPart 0#6) 0 = true ∧ s.dev.dmaWouldFault (dmaPart 0#6) { desc0 with src := 0x100000#64 } 0 = some (0x100000, false) ∧
      ((did (.dmaBurstIssue 0#6) s).dmaCh 0#6).state = 1#2 := by decide +kernel
theorem wit_complete : let s : State := { dev := ring0 { desc := some { desc0 with stop := true }, off := 16 } 0#10 }
    (s.dev.dmaCh 0#6).inFlight = 0 ∧ desc0.len.toNat ≤ (s.dev.dmaCh 0#6).off ∧ (s.dev.dmaCh 0#6).fcause = 0 ∧
      s.dev.burstCause (dmaPart 0#6) ((s.dev.dmaCh 0#6).descAddr + 24) true true = none ∧
      s.dev.psramRange ((s.dev.dmaCh 0#6).descAddr + 24) 8 = true ∧ ((did (.dmaDescriptorComplete 0#6) s).dmaCh 0#6).head = 1#12 ∧
      ((did (.dmaDescriptorComplete 0#6) s).dmaCh 0#6).en = false ∧
      (did (.dmaDescriptorComplete 0#6) s).readBytes 24 8 = [1#8, 0#8, 0#8, 0#8, 0#8, 0#8, 0#8, 0#8] := by decide +kernel
theorem wit_complete_aborted : let s : State := { dev := ring0 { desc := some desc0, aborted := true, resume := 4#32 } 0#10 }
    (s.dev.dmaCh 0#6).inFlight = 0 ∧ (s.dev.dmaCh 0#6).aborted = true ∧
      (did (.dmaDescriptorComplete 0#6) s).readBytes 24 8 = bytes64 (statusWord 3 2 12) := by decide +kernel
theorem wit_complete_fault : let s : State := { dev := ring0 { desc := some desc0, off := 16, rbase := 0x100#32 } 0#10 }
    s.dev.burstCause (dmaPart 0#6) ((s.dev.dmaCh 0#6).descAddr + 24) true true = some 1 ∧
      ((did (.dmaDescriptorComplete 0#6) s).dmaCh 0#6).state = 3#2 ∧ ((did (.dmaDescriptorComplete 0#6) s).dmaCh 0#6).head = 0#12 := by
  decide +kernel
theorem wit_issue_none : let s : State := { dev := ring0 { desc := some { desc0 with src := 0x300000000#64, dst := 0x300000000#40 } } 0#10 }
    locate s.dev.die1 ((0x300000000#40 : DevAddr) + BitVec.ofNat 40 0).toNat = none ∧
      locate s.dev.die1 ((0x300000000#64 : W64).setWidth 40 + BitVec.ofNat 40 0 : DevAddr).toNat = none ∧
      ((did (.dmaBurstIssue 0#6) s).dmaCh 0#6).inFlight = 0 ∧ ((did (.dmaBurstIssue 0#6) s).dmaCh 0#6).off = 16 := by decide +kernel
theorem wit_abort_waits : let s := host (ring0 { desc := some desc0, state := 1#2, inFlight := 1 } 1#10)
    hostRuns s ∧ s.dev.dmaPresent 0#6 = true ∧ (s.dev.dmaCh 0#6).inFlight ≠ 0 ∧ ((did (.dmaAbort 0#6) s).dmaCh 0#6).aborted = true := by
  decide +kernel
theorem wit_resume_again : let s := host (ring0 { desc := some { desc0 with src := 0x100000#64 }, state := 1#2 } 1#10)
    hostRuns s ∧ s.dev.dmaWouldFault (dmaPart 0#6) { desc0 with src := 0x100000#64 } 0 = some (0x100000, false) ∧
      ((did (.dmaResume 0#6) s).dmaCh 0#6).state = 1#2 ∧ ((did (.dmaResume 0#6) s).part 0#5).tfDma = 1#16 := by decide +kernel
theorem wit_dma_resume : let s := host (ring0 { desc := some desc0, state := 1#2, resume := 3#32 } 1#10)
    hostRuns s ∧ s.dev.dmaPresent 0#6 = true ∧ s.dev.dmaWouldFault (dmaPart 0#6) desc0 0 = none ∧
      s.dev.burstCause (dmaPart 0#6) ((s.dev.dmaCh 0#6).descAddr + 24) true true = none ∧
      ((did (.dmaResume 0#6) s).dmaCh 0#6).state = 0#2 ∧ ((did (.dmaAbort 0#6) s).dmaCh 0#6).head = 1#12 := by decide +kernel
theorem wit_dma_none : let s := host (ring0 {} 1#10)
    (s.dev.dmaCh 0#6).desc = none ∧ (did (.dmaResume 0#6) s).memRej = 1#32 ∧ (did (.dmaAbort 0#6) s).memRej = 1#32 := by decide +kernel

theorem wit_dma_regs : let s := host { dma := [(0, { head := 1#12, tail := 2#12, state := 3#2, rsizeM1 := 3#12 })] }
    hostRuns s ∧ s.dev.dmaPresent 0#6 = true ∧ (s.dev.dmaCh 0#6).en = false ∧ ((did (.dmaResetRing 0#6) s).dmaCh 0#6).tail = 0#12 ∧
      ((did (.dmaRbaseWrite 0#6 5#32) s).dmaCh 0#6).rbase = 5#32 ∧ ((did (.dmaRcfgWrite 0#6 0x1007#32) s).dmaCh 0#6).state = 0#2 ∧
      ((did (.dmaRcfgWrite 0#6 0x1007#32) s).dmaCh 0#6).rsizeM1 = 7#12 ∧ ((did (.dmaTailWrite 0#6 3#32) s).dmaCh 0#6).tail = 3#12 ∧
      (did (.dmaTailWrite 0#6 4#32) s).memRej = 1#32 := by decide +kernel
theorem wit_dma_regs_on : let s := host { dma := [(0, { en := true })] }
    (s.dev.dmaCh 0#6).en = true ∧ (did (.dmaResetRing 0#6) s).memRej = 1#32 ∧ (did (.dmaRbaseWrite 0#6 5#32) s).memRej = 1#32 ∧
      ((did (.dmaRcfgWrite 0#6 5#32) s).dmaCh 0#6).rsizeM1 = 0#12 := by decide +kernel
theorem wit_suspend : let s := host {}
    hostRuns s ∧ s.dev.diePresent (dieOfPart 0#5) = true ∧ ((did (.dmaSuspend 0#5) s).part 0#5).suspend = true ∧
      ((did (.dmaUnsuspend 0#5) s).part 0#5).suspend = false := by decide +kernel
theorem wit_suspended : let s : State := { dev := { parts := [(0, { suspend := true })] } }
    (s.dev.part 0#5).suspend = true ∧ (∀ n ∈ dmaOf 0#5, (s.dev.dmaCh n).inFlight = 0) ∧
      ((did (.dmaSuspended 0#5) s).part 0#5).suspended = true := by decide +kernel

/-! ## Maquette frames -/

/-- Network 0 cast, with group 0 of one member whose maquette frame has one row. -/
def maq0 (m : Maq) (g : Group) : State :=
  { dev := { cast0 with nets := [(0, { img := some net0, open_ := true, everCast := true, maq := m, groups := [(0, some g)] })] } }
def maqGroup : Group := { img := { grp0 with lscan := false, maqFrames := [[1#64]] } }
theorem wit_maq_due : let s := maq0 {} maqGroup
    s.dev.netReleasedNow 0#5 = true ∧ ((did (.maquetteDue 0#5) s).net 0#5).maq.due = true := by decide +kernel
theorem wit_maq_inject : let s := maq0 { due := true, counter := 6#32 } maqGroup
    s.dev.maqWants 0#5 = true ∧ s.dev.freeSlot 0#5 0#4 = true ∧
      ((did (.maquetteInject 0#5 0#4) s).net 0#5).maq.counter = 7#32 ∧ ((did (.maquetteInject 0#5 0#4) s).net 0#5).maq.inFlight = [6#32] ∧
      ((did (.maquetteForceSlot 0#5 0#4) s).group 0#5 0#4).map (fun x => x.last) = some (some (6#32, true)) := by decide +kernel
theorem wit_maq_displace : let s := maq0 { due := true } { maqGroup with live := [(0#32, .admitted 0#3)] }
    s.dev.maqWants 0#5 = true ∧ s.dev.freeSlot 0#5 0#4 = false ∧
      ((did (.maquetteForceSlot 0#5 0#4) s).group 0#5 0#4).map (fun x => x.displace) = some true := by decide +kernel
theorem wit_maq_takes : let s := maq0 { due := true } { maqGroup with live := [(0#32, .pending)] }
    s.dev.maqWants 0#5 = true ∧ s.dev.freeSlot 0#5 0#4 = false ∧
      ((did (.maquetteForceSlot 0#5 0#4) s).group 0#5 0#4).map (fun x => x.live.contains (0#32, .refused)) = some true := by decide +kernel
/-- A block report of the network's only block reference. -/
def blockRep : BlockRep := { stage := 0#11, cidx := 0#10, block := 0, tensor := 3#12, count := 0#32, sumv := 0#32, ssv := 0#32 }
/-- Its reference: a COUNT of `n`. -/
def withRef (n : W32) (m : Maq) : State :=
  let s := maq0 m maqGroup
  let im : NetImg := { net0 with stages := [{ num := 0#11, cores := [{ logical := 0#11, cluster := 0#7 }] }],
                                 blockRefs := [{ frame := 0, stage := 0#11, tensor := 3#12, block := 0, count := n, sumv := 0#32, sumvB := ⟨0#32, 0#32⟩,
                                                 ssv := 0#32, ssvB := ⟨0#32, 0#32⟩ }] }
  { s with dev := { s.dev with nets := [(0, { img := some im, open_ := true, everCast := true, maq := m })],
                               cores := [(0, { assigned := true, state := .running })] } }
theorem wit_block_report : let s : State := { dev := { (maq0 { inFlight := [6#32] } maqGroup).dev with blockReps := [(0#5, blockRep)] } }
    (0#5, blockRep) ∈ s.dev.blockReps ∧ (s.dev.net 0#5).maq.inFlight ≠ [] ∧
      ((did (.blockReport 0#5 blockRep) s).net 0#5).maq.reports = [blockRep] := by decide +kernel
theorem wit_maq_check : let s := withRef 0#32 { inFlight := [6#32], reports := [blockRep] }
    6#32 ∉ (s.dev.net 0#5).maq.voided ∧ (s.dev.net 0#5).maq.trial = false ∧ (s.dev.net 0#5).maq.confirm = false ∧
      (s.dev.net 0#5).probation = false ∧ (s.dev.maqBad 0#5 6#32 true 0#12).1 = none ∧ (s.dev.maqBad 0#5 6#32 true 0#12).2 = [] ∧
      (did (.maquetteCheck 0#5 true 0#12) s).health.mqRun = 1#32 ∧ (did (.maquetteCheck 0#5 true 0#12) s).health.mqMis = 0#16 := by decide +kernel
theorem wit_maq_bounds : let s := withRef 1#32 { inFlight := [6#32], reports := [blockRep] }
    (s.dev.maqBad 0#5 6#32 true 0#12).2 = [blockRep] ∧ (did (.maquetteCheck 0#5 true 0#12) s).health.mqMis = 1#16 ∧
      ((did (.maquetteCheck 0#5 true 0#12) s).net 0#5).maq.confirm = true ∧ ((did (.maquetteCheck 0#5 true 0#12) s).net 0#5).maq.suspect = some (0#11, 0#10) := by
  decide +kernel
theorem wit_maq_confirmed : let s := withRef 1#32 { inFlight := [6#32], reports := [blockRep], confirm := true, suspect := some (0#11, 0#10) }
    (s.dev.maqBad 0#5 6#32 true 0#12).2 = [blockRep] ∧ s.dev.coreAt 0#5 0#11 0#10 = some 0#11 ∧
      (did (.maquetteCheck 0#5 true 0#12) s).health.mqFenced = 1#16 ∧ ((did (.maquetteCheck 0#5 true 0#12) s).core 0#11).state = .fenced := by decide +kernel
theorem wit_maq_voided : let s := withRef 1#32 { inFlight := [6#32], voided := [6#32] }
    6#32 ∈ (s.dev.net 0#5).maq.voided ∧ (s.dev.net 0#5).maq.trial = false ∧ ((did (.maquetteCheck 0#5 true 0#12) s).net 0#5).maq.due = true ∧
      (did (.maquetteCheck 0#5 true 0#12) s).health.mqRun = 0#32 := by decide +kernel
/-- The network on probation. -/
def onProbation (n : W32) (tries : Nat) : State :=
  let s := withRef n { inFlight := [6#32], reports := [blockRep], tries := tries }
  { s with dev := s.dev.modNet 0#5 (fun x => { x with probation := true }) }
theorem wit_maq_probation : let s := onProbation 0#32 2
    (s.dev.net 0#5).probation = true ∧ (s.dev.net 0#5).maq.confirm = false ∧ (s.dev.maqBad 0#5 6#32 true 0#12).1 = none ∧ (s.dev.maqBad 0#5 6#32 true 0#12).2 = [] ∧
      ((did (.maquetteCheck 0#5 true 0#12) s).net 0#5).maq.passed = true := by decide +kernel
theorem wit_maq_held : let s := onProbation 1#32 2
    (s.dev.maqBad 0#5 6#32 true 0#12).2 ≠ [] ∧ 2 ≤ (s.dev.net 0#5).maq.tries ∧ ((did (.maquetteCheck 0#5 true 0#12) s).net 0#5).held = true ∧
      ((did (.maquetteCheck 0#5 true 0#12) s).part 0#5).cast = .heldAbort := by decide +kernel
/-- A trial of unit 0 whose last frame is checked. -/
def trial0 (n : W32) : State :=
  let s := withRef n { inFlight := [6#32], reports := [blockRep], trial := true }
  { s with dev := { s.dev with adapt := [(0, { net := some 0#5, state := .trial })] } }
theorem wit_trial : let s := trial0 0#32
    6#32 ∉ (s.dev.net 0#5).maq.voided ∧ (s.dev.net 0#5).maq.trial = true ∧ s.dev.trialUnit 0#5 = some 0#2 ∧ (s.dev.maqBad 0#5 6#32 true 0#12).1 = none ∧
      (s.dev.adaptU 0#2).trialLeft = 0 ∧ ((did (.maquetteCheck 0#5 true 0#12) s).adaptU 0#2).state = .marked := by decide +kernel
/-- A trial whose frame has given no output. -/
def trialBad : State :=
  let s := trial0 0#32
  { s with dev := s.dev.modNet 0#5 (fun x => { x with img := x.img.map (fun im => { im with outRefs := [{ rout := 0#6, tensor := 3#12, fields := [], frames := [[]] }] }) }) }
theorem wit_trial_bad : let s := trialBad
    (s.dev.maqBad 0#5 6#32 true 0#12).1 = some 3#12 ∧ s.dev.trialUnit 0#5 = some 0#2 ∧ ((did (.maquetteCheck 0#5 true 0#12) s).adaptU 0#2).discTrial = 1#16 ∧
      ((did (.maquetteCheck 0#5 true 0#12) s).net 0#5).maq.trial = false := by decide +kernel

/-! ## Fencing, degraded variants and re-tests -/

/-- Core 0 of network 0 has stopped by a local-store error; core 1 is a spare or not, and partition 0 as `p`. -/
def stopped0 (sp : Bool) (p : Partition) (n : Network) : Dev :=
  { parts := [(0, { p with cast := .released })]
    nets := [(0, { n with img := some { net0 with stages := [{ num := 2#11, degraded := some {}, cores := [{ logical := 7#11, cluster := 0#7 }] }] }, open_ := true })]
    map := [(7, some 0#11)]
    cores := (0, { assigned := true, logical := 7#11, stage := 2#11, state := .faulted, fault := .localStore, frames := 3 }) ::
      (if sp then [] else (List.range 15).map (fun i => (i + 1, { assigned := true, stage := 3#11, state := .running }))) }
theorem wit_fence : let s : State := { dev := stopped0 true {} {} }
    (s.dev.core 0#11).state = .faulted ∧ (s.dev.core 0#11).assigned = true ∧ (s.dev.core 0#11).spare = false ∧
      (s.dev.part (partOfCore 0#11)).act = none ∧ (s.dev.net (s.dev.core 0#11).net).casting = none ∧
      (s.dev.part (partOfCore 0#11)).cast ≠ .draining ∧ s.dev.chooseSpare 0#11 = some 1#11 ∧ s.dev.health.flog.length < 64 ∧
      tblGet none (did (.fenceStart 0#11 5#3) s).map 7 = some 1#11 ∧ (did (.fenceStart 0#11 5#3) s).health.flog = [⟨0#11, 1#3, 0#32⟩] ∧
      ((did (.fenceStart 0#11 5#3) s).part 0#5).act = some ⟨0#11, 1#11, .check⟩ := by decide +kernel
theorem wit_fence_spare : let s : State := { dev := { cores := [(0, { spare := true, state := .faulted })] } }
    (s.dev.core 0#11).state = .faulted ∧ (s.dev.core 0#11).spare = true ∧ ((did (.fenceStart 0#11 4#3) s).core 0#11).state = .fenced ∧
      (did (.fenceStart 0#11 4#3) s).health.flog = [⟨0#11, 4#3, 0#32⟩] := by decide +kernel
theorem wit_second_fault : let s : State := { dev := stopped0 false { mode := 2#10 } {} }
    (s.dev.part (partOfCore 0#11)).cast = .released ∧ s.dev.chooseSpare 0#11 = none ∧ s.dev.hostMode (partOfCore 0#11) 1 = true ∧
      (s.dev.net (s.dev.core 0#11).net).degraded = [] ∧ (s.dev.net (s.dev.core 0#11).net).switchAt = [] := by decide +kernel
theorem wit_degrades : let s : State := { dev := stopped0 false {} {} }
    s.dev.chooseSpare 0#11 = none ∧ s.dev.hostMode (partOfCore 0#11) 1 = false ∧ (s.dev.net (s.dev.core 0#11).net).degraded = [] ∧
      (s.dev.net (s.dev.core 0#11).net).switchAt = [] ∧ s.dev.canDegrade (s.dev.core 0#11).net (s.dev.core 0#11).stage = true ∧
      tblGet none (did (.fenceStart 0#11 5#3) s).map 7 = none ∧
      ((did (.fenceStart 0#11 5#3) s).net 0#5).switchAt.map (fun e => e.1) = [2#11] := by decide +kernel
theorem wit_stops : let s : State := { dev := { stopped0 false {} {} with nets := [(0, { img := some net0, open_ := true })] } }
    s.dev.chooseSpare 0#11 = none ∧ s.dev.hostMode (partOfCore 0#11) 1 = false ∧
      s.dev.canDegrade (s.dev.core 0#11).net (s.dev.core 0#11).stage = false ∧
      ((did (.fenceStart 0#11 5#3) s).part 0#5).cast = .stopped := by decide +kernel
/-- The activation of core 1 for core 0 in a phase. -/
def act0 (ph : Phase) : State := { dev := stopped0 true { act := some ⟨0#11, 1#11, ph⟩ } {} }
theorem wit_spare_check : let s := act0 .check
    (s.dev.part 0#5).act = some ⟨0#11, 1#11, .check⟩ ∧ ((did (.spareCheckComplete 0#5 true) s).part 0#5).act = some ⟨0#11, 1#11, .reload⟩ ∧
      ((did (.spareCheckComplete 0#5 false) s).core 1#11).state = .fenced ∧ ((did (.spareCheckComplete 0#5 false) s).part 0#5).cast = .stopped := by
  decide +kernel
theorem wit_spare_reload : let s := act0 .reload
    (s.dev.part 0#5).act = some ⟨0#11, 1#11, .reload⟩ ∧
      (s.dev.stageImg (s.dev.core 0#11).net (s.dev.core 0#11).stage).all (fun im => im.streamed || (s.dev.shadowFault (partOfCore 1#11) im).isNone) = true ∧
      ((did (.spareReloadComplete 0#5 true) s).part 0#5).act = some ⟨0#11, 1#11, .chase⟩ ∧
      ((did (.spareReloadComplete 0#5 true) s).core 1#11).logical = 7#11 := by decide +kernel
theorem wit_spare_chase : let s := act0 .chase
    (s.dev.part 0#5).act = some ⟨0#11, 1#11, .chase⟩ ∧ (s.dev.part 0#5).frozen = false ∧
      ((did (.spareChaseComplete 0#5 true) s).core 1#11).state = .running ∧ ((did (.spareChaseComplete 0#5 true) s).core 1#11).frames = 3 := by
  decide +kernel
theorem wit_spare_fails : let s := act0 .reload
    let u := act0 .chase
    (s.dev.part 0#5).act = some ⟨0#11, 1#11, .reload⟩ ∧ (u.dev.part 0#5).frozen = false ∧
      ((did (.spareReloadComplete 0#5 false) s).core 1#11).state = .fenced ∧ ((did (.spareReloadComplete 0#5 false) s).part 0#5).cast = .stopped ∧
      ((did (.spareChaseComplete 0#5 false) u).core 1#11).state = .fenced ∧ ((did (.spareChaseComplete 0#5 false) u).part 0#5).cast = .stopped := by
  decide +kernel

theorem wit_degrade : let s := host (stopped0 true { faultWait := some (2#11, 0#11) } {})
    hostRuns s ∧ s.dev.diePresent (dieOfPart 0#5) = true ∧ (s.dev.part 0#5).faultWait = some (2#11, 0#11) ∧
      s.dev.canDegrade (s.dev.part 0#5).net 2#11 = true ∧ ((did (.faultDegradeResume 0#5) s).part 0#5).faultWait = none ∧
      ((did (.faultDegradeResume 0#5) s).net 0#5).switchAt.map (fun e => e.1) = [2#11] ∧
      ((did (.faultKeepStopped 0#5) s).part 0#5).faultWait = none ∧ s.dev.companion (s.dev.part 0#5).net 0#5 = false ∧
      ((did (.faultDegradeResume 0#5) s).net 0#5).openAt = true ∧ (did (.faultDegradeResume 0#5) (host {})).pwr.rej = 1#32 ∧ (did (.faultKeepStopped 0#5) (host {})).pwr.rej = 1#32 := by decide +kernel
theorem wit_switch : let d := stopped0 true {} { switchAt := [(2#11, 4#32)] }
    let s : State := { dev := { d with cores := [(0, { assigned := true, logical := 7#11, stage := 2#11, state := .held, pc := 0x100#11, sched := [(256, encodeSeq (.frame 1#4 0#2))] })] } }
    (s.dev.net 0#5).switchAt = [(2#11, 4#32)] ∧ (s.dev.stageImg 0#5 2#11).isSome = true ∧ s.dev.byLogical (s.dev.coresOfStage 0#5 2#11) = [0#11] ∧
      (s.dev.core 0#11).atFrame = true ∧ ((did (.degradedSwitch 0#5 2#11) s).net 0#5).degraded = [2#11] ∧
      ((did (.degradedSwitch 0#5 2#11) s).part 0#5).degCnt = 1#16 := by decide +kernel
theorem wit_flog : let s : State := { dev := { health := { flog := [⟨3#11, 1#3, 0#32⟩] } } }
    s.dev.health.flog = [⟨3#11, 1#3, 0#32⟩] ∧ s.dev.health.fwDown = false ∧ (did .fenceLogCommit s).health.fences = [⟨3#11, 1#3, 0#32⟩] ∧
      (after .fenceLogCommit s).store.hgen = 1#64 := by decide +kernel
theorem wit_retest_done : let s : State := { dev := { health := { retest := [5#11], fences := [⟨5#11, 1#3, 0#32⟩] }, cores := [(5, { state := .fenced })] } }
    5#11 ∈ s.dev.health.retest ∧ (did (.retestCoreDone 5#11 true) s).health.fences = [] ∧
      ((did (.retestCoreDone 5#11 true) s).core 5#11).state = .uncast ∧ (did (.retestCoreDone 5#11 false) s).health.rtFailed = 1#12 := by
  decide +kernel
theorem wit_retest_off : let s : State := { dev := { health := { retest := [5#11] }, parts := [(0, { power := .off })] } }
    5#11 ∈ s.dev.health.retest ∧ (s.dev.part (partOfCore 5#11)).power ≠ .on ∧ 5#11 ∈ (did (.retestCoreDone 5#11 true) s).health.passed := by
  decide +kernel

/-! ## Watchdog, ageing and supply setpoints -/

theorem wit_kick : let s := host { health := { wdExpected := 9#32 } }
    50 ≤ 50 ∧ 50 ≤ 100 ∧ 9#32 = s.dev.health.wdExpected ∧ s.dev.fwRuns = true ∧ (did (.watchdogKick 9#32 50) s).health.fwDown = false ∧
      (did (.watchdogKick 9#32 100) s).health.fwDown = false ∧ ¬(50 ≤ 49 ∧ 49 ≤ 100 ∧ 9#32 = s.dev.health.wdExpected) ∧
      (did (.watchdogKick 9#32 49) s).health.fwDown = true ∧ (did (.watchdogKick 8#32 60) s).health.wdSig = 8#32 := by decide +kernel
theorem wit_expire : let s := host {}
    s.dev.fwRuns = true ∧ (s.dev.health.recent s.dev.time).length < 3 ∧ (did (.watchdogExpire 1#32) s).health.wdCnt = 1#16 := by decide +kernel
theorem wit_expire_switch : let s : State := { host { health := { wdTimes := [0#48, 0#48] } } with store := { bankB := some fw2 } }
    3 ≤ (s.dev.health.recent s.dev.time).length ∧ s.dev.health.wdSwitched = false ∧ s.store.otherVerifies = true ∧
      (after (.watchdogExpire 1#32) s).store.runB = true := by decide +kernel
theorem wit_expire_hold : let s := host { health := { wdTimes := [0#48, 0#48], wdSwitched := true } }
    3 ≤ (s.dev.health.recent s.dev.time).length ∧ s.dev.health.wdSwitched = true ∧ (did (.watchdogExpire 1#32) s).health.wdHeld = true := by
  decide +kernel
theorem wit_restart : let s := host { health := { fwDown := true }, mbx := { busy := true } }
    s.dev.health.fwDown = true ∧ s.dev.health.wdHeld = false ∧ s.dev.mbx.busy = true ∧ s.dev.pwr.stage ≠ 7#4 ∧
      (did .firmwareRestart s).mbx.result = 12#16 ∧ (did .firmwareRestart s).health.fwDown = false := by decide +kernel

theorem wit_patina : let s := host {}
    s.dev.fwRuns = true ∧ s.dev.diePresent (dieOfPart 31#5) = true ∧
      ((did (.patinaSample 31#5 3#2 7#20 8#8 9#16) s).part 31#5).mons.map (fun m => (m.raw, m.temp, m.norm)) =
        [(0#20, 0#8, 0#16), (0#20, 0#8, 0#16), (0#20, 0#8, 0#16), (7#20, 8#8, 9#16)] := by
  decide +kernel
/-- A slack of 25 ps leaves the margin; one of 24 ps asks for 5 mV at a gain of 1. -/
theorem wit_margin : let s := host {}
    newMargin 0#8 24 1 = 5 ∧ (s.dev.part 0#5).derated = false ∧ s.dev.hostMode 0#5 5 = false ∧
      (s.dev.die 0).vbase.toNat + newMargin 0#8 24 1 ≤ (s.dev.die 0).vmax.toNat ∧
      ((did (.marginPlan 0#5 24 1) s).part 0#5).margin = 5#8 ∧ ((did (.marginPlan 0#5 25 1) s).part 0#5).margin = 0#8 := by decide +kernel
theorem wit_margin_host : let s := host { parts := [(0, { mode := 0x20#10 })] }
    s.dev.hostMode 0#5 5 = true ∧ ((did (.marginPlan 0#5 24 1) s).part 0#5).proposed = 5#8 := by decide +kernel
theorem wit_margin_derate : let s := host { dies := [(0, { vbase := 896#16 })] }
    (s.dev.die 0).vmax.toNat < (s.dev.die 0).vbase.toNat + newMargin 0#8 24 1 ∧ ((did (.marginPlan 0#5 24 1) s).part 0#5).derated = true := by
  decide +kernel
theorem wit_pmcmd : let s := host { parts := [(0, { proposed := 5#8, propValid := true })] }
    hostRuns s ∧ (s.dev.part 0#5).propValid = true ∧ ((did (.pMcmdApply 0#5) s).part 0#5).margin = 5#8 ∧
      ((did (.pMcmdReject 0#5) s).part 0#5).propValid = false ∧ (did (.pMcmdApply 0#5) (host {})).pwr.rej = 1#32 := by decide +kernel
theorem wit_pmcmd_derate : let s := host { parts := [(0, { derProp := true })] }
    (s.dev.part 0#5).derProp = true ∧ ((did (.pMcmdApply 0#5) s).part 0#5).derated = true := by decide +kernel
theorem wit_avs : let s := host { dies := [(1, { avs := 815#16, monitorAvs := 815#16 })] }
    s.dev.fwRuns = true ∧ s.dev.diePresent (1 : Fin 2).val = true ∧ (s.dev.die 1).railOn = true ∧ (s.dev.die 1).unackedAvs = none ∧
      (s.dev.die 1).avs.toNat ≠ s.dev.avsTarget 1 ∧ ((did (.avsStep 1 true) s).die 1).avs = 805#16 ∧
      ((did (.avsStep 1 true) s).die 1).monitorAvs = 805#16 ∧ ((did (.avsStep 1 false) s).die 1).unackedAvs = some 805#16 := by decide +kernel
theorem wit_retry : let s := host { dies := [(1, { unackedAvs := some 805#16 })] }
    (s.dev.die 1).unackedAvs = some 805#16 ∧ ((did (.pmbusRetry 1 true) s).die 1).avs = 805#16 := by decide +kernel

/-! ## Ingest, PTP and chain links -/

/-- Lane 0 is up, with a stream context of network 0 on port 9; its member frame is open as `x` says. -/
def ingest0 (x : Context) : Dev :=
  { cast0 with
    nets := [(0, { img := some { net0 with groups := [grp0] }, open_ := true,
                   groups := [(0, some { img := { grp0 with lscan := false }, counter := 1#32, live := [(0#32, .admitted 0#3)] })] })]
    ing := { lanes := [(0, { en := true, link := true, fecLock := true, ip := 7#32, ptpEn := true })]
             ctxs := [(0, { x with en := true, bound := true, udpport := 9#16, widthM1 := 15#14, linesM1 := 15#14 })] } }
def ing0 (x : Context) : State := { dev := ingest0 x }
/-- A datagram of 100 bytes on port 9. -/
def udp : EthFrame := { length := 100, fcsOk := true, tagged := false, body := .ipv4 5#32 7#32 false 9#16 }
theorem wit_frame_receive : let s := ing0 {}
    s.dev.laneUp 0#5 = true ∧ s.dev.takesPort 0#5 5#32 9#16 = true ∧ (s.dev.lane 0#5).fifo.sum + udp.length ≤ fifoBytes ∧
      ((did (.ethFrameReceive 0#5 udp) s).lane 0#5).fifo = [100] ∧
      ((did (.ethFrameReceive 0#5 { udp with fcsOk := false }) s).lane 0#5).dropBad = 1#16 ∧
      ((did (.ethFrameReceive 0#5 { udp with length := 9217 }) s).lane 0#5).dropBad = 1#16 ∧
      ((did (.ethFrameReceive 0#5 { udp with length := 9216 }) s).lane 0#5).fifo = [9216] ∧
      ((did (.ethFrameReceive 0#5 { udp with body := .arpRequest 7#32 }) s).lane 0#5).tx = [.arpRequest 7#32] := by decide +kernel
theorem wit_frame_others : let s := ing0 {}
    ((did (.ethFrameReceive 0#5 { udp with body := .igmpQuery }) s).lane 0#5).tx = [.igmpQuery] ∧
      ((did (.ethFrameReceive 0#5 { udp with body := .ipv4 5#32 7#32 true 9#16 }) s).lane 0#5).dropBad = 1#16 ∧
      ((did (.ethFrameReceive 0#5 { udp with body := .ipv4 5#32 8#32 false 9#16 }) s).lane 0#5).dropBad = 1#16 ∧
      s.dev.takesPort 0#5 5#32 10#16 = false ∧ ((did (.ethFrameReceive 0#5 { udp with body := .ipv4 5#32 7#32 false 10#16 }) s).lane 0#5).dropBad = 1#16 ∧
      ((did (.ethFrameReceive 0#5 { udp with body := .pause }) s).lane 0#5).fifo = [] := by decide +kernel
theorem wit_fifo_full : let s : State := { dev := { ingest0 {} with ing := { (ingest0 {}).ing with lanes := [(0, { en := true, link := true, ip := 7#32, fifo := [fifoBytes] })] } } }
    s.dev.laneUp 0#5 = true ∧ fifoBytes < (s.dev.lane 0#5).fifo.sum + udp.length ∧ s.dev.takesPort 0#5 5#32 9#16 = true ∧
      ((did (.ethFrameReceive 0#5 udp) s).lane 0#5).dropFifo = 1#16 := by decide +kernel
theorem wit_link : let s : State := { dev := {} }
    s.dev.lanePresent 31#5 = true ∧ s.dev.opticsUp = true ∧ ((did (.laneLinkUp 31#5) s).lane 31#5).link = true ∧
      ((did (.laneLinkDown 31#5) (after (.laneLinkUp 31#5) s)).lane 31#5).link = false := by decide +kernel

def leader0 : Leader := { block := 3#64, pixfmt := 0#4, width := 16, height := 16, supported := true, tstamp := 0#64 }
theorem wit_leader : let s := ing0 {}
    s.dev.laneUp 0#5 = true ∧ s.dev.packetCtx 0#5 9#16 5#32 = some 0#10 ∧ (s.dev.ctx 0#10).bound = true ∧ s.dev.ctxServed 0#10 = true ∧
      (s.dev.ctx 0#10).block = none ∧ (s.dev.ctx 0#10).lastBlock = none ∧ (s.dev.ctx 0#10).begun = false ∧
      leader0.pixfmt = (s.dev.ctx 0#10).pixfmt ∧ leader0.width = (s.dev.ctx 0#10).widthM1.toNat + 1 ∧
      leader0.height = (s.dev.ctx 0#10).blockLines ∧ ((did (.gvspLeader 0#5 9#16 5#32 leader0) s).ctx 0#10).block.map (fun b => b.id) = some 3#64 ∧
      ((did (.gvspLeader 0#5 9#16 5#32 leader0) s).ctx 0#10).frames = 1#32 := by decide +kernel
theorem wit_leader_bad : let s := ing0 { lastBlock := some 2#64 }
    s.dev.ctxServed 0#10 = true ∧ (s.dev.ctx 0#10).block = none ∧ blockDist 2#64 leader0.block = 1 ∧
      ((did (.gvspLeader 0#5 9#16 5#32 { leader0 with width := 15 }) s).ctx 0#10).block.map (fun b => b.bad) = some true ∧
      ((did (.gvspLeader 0#5 9#16 5#32 { leader0 with width := 15 }) s).ctx 0#10).fmterr = 1#16 ∧
      ((did (.gvspLeader 0#5 9#16 5#32 { leader0 with supported := false }) s).ctx 0#10).fmterr = 1#16 := by decide +kernel
theorem wit_leader_refused : let s : State := { dev := { ingest0 {} with nets := [] } }
    s.dev.laneUp 0#5 = true ∧ s.dev.packetCtx 0#5 9#16 5#32 = some 0#10 ∧ (s.dev.ctx 0#10).bound = true ∧ s.dev.ctxServed 0#10 = false ∧
      ((did (.gvspLeader 0#5 9#16 5#32 leader0) s).ctx 0#10).refused = 1#32 := by decide +kernel
/-- R308, R437: a frame of a network partly cast is refused whole, and its number is consumed. -/
theorem test_partly_refused : let s : State := { dev := { ingest0 { memFrame := 1#32 } with parts := [(0, { cast := .partly })] } }
    s.dev.ctxServed 0#10 = true ∧ ((did (.gvspLeader 0#5 9#16 5#32 leader0) s).ctx 0#10).refused = 1#32 ∧
      ((did (.gvspLeader 0#5 9#16 5#32 leader0) s).group 0#5 0#4).map (fun g => g.counter) = some 2#32 := by decide +kernel
/-- A block is open after packet 4. -/
def inBlock : Context := { block := some { id := 3#64, lines := 16, tstamp := 0#64, lastPid := 4 }, begun := true, blkto := 1#16, pktpay := 8#16 }
theorem wit_data : let s := ing0 inBlock
    (s.dev.ctx 0#10).block = some { id := 3#64, lines := 16, tstamp := 0#64, lastPid := 4 } ∧ 4 < 7 ∧
      ((did (.gvspDataPacket 0#5 9#16 5#32 3#64 7 (List.replicate 8 1#8)) s).ctx 0#10).pktlost = 2#32 ∧
      ((did (.gvspDataPacket 0#5 9#16 5#32 3#64 7 (List.replicate 8 1#8)) s).ctx 0#10).block.map (fun b => b.lastPid) = some 7 := by decide +kernel
theorem wit_data_opens : let s := ing0 { pktpay := 8#16 }
    (s.dev.ctx 0#10).block = none ∧ (s.dev.ctx 0#10).lastBlock = none ∧ 0 < 3 ∧
      ((did (.gvspDataPacket 0#5 9#16 5#32 3#64 3 (List.replicate 8 1#8)) s).ctx 0#10).pktlost = 2#32 ∧
      ((did (.gvspDataPacket 0#5 9#16 5#32 3#64 3 (List.replicate 8 1#8)) s).ctx 0#10).block.map (fun b => b.lastPid) = some 3 := by decide +kernel
theorem wit_trailer : let s := ing0 inBlock
    s.dev.packetCtx 0#5 9#16 5#32 = some 0#10 ∧ s.dev.ctxServed 0#10 = true ∧
      ((did (.gvspTrailer 0#5 9#16 5#32 3#64) s).ctx 0#10).lastBlock = some 3#64 ∧ (s.dev.ctx 0#10).blkto ≠ 0#16 ∧
      ((did (.blockTimeout 0#10) s).ctx 0#10).block = none := by decide +kernel
theorem wit_trailer_alone : let s := ing0 {}
    s.dev.ctxServed 0#10 = true ∧ (s.dev.ctx 0#10).block = none ∧ (s.dev.ctx 0#10).lastBlock = none ∧
      ((did (.gvspTrailer 0#5 9#16 5#32 3#64) s).ctx 0#10).lastBlock = some 3#64 := by decide +kernel
theorem wit_memto : let s := ing0 { memto := 1#16 }
    (s.dev.ctx 0#10).memto ≠ 0#16 ∧ (s.dev.ctx 0#10).begun = false ∧ (s.dev.ctx 0#10).dead = [] ∧
      (s.dev.group (s.dev.ctx 0#10).net (s.dev.ctx 0#10).grp).map (fun g => g.status (s.dev.ctx 0#10).memFrame) = some (some (.admitted 0#3)) ∧
      ((did (.memberTimeout 0#10) s).ctx 0#10).dead = [0#32] := by decide +kernel
theorem wit_ctx_cfg : let s := host { ing := { ctxs := [(1, { en := true, udpport := 9#16 })] } }
    hostRuns s ∧ s.dev.ing.ctxSel = 0#10 ∧ (s.dev.ctx 0#10).en = false ∧
      (∃ e ∈ s.dev.ing.ctxs, e.1 ≠ 0 ∧ e.2.en = true ∧ e.2.lane = 0#5 ∧ e.2.udpport = 9#16) ∧
      (did (.ctxCfgWrite 0x00090001#32) s).ing.rej = 1#32 ∧ ((did (.ctxCfgWrite 0x00080001#32) s).ctx 0#10).en = true := by decide +kernel
theorem wit_ctx_off : let s : State := host (ingest0 inBlock)
    hostRuns s ∧ s.dev.ing.ctxSel = 0#10 ∧ (s.dev.ctx 0#10).en = true ∧ (s.dev.ctx 0#10).bound = true ∧
      ((did (.ctxCfgWrite 0x00090000#32) s).ctx 0#10).block = none := by decide +kernel
theorem wit_ctx_bind : let s := host { ing := { ctxs := [(1, { en := true })] } }
    ((did (.ctxBindWrite 0x0000FFFF#32) s).ctx 0#10).member = 0xF#4 ∧ (s.dev.ctx 0#10).en = false := by decide +kernel
theorem wit_ctx_bind_on : let s := host { ing := { ctxSel := 1#10, ctxs := [(1, { en := true })] } }
    (s.dev.ctx 1#10).en = true ∧ (did (.ctxBindWrite 1#32) s).ing.rej = 1#32 := by decide +kernel

/-- PTP in state `k`, its messages from lane 0. -/
def ptp0 (k : BitVec 3) : State := { dev := { ingest0 {} with ing := { (ingest0 {}).ing with ptpState := k } } }
theorem wit_announce : let s := ptp0 1#3
    s.dev.laneUp 0#5 = true ∧ (s.dev.lane 0#5).ptpEn = true ∧ (did (.ptpMessage 0#5 (.announce true)) s).ing.ptpState = 2#3 := by
  decide +kernel
theorem wit_sync : let s := ptp0 2#3
    s.dev.ing.plane = 0#5 ∧ 2 ≤ s.dev.ing.ptpState.toNat ∧ (did (.ptpMessage 0#5 (.sync 5#32)) s).ing.ptpOfs = 5#32 ∧
      (did (.ptpMessage 0#5 .valid) s).ing.ptpState = 3#3 ∧ (did .ptpHoldover s).ing.ptpState = 4#3 := by decide +kernel
theorem wit_ptp_ignored : let s := ptp0 0#3
    s.dev.ing.ptpState = 0#3 ∧ (did (.ptpMessage 0#5 (.announce false)) s).ing.ptpState = 0#3 ∧
      (did (.ptpMessage 0#5 (.announce true)) s).ing.ptpState = 0#3 ∧ s.dev.ing.ptpState.toNat < 2 ∧
      (did (.ptpMessage 0#5 .valid) s).ing.ptpState = 0#3 := by decide +kernel
theorem wit_ptp_off : let s : State := { dev := { ingest0 {} with ing := { (ingest0 {}).ing with lanes := [(0, { en := true, link := true, fecLock := true })] } } }
    s.dev.laneUp 0#5 = true ∧ (s.dev.lane 0#5).ptpEn = false ∧ ((did (.ptpMessage 0#5 .valid) s).lane 0#5).dropBad = 1#16 := by decide +kernel
theorem wit_latch : let s := host { ptpThirds := 3000000006, time := 5#48 }
    hostRuns s ∧ (1#32 : W32).getLsbD 0 = true ∧ (did (.ptpLatch 1#32) s).ing.lsec = 1#32 ∧ (did (.ptpLatch 1#32) s).ing.lns = 2#30 ∧
      (did (.ptpLatch 1#32) s).ing.ltime = 5#48 ∧ (did (.ptpLatch 0#32) s).ing.ltime = 0#48 := by decide +kernel
theorem wit_train : let s : State := { dev := { ing := { chnid := 3#4 } } }
    s.dev.opticsUp = true ∧ s.dev.portUp true = false ∧ s.dev.peerId true = some 4#4 ∧ (did (.chainPortTrain true 4#4 9#16) s).portUp true = true ∧
      (did (.chainPortTrain true 5#4 9#16) s).portUp true = false ∧ (did (.chainPortTrain true 5#4 9#16) s).ing.eretry = true := by
  decide +kernel
/-- The east port is up and carries channel 1 of queue 0 to it. -/
def chain1 (sends : Bool) : Dev :=
  { cast0 with queues := [(0, queueOf [])]
               ing := { eup := true, chans := [{ img := { chan := 1#5, peer := 1#4, east := true, sends := sends, q := 0#13, frameWords := 4 } }] } }
theorem wit_link_down : let s : State := { dev := chain1 false }
    s.dev.portUp true = true ∧ (did (.chainLinkDown true) s).ing.chans.map (fun c => c.broken) = [true] := by decide +kernel
theorem wit_chnid : let s := host {}
    hostRuns s ∧ s.dev.ing.chans = [] ∧ (did (.chnidWrite 0x000A0007#32) s).ing.chnid = 0xA#4 ∧ (did (.chnidWrite 0x000A0007#32) s).ing.posport = 7#16 := by
  decide +kernel
theorem wit_chnid_cast : let s := host (chain1 false)
    s.dev.ing.chans ≠ [] ∧ (0x000A0007#32 : W32).extractLsb' 16 4 ≠ s.dev.ing.chnid ∧ (did (.chnidWrite 0x000A0007#32) s).ing.rej = 1#32 := by
  decide +kernel
theorem wit_chain_word : let s : State := { dev := chain1 false }
    let w := startMarker 0#32 0#10 0#8 0#3
    s.dev.portUp true = true ∧ w.isStart = true ∧ plainQueue s 0#13 ∧ 0 < ((s.dev.queue 0#13).prod 0).credits ∧
      ((did (.chainWordReceive true 1#5 w true) s).queue 0#13).store = [some w] ∧
      (did (.chainWordReceive true 1#5 w true) s).ing.chans.map (fun c => (c.sent, c.inFrame)) = [(1, true)] := by decide +kernel
theorem wit_chain_broken : let d := chain1 false
    let s : State := { dev := { d with ing := { d.ing with chans := d.ing.chans.map (fun c => { c with broken := true }) } } }
    s.dev.ing.chans.map (fun c => c.broken) = [true] ∧ (wd 5#64).isStart = false ∧
      ((did (.chainWordReceive true 1#5 (wd 5#64) true) s).queue 0#13).store = [] ∧
      ((did (.chainWordReceive true 1#5 (startMarker 0#32 0#10 0#8 0#3) true) s).ing.chans.map (fun c => c.broken)) = [false] := by decide +kernel
theorem wit_chain_passes : let d := chain1 false
    let s : State := { dev := { d with ing := { d.ing with wup := true } } }
    s.dev.portUp true = true ∧ s.dev.portUp (!true) = true ∧
      s.dev.ing.chans.find? (fun x => x.img.chan == 2#5 && x.img.east == true && !x.img.sends) = none ∧
      (did (.chainWordReceive true 2#5 (wd 5#64) true) s).ing.forwarded = [(false, 2#5, wd 5#64)] := by decide +kernel
theorem wit_chain_sends : let d := { chain1 true with queues := [(0, queueOf [startMarker 0#32 0#10 0#8 0#3])] }
    let s : State := { dev := d }
    let down : State := { dev := { d with ing := { d.ing with eup := false } } }
    (s.dev.chanSending 0#13 0#10).map (fun c => c.broken) = some false ∧ s.dev.portUp true = true ∧
      s.dev.peek 0#13 0#10 = .word (startMarker 0#32 0#10 0#8 0#3) ∧
      (did (.sequentialRead 0#13 0#10) s).ing.forwarded = [(true, 1#5, startMarker 0#32 0#10 0#8 0#3)] ∧
      down.dev.peek 0#13 0#10 = .word (startMarker 0#32 0#10 0#8 0#3) ∧ (did (.sequentialRead 0#13 0#10) down).ing.forwarded = [] := by
  decide +kernel

/-! ## The SDIO card and the host's registers -/

/-- The card in transfer state. -/
def card0 (d : Dev) : State := host { d with card := { d.card with selected := true, rca := 5#16 } }
theorem wit_card : let s : State := { dev := {} }
    s.bus = true ∧ s.dev.card.inactive = false ∧ ((did (.cmd5 0x01000000#32) s).card.resp.getLsbD 24) = true ∧
      (did .cmd11 s).card.v18 = true ∧ (did (.cmd7 0#16) s).card.selected = false ∧ answered 2#6 = false ∧
      (did (.sdioIllegalCommand 2#6) s).card.illegal = true := by decide +kernel
theorem wit_select : let s := card0 {}
    s.bus = true ∧ s.dev.card.inactive = false ∧ (did (.cmd7 5#16) s).card.selected = true ∧ (did (.cmd7 6#16) s).card.selected = false ∧
      (did (.cmd15 5#16) s).card.inactive = true := by decide +kernel
theorem wit_tuning : let s := card0 {}
    s.dev.card.tunes = false ∧ (did .cmd19 s).card.illegal = true := by decide +kernel
theorem wit_cmd52 : let s := card0 {}
    s.dev.card.selected = true ∧ 4 ≤ (4#3 : BitVec 3).toNat ∧ (did (.cmd52 false 4#3 0#17 0#8) s).card.resp.getLsbD 9 = true ∧
      (did (.cmd52 true 1#3 0x1000#17 7#8) s).card.staged.extractLsb' 0 8 = 7#8 := by decide +kernel
theorem wit_cmd52_fn0 : let s := card0 {}
    ((did (.cmd52 false 0#3 0#17 0#8) s).card.resp.extractLsb' 0 8) = fn0Read s.dev 0 ∧
      (did (.cmd52 true 0#3 6#17 8#8) s).card.rca = 0#16 ∧ (did (.cmd52 true 0#3 6#17 8#8) s).card.selected = false ∧
      (did (.cmd52 true 0#3 2#17 6#8) s).card.rca = 5#16 ∧ tblGet 0#8 (did (.cmd52 true 0#3 2#17 6#8) s).card.cccr 2 = 6#8 &&& fn0Mask 2 := by decide +kernel
theorem wit_cmd52_bulk : let s := card0 {}
    (9#17 : BitVec 17).toNat < 0x10000 ∧ s.dev.f23 = true ∧ s.dev.psramRange (bulkAddr s.dev 9) 1 = true ∧ s.dev.bulkReach (bulkAddr s.dev 9) = true ∧
      (did (.cmd52 true 3#3 9#17 7#8) s).readByte (bulkAddr s.dev 9) = 7#8 ∧
      (did (.cmd52 true 3#3 0x10008#17 7#8) s).card.resp.getLsbD 8 = true ∧ (did (.cmd52 false 2#3 1#17 0#8) s).card.resp.getLsbD 8 = true := by decide +kernel
theorem wit_cmd53 : let s := card0 {}
    s.dev.f23 = true ∧ 16 ≤ (16#9 : BitVec 9).toNat ∧ (16#9 : BitVec 9).toNat % 16 = 0 ∧
      (0xFFF0#17 : BitVec 17).toNat + (16#9 : BitVec 9).toNat ≤ 0x10000 ∧ s.dev.psramRange (bulkAddr s.dev (0xFFF0#17 : BitVec 17).toNat) 16 = true ∧
      (∀ i, i < 16 → s.dev.bulkReach (bulkAddr s.dev (0xFFF0#17 : BitVec 17).toNat + i) = true) ∧
      (did (.cmd53 true 3#3 false true 0xFFF0#17 16#9 (List.replicate 16 9#8)) s).readBytes (bulkAddr s.dev 0xFFF0) 16 = List.replicate 16 9#8 := by
  decide +kernel
theorem wit_cmd53_forms : let s := card0 {}
    formOk false 0 true true 0 1#9 (s.dev.transfer 0#3 true 1#9 0).1 (s.dev.transfer 0#3 true 1#9 0).2 = false ∧
      (did (.cmd53 false 0#3 true true 0#17 1#9 []) s).card.resp.getLsbD 8 = true ∧
      (did (.cmd53 false 5#3 true true 0#17 1#9 []) s).card.resp.getLsbD 9 = true ∧
      (0x1FFFE#17 : BitVec 17).toNat + (2#9 : BitVec 9).toNat ≤ 0x20000 ∧
      (did (.cmd53 false 0#3 false true 0x1FFFE#17 2#9 []) s).card.data.length = 2 ∧ (4#9 : BitVec 9).toNat % 4 = 0 ∧
      (did (.cmd53 true 1#3 false true 0x101C#17 4#9 [5#8, 0#8, 1#8, 0#8]) s).evt.hostTo = 5#16 := by decide +kernel
theorem wit_stream : let s := card0 { evt := { queue := [{ code := 1#16, unsync := false, aux := 0#8, eseq := 0#32, time := 0#64, args := [] }] }, card := { cccr := [(0x210, 0#8), (0x211, 2#8)] } }
    s.dev.blockSize 2#3 = 512 ∧ s.dev.evt.repeat_ = [] ∧ s.dev.eventsWait = true ∧ s.dev.recordTurn = none := by decide +kernel

theorem wit_stage : let s := host {}
    s.bus = true ∧ (0x101C#17 : BitVec 17).toNat % 4 ≠ 3 ∧ (did (.registerWrite 0x101C#17 7#8) s).card.stageAddr = some (reg1 0x101F#17) ∧
      s.dev.regAnswers 0x101C = true := by decide +kernel
theorem wit_host_to : let s := host { card := { stageAddr := some (reg1 0x101F#17), staged := 0x10005#32 } }
    s.dev.card.stageAddr = some (reg1 0x101F#17) ∧ (did (.registerWrite 0x101F#17 0#8) s).evt.hostTo = 5#16 ∧
      (did (.registerWrite 0x101F#17 0#8) s).evt.fallback = true := by decide +kernel
theorem wit_mode : let s := host {}
    hostRuns s ∧ s.dev.diePresent (dieOfPart 31#5) = true ∧ ((did (.pModeWrite 31#5 0xFFFFFFFF#32) s).part 31#5).mode = 0x3FF#10 := by decide +kernel
theorem wit_repeat : let s := host { evt := { kept := [[1#8], [2#8]] } }
    hostRuns s ∧ 2 ≤ s.dev.evt.kept.length ∧ (did (.streamRepeat 1#4) s).evt.repeat_ = [[2#8]] ∧ (did (.streamRepeat 2#4) s).evt.repeat_ = [[1#8], [2#8]] ∧
      (did (.streamRepeat 3#4) s).evt.repeat_ = [] ∧ (did (.streamRepeat 0#4) s).evt.repeat_ = [] := by decide +kernel
theorem wit_record_item : let s : State := { dev := { cast0 with
      parts := [(0, { cast := .released, regions := [(0, { lenM1 := 7#25, v := true, rd := true, wr := true })] })], rings := [(0, { up := true })]
      queues := [(0, queueOf [wd 5#64])], routs := [(0, { valid := true, ringBytes := 4096, cap := 1, width := 1, left := 1 })] } }
    (s.dev.rout 0#6).valid = true ∧ (s.dev.rout 0#6).left = 1 ∧ (s.dev.queue 0#13).rcv 0#10 = some {} ∧ s.dev.peek 0#13 0#10 = .word (wd 5#64) ∧
      (s.dev.rout 0#6).occ + itemRoom (s.dev.itemOf 0#6 [wd 5#64]).length ≤ (s.dev.rout 0#6).ringBytes ∧
      ((s.dev.rout 0#6).units (s.dev.itemOf 0#6 [wd 5#64]).length).all (fun a => s.dev.directOk 0#5 a true false) = true ∧
      ((did (.recordItemWrite 0#6) s).rout 0#6).rseq = 1#32 := by decide +kernel
/-- A whole record of one word, in a ring of no room and in a maquette frame. -/
def recordAt (bytes : Nat) (w : QWord) : State :=
  { dev := { cast0 with queues := [(0, queueOf [w])], routs := [(0, { valid := true, ringBytes := bytes, cap := 1, width := 1, left := 1 })] } }
theorem wit_record_lost : let s := recordAt 0 (wd 5#64)
    (s.dev.rout 0#6).ringBytes < (s.dev.rout 0#6).occ + itemRoom (s.dev.itemOf 0#6 [wd 5#64]).length ∧
      s.dev.peek 0#13 0#10 = .word (wd 5#64) ∧ ((did (.recordItemWrite 0#6) s).rout 0#6).lost = 1#32 ∧
      ((did (.recordItemWrite 0#6) s).rout 0#6).rseq = 1#32 ∧ (did (.recordItemWrite 1#6) s).routs = s.dev.routs := by decide +kernel
theorem wit_record_maquette : let w : QWord := { kind := .header, payload := 1#64 <<< 54 }
    let s := recordAt 0 w
    s.dev.peek 0#13 0#10 = .word w ∧ (w.kind == .header && w.payload.getLsbD 54) = true ∧
      ((did (.recordItemWrite 0#6) s).net 0#5).maq.outs = [(0#6, [w])] ∧ ((did (.recordItemWrite 0#6) s).rout 0#6).rseq = 0#32 := by decide +kernel
theorem wit_age : let s : State := { dev := { evt := { queue := [{ code := 1#16, unsync := false, aux := 0#8, eseq := 0#32, time := 0#64, args := [] }] } } }
    s.dev.evt.strAge ≠ 0#16 ∧ s.dev.blocksPending ≠ 0 ∧ (did .strAgeElapsed s).evt.aged = true := by decide +kernel
theorem wit_silent : let s : State := { dev := { evt := { fallback := true } } }
    s.dev.evt.hostTo ≠ 0#16 ∧ s.dev.evt.silent = false ∧ (did .hostSilent s).evt.fallen = true ∧
      (did .hostSilent { s with dev := { s.dev with evt := {} } }).evt.hostSil = 1#32 := by decide +kernel

/-! ## Clock, resets, bring-up and power -/

theorem wit_clock_loss : let s : State := { dev := { cast0 with pll := { locked := false, lossTimer := true } } }
    s.dev.pll.lossTimer = true ∧ s.dev.pll.locked = false ∧ s.dev.pll.lossOn = false ∧ s.dev.die1 = true ∧ (s.dev.part 0#5).power ≠ .off := by
  decide +kernel
theorem test_pll : (did .pllLockLost State.reset).pll = { locked := false, lossTimer := true } := by decide +kernel
theorem wit_regained : let s : State := { dev := { pll := { locked := false, lossTimer := true } } }
    s.dev.pll.locked = false ∧ (did .pllLockRegained s).pll = {} := by decide +kernel
theorem wit_recovery : let s : State := { dev := { cast0 with pll := { lossOn := true, stableTimer := true } } }
    s.dev.pll.lossOn = true ∧ s.dev.pll.locked = true ∧ s.dev.pll.stableTimer = true ∧ (did .clockLossRecovery s).pll.lossOn = false ∧
      (did .clockLossRecovery s).pwr.lastKind = 5#3 := by decide +kernel
theorem wit_division : let s : State := { dev := { parts := [(0, { divNext := some .d8 })] } }
    (s.dev.part 0#5).divNext = some .d8 ∧ (s.dev.part 0#5).power = .on ∧ ((did (.divisionChange 0#5) s).part 0#5).div = .d8 := by decide +kernel
/-- Below /4 the frame in progress is marked. -/
theorem wit_slowed : let s : State := { dev := { cast0 with parts := [(0, { cast := .released, divNext := some .d8 })], cores := [(0, { assigned := true, state := .running, inFrame := true })] } }
    (s.dev.part 0#5).divNext = some .d8 ∧ (s.dev.part 0#5).cast ≠ .uncast ∧ (s.dev.core 0#11).assigned = true ∧
      (s.dev.core 0#11).net = (s.dev.part 0#5).net ∧ (s.dev.core 0#11).inFrame = true ∧
      ((did (.divisionChange 0#5) s).core 0#11).flags.getLsbD 7 = true ∧
      (did (.divisionChange 1#5) s).parts = s.dev.parts ∧ (s.dev.part 1#5).divNext = none := by decide +kernel

/-- A reset command is armed. -/
def armedIn (d : Dev) : State := host { d with pwr := {} } |> fun s => { s with dev := { s.dev with pwr := { s.dev.pwr with armed := true } } }
theorem wit_arm : let s := host {}
    s.bus = true ∧ s.dev.pwr.fwUp = true ∧ (did (.rstArmWrite 0xA5#32) s).pwr.armed = true ∧ (did (.rstArmWrite 0xA4#32) s).pwr.armed = false := by
  decide +kernel
theorem wit_not_armed : let s := host cast0
    s.dev.pwr.armed = false ∧ (did (.resetPartition 0#5) s).pwr.rej = 1#32 ∧ (did .resetPackageWarm s).pwr.rej = 1#32 := by decide +kernel
theorem wit_no_target : let s := armedIn {}
    s.dev.resetTarget (.core 0#11) = false ∧ (did (.resetCore 0#11) s).pwr.rej = 1#32 ∧ (did (.resetCore 0#11) s).pwr.armed = false := by
  decide +kernel
theorem wit_reset_core : let s := armedIn { cast0 with cores := [(0, { assigned := true, state := .faulted, logical := 7#11, frames := 3 })] }
    s.dev.pwr.armed = true ∧ s.dev.resetTarget (.core 0#11) = true ∧ s.dev.resetStage (.core 0#11) = true ∧ s.dev.resetFree (.core 0#11) = true ∧
      ((did (.resetCore 0#11) s).core 0#11).state = .transferring ∧ ((did (.resetCore 0#11) s).core 0#11).frames = 3 := by decide +kernel
theorem wit_reset_cluster : let s := armedIn cast0
    s.dev.resetTarget (.cluster 0#7) = true ∧ s.dev.resetStage (.cluster 0#7) = true ∧ s.dev.resetFree (.cluster 0#7) = true ∧
      ((did (.resetCluster 0#7) s).cluster 0#7).inReset = true := by decide +kernel
theorem wit_reset_partition : let s := armedIn cast0
    s.dev.resetTarget (.partition 0#5) = true ∧ s.dev.resetStage (.partition 0#5) = true ∧ s.dev.resetFree (.partition 0#5) = true := by decide +kernel
theorem wit_reset_die : let s := armedIn cast0
    s.dev.resetTarget (.die 1) = true ∧ s.dev.resetStage (.die 1) = true ∧ s.dev.resetFree (.die 1) = true := by decide +kernel
theorem wit_reset_warm : let s := armedIn cast0
    s.dev.resetFree .warm = true ∧ (did .resetPackageWarm s).pwr.warmCnt = 1#16 ∧ (did .resetPackageWarm s).pwr.lastKind = 5#3 := by decide +kernel

/-- A reset is in progress. -/
def resetting (k : ResetKind) (d : Dev) : State := { dev := { d with pwr := { d.pwr with busy := [k] } } }
theorem wit_end_core : let s := resetting (.core 0#11) { cast0 with cores := [(0, { assigned := true, state := .transferring, stage := 5#11, frames := 3 })] }
    ResetKind.core 0#11 ∈ s.dev.pwr.busy ∧ s.dev.pwr.busy.Nodup ∧ s.dev.stageImg (s.dev.core 0#11).net (s.dev.core 0#11).stage = none ∧
      ((did (.resetComplete (.core 0#11)) s).core 0#11).state = .running ∧ (did (.resetComplete (.core 0#11)) s).pwr.busy = [] := by decide +kernel
theorem wit_end_core_image : let s := resetting (.core 0#11) { cast0 with
      nets := [(0, { img := some { net0 with stages := [{ num := 2#11, cores := [{ logical := 7#11, cluster := 0#7 }] }] }, open_ := true })]
      cores := [(0, { assigned := true, state := .transferring, logical := 7#11, stage := 2#11 })] }
    (s.dev.stageImg (s.dev.core 0#11).net (s.dev.core 0#11).stage).all (fun im => !im.streamed && (s.dev.shadowFault (partOfCore 0#11) im).isNone) = true ∧
      (s.dev.stageImg (s.dev.core 0#11).net (s.dev.core 0#11).stage).isSome = true ∧
      ((did (.resetComplete (.core 0#11)) s).core 0#11).state = .running := by decide +kernel
theorem wit_end_cluster : let s := resetting (.cluster 0#7) { clusters := [(0, { inReset := true })] }
    ResetKind.cluster 0#7 ∈ s.dev.pwr.busy ∧ ((did (.resetComplete (.cluster 0#7)) s).cluster 0#7).inReset = false := by decide +kernel
theorem wit_end_partition : let s := resetting (.partition 0#5) { parts := [(0, { inReset := true })] }
    ResetKind.partition 0#5 ∈ s.dev.pwr.busy ∧ ((did (.resetComplete (.partition 0#5)) s).part 0#5).inReset = false := by decide +kernel
theorem wit_end_die : let s := resetting (.die 1) { dies := [(1, { inReset := true })] }
    (s.dev.die 1).resetLvl = false ∧ (s.dev.die 1).testing = false ∧ s.dev.pll.lossOn = false ∧
      ((did (.resetComplete (.die 1)) s).die 1).inReset = false ∧ (did (.resetComplete .warm) (resetting .warm {})).pwr.busy = [] := by decide +kernel
theorem wit_reset_n : let s : State := { dev := cast0 }
    999 < 1000 ∧ 1000 ≤ 1000 ∧ 1000 < 10000 ∧ (did (.resetNAssert 999) s).pwr.resetHeld = false ∧ 10000 ≤ 10000 ∧ (did (.resetNAssert 10000) s).pwr.resetHeld = true ∧
      (did (.resetNRelease 2#2 false) (after (.resetNAssert 10000) s)).pins.strap = 2#2 ∧
      (did (.resetNRelease 2#2 false) (after (.resetNAssert 10000) s)).pwr.resetHeld = false := by decide +kernel
theorem wit_supply : let s : State := { dev := cast0 }
    s.dev.die1 = true ∧ (did (.supplyFail .vddMr1) s).pwr.supplyFail = true ∧ (did .supplyRestored (after (.supplyFail .vddP) s)).pwr.supplyFail = false ∧
      ((did .opticalRailFail (ing0 {})).lane 0#5).link = false := by decide +kernel

/-- Bring-up stands in stage `n`. -/
def inStage (n : BitVec 4) : State := { dev := { pwr := { stage := n, fwUp := true } } }
def report0 : StageReport :=
  { stop := false, losses := false, duration := 0#32, count0 := 0#32, count1 := 0#32, count2 := 0#32, count3 := 0#32, lanesUp := 0xFF#32,
    chainUp := 0#8, channelsFailed := [], segmentsFailed := [5#24], coresFailed := [9#11] }
/-- What stage `n` leaves. -/
def staged (n : BitVec 4) : Dev := did (.bringupStageEnd report0) (inStage n)
theorem wit_stage_1 : (inStage 1#4).dev.pll.locked = true ∧ (staged 1#4).pwr.stage = 2#4 ∧
    (did (.bringupStageEnd { report0 with stop := true }) (inStage 1#4)).pwr.stopped = true := by decide +kernel
theorem wit_stage_2 : let s := inStage 2#4
    s.dev.pwr.stopped = false ∧ s.store.bootBank = some false ∧ s.store.factory.verifies = true ∧ s.store.factory.defaults = [] ∧
      s.store.ud = none ∧ (staged 2#4).pwr.stage = 3#4 ∧ (staged 2#4).pwr.fwUp = true := by decide +kernel
theorem wit_stage_3 : (inStage 3#4).dev.fwRuns = true ∧ (staged 3#4).pwr.stage = 4#4 ∧ ((staged 3#4).lane 7#5).link = true ∧
    ((staged 3#4).lane 8#5).link = false := by decide +kernel
theorem wit_stage_4 : (staged 4#4).pwr.stage = 5#4 ∧ (staged 4#4).health.badSegs = [5#24] := by decide +kernel
theorem wit_stage_5 : (inStage 5#4).dev.pwr.fast = false ∧ (inStage 5#4).dev.diePresent (dieOfCore 9#11) = true ∧ (staged 5#4).pwr.stage = 6#4 ∧
    (staged 5#4).good 9#11 = false := by decide +kernel
theorem wit_stage_5_fast : let s : State := { dev := { pwr := { stage := 5#4, fwUp := true, fast := true } } }
    s.dev.pwr.fast = true ∧ (did (.bringupStageEnd report0) s).pwr.stage = 6#4 ∧ (did (.bringupStageEnd report0) s).health.fences = [] ∧
      (∀ i ∈ (inStage 5#4).dev.dies_, ((inStage 5#4).dev.die i).warn = false) := by decide +kernel
theorem wit_stage_6 : (staged 6#4).pwr.stage = 7#4 := by decide +kernel
theorem wit_stage_7 : (inStage 7#4).dev.pwr.bootNets = [] ∧ (staged 7#4).pwr.stage = 8#4 := by decide +kernel
theorem wit_stage_9 : let s : State := { dev := { pwr := { stage := 9#4, fwUp := true }, nets := [(0, { probation := true, maq := { passed := true } })] } }
    s.dev.fwRuns = true ∧ (s.dev.net 0#5).probation = true ∧ (s.dev.net 0#5).maq.passed = true ∧ (did (.bringupStageEnd report0) s).pwr.stage = 15#4 ∧
      (did (.bringupStageEnd report0) s).pwr.ready = true ∧ ((did (.bringupStageEnd report0) s).net 0#5).openAt = true ∧
      (did (.bringupStageEnd report0) { s with dev := { s.dev with pwr := { s.dev.pwr with stage := 8#4 } } }).pwr.stage = 9#4 := by decide +kernel

theorem wit_standby : let s := armedIn cast0
    s.dev.runningNow = true ∧ s.dev.pwr.armed = true ∧ s.dev.isCast 0#5 = true ∧ (s.dev.net 0#5).drain = none ∧
      ((did .packageStandby s).net 0#5).drain = some .standby ∧ (did .deepStandby s).pwr.state = .enterDeep ∧
      (did .deepStandbyRetained s).pwr.psret = true := by decide +kernel
theorem wit_standby_ignored : let s := host cast0
    s.dev.pwr.armed = false ∧ (did .packageStandby s).pwr.rej = 1#32 ∧ s.dev.pwr.state ≠ .standby ∧ s.dev.pwr.state ≠ .deep ∧
      (did .wake s).pwr.rej = 1#32 := by decide +kernel
theorem wit_entered : let s : State := { dev := { pwr := { state := .enterDeep, psret := true }, psram := [(0, 1#8)] } }
    s.dev.nets = [] ∧ s.dev.parts = [] ∧ (did .powerStateEntered s).pwr.state = .deep ∧ (did .powerStateEntered s).psram = [(0, 1#8)] := by
  decide +kernel
theorem wit_entered_standby : let s : State := { dev := { pwr := { state := .enterStandby } } }
    s.dev.nets = [] ∧ (did .powerStateEntered s).pwr.state = .standby ∧ ((did .powerStateEntered s).die 0).railOn = false ∧
      ((did .powerStateEntered s).chan 95).selfRefresh = true := by decide +kernel
theorem wit_wake : let s : State := { dev := { pwr := { state := .standby, fwUp := true }, dies := [(0, { railOn := false })] } }
    s.bus = true ∧ s.dev.pwr.fwUp = true ∧ (did .wake s).pwr.stage = 4#4 ∧ ((did .wake s).die 0).railOn = true := by decide +kernel
theorem wit_wake_deep : let s : State := { dev := { pwr := { state := .deep, fwUp := true } } }
    s.dev.pwr.state = .deep ∧ (did .wake s).pwr.stage = 1#4 ∧ (did .wake s).pwr.warmCnt = 1#16 := by decide +kernel
theorem wit_wake_loss : let s : State := { dev := { pwr := { state := .standby, fwUp := true }, pll := { lossOn := true } } }
    s.dev.pwr.state = .standby ∧ s.dev.pll.lossOn = true ∧ (did .wake s).pwr.rej = 1#32 ∧ (did .wake s).pwr.state = .standby := by decide +kernel
theorem wit_p_pwr : let s := host { parts := [(0, { cast := .stopped }), (1, {}), (2, { power := .off })] }
    hostRuns s ∧ s.dev.diePresent (dieOfPart 0#5) = true ∧ (s.dev.part 0#5).power = .on ∧ (s.dev.part 0#5).powerTo = none ∧
      (s.dev.part 0#5).inReset = false ∧ (s.dev.net (s.dev.part 0#5).net).drain = none ∧ (s.dev.net (s.dev.part 1#5).net).casting = none ∧
      ((did (.pPwrRetention 0#5) s).part 0#5).powerTo = some .retention ∧ (did (.pPwrRetention 1#5) s).pwr.rej = 1#32 ∧
      ((did (.pPwrOff 1#5) s).part 1#5).powerTo = some .off ∧ (did (.pPwrOff 0#5) s).pwr.rej = 1#32 ∧ (s.dev.part 2#5).power ≠ .on ∧
      ((did (.pPwrOn 2#5) s).part 2#5).powerTo = some .on := by decide +kernel
theorem wit_transition : let s : State := { dev := { parts := [(0, { cast := .stopped, powerTo := some .retention }), (1, { powerTo := some .off }), (2, { power := .off, powerTo := some .on })] } }
    (s.dev.part 0#5).powerTo = some .retention ∧ (s.dev.part 1#5).powerTo = some .off ∧ (s.dev.part 2#5).powerTo = some .on ∧
      ((did (.partitionPowerTransitionDone 0#5) s).part 0#5).retEntries = 1#16 ∧
      ((did (.partitionPowerTransitionDone 2#5) s).part 2#5).power = .on := by decide +kernel
theorem wit_on_in_warning : let s : State := { dev := { dies := [(0, { warn := true })], parts := [(0, { power := .off, powerTo := some .on }), (1, { cast := .stopped, power := .retention, powerTo := some .on })] } }
    (s.dev.part 0#5).power = .off ∧ ((did (.partitionPowerTransitionDone 0#5) s).part 0#5).bow = true ∧
      ((did (.retentionExitCheck 1#5 true) s).part 1#5).bow = true := by decide +kernel
theorem wit_retention_exit : let s : State := { dev := { parts := [(0, { cast := .stopped, power := .retention, powerTo := some .on })] } }
    (s.dev.part 0#5).powerTo = some .on ∧ (s.dev.part 0#5).power = .retention ∧ ((did (.retentionExitCheck 0#5 true) s).part 0#5).cast = .stopped ∧
      ((did (.retentionExitCheck 0#5 false) s).part 0#5).cast = .heldAbort ∧ ((did (.retentionExitCheck 0#5 false) s).part 0#5).castStep = 9#4 := by
  decide +kernel

/-- 95 % of 800 mV is 760 mV, 90 % is 720 mV. -/
theorem wit_warning : let s : State := { dev := {} }
    s.dev.monitored 0 = true ∧ (759#16 : W16).toNat * 100 < 95 * (s.dev.die 0).monitorAvs.toNat ∧ ((did (.brownoutWarning 0 759#16) s).die 0).warn = true ∧
      ((did (.brownoutWarning 0 760#16) s).die 0).warn = false ∧ ((did (.brownoutWarning 0 759#16) s).part 0#5).bow = true := by decide +kernel
theorem wit_warned : let s : State := { dev := { dies := [(0, { warn := true, boMin := 759#16 })], parts := [(0, { bow := true })] } }
    (s.dev.die 0).warn = true ∧ ((did (.brownoutWarning 0 758#16) s).die 0).boMin = 758#16 ∧ ((did (.brownoutWarningReport 0 757#16) s).die 0).boMin = 757#16 ∧
      (s.dev.die 0).recastNets = [] ∧ s.dev.hostMode 0#5 9 = false ∧ ((did (.brownoutRecovery 0 9#32) s).die 0).dur = 9#32 ∧
      ((did (.brownoutRecovery 0 9#32) s).part 0#5).bow = false := by decide +kernel
theorem wit_recovery_host : let s : State := { dev := { dies := [(0, { warn := true })], parts := [(0, { bow := true, mode := 0x200#10 })] } }
    s.dev.hostMode 0#5 9 = true ∧ ((did (.brownoutRecovery 0 9#32) s).part 0#5).awaitAck = true := by decide +kernel
theorem wit_bo_reset : let s : State := { dev := {} }
    (s.dev.die 0).resetLvl = false ∧ (719#16 : W16).toNat * 100 < 90 * (s.dev.die 0).monitorAvs.toNat ∧ ((did (.brownoutReset 0 719#16) s).die 0).inReset = true ∧
      ((did (.brownoutReset 0 720#16) s).die 0).inReset = false ∧
      ((did (.dieArmatureTestDone 0) { dev := { dies := [(0, { testing := true, inReset := true })] } }).die 0).inReset = false := by decide +kernel
theorem wit_boack : let s := mbox { parts := [(0, { bow := true, awaitAck := true })] } {}
    mboxFree s ∧ (s.dev.part 0#5).awaitAck = true ∧ (s.dev.die 0).warn = false ∧ (s.dev.die 0).resetLvl = false ∧
      (did (.boack 1#8 1#32) s).mbx.result = 0#16 ∧ ((did (.boack 1#8 1#32) s).part 0#5).bow = false := by decide +kernel

theorem test_tap : (after .jtagBypass State.reset).tap.dr = 0#32 ∧ (after .jtagIdcode State.reset).tap.dr.getLsbD 0 = true ∧
    (after (.jtagSamplePreload 5#28) State.reset).tap.boundary = 5#28 ∧ (after .jtagExtest State.reset).bus = false := by decide +kernel
theorem wit_extest : hostCommand (.pModeWrite 0#5 0#32) = true ∧
    let s := after .jtagExtest (host {})
    s.bus = false ∧ ((did (.pModeWrite 0#5 0#32) s).part 0#5).mode = 0x0C0#10 := by decide +kernel

/-! ## Number formats and the whole machine -/

theorem wit_nan : of32 0xFF800001#32 = .nan ∧ narrowFloat .bf16 false 0xFF800001#32 = (0x7FC0, .nan) := by decide +kernel
theorem wit_nan_add : of32 (add32 0x7F800000#32 0xFF800000#32) = .nan ∧ add32 0x7F800000#32 0xFF800000#32 = nan32 ∧
    of32 (mul32 0x7F800000#32 0#32) = .nan := by decide +kernel
theorem wit_step : let s : State := { (host {}) with pending := [.pModeWrite 0#5 1#32, .cmd0] }
    s.pending = .pModeWrite 0#5 1#32 :: [.cmd0] ∧
      (match step s with | .next t => some (t.pending, (t.dev.part 0#5).mode) | _ => none) = some ([.cmd0], 1#10) := by decide +kernel
theorem wit_tick : State.reset.pending = [] ∧ (match step State.reset with | .next t => some t.dev.time | _ => none) = some 1#48 := by decide +kernel
theorem wit_image_store : let s : State := { longFw false with pending := [.longCommandEnd 7#8 0#16] }
    s.pending.head? = some (.longCommandEnd 7#8 0#16) ∧ (match step s with | .next t => t.store.bankB | _ => none) = some fw2 := by decide +kernel
theorem wit_reserved : reservedClear 0x3000E02040000000#64 = true ∧ 10 ≤ ((0xB000000000000000#64 : W64).extractLsb' 60 4).toNat := by decide +kernel
/-- Table 8-6 by hand: MAGIC, FMT 1, NSECT 2 and SETVER, little-endian; 64 bytes in all. -/
theorem test_container : let h : SetHeader :=
      { nsect := 2#16, setver := 0x01020304#32, length := 0#32, partmask := 1#32, lanemask := 0#32, coresreq := 1#16, clkreq := 0#16, ownser := 0#32, build := 0#256 }
    (setHeaderBytes h).take 12 = [0x31#8, 0x53#8, 0x43#8, 0x4F#8, 1#8, 0#8, 2#8, 0#8, 4#8, 3#8, 2#8, 1#8] ∧ (setHeaderBytes h).length = 64 ∧
      defEntryBytes ⟨0x1000#32, 0xFF#32, 7#32⟩ = [0#8, 0x10#8, 0#8, 0#8, 0xFF#8, 0#8, 0#8, 0#8, 7#8, 0#8, 0#8, 0#8] := by decide +kernel

end Sys2Proof.Tests
end

section
/-! SUPPORT. The words of the schedule instructions (Table 3-4) and the little-endian fields of the container (Tables 8-5 to 8-7)
read back as they were written. -/
namespace Sys2Proof.Machine

open Sys2Proof

/-! ## Schedule words: a field of a concatenation is found by its place

`Nat.reduceAdd` stays off where a word is taken apart: the library's rules match its width only as the sum of its fields' widths. -/

/-- The opcode of Table 3-3, bits 63 to 60 of an instruction's word. -/
def SeqInstr.opcode : SeqInstr → BitVec 4
  | .halt => 0 | .fire _ => 1 | .loop .. => 2 | .endl .. => 3 | .load .. => 4
  | .frame .. => 5 | .rowend .. => 6 | .waitd .. => 7 | .call _ => 8 | .ret => 9

theorem extractLsb'_opcode_encodeSeq (i : SeqInstr) : (encodeSeq i).extractLsb' 60 4 = i.opcode := by
  cases i <;> simp [encodeSeq, SeqInstr.opcode, BitVec.extractLsb'_append_eq_of_le, -Nat.reduceAdd]

theorem fireOf_encodeSeq_fire (f : FireOp) : fireOf (encodeSeq (.fire f)) = f := by
  simp [fireOf, encodeSeq, BitVec.extractLsb'_append_eq_of_le, BitVec.extractLsb'_append_eq_of_add_le, -Nat.reduceAdd]

theorem decodeSeq_encodeSeq (i : SeqInstr) : decodeSeq (encodeSeq i) = some i := by
  have hop := extractLsb'_opcode_encodeSeq i
  cases i with
  | halt | ret => simp [decodeSeq, hop, SeqInstr.opcode]
  | fire f => simp [decodeSeq, hop, SeqInstr.opcode, fireOf_encodeSeq_fire]
  | loop | endl | load | frame | rowend | waitd | call =>
    simp only [decodeSeq, hop, SeqInstr.opcode]
    simp [encodeSeq, BitVec.extractLsb'_append_eq_of_le, BitVec.extractLsb'_append_eq_of_add_le, -Nat.reduceAdd]

theorem encodeSeq_of_reservedClear {w : W64} {i : SeqInstr} (hdec : decodeSeq w = some i) (hclear : reservedClear w = true) :
    encodeSeq i = w := by
  simpa [reservedClear, hdec] using hclear

theorem decodeSeq_eq_none_of_opcode {w : W64} (hop : 10 ≤ (w.extractLsb' 60 4).toNat) : decodeSeq w = none := by
  obtain ⟨k, hk⟩ := Nat.exists_eq_add_of_le' hop
  simp [decodeSeq, hk]

/-! ## Container fields: what `leField` reads of a list of fields

`Nat.reducePow` stays off where a layout is read back, so that the modulus of a field keeps the form `256 ^ n` of these lemmas. -/

@[simp] theorem length_leOf (n x : Nat) : (leOf n x).length = n := by
  induction n generalizing x with
  | zero => rfl
  | succ n ih => simp [leOf, ih]

theorem leNat_leOf (n x : Nat) : leNat (leOf n x) = x % 256 ^ n := by
  induction n generalizing x with
  | zero => simp [leOf, leNat, Nat.mod_one]
  | succ n ih => simp [leOf, leNat, ih, Nat.pow_succ', Nat.mod_mul]

@[simp] theorem leField_leOf_append (n x : Nat) (l : List Byte) : leField (leOf n x ++ l) 0 n = x % 256 ^ n := by
  simp [leField, leNat_leOf]

@[simp] theorem leField_leOf (n x : Nat) : leField (leOf n x) 0 n = x % 256 ^ n := by
  simpa only [List.append_nil] using leField_leOf_append n x []

/-- A field that begins past the first one is a field of the rest. -/
@[simp] theorem leField_leOf_append_of_le {m off : Nat} (h : m ≤ off) (x : Nat) (l : List Byte) (n : Nat) :
    leField (leOf m x ++ l) off n = leField l (off - m) n := by
  simp [leField, List.drop_append, List.drop_of_length_le, h]

/-- A word loses nothing in a field of at least as many bits. -/
@[simp] theorem ofNat_toNat_mod_pow {w n : Nat} (h : w ≤ 8 * n) (v : BitVec w) : BitVec.ofNat w (v.toNat % 256 ^ n) = v := by
  have hpow : 2 ^ w ≤ 256 ^ n := by
    calc 2 ^ w ≤ 2 ^ (8 * n) := Nat.pow_le_pow_right (by decide) h
      _ = 256 ^ n := by rw [Nat.pow_mul]
  rw [Nat.mod_eq_of_lt (v.isLt.trans_le hpow), BitVec.ofNat_toNat, BitVec.setWidth_eq]

theorem defEntryOf_defEntryBytes (e : DefEntry) : defEntryOf (defEntryBytes e) = e := by
  simp [defEntryOf, defEntryBytes, -Nat.reducePow]

theorem manifestOf_manifestBytes (m : ManifestEntry) : manifestOf (manifestBytes m) = m := by
  simp [manifestOf, manifestBytes, -Nat.reducePow]

theorem setHeaderOf_setHeaderBytes (h : SetHeader) : setHeaderOf (setHeaderBytes h) = some h := by
  have hmagic : setMagic % 256 ^ 4 = setMagic := by decide
  have hfmt : 1 % 256 ^ 2 = 1 := by decide
  simp [setHeaderOf, setHeaderBytes, hmagic, hfmt, -Nat.reducePow]

/-- Settles O59: a field of a concatenation is found by its place, and a little-endian field holds every bit of its word. -/
theorem sequencerWordsRoundTrip : Obligations.SequencerWordsRoundTrip :=
  ⟨decodeSeq_encodeSeq, fun _ _ => encodeSeq_of_reservedClear, fun _ => decodeSeq_eq_none_of_opcode,
    setHeaderOf_setHeaderBytes, manifestOf_manifestBytes, defEntryOf_defEntryBytes⟩

end Sys2Proof.Machine
end

section
/-! SUPPORT. What the words, bursts and events in the device leave as they are: its power and clock, its dies and lanes, its
memory, and the place of every partition and core. Each shared operation keeps it, stated once. -/
namespace Sys2Proof.Machine

open Sys2Proof

/-! ## What stands -/

/-- The device apart from its partitions, as every uncast leaves it. -/
structure Base where
  die1 : Bool
  pll : Pll
  pins : Pins
  psram : Tbl Byte
  pwr : Pwr
  dies : Tbl Die
  lanes : Tbl Lane
  index : Tbl (BitVec 128)
  inReset : ClusterId → Bool

/-- What a partition keeps when it becomes uncast. -/
structure Plant where
  power : PPower
  regions : Tbl Region
  mode : BitVec 10

/-- A partition as words and events leave it. -/
structure Service where
  cast : PState
  inReset : Bool
  frozen : Bool
  powerTo : Option PPower
  shut : Bool
  retEntries : W16
  rstCore : W16
  rstCluster : W16
  rstPart : W16

/-- What a core is to its network and where its sequencer stands. -/
structure Role where
  assigned : Bool
  spare : Bool
  state : CState
  logical : LogicalId
  frames : Nat

/-- What an uncast leaves: the device apart from its partitions, and what each partition keeps. -/
structure Ground extends Base where
  plants : PartId → Plant

/-- What words, bursts and events leave: the ground, every partition's service and every core's role. -/
structure Standing extends Ground where
  services : PartId → Service
  roles : CoreId → Role

abbrev Partition.plant (x : Partition) : Plant := ⟨x.power, x.regions, x.mode⟩
abbrev Partition.service (x : Partition) : Service :=
  ⟨x.cast, x.inReset, x.frozen, x.powerTo, x.shut, x.retEntries, x.rstCore, x.rstCluster, x.rstPart⟩
abbrev Core.role (k : Core) : Role := ⟨k.assigned, k.spare, k.state, k.logical, k.frames⟩

def Dev.standing (d : Dev) : Standing where
  die1 := d.die1
  pll := d.pll
  pins := d.pins
  psram := d.psram
  pwr := d.pwr
  dies := d.dies
  lanes := d.ing.lanes
  index := d.route.index
  inReset := fun c => (d.cluster c).inReset
  plants := fun p => (d.part p).plant
  services := fun p => (d.part p).service
  roles := fun c => (d.core c).role

/-! ## Reading what stands -/

section
variable {d e : Dev}
theorem base_of_standing (h : e.standing = d.standing) : e.standing.toBase = d.standing.toBase :=
  congrArg (fun x => x.toBase) h
theorem ground_of_standing (h : e.standing = d.standing) : e.standing.toGround = d.standing.toGround :=
  congrArg (fun x => x.toGround) h
theorem base_of_ground (h : e.standing.toGround = d.standing.toGround) : e.standing.toBase = d.standing.toBase :=
  congrArg (fun x => x.toBase) h
theorem die1_of_base (h : e.standing.toBase = d.standing.toBase) : e.die1 = d.die1 := congrArg (fun x => x.die1) h
theorem pll_of_base (h : e.standing.toBase = d.standing.toBase) : e.pll = d.pll := congrArg (fun x => x.pll) h
theorem psram_of_base (h : e.standing.toBase = d.standing.toBase) : e.psram = d.psram := congrArg (fun x => x.psram) h
theorem pwr_of_base (h : e.standing.toBase = d.standing.toBase) : e.pwr = d.pwr := congrArg (fun x => x.pwr) h
theorem die_of_base (h : e.standing.toBase = d.standing.toBase) (i : Nat) : e.die i = d.die i :=
  congrArg (fun x : Base => tblGet ({} : Die) x.dies i) h
theorem lane_of_base (h : e.standing.toBase = d.standing.toBase) (l : PartId) : e.lane l = d.lane l :=
  congrArg (fun x : Base => tblGet ({} : Lane) x.lanes l.toNat) h
theorem clusterReset_of_base (h : e.standing.toBase = d.standing.toBase) (c : ClusterId) :
    (e.cluster c).inReset = (d.cluster c).inReset := congrArg (fun x : Base => x.inReset c) h
theorem plant_of_ground (h : e.standing.toGround = d.standing.toGround) (p : PartId) : (e.part p).plant = (d.part p).plant :=
  congrArg (fun x : Ground => x.plants p) h
theorem service_of_standing (h : e.standing = d.standing) (p : PartId) : (e.part p).service = (d.part p).service :=
  congrArg (fun x : Standing => x.services p) h
theorem role_of_standing (h : e.standing = d.standing) (c : CoreId) : (e.core c).role = (d.core c).role :=
  congrArg (fun x : Standing => x.roles c) h
theorem cast_of_standing (h : e.standing = d.standing) (p : PartId) : (e.part p).cast = (d.part p).cast :=
  congrArg Service.cast (service_of_standing h p)
theorem power_of_ground (h : e.standing.toGround = d.standing.toGround) (p : PartId) : (e.part p).power = (d.part p).power :=
  congrArg Plant.power (plant_of_ground h p)
theorem regions_of_ground (h : e.standing.toGround = d.standing.toGround) (p : PartId) :
    (e.part p).regions = (d.part p).regions := congrArg Plant.regions (plant_of_ground h p)
theorem mode_of_ground (h : e.standing.toGround = d.standing.toGround) (p : PartId) : (e.part p).mode = (d.part p).mode :=
  congrArg Plant.mode (plant_of_ground h p)
theorem state_of_standing (h : e.standing = d.standing) (c : CoreId) : (e.core c).state = (d.core c).state :=
  congrArg Role.state (role_of_standing h c)
end

/-! ## Updates of one unit -/

section
variable (d : Dev)
@[simp] theorem Dev.standing_modQueue (q : QueueId) (f : Queue → Queue) : (d.modQueue q f).standing = d.standing := by rfl
@[simp] theorem Dev.standing_setQueue (q : QueueId) (v : Queue) : (d.setQueue q v).standing = d.standing := by rfl
@[simp] theorem Dev.standing_modNet (n : NetId) (f : Network → Network) : (d.modNet n f).standing = d.standing := by rfl
@[simp] theorem Dev.standing_modCtx (c : BitVec 10) (f : Context → Context) : (d.modCtx c f).standing = d.standing := by rfl
@[simp] theorem Dev.standing_modAdapt (u : BitVec 2) (f : Adapt → Adapt) : (d.modAdapt u f).standing = d.standing := by rfl
@[simp] theorem Dev.standing_modRing (i : Nat) (f : Ring → Ring) : (d.modRing i f).standing = d.standing := by rfl
@[simp] theorem Dev.standing_modChan (i : Nat) (f : Channel → Channel) : (d.modChan i f).standing = d.standing := by rfl
@[simp] theorem Dev.standing_modCal (f : Cal → Cal) : (d.modCal f).standing = d.standing := by rfl
@[simp] theorem Dev.standing_modMbx (f : Mbx → Mbx) : (d.modMbx f).standing = d.standing := by rfl
@[simp] theorem Dev.standing_modHealth (f : Health → Health) : (d.modHealth f).standing = d.standing := by rfl
@[simp] theorem Dev.standing_modTensor (n : NetId) (t : BitVec 12) (f : Tensor → Tensor) :
    (d.modTensor n t f).standing = d.standing := by rfl
@[simp] theorem Dev.standing_modGroup (n : NetId) (g : BitVec 4) (f : Group → Group) :
    (d.modGroup n g f).standing = d.standing := by rfl
@[simp] theorem Dev.standing_raiseAux (code : W16) (aux : Byte) (args : List W32) :
    (d.raiseAux code aux args).standing = d.standing := by rfl
@[simp] theorem Dev.standing_raise (code : W16) (p : PartId) (args : List W32) : (d.raise code p args).standing = d.standing := by rfl
@[simp] theorem Dev.standing_raise0 (code : W16) (args : List W32) : (d.raise0 code args).standing = d.standing := by rfl
@[simp] theorem Dev.standing_hostWrote : d.hostWrote.standing = d.standing := by rfl

@[simp] theorem Dev.standing_modIng (f : Ingest → Ingest) (h : ∀ g, (f g).lanes = g.lanes) :
    (d.modIng f).standing = d.standing := by
  simp [Dev.standing, Dev.modIng, h, Dev.cluster, Dev.part, Dev.core]
@[simp] theorem Dev.standing_modRoute (f : Route → Route) (h : ∀ r, (f r).index = r.index) :
    (d.modRoute f).standing = d.standing := by
  simp only [Dev.standing, show (d.modRoute f).route = f d.route from rfl, h]
  rfl

/-- An update of a core that keeps its role. -/
@[simp] theorem Dev.standing_modCore (c : CoreId) (f : Core → Core) (h : ∀ k, (f k).role = k.role) :
    (d.modCore c f).standing = d.standing := by
  have hroles : (fun x => ((d.modCore c f).core x).role) = fun x => (d.core x).role := by
    funext x
    rw [Dev.core_modCore]
    split
    · next hx => rw [h, hx]
    · rfl
  simp [Dev.standing, hroles]

/-- An update of a partition that keeps what it keeps when uncast, and its service. -/
@[simp] theorem Dev.standing_modPart (p : PartId) (f : Partition → Partition) (hp : ∀ x, (f x).plant = x.plant)
    (hs : ∀ x, (f x).service = x.service) : (d.modPart p f).standing = d.standing := by
  have hplants : (fun x => ((d.modPart p f).part x).plant) = fun x => (d.part x).plant := by
    funext x
    rw [Dev.part_modPart]
    split
    · next hx => rw [hp, hx]
    · rfl
  have hservices : (fun x => ((d.modPart p f).part x).service) = fun x => (d.part x).service := by
    funext x
    rw [Dev.part_modPart]
    split
    · next hx => rw [hs, hx]
    · rfl
  simp [Dev.standing, hplants, hservices]
end

/-! ## Runs of operations -/

/-- What every operation of a run keeps, the run keeps. -/
theorem foldl_keeps {α β γ : Type} (g : β → γ) (f : β → α → β) (h : ∀ b a, g (f b a) = g b) (l : List α) (b : β) :
    g (l.foldl f b) = g b := by
  induction l generalizing b with
  | nil => rfl
  | cons a l ih => rw [List.foldl_cons, ih, h]

/-- What every operation of a run leaves true, the run leaves true. -/
theorem foldl_preserves {α β : Type} (P : β → Prop) (f : β → α → β) (h : ∀ b a, P b → P (f b a)) (l : List α) (b : β) (hb : P b) :
    P (l.foldl f b) := by
  induction l generalizing b with
  | nil => exact hb
  | cons a l ih => exact ih _ (h b a hb)

@[simp] theorem Dev.standing_foldl {α : Type} (f : Dev → α → Dev) (h : ∀ d a, (f d a).standing = d.standing) (l : List α) (d : Dev) :
    (l.foldl f d).standing = d.standing := foldl_keeps Dev.standing f h l d

@[simp] theorem Dev.standing_ite (b : Prop) [Decidable b] (d e : Dev) :
    (if b then d else e).standing = if b then d.standing else e.standing := apply_ite Dev.standing b d e

/-! ## Words into queues -/

section
variable (d : Dev)
@[simp] theorem Dev.standing_tfault (who : Requester) (p : PartId) (a : Nat) : (d.tfault who p a).standing = d.standing := by
  simp [Dev.tfault]
@[simp] theorem Dev.standing_toChannel (b : BurstReq) (ch : Nat) : (d.toChannel b ch).standing = d.standing := by
  simp [Dev.toChannel]
@[simp] theorem Dev.standing_moved (q : QueueId) : (d.moved q).standing = d.standing := by
  simp [Dev.moved]
@[simp] theorem Dev.standing_moveQueue (q : QueueId) (f : Queue → Queue) : (d.moveQueue q f).standing = d.standing := by
  simp [Dev.moveQueue]
@[simp] theorem Dev.standing_putQueue (id : QueueId) (q : Queue) : (d.putQueue id q).standing = d.standing := by
  simp [Dev.putQueue]
@[simp] theorem Dev.standing_spillOut (id : QueueId) : (d.spillOut id).standing = d.standing := by
  dsimp only [Dev.spillOut]
  split
  · rfl
  · split <;> simp
@[simp] theorem Dev.standing_patchWord (id : QueueId) (idx : Nat) (w : QWord) : (d.patchWord id idx w).2.standing = d.standing := by
  refine foldl_keeps (fun acc : QWord × Dev => acc.2.standing) _ (fun acc c => ?_) _ (w, d)
  dsimp only
  split
  · split <;> simp
  · rfl
@[simp] theorem Dev.standing_snoopWord (id : QueueId) (idx : Nat) (w : QWord) : (d.snoopWord id idx w).standing = d.standing := by
  simp [Dev.snoopWord]
@[simp] theorem Dev.standing_absorb (p : PartId) : (d.absorb p).standing = d.standing := by
  dsimp only [Dev.absorb]
  split
  · rfl
  · simp
@[simp] theorem Dev.standing_write (id : QueueId) (port : BitVec 10) (w : QWord) : (d.write id port w).standing = d.standing := by
  simp [Dev.write]
@[simp] theorem Dev.standing_writeAll (id : QueueId) (port : BitVec 10) (ws : List QWord) :
    (d.writeAll id port ws).standing = d.standing := by
  simp [Dev.writeAll]
end

/-! ## Images that an admitted frame issues -/

section
variable (d : Dev)
@[simp] theorem Dev.standing_imageEnd (id : QueueId) (b : BurstReq) : (d.imageEnd id b).standing = d.standing := by
  simp [Dev.imageEnd]
@[simp] theorem Dev.standing_checked (b : BurstReq) : (d.checked b).2.standing = d.standing := by
  unfold Dev.checked
  split
  · rfl
  · split <;> rfl
  · split <;> simp
theorem Dev.checked_who (b : BurstReq) : (d.checked b).1.who = b.who := by
  unfold Dev.checked
  split
  · rfl
  · split <;> rfl
  · split <;> rfl
theorem Dev.checked_write (b : BurstReq) : (d.checked b).1.write = b.write := by
  unfold Dev.checked
  split
  · rfl
  · split <;> rfl
  · split <;> rfl
/-- The burst of an image or of a replay slot brings words, and nothing else changes. -/
theorem Dev.standing_submit_image (b : BurstReq) (hw : b.write = false)
    (h : (∃ q, b.who = .image q) ∨ ∃ u, b.who = .intake u) : (d.submit b).standing = d.standing := by
  unfold Dev.submit
  split
  · simp
  · have hwho := d.checked_who b
    have hwrite := (d.checked_write b).trans hw
    dsimp only
    unfold Dev.burstEnd
    rw [hwho, hwrite]
    obtain ⟨q, hq⟩ | ⟨u, hu⟩ := h
    · simp [hq]
    · simp [hu]
@[simp] theorem Dev.standing_imageBurst (id : QueueId) : (d.imageBurst id).standing = d.standing := by
  dsimp only [Dev.imageBurst]
  split
  · rfl
  · split
    · rfl
    · rw [Dev.standing_submit_image _ _ rfl, Dev.standing_setQueue]
      dsimp only
      split
      · exact .inr ⟨_, rfl⟩
      · exact .inl ⟨_, rfl⟩
@[simp] theorem Dev.standing_issueImage (id : QueueId) (a : DevAddr) (n : Nat) : (d.issueImage id a n).standing = d.standing := by
  simp [Dev.issueImage]
@[simp] theorem Dev.standing_issueImages (n : NetId) (bank : Adapt → BitVec 2) : (d.issueImages n bank).standing = d.standing := by
  simp [Dev.issueImages]
end

end Sys2Proof.Machine
end

section
/-! SUPPORT. The ingest engine and the chain ports leave what stands as it is; a link that is lost changes the lanes alone. -/
namespace Sys2Proof.Machine

open Sys2Proof

/-! ## Admission of frames -/

section
variable (d : Dev) (n : NetId) (g : BitVec 4)
@[simp] theorem Dev.standing_ingestRun (m fuel : Nat) : (d.ingestRun n g m fuel).standing = d.standing := by
  induction fuel generalizing d with
  | zero => rfl
  | succ k ih =>
    dsimp only [Dev.ingestRun]
    split
    · rfl
    · split
      · rfl
      · split
        · rfl
        · rw [ih, Dev.standing_modGroup]
        · split
          · simp
          · rw [ih, Dev.standing_modGroup, Dev.standing_write]
@[simp] theorem Dev.standing_ingestAll (m : Nat) : (d.ingestAll n g m).standing = d.standing := by
  simp [Dev.ingestAll]
@[simp] theorem Dev.standing_trimFlights : (d.trimFlights n).standing = d.standing := by rfl
@[simp] theorem Dev.standing_sramRead : d.sramRead.standing = d.standing := by rfl
@[simp] theorem Dev.standing_bufferRead (f : W32) : (d.bufferRead n g f).standing = d.standing := by rfl
@[simp] theorem Dev.standing_admitFrame (f : W32) : (d.admitFrame n g f).standing = d.standing := by
  dsimp only [Dev.admitFrame]
  generalize hd : Dev.issueImages _ _ _ = e
  have he : e.standing = d.standing := by rw [← hd]; simp
  cases e.group n g with
  | none => exact he
  | some x => simpa using he
@[simp] theorem Dev.standing_refuseFrame (f : W32) : (d.refuseFrame n g f).standing = d.standing := by
  simp [Dev.refuseFrame]
@[simp] theorem Dev.standing_decideFrames (fuel : Nat) : (d.decideFrames n g fuel).standing = d.standing := by
  induction fuel generalizing d with
  | zero => rfl
  | succ k ih =>
    dsimp only [Dev.decideFrames]
    split
    · rfl
    · split
      · rfl
      · simp [ih]
@[simp] theorem Dev.standing_recheck : (d.recheck n g).standing = d.standing := by
  simp [Dev.recheck]
@[simp] theorem Dev.standing_setStart (f : W32) (t : W64) : (d.setStart n g f t).standing = d.standing := by rfl
@[simp] theorem Dev.standing_maqInject : (d.maqInject n g).standing = d.standing := by
  dsimp only [Dev.maqInject]
  split
  · rfl
  · cases d.trialUnit n <;> simp
@[simp] theorem Dev.standing_maqTry : (d.maqTry n g).standing = d.standing := by
  dsimp only [Dev.maqTry]
  split <;> simp
@[simp] theorem Dev.standing_offer (member : BitVec 4) (t : W64) : (d.offer n g member t).standing = d.standing := by
  dsimp only [Dev.offer]
  split <;> simp
@[simp] theorem Dev.standing_offerTo (member : BitVec 4) (t : W64) (f : W32) (fuel : Nat) :
    (d.offerTo n g member t f fuel).standing = d.standing := by
  induction fuel generalizing d with
  | zero => rfl
  | succ k ih =>
    dsimp only [Dev.offerTo]
    split <;> simp [ih]
@[simp] theorem Dev.standing_bufRow (m : Nat) (l : InLine) : (d.bufRow n g m l).standing = d.standing := by
  simp [Dev.bufRow]
@[simp] theorem Dev.standing_bufMarker (m : Nat) (f : W32) : (d.bufMarker n g m f).standing = d.standing := by
  dsimp only [Dev.bufMarker]
  split <;> simp
@[simp] theorem Dev.standing_trimLive : (d.trimLive n g).standing = d.standing := by rfl
end

/-! ## Member frames and blocks -/

section
variable (d : Dev) (c : BitVec 10)
@[simp] theorem Dev.standing_memberBegin : (d.memberBegin c).standing = d.standing := by
  simp [Dev.memberBegin]
@[simp] theorem Dev.standing_memberEnd : (d.memberEnd c).standing = d.standing := by
  simp [Dev.memberEnd]
@[simp] theorem Dev.standing_putLine (data : Option (List Byte)) : (d.putLine c data).standing = d.standing := by
  dsimp only [Dev.putLine]
  split <;> simp
@[simp] theorem Dev.standing_missLines (n : Nat) : (d.missLines c n).standing = d.standing := by
  induction n generalizing d with
  | zero => rfl
  | succ n ih => rw [Dev.missLines, ih, Dev.standing_putLine]
@[simp] theorem Dev.standing_modBlock (f : Block → Block) : (d.modBlock c f).standing = d.standing := by rfl
@[simp] theorem Dev.standing_blockBytes (fuel n : Nat) (data : Option (List Byte)) :
    (d.blockBytes c fuel n data).standing = d.standing := by
  induction fuel generalizing d n data with
  | zero => rfl
  | succ k ih =>
    cases n with
    | zero => rfl
    | succ n =>
      simp only [Dev.blockBytes]
      split
      · rfl
      · split
        · simp
        · rw [ih]
          cases data <;> simp
@[simp] theorem Dev.standing_blockData (n : Nat) (data : Option (List Byte)) : (d.blockData c n data).standing = d.standing := by
  simp [Dev.blockData]
@[simp] theorem Dev.standing_closeBlock : (d.closeBlock c).standing = d.standing := by
  dsimp only [Dev.closeBlock]
  split <;> simp
@[simp] theorem Dev.standing_endMember : (d.endMember c).standing = d.standing := by
  dsimp only [Dev.endMember]
  rw [Dev.standing_missLines]
  split <;> simp
end

/-! ## Links -/

/-- Only the lanes differ from what stood. -/
def onlyLanes (d e : Dev) : Prop := e.standing = { d.standing with lanes := e.ing.lanes }

theorem onlyLanes_of_standing {d e : Dev} (h : e.standing = d.standing) : onlyLanes d e := by
  have hlanes : e.ing.lanes = d.ing.lanes := congrArg (fun x => x.lanes) h
  unfold onlyLanes
  rw [h, hlanes]
  rfl
theorem onlyLanes_trans {d e f : Dev} (h1 : onlyLanes d e) (h2 : onlyLanes e f) : onlyLanes d f := by
  unfold onlyLanes at h1 h2 ⊢
  rw [h2, h1]

@[simp] theorem Dev.standing_breakChan (d : Dev) (east : Bool) (c : Chan) : (d.breakChan east c).standing = d.standing := by
  simp [Dev.breakChan, Dev.countLanes]
theorem Ingest.setPort_lanes (g : Ingest) (east up : Bool) : (g.setPort east up).lanes = g.lanes := by
  cases east <;> rfl
@[simp] theorem Dev.standing_portDown (d : Dev) (east : Bool) : (d.portDown east).standing = d.standing := by
  simp [Dev.portDown, Ingest.setPort_lanes]

/-- What a lane's loss of link does after its link is down. -/
theorem Dev.standing_laneDown (d : Dev) (l : PartId) : (d.laneDown l).standing =
    (d.modLane l (fun x => { x with link := false, fecLock := false, fifo := [] })).standing := by
  simp [Dev.laneDown, Dev.onCtx]

/-- A lane that loses its link is down; no other lane changes. -/
theorem Dev.lane_laneDown (d : Dev) (l l' : PartId) :
    (d.laneDown l).lane l' = if l = l' then { d.lane l with link := false, fecLock := false, fifo := [] } else d.lane l' := by
  rw [lane_of_base (base_of_standing (d.standing_laneDown l)), Dev.lane_modLane]

theorem onlyLanes_laneDown (d : Dev) (l : PartId) : onlyLanes d (d.laneDown l) := by
  have h := d.standing_laneDown l
  have hlanes := congrArg (fun x => x.lanes) h
  unfold onlyLanes
  rw [show (d.laneDown l).ing.lanes = _ from hlanes, h]
  rfl

/-- The two ports' part of a loss of links. -/
theorem Dev.standing_linksDown (d : Dev) : d.linksDown.standing =
    ((d.ing.lanes.filter (fun e => e.2.link)).foldl (fun d e => d.laneDown (BitVec.ofNat 5 e.1)) d).standing := by
  simp [Dev.linksDown]

theorem onlyLanes_linksDown (d : Dev) : onlyLanes d d.linksDown :=
  onlyLanes_trans
    (foldl_preserves (onlyLanes d) _ (fun e a h => onlyLanes_trans h (onlyLanes_laneDown e (BitVec.ofNat 5 a.1))) _ d
      (onlyLanes_of_standing rfl))
    (onlyLanes_of_standing d.standing_linksDown)

theorem cast_linksDown (d : Dev) (p : PartId) : (d.linksDown.part p).cast = (d.part p).cast :=
  congrArg (fun x : Standing => (x.services p).cast) (onlyLanes_linksDown d)
theorem die_linksDown (d : Dev) (i : Nat) : d.linksDown.die i = d.die i :=
  congrArg (fun x : Standing => tblGet ({} : Die) x.dies i) (onlyLanes_linksDown d)

/-- A key that reads as other than the default is listed with what it reads as. -/
theorem mem_of_tblGet_ne {α : Type} (d : α) (n : Nat) : ∀ t : Tbl α, tblGet d t n ≠ d → (n, tblGet d t n) ∈ t
  | [], h => absurd rfl h
  | (k, v) :: t, h => by
    by_cases hk : k = n
    · subst hk; simp [tblGet]
    · simp only [tblGet, hk, if_false] at h ⊢
      exact List.mem_cons_of_mem _ (mem_of_tblGet_ne d n t h)

/-- A run of losses of link leaves down what is down. -/
theorem Dev.link_foldl_laneDown (l : PartId) (es : List (Nat × Lane)) (d : Dev)
    (h : (d.lane l).link = false ∨ ∃ e ∈ es, BitVec.ofNat 5 e.1 = l) :
    ((es.foldl (fun d e => d.laneDown (BitVec.ofNat 5 e.1)) d).lane l).link = false := by
  induction es generalizing d with
  | nil => simpa using h
  | cons e es ih =>
    rw [List.foldl_cons]
    apply ih
    rw [Dev.lane_laneDown]
    by_cases he : BitVec.ofNat 5 e.1 = l
    · simp [he]
    · simpa [he] using h

/-- Every lane is down after a loss of links. -/
theorem Dev.link_linksDown (d : Dev) (l : PartId) : (d.linksDown.lane l).link = false := by
  rw [lane_of_base (base_of_standing d.standing_linksDown)]
  refine Dev.link_foldl_laneDown l _ d ?_
  by_cases hl : (d.lane l).link = true
  · refine .inr ⟨(l.toNat, d.lane l), List.mem_filter.2 ⟨mem_of_tblGet_ne _ _ _ (fun h => ?_), hl⟩, by simp⟩
    rw [show d.lane l = {} from h] at hl
    exact absurd hl (by decide)
  · exact .inl (by simpa using hl)

end Sys2Proof.Machine
end

section
/-! SUPPORT. What resets and uncasts share: what they leave standing, and what becomes of the partitions. -/
namespace Sys2Proof.Machine

open Sys2Proof

/-! ## Frames that are given up and queues that are emptied -/

section
variable (d : Dev)
@[simp] theorem Dev.standing_modCores (cs : List CoreId) (f : Core → Core) (h : ∀ k, (f k).role = k.role) :
    (d.modCores cs f).standing = d.standing :=
  Dev.standing_foldl _ (fun e c => Dev.standing_modCore e c f h) cs d
@[simp] theorem Dev.standing_modParts (ps : List PartId) (f : Partition → Partition) (hp : ∀ x, (f x).plant = x.plant)
    (hs : ∀ x, (f x).service = x.service) : (d.modParts ps f).standing = d.standing :=
  Dev.standing_foldl _ (fun e p => Dev.standing_modPart e p f hp hs) ps d
@[simp] theorem Dev.standing_modCluster (c : ClusterId) (f : Cluster → Cluster) (h : ∀ x, (f x).inReset = x.inReset) :
    (d.modCluster c f).standing = d.standing := by
  have hreset : (fun x => ((d.modCluster c f).cluster x).inReset) = fun x => (d.cluster x).inReset := by
    funext x
    rw [Dev.cluster_modCluster]
    split
    · next hx => rw [h, hx]
    · rfl
  simp [Dev.standing, hreset]

@[simp] theorem Dev.standing_giveUpOuts (c : CoreId) (r : Option Nat) (f : QueueId → Bool) :
    (d.giveUpOuts c r f).standing = d.standing := by
  refine Dev.standing_foldl _ (fun e o => ?_) _ d
  cases o <;> simp
@[simp] theorem Dev.standing_giveUpIns (c : CoreId) (f : QueueId → Bool) : (d.giveUpIns c f).standing = d.standing := by
  refine Dev.standing_foldl _ (fun e o => ?_) _ d
  obtain ⟨o, i⟩ := o
  cases o <;> simp
@[simp] theorem Dev.standing_voidMaq (n : NetId) : (d.voidMaq n).standing = d.standing := by
  simp [Dev.voidMaq]
@[simp] theorem Dev.standing_sendS2 (n : NetId) (t : BitVec 12) (was : W32) : (d.sendS2 n t was).standing = d.standing := by
  dsimp only [Dev.sendS2]
  split
  · rfl
  · split <;> rfl
@[simp] theorem Dev.standing_resetTensor (n : NetId) (t : BitVec 12) : (d.resetTensor n t).standing = d.standing := by
  dsimp only [Dev.resetTensor]
  split <;> simp
@[simp] theorem Dev.standing_resetCalipers (c : CoreId) : (d.resetCalipers c).standing = d.standing := by
  simp [Dev.resetCalipers]
@[simp] theorem Dev.standing_censusBack (p : PartId) : (d.censusBack p).standing = d.standing := by
  simp [Dev.censusBack]
@[simp] theorem Dev.standing_censusBackNet (n : NetId) : (d.censusBackNet n).standing = d.standing := by
  simp [Dev.censusBackNet]
@[simp] theorem Dev.standing_boundaryDown (p : PartId) : (d.boundaryDown p).standing = d.standing := by
  simp [Dev.boundaryDown]
@[simp] theorem Dev.standing_cancelBursts (f : BurstReq → Bool) : (d.cancelBursts f).standing = d.standing := by rfl
@[simp] theorem Dev.standing_cancelPart (p : PartId) : (d.cancelPart p).standing = d.standing := by rfl
@[simp] theorem Dev.standing_cancelDie (i : Nat) : (d.cancelDie i).standing = d.standing := by rfl
@[simp] theorem Dev.standing_cancelFor (qs : List QueueId) : (d.cancelFor qs).standing = d.standing := by rfl
@[simp] theorem Dev.standing_emptyQueue (q : QueueId) : (d.emptyQueue q).standing = d.standing := by
  simp [Dev.emptyQueue]
@[simp] theorem Dev.standing_resetQueue (q : QueueId) : (d.resetQueue q).standing = d.standing := by
  simp [Dev.resetQueue]
@[simp] theorem Dev.standing_voidFrames (cs : List CoreId) : (d.voidFrames cs).standing = d.standing := by
  refine Dev.standing_modCores d cs _ (fun k => ?_)
  split <;> rfl
@[simp] theorem Dev.standing_resetQueues (qs : List QueueId) (f : CoreId → Bool) : (d.resetQueues qs f).standing = d.standing := by
  simp [Dev.resetQueues]
@[simp] theorem Dev.standing_voidStages (cs : List CoreId) : (d.voidStages cs).standing = d.standing := by
  simp [Dev.voidStages]
@[simp] theorem Dev.standing_batchLost (n : NetId) : (d.batchLost n).standing = d.standing := by rfl
@[simp] theorem Dev.standing_longResult (tag : Option Byte) (r : W16) : (d.longResult tag r).standing = d.standing := by
  cases tag <;> rfl
end

/-! ## The map, the contexts and the network's side -/

section
variable (d : Dev)
@[simp] theorem Dev.standing_bumpMap : d.bumpMap.standing = d.standing := by rfl
@[simp] theorem Dev.standing_copyMap (l : LogicalId) (p : PartId) (c : Option CoreId) : (d.copyMap l p c).standing = d.standing := by
  simp [Dev.copyMap]
@[simp] theorem Dev.standing_mapTo (l : LogicalId) (c : Option CoreId) : (d.mapTo l c).standing = d.standing := by
  have hmap (e : Dev) (t : Tbl (Option CoreId)) : ({ e with map := t } : Dev).standing = e.standing := rfl
  dsimp only [Dev.mapTo]
  rw [Dev.standing_bumpMap, hmap]
  cases c <;> cases tblGet none d.map l.toNat <;> simp
@[simp] theorem Dev.standing_bindCtx (c : BitVec 10) : (d.bindCtx c).standing = d.standing := by
  dsimp only [Dev.bindCtx]
  split <;> rfl
@[simp] theorem Dev.standing_bindNet (n : NetId) : (d.bindNet n).standing = d.standing := by
  simp [Dev.bindNet]

/-- A change of every listed partition reads as that change of each. -/
theorem Dev.part_mapParts (f : Nat → Partition → Partition) (h : ∀ i, f i {} = {}) (p : PartId) :
    ({ d with parts := tblMap {} d.parts f } : Dev).part p = f p.toNat (d.part p) := 
  tblGet_map ({} : Partition) f p.toNat (h _) d.parts
theorem Dev.part_dropSegs (n : NetId) (p : PartId) :
    (d.dropSegs n).part p = { d.part p with segs := (d.part p).segs.filter (fun e => e.2.net != n) } :=
  Dev.part_mapParts d _ (fun _ => rfl) p
@[simp] theorem Dev.standing_dropSegs (n : NetId) : (d.dropSegs n).standing = d.standing := by
  simp only [Dev.standing, Dev.part_dropSegs]
  rfl
@[simp] theorem Dev.standing_netGone (n : NetId) : (d.netGone n).standing = d.standing := by
  dsimp only [Dev.netGone]
  rw [Dev.standing_bindNet]
  have hgone (e : Dev) (a : List CalReport) (b : List (NetId × BlockRep)) (r : Tbl Rout) (u : Tbl Adapt) (cs : List Chan) :
      ({ e with reports := a, blockReps := b, routs := r, adapt := u, ing := { e.ing with chans := cs } } : Dev).standing = e.standing :=
    rfl
  rw [hgone]
  simp
end

/-! ## What an uncast leaves -/

section
variable (d : Dev)
@[simp] theorem Dev.ground_modCore (c : CoreId) (f : Core → Core) : (d.modCore c f).standing.toGround = d.standing.toGround := by rfl
@[simp] theorem Dev.ground_modPart (p : PartId) (f : Partition → Partition) (h : ∀ x, (f x).plant = x.plant) :
    (d.modPart p f).standing.toGround = d.standing.toGround := by
  have hplants : (fun x => ((d.modPart p f).part x).plant) = fun x => (d.part x).plant := by
    funext x
    rw [Dev.part_modPart]
    split
    · next hx => rw [h, hx]
    · rfl
  simp [Dev.standing, hplants]
@[simp] theorem Dev.ground_foldl {α : Type} (f : Dev → α → Dev) (h : ∀ d a, (f d a).standing.toGround = d.standing.toGround)
    (l : List α) : (l.foldl f d).standing.toGround = d.standing.toGround := foldl_keeps (fun e => e.standing.toGround) f h l d
theorem Dev.ground_modParts (ps : List PartId) (f : Partition → Partition) (h : ∀ x, (f x).plant = x.plant) :
    (d.modParts ps f).standing.toGround = d.standing.toGround :=
  Dev.ground_foldl d _ (fun e p => Dev.ground_modPart e p f h) ps
@[simp] theorem Dev.ground_ite (b : Prop) [Decidable b] (e : Dev) :
    (if b then d else e).standing.toGround = if b then d.standing.toGround else e.standing.toGround :=
  apply_ite (fun x : Dev => x.standing.toGround) b d e
theorem Dev.parts_mapTo (l : LogicalId) (c : Option CoreId) : (d.mapTo l c).parts = d.parts := by
  have hcopy (e : Dev) (p : PartId) (x : Option CoreId) : (e.copyMap l p x).parts = e.parts := by
    refine foldl_keeps Dev.parts _ (fun _ _ => ?_) _ e
    rfl
  dsimp only [Dev.mapTo, Dev.bumpMap]
  rw [Dev.modHealth_parts]
  cases c <;> cases tblGet none d.map l.toNat <;> simp [hcopy]

/-- The cores of a partition that loses what is loaded, before its tables are cleared. -/
def Dev.unmapped (d : Dev) (p : PartId) : Dev :=
  ((coresOfPart p).filter (fun c => (d.core c).assigned)).foldl (fun d c =>
    if (d.core c).spare then d.modCore c Core.unloaded else (d.modCore c Core.unloaded).mapTo (d.core c).logical none) d
theorem Dev.ground_unmapped (p : PartId) : (d.unmapped p).standing.toGround = d.standing.toGround := by
  simp [Dev.unmapped]
theorem Dev.parts_unmapped (p : PartId) : (d.unmapped p).parts = d.parts := by
  unfold Dev.unmapped
  refine foldl_keeps Dev.parts _ (fun e c => ?_) _ d
  split
  · rfl
  · rw [Dev.parts_mapTo]; rfl

/-- What is unloaded of a partition leaves its place: its cast state, its power and its resets. -/
def Partition.unloaded (x : Partition) : Partition :=
  { x with segs := if x.cast == .uncast then x.segs else x.segs.filter (fun e => e.2.net != x.net), cfgChunks := [], relAck := false,
           act := none, faultWait := none, frozen := false, dlkCnt := 0#17, scrubbing := false, reload := none, cfgUe := [] }
theorem Dev.part_unload (p q : PartId) : (d.unload p).part q = if p = q then (d.part p).unloaded else d.part q := by
  have h : (d.unload p).part q = ((d.unmapped p).modPart p Partition.unloaded).part q := rfl
  rw [h, Dev.part_modPart]
  simp only [Dev.part, Dev.parts_unmapped]
/-- A cluster as the unload of a partition leaves it. -/
def Cluster.unloaded (p : PartId) (i : Nat) (x : Cluster) : Cluster :=
  if partOfCluster (BitVec.ofNat 7 i) == p then { x with cacheChunks := [], map := [] } else x
theorem Cluster.unloaded_inReset (p : PartId) (i : Nat) (x : Cluster) : (x.unloaded p i).inReset = x.inReset := by
  unfold Cluster.unloaded
  split <;> rfl
theorem Cluster.unloaded_default (p : PartId) (i : Nat) : ({} : Cluster).unloaded p i = {} := by
  unfold Cluster.unloaded
  split <;> rfl
theorem Dev.cluster_unload (p : PartId) (c : ClusterId) :
    (d.unload p).cluster c = ((d.unmapped p).cluster c).unloaded p c.toNat :=
  tblGet_map ({} : Cluster) (fun i x => x.unloaded p i) c.toNat (Cluster.unloaded_default p _) (d.unmapped p).clusters

/-- An unload leaves the ground: it takes programs, queues and maps, and no reset ends. -/
theorem Dev.ground_unload (p : PartId) : (d.unload p).standing.toGround = d.standing.toGround := by
  have hreset : (fun c => ((d.unload p).cluster c).inReset) = fun c => ((d.unmapped p).cluster c).inReset := by
    funext c
    rw [Dev.cluster_unload, Cluster.unloaded_inReset]
  have hplants : (fun q => ((d.unload p).part q).plant) = fun q => ((d.unmapped p).part q).plant := by
    funext q
    rw [Dev.part_unload, show (d.unmapped p).part q = d.part q by simp only [Dev.part, Dev.parts_unmapped]]
    split
    · next hq => rw [← hq]; rfl
    · rfl
  calc (d.unload p).standing.toGround
      = { (d.unmapped p).standing.toGround with inReset := fun c => ((d.unload p).cluster c).inReset,
                                                plants := fun q => ((d.unload p).part q).plant } := rfl
    _ = (d.unmapped p).standing.toGround := by rw [hreset, hplants]; rfl
    _ = d.standing.toGround := d.ground_unmapped p
end

/-- The ground stays, and no partition that is uncast is cast. -/
structure CastsNothing (d e : Dev) : Prop where
  ground : e.standing.toGround = d.standing.toGround
  uncast : ∀ p, (d.part p).cast = .uncast → (e.part p).cast = .uncast

theorem CastsNothing.of_standing {d e : Dev} (h : e.standing = d.standing) : CastsNothing d e :=
  ⟨ground_of_standing h, fun p hp => (cast_of_standing h p).trans hp⟩
theorem CastsNothing.trans {d e f : Dev} (h1 : CastsNothing d e) (h2 : CastsNothing e f) : CastsNothing d f :=
  ⟨h2.ground.trans h1.ground, fun p hp => h2.uncast p (h1.uncast p hp)⟩
/-- A change of one partition that keeps what it keeps when uncast, and does not cast it. -/
theorem CastsNothing.of_modPart (d : Dev) (p : PartId) (f : Partition → Partition) (hp : ∀ x, (f x).plant = x.plant)
    (hc : ∀ x, x.cast = .uncast → (f x).cast = .uncast) : CastsNothing d (d.modPart p f) := by
  refine ⟨Dev.ground_modPart d p f hp, fun q hq => ?_⟩
  rw [Dev.part_modPart]
  split
  · next h => exact hc _ (h ▸ hq)
  · exact hq
theorem CastsNothing.foldl {α : Type} (f : Dev → α → Dev) (h : ∀ d a, CastsNothing d (f d a)) (l : List α) (d : Dev) :
    CastsNothing d (l.foldl f d) :=
  foldl_preserves (CastsNothing d) f (fun e a he => he.trans (h e a)) l d (.of_standing rfl)

theorem castsNothing_unload (d : Dev) (p : PartId) : CastsNothing d (d.unload p) := by
  refine ⟨d.ground_unload p, fun q hq => ?_⟩
  rw [Dev.part_unload]
  split
  · next h => exact (congrArg (fun x => (d.part x).cast) h).trans hq
  · exact hq

theorem Dev.part_modParts_other (ps : List PartId) (f : Partition → Partition) {p : PartId} (hp : p ∉ ps) (d : Dev) :
    (d.modParts ps f).part p = d.part p := by
  induction ps generalizing d with
  | nil => rfl
  | cons q ps ih =>
    have hne : q ≠ p := fun h => hp (h ▸ List.mem_cons_self)
    have hps : p ∉ ps := fun h => hp (List.mem_cons_of_mem _ h)
    calc ((d.modPart q f).modParts ps f).part p = (d.modPart q f).part p := ih hps _
      _ = d.part p := by rw [Dev.part_modPart, if_neg hne]

/-- An abort of a casting holds only partitions of its network, none of them uncast. -/
theorem castsNothing_castAbort (d : Dev) (n : NetId) (code : Nat) (res : W32) : CastsNothing d (d.castAbort n code res) := by
  dsimp only [Dev.castAbort]
  split
  · exact .of_standing rfl
  · next k hk =>
    have hparts : CastsNothing d (d.modParts (d.partsOfNet n) (fun x =>
        { x with cast := .heldAbort, scrubbing := false, castErr := castCode code, castStep := BitVec.ofNat 4 k.step, castRes := res })) := by
      refine ⟨Dev.ground_modParts d _ _ (fun _ => rfl), fun p hp => ?_⟩
      have hmem : p ∉ d.partsOfNet n := by simp [Dev.partsOfNet, hp]
      rw [Dev.part_modParts_other _ _ hmem, hp]
    refine hparts.trans (.of_standing ?_)
    split <;> simp

theorem castsNothing_stopNet (d : Dev) (n : NetId) (p : PartId) (why : Nat) : CastsNothing d (d.stopNet n p why) := by
  dsimp only [Dev.stopNet]
  refine (CastsNothing.of_standing ?_).trans ((CastsNothing.of_modPart _ p _ (fun x => ?_) (fun x hx => ?_)).trans
    (.of_standing (Dev.standing_raise _ _ _ _)))
  · split <;> simp
  · split <;> rfl
  · simp [hx]

/-- The partition that becomes uncast, before its network's plinth side may leave service. -/
def Dev.uncastOnly (d : Dev) (p : PartId) : Dev :=
  (((((coresOfPart p).filter (fun c => (d.core c).assigned && !(d.core c).spare)).foldl (fun d c =>
    (d.giveUpOuts c none (fun q => partOfQueue q != p)).resetCalipers c) d).unload p).cancelPart p).modPart p (fun x =>
      { x with cast := .uncast, net := 0#5, slot := 0#3, slotValid := false, rounds := 0#2, shut := false })

theorem castsNothing_uncastOnly (d : Dev) (p : PartId) : CastsNothing d (d.uncastOnly p) := by
  unfold Dev.uncastOnly
  refine CastsNothing.trans ?_ (.of_modPart _ p _ (fun _ => rfl) (fun _ _ => rfl))
  refine CastsNothing.trans ?_ (.of_standing (Dev.standing_cancelPart _ p))
  refine CastsNothing.trans ?_ (castsNothing_unload _ p)
  exact .of_standing (by simp)

theorem Dev.standing_uncastPart (d : Dev) (p : PartId) : (d.uncastPart p).standing = (d.uncastOnly p).standing := by
  have hadapt (e : Dev) (t : Tbl Adapt) : ({ e with adapt := t } : Dev).standing = e.standing := rfl
  have hdown : ((d.uncastOnly p).boundaryDown p).standing = (d.uncastOnly p).standing := Dev.standing_boundaryDown _ p
  calc (d.uncastPart p).standing = ((d.uncastOnly p).boundaryDown p).standing := by
        dsimp only [Dev.uncastPart]
        split
        · exact Dev.standing_netGone _ _
        · split
          · exact hadapt _ _
          · rfl
    _ = (d.uncastOnly p).standing := hdown

theorem castsNothing_uncastPart (d : Dev) (p : PartId) : CastsNothing d (d.uncastPart p) :=
  (castsNothing_uncastOnly d p).trans (.of_standing (d.standing_uncastPart p))
theorem Dev.cast_uncastPart (d : Dev) (p : PartId) : ((d.uncastPart p).part p).cast = .uncast := by
  have h : ((d.uncastOnly p).part p).cast = .uncast := by rw [Dev.uncastOnly, Dev.part_modPart_same]
  exact (cast_of_standing (d.standing_uncastPart p) p).trans h

end Sys2Proof.Machine
end

section
/-! SUPPORT. A reset of a compute die, and one that is powered off (Table 14-4, Table 14-6): what becomes of its partitions and
what the rest of the device keeps. -/
namespace Sys2Proof.Machine

open Sys2Proof

/-! ## A reset begins (R493) -/

/-- The beginning of a reset moves only the power block and the resets of clusters. -/
theorem Dev.begin_frame (d : Dev) (k : ResetKind) (src : BitVec 3) :
    d.begin_ k src = { d with
      clusters := (d.begin_ k src).clusters,
      pwr := { d.pwr with busy := k :: d.pwr.busy.filter (fun b => !within k b), lastKind := BitVec.ofNat 3 (rank k), lastSrc := src } } := by
  dsimp only [Dev.begin_]
  generalize hd : List.foldl _ d d.pwr.busy = e
  have he : e = { d with clusters := e.clusters } := by
    rw [← hd]
    refine foldl_preserves (fun e : Dev => e = { d with clusters := e.clusters }) _ (fun x b hx => ?_) _ d rfl
    cases b with
    | cluster c =>
      dsimp only
      split
      · dsimp only [Dev.modCluster]; conv => lhs; rw [hx]
      · exact hx
    | core | partition | die | warm => exact hx
  dsimp only [Dev.modPwr]
  conv => lhs; rw [he]

section
variable (d : Dev) (k : ResetKind) (src : BitVec 3)
@[simp] theorem Dev.pwr_begin : (d.begin_ k src).pwr = { d.pwr with
    busy := k :: d.pwr.busy.filter (fun b => !within k b), lastKind := BitVec.ofNat 3 (rank k), lastSrc := src } :=
  congrArg Dev.pwr (d.begin_frame k src)
@[simp] theorem Dev.cores_begin : (d.begin_ k src).cores = d.cores := by rw [d.begin_frame k src]
@[simp] theorem Dev.parts_begin : (d.begin_ k src).parts = d.parts := by rw [d.begin_frame k src]
@[simp] theorem Dev.core_begin (c : CoreId) : (d.begin_ k src).core c = d.core c := congrArg (tblGet ({} : Core) · c.toNat) (d.cores_begin k src)
@[simp] theorem Dev.part_begin (p : PartId) : (d.begin_ k src).part p = d.part p :=
  congrArg (tblGet ({} : Partition) · p.toNat) (d.parts_begin k src)
end

/-! ## Partitions that lose their die -/

/-- A run of partition clearings, each uncasting a partition that has power, leaves the rest of the device and undoes nothing. -/
structure ClearsParts (d e : Dev) : Prop where
  base : e.standing.toBase = d.standing.toBase
  regions : ∀ p, (e.part p).regions = (d.part p).regions
  powered : ∀ p, (d.part p).power ≠ .off → (e.part p).power ≠ .off
  uncast : ∀ p, (d.part p).cast = .uncast → (e.part p).cast = .uncast
  mode : ∀ p, (d.part p).mode = 0x0C0#10 → (e.part p).mode = 0x0C0#10

theorem ClearsParts.refl (d : Dev) : ClearsParts d d :=
  ⟨rfl, fun _ => rfl, fun _ h => h, fun _ h => h, fun _ h => h⟩
theorem ClearsParts.trans {d e f : Dev} (h1 : ClearsParts d e) (h2 : ClearsParts e f) : ClearsParts d f where
  base := h2.base.trans h1.base
  regions p := (h2.regions p).trans (h1.regions p)
  powered p h := h2.powered p (h1.powered p h)
  uncast p h := h2.uncast p (h1.uncast p h)
  mode p h := h2.mode p (h1.mode p h)
theorem ClearsParts.of_castsNothing {d e : Dev} (h : CastsNothing d e) : ClearsParts d e where
  base := base_of_ground h.ground
  regions p := regions_of_ground h.ground p
  powered p hp := fun ho => hp ((power_of_ground h.ground p).symm.trans ho)
  uncast := h.uncast
  mode p hm := (mode_of_ground h.ground p).trans hm
theorem Partition.dieReset_power_ne_off {x : Partition} (h : x.power ≠ .off) : x.dieReset.power ≠ .off := by
  show (if x.power == .retention then PPower.on else x.power) ≠ .off
  split
  · exact nofun
  · exact h
theorem ClearsParts.of_dieReset (d : Dev) (p : PartId) : ClearsParts d (d.modPart p Partition.dieReset) := by
  have hsame (q : PartId) (P : Partition → Partition → Prop) (hp : P (d.part p) (d.part p).dieReset) (hrefl : ∀ x, P x x) :
      P (d.part q) ((d.modPart p Partition.dieReset).part q) := by
    rw [Dev.part_modPart]
    split
    · next h => exact h ▸ hp
    · exact hrefl _
  exact ⟨rfl, fun q => hsame q (fun x y => y.regions = x.regions) rfl (fun _ => rfl),
    fun q => hsame q (fun x y => x.power ≠ .off → y.power ≠ .off) Partition.dieReset_power_ne_off (fun _ h => h),
    fun q => hsame q (fun x y => x.cast = .uncast → y.cast = .uncast) (fun h => h) (fun _ h => h),
    fun q => hsame q (fun x y => x.mode = 0x0C0#10 → y.mode = 0x0C0#10) (fun _ => rfl) (fun _ h => h)⟩

/-- One partition of a die that is reset or powered off: uncast by `f` when it has power, its fields at their reset values. -/
def Dev.clearPart (f : Dev → PartId → Dev) (d : Dev) (p : PartId) : Dev :=
  if (d.part p).power == .off then d.modPart p Partition.dieReset else (f d p).modPart p Partition.dieReset

section
variable {f : Dev → PartId → Dev}
theorem clearsParts_clearPart (hf : ∀ d p, CastsNothing d (f d p)) (d : Dev) (p : PartId) : ClearsParts d (d.clearPart f p) := by
  unfold Dev.clearPart
  split
  · exact .of_dieReset d p
  · exact (ClearsParts.of_castsNothing (hf d p)).trans (.of_dieReset _ p)
theorem clearsParts_foldl (hf : ∀ d p, CastsNothing d (f d p)) (ps : List PartId) (d : Dev) :
    ClearsParts d (ps.foldl (Dev.clearPart f) d) :=
  foldl_preserves (ClearsParts d) _ (fun e p he => he.trans (clearsParts_clearPart hf e p)) ps d (.refl d)
theorem Dev.mode_clearPart (d : Dev) (p : PartId) : ((d.clearPart f p).part p).mode = 0x0C0#10 := by
  unfold Dev.clearPart
  split <;> rw [Dev.part_modPart_same] <;> rfl
theorem Dev.cast_clearPart (hu : ∀ d p, ((f d p).part p).cast = .uncast) (d : Dev) (p : PartId) (hp : (d.part p).power ≠ .off) :
    ((d.clearPart f p).part p).cast = .uncast := by
  unfold Dev.clearPart
  rw [if_neg (by simpa using hp), Dev.part_modPart_same]
  exact hu d p
/-- Every partition of the run is cleared, and uncast if it had power. -/
theorem Dev.cleared_foldl (hf : ∀ d p, CastsNothing d (f d p)) (hu : ∀ d p, ((f d p).part p).cast = .uncast) {p : PartId}
    (ps : List PartId) (hp : p ∈ ps) (d : Dev) :
    ((ps.foldl (Dev.clearPart f) d).part p).mode = 0x0C0#10 ∧
      ((d.part p).power ≠ .off → ((ps.foldl (Dev.clearPart f) d).part p).cast = .uncast) := by
  induction ps generalizing d with
  | nil => exact absurd hp List.not_mem_nil
  | cons q ps ih =>
    rw [List.foldl_cons]
    have hstep := clearsParts_clearPart hf d q
    have hrest := clearsParts_foldl hf ps (d.clearPart f q)
    obtain rfl | hps := List.mem_cons.1 hp
    · exact ⟨hrest.mode _ (d.mode_clearPart _), fun ho => hrest.uncast _ (d.cast_clearPart hu _ ho)⟩
    · exact ⟨(ih hps _).1, fun ho => (ih hps _).2 (hstep.powered p ho)⟩
end

theorem mem_partsOfDie : ∀ p : PartId, p ∈ partsOfDie (dieOfPart p) := by decide

/-! ## The reset of a die -/

/-- A network with a partition on the die stops, or its casting aborts. -/
def Dev.stopOnDie (i : Nat) (d : Dev) (n : NetId) : Dev :=
  let here := ((d.partsOfNet n).filter (fun p => dieOfPart p == i)).head?
  let d1 := if (d.net n).casting.isSome then d.castAbort n 101 (arg32 (here.getD 0#5))
    else match here with | some p => d.stopNet n p 2 | none => d
  let d2 := match (d.net n).drain with | some (.recast _) => d1.longResult (d.net n).drainTag 8#16 | _ => d1
  (d2.voidMaq n).modNet n (fun x => { x with drain := none, drainTag := none })

theorem castsNothing_stopOnDie (i : Nat) (d : Dev) (n : NetId) : CastsNothing d (d.stopOnDie i n) := by
  dsimp only [Dev.stopOnDie]
  refine CastsNothing.trans (e := if (d.net n).casting.isSome then d.castAbort n 101
      (arg32 ((((d.partsOfNet n).filter (fun p => dieOfPart p == i)).head?).getD 0#5))
    else match ((d.partsOfNet n).filter (fun p => dieOfPart p == i)).head? with | some p => d.stopNet n p 2 | none => d) ?_
    (.of_standing ?_)
  · split
    · exact castsNothing_castAbort d n 101 _
    · split
      · exact castsNothing_stopNet d n _ 2
      · exact .of_standing rfl
  · rw [Dev.standing_modNet, Dev.standing_voidMaq]
    split
    · rw [Dev.standing_longResult]
    · rfl

/-- The device as the reset of a die begins. -/
def Dev.dieBegun (d : Dev) (i : Nat) (src : BitVec 3) : Dev :=
  (d.begin_ (.die (if i == 0 then 0 else 1)) src).modPwr (fun w => { w with dieCnt := satInc w.dieCnt })
/-- The device before the partitions of the die are cleared. -/
def Dev.dieStopped (d : Dev) (i : Nat) (src : BitVec 3) : Dev :=
  (((d.netsOfDie i).foldl (Dev.stopOnDie i) (d.dieBegun i src)).cancelDie i).modDie i (fun x => { x with inReset := true })
/-- The device with the partitions of the die cleared. -/
def Dev.dieCleared (d : Dev) (i : Nat) (src : BitVec 3) : Dev :=
  (partsOfDie i).foldl (Dev.clearPart Dev.uncastPart) (d.dieStopped i src)

section
variable (d : Dev) (i : Nat) (src : BitVec 3)
theorem Dev.dieBegun_eq : d.dieBegun i src = { d with
    clusters := (d.dieBegun i src).clusters,
    pwr := { d.pwr with
      busy := .die (if i == 0 then 0 else 1) :: d.pwr.busy.filter (fun b => !within (.die (if i == 0 then 0 else 1)) b),
      lastKind := 4#3, lastSrc := src, dieCnt := satInc d.pwr.dieCnt } } := by
  conv => lhs; unfold Dev.dieBegun; rw [d.begin_frame]
  rfl
theorem castsNothing_stops : CastsNothing (d.dieBegun i src) ((d.netsOfDie i).foldl (Dev.stopOnDie i) (d.dieBegun i src)) :=
  CastsNothing.foldl _ (castsNothing_stopOnDie i) _ _
theorem clearsParts_dieCleared : ClearsParts (d.dieStopped i src) (d.dieCleared i src) :=
  clearsParts_foldl castsNothing_uncastPart _ _
end

theorem Dev.part_cancelDie_modDie (d : Dev) (i : Nat) (f : Die → Die) (p : PartId) :
    ((d.cancelDie i).modDie i f).part p = d.part p := rfl

/-- What the reset of a die does (Table 14-4): the die is in reset, its partitions with power uncast, the rest as it was. -/
structure DieReset (d : Dev) (i : Nat) (src : BitVec 3) (e : Dev) : Prop where
  die1 : e.die1 = d.die1
  pll : e.pll = d.pll
  psram : e.psram = d.psram
  pwr : e.pwr = (d.dieBegun i src).pwr
  die : ∀ j, e.die j = if i = j then { d.die i with inReset := true } else d.die j
  regions : ∀ p, (e.part p).regions = (d.part p).regions
  uncast : ∀ p, (d.part p).cast = .uncast → (e.part p).cast = .uncast
  mode : ∀ p, dieOfPart p = i → (e.part p).mode = 0x0C0#10
  cleared : ∀ p, dieOfPart p = i → (d.part p).power ≠ .off → (e.part p).cast = .uncast

theorem dieReset_dieCleared (d : Dev) (i : Nat) (src : BitVec 3) : DieReset d i src (d.dieCleared i src) := by
  have hbegun := d.dieBegun_eq i src
  have hbegunPart (p : PartId) : (d.dieBegun i src).part p = d.part p := by rw [hbegun]; rfl
  have hbegunDie (j : Nat) : (d.dieBegun i src).die j = d.die j := by rw [hbegun]; rfl
  have hstops := castsNothing_stops d i src
  have hbase := base_of_ground hstops.ground
  have hclear := clearsParts_dieCleared d i src
  refine ⟨?_, ?_, ?_, ?_, fun j => ?_, fun p => ?_, fun p hp => ?_, fun p hp => ?_, fun p hp ho => ?_⟩
  · exact (die1_of_base hclear.base).trans ((die1_of_base hbase).trans (by rw [hbegun]))
  · exact (pll_of_base hclear.base).trans ((pll_of_base hbase).trans (by rw [hbegun]))
  · exact (psram_of_base hclear.base).trans ((psram_of_base hbase).trans (by rw [hbegun]))
  · have hpwr := pwr_of_base hbase
    exact (pwr_of_base hclear.base).trans hpwr
  · have hdie (j : Nat) : (((d.netsOfDie i).foldl (Dev.stopOnDie i) (d.dieBegun i src)).cancelDie i).die j = d.die j :=
      (die_of_base hbase j).trans (hbegunDie j)
    rw [die_of_base hclear.base, Dev.dieStopped, Dev.die_modDie, hdie, hdie]
  · exact (hclear.regions p).trans ((regions_of_ground hstops.ground p).trans (by rw [hbegunPart]))
  · exact hclear.uncast p (hstops.uncast p (by rw [hbegunPart]; exact hp))
  · exact (Dev.cleared_foldl castsNothing_uncastPart Dev.cast_uncastPart _ (hp ▸ mem_partsOfDie p) _).1
  · refine (Dev.cleared_foldl castsNothing_uncastPart Dev.cast_uncastPart _ (hp ▸ mem_partsOfDie p) _).2 ?_
    rw [Dev.dieStopped, Dev.part_cancelDie_modDie, power_of_ground hstops.ground, hbegunPart]
    exact ho

theorem DieReset.inReset {d e : Dev} {i : Nat} {src : BitVec 3} (h : DieReset d i src e) : (e.die i).inReset = true := by
  rw [h.die i, if_pos rfl]
theorem DieReset.die_other {d e : Dev} {i j : Nat} {src : BitVec 3} (h : DieReset d i src e) (hij : i ≠ j) : e.die j = d.die j := by
  rw [h.die j, if_neg hij]
theorem DieReset.of_frame {d e : Dev} {i : Nat} {src : BitVec 3} (h : DieReset d i src e) (cs : Tbl Core) (ps : PacketNet) (ds : Tbl Dom) :
    DieReset d i src { e with cores := cs, packets := ps, doms := ds } :=
  ⟨h.die1, h.pll, h.psram, h.pwr, h.die, h.regions, h.uncast, h.mode, h.cleared⟩
theorem dieReset_resetDieNow (d : Dev) (i : Nat) (src : BitVec 3) : DieReset d i src (d.resetDieNow i src) :=
  (dieReset_dieCleared d i src).of_frame _ _ _

end Sys2Proof.Machine
end

section
/-! SUPPORT. The root clock (R50, R52 to R54): a loss of its lock, the recovery, and a change of a partition's division. -/
namespace Sys2Proof.Machine

open Sys2Proof

/-! ## A loss of the root clock -/

/-- A change of every listed die reads as that change of each. -/
theorem Dev.die_mapDies (d : Dev) (f : Nat → Die → Die) (h : ∀ i, f i {} = {}) (i : Nat) :
    ({ d with dies := tblMap {} d.dies f } : Dev).die i = f i (d.die i) :=
  tblGet_map ({} : Die) f i (h i) d.dies

/-- The device with admission frozen (R53). -/
def Dev.admissionShut (d : Dev) : Dev :=
  allNets.foldl (fun d n => if (d.partsOfNet n).isEmpty then d else d.modNet n Network.close) d
theorem Dev.standing_admissionShut (d : Dev) : d.admissionShut.standing = d.standing := by
  simp [Dev.admissionShut]
/-- The device with both compute dies in reset. -/
def Dev.diesReset (d : Dev) : Dev :=
  let d2 := d.admissionShut.resetDieNow 0 3#3
  if d2.die1 then d2.resetDieNow 1 3#3 else d2
/-- The device with what a brown-out left on its dies gone. -/
def Dev.diesForget (d : Dev) : Dev :=
  { d with dies := tblMap {} d.dies (fun _ x => { x with warn := false, resetLvl := false, testing := false, recastNets := [] }) }
/-- The device with what a brown-out left on its dies and partitions gone. -/
def Dev.brownForgotten (d : Dev) : Dev :=
  d.diesForget.modParts allParts (fun x => ({ x with bow := false, awaitAck := false } : Partition).request)

theorem clockLoss_eq (d : Dev) (h1 : d.pll.lossTimer = true) (h2 : d.pll.locked = false) (h3 : d.pll.lossOn = false) :
    clockLoss d = ((((d.diesReset.brownForgotten.psramRest.ringsDown).linksDown).modPll
      (fun p => { p with lossOn := true, lossTimer := false })).raise0 0x1001#16 []) := by
  unfold clockLoss
  rw [if_neg (by simp [h1, h2, h3])]
  dsimp only [Dev.brownForgotten, Dev.diesForget, Dev.diesReset, Dev.admissionShut]
  rfl

theorem Dev.standing_brownForgotten (d : Dev) : d.brownForgotten.standing = d.diesForget.standing :=
  Dev.standing_modParts _ _ _ (fun _ => rfl) (fun _ => rfl)
theorem Dev.die_diesForget (d : Dev) (i : Nat) :
    d.diesForget.die i = { d.die i with warn := false, resetLvl := false, testing := false, recastNets := [] } :=
  Dev.die_mapDies d _ (fun _ => rfl) i
/-- What follows the die resets in a loss of the clock leaves the partitions and the resets of the dies. -/
theorem Dev.cast_brownForgotten (d : Dev) (p : PartId) : (d.brownForgotten.part p).cast = (d.part p).cast :=
  cast_of_standing d.standing_brownForgotten p
theorem Dev.inReset_brownForgotten (d : Dev) (i : Nat) : (d.brownForgotten.die i).inReset = (d.die i).inReset := by
  rw [die_of_base (base_of_standing d.standing_brownForgotten), Dev.die_diesForget]
theorem Dev.die_quiet (d : Dev) (i : Nat) : d.psramRest.ringsDown.die i = d.die i := rfl
theorem Dev.part_quiet (d : Dev) (p : PartId) : d.psramRest.ringsDown.part p = d.part p := rfl

/-- The device with the first compute die in reset. -/
def Dev.firstReset (d : Dev) : Dev := d.admissionShut.resetDieNow 0 3#3
theorem dieReset_firstReset (d : Dev) : DieReset d.admissionShut 0 3#3 d.firstReset := dieReset_resetDieNow _ 0 _
theorem Dev.die1_firstReset (d : Dev) : d.firstReset.die1 = d.die1 :=
  (dieReset_firstReset d).die1.trans (die1_of_base (base_of_standing d.standing_admissionShut))
/-- With one die its reset is the whole of it; with two, the second follows. -/
theorem Dev.diesReset_cases (d : Dev) : d.die1 = false ∧ d.diesReset = d.firstReset ∨
    d.die1 = true ∧ DieReset d.firstReset 1 3#3 d.diesReset := by
  have h : d.diesReset = if d.die1 then d.firstReset.resetDieNow 1 3#3 else d.firstReset := by
    rw [← d.die1_firstReset]
    rfl
  rw [h]
  cases d.die1
  · exact .inl ⟨rfl, rfl⟩
  · exact .inr ⟨rfl, dieReset_resetDieNow _ 1 _⟩
theorem Dev.diesReset_die0 (d : Dev) : (d.diesReset.die 0).inReset = true := by
  obtain ⟨-, h⟩ | ⟨-, h⟩ := d.diesReset_cases
  · rw [h]; exact (dieReset_firstReset d).inReset
  · rw [h.die_other (by decide)]; exact (dieReset_firstReset d).inReset
theorem Dev.diesReset_die1 (d : Dev) (hd : d.die1 = true) : (d.diesReset.die 1).inReset = true := by
  obtain ⟨h, -⟩ | ⟨-, h⟩ := d.diesReset_cases
  · exact absurd (hd.symm.trans h) (by decide)
  · exact h.inReset
theorem dieOfPart_of_lt : ∀ p : PartId, p.toNat < 16 → dieOfPart p = 0 := by decide
theorem Dev.diesReset_cast (d : Dev) (p : PartId) (hp : p.toNat < 16) (ho : (d.part p).power ≠ .off) :
    (d.diesReset.part p).cast = .uncast := by
  have hpower : (d.admissionShut.part p).power = (d.part p).power :=
    power_of_ground (ground_of_standing d.standing_admissionShut) p
  have hcast := (dieReset_firstReset d).cleared p (dieOfPart_of_lt p hp) (by rw [hpower]; exact ho)
  obtain ⟨-, h⟩ | ⟨-, h⟩ := d.diesReset_cases
  · rw [h]; exact hcast
  · exact h.uncast p hcast

/-- A loss of lock of more than 1 µs (R53). -/
theorem clockLoss_effect (d : Dev) (h1 : d.pll.lossTimer = true) (h2 : d.pll.locked = false) (h3 : d.pll.lossOn = false) :
    (clockLoss d).pll.lossOn = true ∧ (clockLoss d).pll.lossTimer = false ∧ ((clockLoss d).die 0).inReset = true ∧
      (d.die1 = true → ((clockLoss d).die 1).inReset = true) ∧ (∀ l, ((clockLoss d).lane l).link = false) ∧
      (∀ p : PartId, p.toNat < 16 → (d.part p).power ≠ .off → ((clockLoss d).part p).cast = .uncast) := by
  have hdie (i : Nat) : (((d.diesReset.brownForgotten.psramRest.ringsDown).linksDown).die i).inReset = (d.diesReset.die i).inReset := by
    rw [die_linksDown, Dev.die_quiet, Dev.inReset_brownForgotten]
  have hcast (p : PartId) : (((d.diesReset.brownForgotten.psramRest.ringsDown).linksDown).part p).cast = (d.diesReset.part p).cast := by
    rw [cast_linksDown, Dev.part_quiet, Dev.cast_brownForgotten]
  have hlink (l : PartId) : (((d.diesReset.brownForgotten.psramRest.ringsDown).linksDown).lane l).link = false := Dev.link_linksDown _ l
  rw [clockLoss_eq d h1 h2 h3]
  generalize d.diesReset.brownForgotten.psramRest.ringsDown.linksDown = e at *
  exact ⟨rfl, rfl, (hdie 0).trans d.diesReset_die0, fun hd => (hdie 1).trans (d.diesReset_die1 hd), hlink,
    fun p hp ho => (hcast p).trans (d.diesReset_cast p hp ho)⟩

/-! ## A change of division -/

/-- The cores of a network are listed. -/
theorem mem_coresOfNet {d : Dev} {c : CoreId} {n : NetId} (ha : (d.core c).assigned = true) (hn : (d.core c).net = n) :
    c ∈ d.coresOfNet n := by
  have hmem : (c.toNat, d.core c) ∈ d.cores := mem_of_tblGet_ne _ _ _ (fun h => by
    rw [show d.core c = {} from h] at ha; exact absurd ha (by decide))
  refine List.mem_filter.2 ⟨List.mem_map.2 ⟨_, hmem, ?_⟩, by simp [ha, hn]⟩
  simp

/-- A change of the cores of a list that sets a flag sets it in every one of them. -/
theorem Dev.core_modCores_mem (P : Core → Prop) (f : Core → Core) (hf : ∀ k, P (f k)) {c : CoreId} (cs : List CoreId) (hc : c ∈ cs)
    (d : Dev) : P ((d.modCores cs f).core c) := by
  have hkeep (e : Dev) (b : CoreId) (he : P (e.core c)) : P ((e.modCore b f).core c) := by
    rw [Dev.core_modCore]
    split
    · exact hf _
    · exact he
  induction cs generalizing d with
  | nil => exact absurd hc List.not_mem_nil
  | cons b cs ih =>
    obtain rfl | hcs := List.mem_cons.1 hc
    · exact foldl_preserves (fun e : Dev => P (e.core c)) _ hkeep cs _ (by rw [Dev.core_modCore_same]; exact hf _)
    · exact ih hcs _

theorem Dev.slowed_frame (d : Dev) (n : NetId) : d.slowed n = { d with cores := (d.slowed n).cores, nets := (d.slowed n).nets } := by
  refine foldl_preserves (fun e : Dev => e = { d with cores := e.cores, nets := e.nets }) _ (fun e c he => ?_) _ _ rfl
  dsimp only [Dev.modCore]
  conv => lhs; rw [he]

/-- A core of a slowed network that has begun a frame carries RATE_REDUCED (R75). -/
theorem Dev.flags_slowed (d : Dev) {c : CoreId} {n : NetId} (ha : (d.core c).assigned = true) (hn : (d.core c).net = n)
    (hf : (d.core c).inFrame = true) : ((d.slowed n).core c).flags.getLsbD 7 = true := by
  refine Dev.core_modCores_mem (fun k => k.flags.getLsbD 7 = true) _ (fun k => ?_) _ (List.mem_filter.2 ⟨?_, ?_⟩) _
  · simp
  · exact mem_coresOfNet (d := d.trimFlights n) ha hn
  · exact hf

/-- The recovery of the root clock is a package warm reset (R54). -/
theorem clockRecovery_effect (d : Dev) (h1 : d.pll.lossOn = true) (h2 : d.pll.locked = true) (h3 : d.pll.stableTimer = true) :
    clockRecovery d = (d.modPll (fun p => { p with lossOn := false, stableTimer := false })).warmReset 3#3 := by
  unfold clockRecovery
  rw [if_pos (by simp [h1, h2, h3])]

/-- A change of division, by whether frames in flight run slowed (R50, R75). -/
theorem divisionChange_eq (p : PartId) (d : Dev) (v : Div) (hv : (d.part p).divNext = some v) (hp : (d.part p).power = .on) :
    divisionChange p d = if (d.part p).cast = .uncast ∨ (v = .d4 ∧ (d.part p).div = .d4)
      then d.modPart p (fun x => { x with div := v, divNext := none })
      else (d.modPart p (fun x => { x with div := v, divNext := none })).slowed (d.part p).net := by
  unfold divisionChange
  rw [hv]
  dsimp only
  rw [if_pos (by simp [hp])]
  simp only [Bool.or_eq_true, Bool.and_eq_true, beq_iff_eq]
theorem divisionChange_idle (p : PartId) (d : Dev) (h : (d.part p).divNext = none ∨ (d.part p).power ≠ .on) : divisionChange p d = d := by
  unfold divisionChange
  split
  · rfl
  · next v hv => rw [if_neg]; simpa [hv] using h

/-- What a change of division does to the device. -/
theorem divisionChange_effect (d : Dev) (p : PartId) (v : Div) (hv : (d.part p).divNext = some v) (hp : (d.part p).power = .on) :
    (divisionChange p d).part p = { d.part p with div := v, divNext := none } ∧
      (∀ x, x ≠ p → (divisionChange p d).part x = d.part x) ∧ (divisionChange p d).queues = d.queues ∧
      (divisionChange p d).psram = d.psram ∧
      ((d.part p).cast = .uncast ∨ (v = .d4 ∧ (d.part p).div = .d4) → divisionChange p d = { d with parts := (divisionChange p d).parts }) ∧
      ((d.part p).cast ≠ .uncast → v ≠ .d4 → ∀ c, (d.core c).assigned = true → (d.core c).net = (d.part p).net →
        (d.core c).inFrame = true → ((divisionChange p d).core c).flags.getLsbD 7 = true) := by
  have hsame : (d.modPart p (fun x => { x with div := v, divNext := none })).part p = { d.part p with div := v, divNext := none } :=
    Dev.part_modPart_same _ _ _
  have hother (x : PartId) (hx : x ≠ p) : (d.modPart p (fun x => { x with div := v, divNext := none })).part x = d.part x := by
    rw [Dev.part_modPart, if_neg (Ne.symm hx)]
  rw [divisionChange_eq p d v hv hp]
  split
  · next h =>
    refine ⟨hsame, hother, rfl, rfl, fun _ => rfl, fun hc h4 => ?_⟩
    obtain h | ⟨h, -⟩ := h
    · exact absurd h hc
    · exact absurd h h4
  · next h =>
    have hframe := Dev.slowed_frame (d.modPart p (fun x => { x with div := v, divNext := none })) (d.part p).net
    refine ⟨?_, fun x hx => ?_, ?_, ?_, fun hc => absurd hc h, fun _ _ c ha hn hf => ?_⟩
    · rw [hframe]; exact hsame
    · rw [hframe]; exact hother x hx
    · rw [hframe]; rfl
    · rw [hframe]; rfl
    · exact Dev.flags_slowed (d.modPart p _) ha hn hf

/-- Settles O44: the die resets and the lost links of a clock loss are those of the shared operations, and a slowed network's cores
are listed. -/
theorem rootClock : Obligations.RootClock := by
  unfold Obligations.RootClock
  refine ⟨fun s => ⟨_, rfl, rfl, rfl⟩, fun s h1 h2 h3 => ⟨_, rfl, clockLoss_effect s.dev h1 h2 h3⟩, fun s h => ?_, fun s h1 h2 h3 => ?_,
    fun s p v hv hp => ?_, fun s p h => ?_⟩
  · have hl : lockRegained s.dev = s.dev.modPll (fun p => { p with locked := true, lossTimer := false, stableTimer := p.lossOn }) :=
      if_neg (by simp [h])
    refine ⟨_, rfl, ?_⟩
    rw [hl]
    exact ⟨rfl, rfl, rfl, rfl, rfl⟩
  · refine ⟨_, rfl, ?_⟩
    rw [clockRecovery_effect s.dev h1 h2 h3]
    exact ⟨rfl, rfl, rfl, rfl, rfl, rfl, rfl⟩
  · obtain ⟨hpart, hother, hqueues, hpsram, honly, hflags⟩ := divisionChange_effect s.dev p v hv hp
    exact ⟨_, rfl, hpart, hother, hqueues, hpsram, fun hc => ⟨congrArg (fun d => { s with dev := d }) (honly hc), hother⟩, hflags⟩
  · show (.next { s with dev := divisionChange p s.dev } : Ans) = .next s
    rw [divisionChange_idle p s.dev h]

end Sys2Proof.Machine
end

section
/-! SUPPORT. Host reset commands (R492, R493), and the cores that a reset clears (Table 14-4). -/
namespace Sys2Proof.Machine

open Sys2Proof

/-! ## A write of the RST and PWR block -/

theorem hostWritePwr_answers {s : State} (hb : s.bus = true) (hf : s.dev.pwr.fwUp = true) (f : Dev → Dev) :
    hostWritePwr f s = { s with dev := f s.dev.hostWrote } := by
  simp [hostWritePwr, hb, hf]

/-- The device with its arming used. -/
def Dev.disarmed (d : Dev) : Dev := d.modPwr (fun w => { w with armed := false })
/-- The device as an accepted command finds it. -/
def Dev.commanded (d : Dev) : Dev :=
  { d with evt := d.hostWrote.evt, card := d.hostWrote.card, pwr := { d.pwr with armed := false } }
theorem Dev.commanded_eq (d : Dev) : d.hostWrote.disarmed = d.commanded := by rfl
theorem Dev.core_commanded (d : Dev) (c : CoreId) : d.commanded.core c = d.core c := by rfl
theorem Dev.part_commanded (d : Dev) (p : PartId) : d.commanded.part p = d.part p := by rfl
theorem Dev.rstReject_commanded (d : Dev) : d.commanded.rstReject = { d with
    evt := d.hostWrote.evt, card := d.hostWrote.card, pwr := { d.pwr with armed := false, rej := satInc d.pwr.rej } } := by rfl
theorem Dev.hostReset_accepted (d : Dev) (k : ResetKind) (f : Dev → Dev) (ha : d.pwr.armed = true) (ht : d.resetTarget k = true)
    (hs : d.resetStage k = true) (hr : d.resetFree k = true) : d.hostReset k f = f d.disarmed := by
  simp [Dev.hostReset, Dev.disarmed, ha, ht, hs, hr]
theorem Dev.hostReset_rejected (d : Dev) (k : ResetKind) (f : Dev → Dev)
    (h : d.pwr.armed = false ∨ d.resetTarget k = false ∨ d.resetStage k = false ∨ d.resetFree k = false) :
    d.hostReset k f = d.disarmed.rstReject := by
  have hno : ¬ ((d.pwr.armed && d.resetTarget k && d.resetStage k && d.resetFree k) = true) := by
    obtain h | h | h | h := h <;> simp [h]
  rw [Dev.hostReset, if_neg hno]
  rfl

section
variable {s : State} (hb : s.bus = true) (hf : s.dev.pwr.fwUp = true) (k : ResetKind) (f : Dev → Dev)
include hb hf
theorem hostReset_runs (ha : s.dev.pwr.armed = true) (ht : s.dev.resetTarget k = true) (hs : s.dev.resetStage k = true)
    (hr : s.dev.resetFree k = true) :
    hostWritePwr (fun d => d.hostReset k f) s = { s with dev := f s.dev.commanded } := by
  rw [← Dev.commanded_eq, hostWritePwr_answers hb hf, Dev.hostReset_accepted s.dev.hostWrote k f ha ht hs hr]
theorem hostReset_refused
    (h : s.dev.pwr.armed = false ∨ s.dev.resetTarget k = false ∨ s.dev.resetStage k = false ∨ s.dev.resetFree k = false) :
    hostWritePwr (fun d => d.hostReset k f) s = { s with dev := s.dev.commanded.rstReject } := by
  rw [← Dev.commanded_eq, hostWritePwr_answers hb hf, Dev.hostReset_rejected s.dev.hostWrote k f h]
end

/-- The reset that a command of Table 14-9 asks for is the only thing that it does. -/
theorem exec_resetCommand {i : Instr} {k : ResetKind} (h : i = .resetPackageWarm ∧ k = .warm ∨
    (∃ c, i = .resetCore c ∧ k = .core c) ∨ (∃ c, i = .resetCluster c ∧ k = .cluster c) ∨
    (∃ p, i = .resetPartition p ∧ k = .partition p) ∨ (∃ j, i = .resetComputeDie j ∧ k = .die j)) (s : State) :
    ∃ f, exec i s = .next (hostWritePwr (fun d => d.hostReset k f) s) := by
  obtain ⟨rfl, rfl⟩ | ⟨c, rfl, rfl⟩ | ⟨c, rfl, rfl⟩ | ⟨p, rfl, rfl⟩ | ⟨j, rfl, rfl⟩ := h <;> exact ⟨_, rfl⟩

/-! ## The cores that a reset clears -/

/-- A load of the weight buffers leaves the sequencer and what the core is to its network. -/
theorem Core.preload_keeps (k : Core) : k.preload.pc = k.pc ∧ k.preload.assigned = k.assigned ∧ k.preload.spare = k.spare ∧
    k.preload.logical = k.logical := by
  dsimp only [Core.preload, Core.lsRead]
  split
  · exact ⟨rfl, rfl, rfl, rfl⟩
  · split
    · exact ⟨rfl, rfl, rfl, rfl⟩
    · split <;> exact ⟨rfl, rfl, rfl, rfl⟩
theorem Core.restart_keeps (k : Core) : k.restart.pc = 0x100#11 ∧ k.restart.assigned = k.assigned ∧ k.restart.spare = k.spare ∧
    k.restart.logical = k.logical := Core.preload_keeps _
theorem Core.cleared_pc (k : Core) : k.cleared.pc = 0x100#11 := k.restart_keeps.1
/-- A cleared core keeps its place in its network and its frames begun, and transfers unless it is a spare. -/
theorem Core.role_cleared (k : Core) : k.cleared.role = { k.role with state := if k.spare then .uncast else .transferring } := by
  obtain ⟨-, hassigned, hspare, hlogical⟩ := k.restart_keeps
  simp [Core.role, Core.cleared, hassigned, hspare, hlogical]

/-- A reset of cores: partitions, dies and memory as they were, every core what it was, and none that transfers stops to. -/
structure ResetsCores (d e : Dev) : Prop where
  ground : e.standing.toGround = d.standing.toGround
  service : ∀ p, (e.part p).service = (d.part p).service
  assigned : ∀ c, (e.core c).assigned = (d.core c).assigned
  spare : ∀ c, (e.core c).spare = (d.core c).spare
  logical : ∀ c, (e.core c).logical = (d.core c).logical
  frames : ∀ c, (e.core c).frames = (d.core c).frames
  transferring : ∀ c, (d.core c).spare = false → (d.core c).state = .transferring → (e.core c).state = .transferring

theorem ResetsCores.trans {d e f : Dev} (h1 : ResetsCores d e) (h2 : ResetsCores e f) : ResetsCores d f where
  ground := h2.ground.trans h1.ground
  service p := (h2.service p).trans (h1.service p)
  assigned c := (h2.assigned c).trans (h1.assigned c)
  spare c := (h2.spare c).trans (h1.spare c)
  logical c := (h2.logical c).trans (h1.logical c)
  frames c := (h2.frames c).trans (h1.frames c)
  transferring c hs ht := h2.transferring c ((h1.spare c).trans hs) (h1.transferring c hs ht)
theorem ResetsCores.of_standing {d e : Dev} (h : e.standing = d.standing) : ResetsCores d e where
  ground := ground_of_standing h
  service := service_of_standing h
  assigned c := congrArg Role.assigned (role_of_standing h c)
  spare c := congrArg Role.spare (role_of_standing h c)
  logical c := congrArg Role.logical (role_of_standing h c)
  frames c := congrArg Role.frames (role_of_standing h c)
  transferring c _ ht := (state_of_standing h c).trans ht
theorem ResetsCores.of_cleared (d : Dev) (c : CoreId) : ResetsCores d (d.modCore c Core.cleared) := by
  have hrole (b : CoreId) (P : Role → Role → Prop) (hrefl : ∀ r, P r r)
      (hp : P (d.core c).role { (d.core c).role with state := if (d.core c).spare then .uncast else .transferring }) :
      P (d.core b).role ((d.modCore c Core.cleared).core b).role := by
    rw [Dev.core_modCore]
    split
    · next h => rw [← h, Core.role_cleared]; exact hp
    · exact hrefl _
  exact ⟨rfl, fun _ => rfl, fun b => hrole b (fun x y => y.assigned = x.assigned) (fun _ => rfl) rfl,
    fun b => hrole b (fun x y => y.spare = x.spare) (fun _ => rfl) rfl,
    fun b => hrole b (fun x y => y.logical = x.logical) (fun _ => rfl) rfl,
    fun b => hrole b (fun x y => y.frames = x.frames) (fun _ => rfl) rfl,
    fun b => hrole b (fun x y => x.spare = false → x.state = .transferring → y.state = .transferring) (fun _ _ h => h)
      (fun hs _ => if_neg (by rw [show (d.core c).spare = false from hs]; decide))⟩
theorem ResetsCores.foldl {g : Dev → CoreId → Dev} (hg : ∀ d c, ResetsCores d (g d c)) (cs : List CoreId) (d : Dev) :
    ResetsCores d (cs.foldl g d) :=
  foldl_preserves (ResetsCores d) g (fun e c he => he.trans (hg e c)) cs d (.of_standing rfl)

/-- Every core in service of a list that is reset core by core transfers after. -/
theorem Dev.transferring_foldl {g : Dev → CoreId → Dev} (hg : ∀ d c, ResetsCores d (g d c))
    (ht : ∀ d c, (d.core c).assigned = true → (d.core c).spare = false → ((g d c).core c).state = .transferring)
    {c : CoreId} (cs : List CoreId) (hc : c ∈ cs) (d : Dev) (ha : (d.core c).assigned = true) (hs : (d.core c).spare = false) :
    ((cs.foldl g d).core c).state = .transferring := by
  induction cs generalizing d with
  | nil => exact absurd hc List.not_mem_nil
  | cons b cs ih =>
    rw [List.foldl_cons]
    have hb := hg d b
    obtain rfl | hcs := List.mem_cons.1 hc
    · exact (ResetsCores.foldl hg cs _).transferring c ((hb.spare c).trans hs) (ht d c ha hs)
    · exact ih hcs _ ((hb.assigned c).trans ha) ((hb.spare c).trans hs)

/-! ## The reset of one core -/

/-- The device before a core in service is cleared. -/
def Dev.coreGivenUp (d : Dev) (c : CoreId) : Dev :=
  (((d.giveUpOuts c none (fun _ => true)).giveUpIns c (fun _ => true)).voidMaq (d.core c).net).resetCalipers c
theorem Dev.standing_coreGivenUp (d : Dev) (c : CoreId) : (d.coreGivenUp c).standing = d.standing := by
  simp [Dev.coreGivenUp]
theorem Dev.coreResetStart_idle (d : Dev) (c : CoreId) (h : (!(d.core c).assigned || (d.core c).spare) = true) :
    d.coreResetStart c = d.modCore c Core.clearedIdle := if_pos h
theorem Dev.coreResetStart_inService (d : Dev) (c : CoreId) (h : ¬ (!(d.core c).assigned || (d.core c).spare) = true) :
    d.coreResetStart c = ((d.coreGivenUp c).modCore c Core.cleared).censusBack (partOfCore c) := if_neg h
theorem Dev.core_censusBack (d : Dev) (p : PartId) (c : CoreId) : (d.censusBack p).core c = d.core c := by
  unfold Dev.censusBack
  split <;> rfl

theorem resetsCores_coreResetStart (d : Dev) (c : CoreId) : ResetsCores d (d.coreResetStart c) := by
  by_cases h : (!(d.core c).assigned || (d.core c).spare) = true
  · rw [d.coreResetStart_idle c h]
    exact .of_standing (Dev.standing_modCore _ _ _ (fun _ => rfl))
  · rw [d.coreResetStart_inService c h]
    exact (ResetsCores.of_standing (d.standing_coreGivenUp c)).trans
      ((ResetsCores.of_cleared _ c).trans (.of_standing (Dev.standing_censusBack _ _)))
/-- A core in service that is reset transfers, at the entry of its program. -/
theorem Dev.core_coreResetStart (d : Dev) (c : CoreId) (ha : (d.core c).assigned = true) (hs : (d.core c).spare = false) :
    ((d.coreResetStart c).core c).state = .transferring ∧ ((d.coreResetStart c).core c).pc = 0x100#11 := by
  have hspare : ((d.coreGivenUp c).core c).spare = false :=
    (congrArg Role.spare (role_of_standing (d.standing_coreGivenUp c) c)).trans hs
  have hstate : ((d.coreGivenUp c).core c).cleared.state = .transferring := by simp [Core.cleared, hspare]
  rw [d.coreResetStart_inService c (by simp [ha, hs]), Dev.core_censusBack, Dev.core_modCore_same]
  exact ⟨hstate, Core.cleared_pc _⟩

end Sys2Proof.Machine
end

section
/-! SUPPORT. Each reset of Table 14-4, and the commands that ask for it (R490 to R493). -/
namespace Sys2Proof.Machine

open Sys2Proof

/-! ## Core reset -/

/-- What the reset of a core in service does. -/
theorem resetCoreNow_effect (d : Dev) (c : CoreId) (src : BitVec 3) (ha : (d.core c).assigned = true) (hs : (d.core c).spare = false) :
    ((d.resetCoreNow c src).core c).state = .transferring ∧ ((d.resetCoreNow c src).core c).pc = 0x100#11 ∧
      ((d.resetCoreNow c src).core c).logical = (d.core c).logical ∧ ((d.resetCoreNow c src).core c).frames = (d.core c).frames ∧
      (d.resetCoreNow c src).pwr = (d.begin_ (.core c) src).pwr ∧
      ((d.resetCoreNow c src).part (partOfCore c)).rstCore = satInc (d.part (partOfCore c)).rstCore := by
  have hcore : (d.begin_ (.core c) src).core c = d.core c := Dev.core_begin _ _ _ c
  have hpart : (d.begin_ (.core c) src).part (partOfCore c) = d.part (partOfCore c) := Dev.part_begin _ _ _ _
  unfold Dev.resetCoreNow
  generalize d.begin_ (.core c) src = e at *
  have hreset := resetsCores_coreResetStart e c
  obtain ⟨hstate, hpc⟩ := e.core_coreResetStart c (by rw [hcore]; exact ha) (by rw [hcore]; exact hs)
  have hpwr : (e.coreResetStart c).pwr = e.pwr := pwr_of_base (base_of_ground hreset.ground)
  refine ⟨hstate, hpc, ?_, ?_, hpwr, ?_⟩
  · exact (hreset.logical c).trans (by rw [hcore])
  · exact (hreset.frames c).trans (by rw [hcore])
  · have hservice := hreset.service (partOfCore c)
    rw [Dev.part_modPart_same, ← hpart]
    exact congrArg (fun x => satInc x.rstCore) hservice

/-! ## Cluster reset -/

/-- The device with a cluster taken into reset. -/
def Dev.clusterHeld (d : Dev) (cl : ClusterId) : Dev :=
  (d.modCluster cl (fun x => { x with inReset := true })).modPart (partOfCluster cl) (fun x => { x with rstCluster := satInc x.rstCluster })
theorem Dev.cluster_clusterHeld (d : Dev) (cl : ClusterId) : ((d.clusterHeld cl).cluster cl).inReset = true := by
  have h : ((d.modCluster cl (fun x => { x with inReset := true })).cluster cl).inReset = true := by rw [Dev.cluster_modCluster_same]
  exact h
theorem Dev.resetClusterNow_eq (d : Dev) (cl : ClusterId) (src : BitVec 3) : ∃ qs f, d.resetClusterNow cl src =
    ((coresOfCluster cl).foldl (fun d c => d.coreResetStart c)
      (((d.begin_ (.cluster cl) src).clusterHeld cl).voidStages (coresOfCluster cl))).resetQueues qs f := ⟨_, _, rfl⟩

/-- What the reset of a cluster does. -/
theorem resetClusterNow_effect (d : Dev) (cl : ClusterId) (src : BitVec 3) :
    ((d.resetClusterNow cl src).cluster cl).inReset = true ∧ (d.resetClusterNow cl src).pwr = (d.begin_ (.cluster cl) src).pwr ∧
      (∀ c ∈ coresOfCluster cl, (d.core c).assigned = true → (d.core c).spare = false →
        ((d.resetClusterNow cl src).core c).state = .transferring) ∧
      ((d.resetClusterNow cl src).part (partOfCluster cl)).rstCluster = satInc (d.part (partOfCluster cl)).rstCluster := by
  have hcore (c : CoreId) : (d.begin_ (.cluster cl) src).core c = d.core c := Dev.core_begin _ _ _ c
  have hpart : (d.begin_ (.cluster cl) src).part (partOfCluster cl) = d.part (partOfCluster cl) := Dev.part_begin _ _ _ _
  obtain ⟨qs, f, heq⟩ := d.resetClusterNow_eq cl src
  rw [heq]
  generalize d.begin_ (.cluster cl) src = e at *
  have hheld : ((e.clusterHeld cl).cluster cl).inReset = true := e.cluster_clusterHeld cl
  have hcount : ((e.clusterHeld cl).part (partOfCluster cl)).rstCluster = satInc (e.part (partOfCluster cl)).rstCluster :=
    congrArg Partition.rstCluster (Dev.part_modPart_same _ _ _)
  have hpwr : (e.clusterHeld cl).pwr = e.pwr := rfl
  have hcores (c : CoreId) : (e.clusterHeld cl).core c = e.core c := rfl
  generalize e.clusterHeld cl = g at *
  have hvoid := g.standing_voidStages (coresOfCluster cl)
  have hfold := ResetsCores.foldl resetsCores_coreResetStart (coresOfCluster cl) (g.voidStages (coresOfCluster cl))
  have hall := (ResetsCores.of_standing hvoid).trans (hfold.trans (.of_standing (Dev.standing_resetQueues _ qs f)))
  refine ⟨?_, ?_, fun c hc ha hs => ?_, ?_⟩
  · rw [clusterReset_of_base (base_of_ground hall.ground)]; exact hheld
  · rw [pwr_of_base (base_of_ground hall.ground)]; exact hpwr
  · have hrole := role_of_standing hvoid c
    rw [hcores, hcore] at hrole
    rw [state_of_standing (Dev.standing_resetQueues _ qs f)]
    exact Dev.transferring_foldl resetsCores_coreResetStart (fun e c ha hs => (e.core_coreResetStart c ha hs).1) _ hc _
      ((congrArg Role.assigned hrole).trans ha) ((congrArg Role.spare hrole).trans hs)
  · have hservice := congrArg Service.rstCluster (hall.service (partOfCluster cl))
    exact hservice.trans (hcount.trans (by rw [hpart]))

/-! ## Partition reset -/

/-- The device with a partition taken into reset: its counters cleared, its forces lifted. -/
def Dev.partHeld (d : Dev) (p : PartId) : Dev :=
  d.modPart p (fun x =>
    { x.clearCounts with inReset := true, rstPart := satInc x.rstPart, frozen := false, dlkCnt := 0#17, act := none,
                         faultWait := none, scrubbing := false, cfgUe := [], reload := none,
                         segs := tblMap {} x.segs (fun i g =>
                           if g.forced && !d.health.badSegs.contains (BitVec.ofNat 24 i) then { g with en := g.ownEn, forced := false } else g) })
theorem Dev.part_partHeld (d : Dev) (p : PartId) : ((d.partHeld p).part p).service =
    { (d.part p).service with inReset := true, rstPart := satInc (d.part p).rstPart, frozen := false } := by
  rw [Dev.partHeld, Dev.part_modPart_same]
  rfl
/-- The device with the words of a partition's cores given up, before the cores are cleared. -/
def Dev.partGivenUp (d : Dev) (p : PartId) (cs : List CoreId) : Dev :=
  let d2 := cs.foldl (fun d c => d.giveUpOuts c none (fun q => partOfQueue q != p)) d
  d2.modCores (d2.coreIds.filter (fun c => partOfCore c == p && !(d2.core c).assigned)) Core.clearedIdle
theorem Dev.standing_partGivenUp (d : Dev) (p : PartId) (cs : List CoreId) : (d.partGivenUp p cs).standing = d.standing := by
  dsimp only [Dev.partGivenUp]
  exact (Dev.standing_modCores _ _ Core.clearedIdle (fun _ => rfl)).trans (by simp)
/-- One core of a partition that is reset is cleared. -/
def Dev.clearCore (d : Dev) (c : CoreId) : Dev := (d.resetCalipers c).modCore c Core.cleared
theorem resetsCores_clearCore (d : Dev) (c : CoreId) : ResetsCores d (d.clearCore c) :=
  (ResetsCores.of_standing (d.standing_resetCalipers c)).trans (.of_cleared _ c)
theorem Dev.state_clearCore (d : Dev) (c : CoreId) (hs : (d.core c).spare = false) : ((d.clearCore c).core c).state = .transferring := by
  have hspare : ((d.resetCalipers c).core c).spare = false :=
    (congrArg Role.spare (role_of_standing (d.standing_resetCalipers c) c)).trans hs
  rw [Dev.clearCore, Dev.core_modCore_same]
  simp [Core.cleared, hspare]

/-- What is left of the reset of a partition when its cores are cleared: queues, frames and boundary. -/
def Dev.partEmptied (d : Dev) (p : PartId) (n : NetId) (wasFrozen : Bool) : Dev :=
  let d4 := ((d.cancelPart p).resetQueues (d.queuesOfPart p) (fun c => partOfCore c == p)).voidMaq n
  let d4 := if d4.companion n p then d4.batchLost n else d4
  let d5 := d4.boundaryDown p
  let d6 := if !wasFrozen then d5
    else if d5.companion n p then d5.modNet n (fun x => { x with aclosed := false })
    else d5.modNet n (fun x => { x with openAt := x.stoppedBy.isNone && !x.held })
  d6.censusBackNet n
theorem Dev.standing_partEmptied (d : Dev) (p : PartId) (n : NetId) (b : Bool) : (d.partEmptied p n b).standing = d.standing := by
  simp [Dev.partEmptied]
theorem Dev.resetPartNow_eq (d : Dev) (p : PartId) (src : BitVec 3) : d.resetPartNow p src =
    (((coresOfPart p).filter (fun c => (d.core c).assigned)).foldl Dev.clearCore
      (((d.begin_ (.partition p) src).partHeld p).partGivenUp p ((coresOfPart p).filter (fun c => (d.core c).assigned)))).partEmptied
        p (d.part p).net (d.part p).frozen := by
  have hbad : (d.begin_ (.partition p) src).health = d.health := by rw [d.begin_frame]
  dsimp only [Dev.partHeld]
  rw [hbad]
  rfl

/-- What the reset of a partition does. -/
theorem resetPartNow_effect (d : Dev) (p : PartId) (src : BitVec 3) :
    ((d.resetPartNow p src).part p).service =
        { (d.part p).service with inReset := true, rstPart := satInc (d.part p).rstPart, frozen := false } ∧
      (d.resetPartNow p src).pwr = (d.begin_ (.partition p) src).pwr ∧
      (∀ c ∈ coresOfPart p, (d.core c).assigned = true → (d.core c).spare = false →
        ((d.resetPartNow p src).core c).state = .transferring) := by
  have hcore (c : CoreId) : (d.begin_ (.partition p) src).core c = d.core c := Dev.core_begin _ _ _ c
  have hpart : (d.begin_ (.partition p) src).part p = d.part p := Dev.part_begin _ _ _ _
  have hlisted (c : CoreId) (hc : c ∈ coresOfPart p) (ha : (d.core c).assigned = true) :
      c ∈ (coresOfPart p).filter (fun c => (d.core c).assigned) := List.mem_filter.2 ⟨hc, ha⟩
  rw [d.resetPartNow_eq p src]
  generalize (coresOfPart p).filter (fun c => (d.core c).assigned) = cs at *
  generalize (d.part p).net = n at *
  generalize (d.part p).frozen = b at *
  generalize d.begin_ (.partition p) src = e at *
  have hservice := e.part_partHeld p
  have hpwr : (e.partHeld p).pwr = e.pwr := rfl
  have hcores (c : CoreId) : (e.partHeld p).core c = e.core c := rfl
  generalize e.partHeld p = g at *
  have hup := g.standing_partGivenUp p cs
  have hfold := ResetsCores.foldl resetsCores_clearCore cs (g.partGivenUp p cs)
  have hall := (ResetsCores.of_standing hup).trans (hfold.trans (.of_standing (Dev.standing_partEmptied _ p n b)))
  refine ⟨?_, ?_, fun c hc ha hs => ?_⟩
  · rw [hall.service p, hservice, hpart]
  · rw [pwr_of_base (base_of_ground hall.ground)]; exact hpwr
  · have hrole := role_of_standing hup c
    rw [hcores, hcore] at hrole
    rw [state_of_standing (Dev.standing_partEmptied _ p n b)]
    exact Dev.transferring_foldl resetsCores_clearCore (fun e c _ hs => e.state_clearCore c hs) _ (hlisted c hc ha) _
      ((congrArg Role.assigned hrole).trans ha) ((congrArg Role.spare hrole).trans hs)

/-! ## Package warm reset -/

/-- A listed key of a mapped table reads as `f` of what it read as, though `f` moves the default. -/
theorem tblGet_map_listed {α : Type} [DecidableEq α] (d : α) (f : Nat → α → α) (n : Nat) :
    ∀ t : Tbl α, tblGet d t n ≠ d → tblGet d (tblMap d t f) n = f n (tblGet d t n)
  | [], h => absurd rfl h
  | (k, v) :: t, h => by
    have ih := tblGet_map_listed d f n t
    simp only [tblMap, List.foldr_cons, tblGet] at ih h ⊢
    by_cases hk : k = n
    · subst hk; simp
    · rw [if_neg hk] at h
      rw [tblGet_set_other d _ _ hk, ih h, if_neg hk]

/-- A die as a package reset leaves it. -/
def Die.packageReset (lossOn : Bool) (x : Die) : Die :=
  { avs := x.avs, monitorAvs := x.avs, unackedAvs := x.unackedAvs, vbase := x.vbase, vmax := x.vmax, inReset := lossOn }
/-- While the root clock is lost a die in reset stays in it through a warm reset (R54). -/
theorem Dev.inReset_warmReset (d : Dev) (src : BitVec 3) (hl : d.pll.lossOn = true) (i : Nat) (hi : (d.die i).inReset = true) :
    ((d.warmReset src).die i).inReset = true := by
  have hlisted : tblGet ({} : Die) d.dies i ≠ {} := fun h => by
    rw [show d.die i = {} from h] at hi
    exact absurd hi (by decide)
  have hdie : (d.warmReset src).die i = (d.die i).packageReset d.pll.lossOn :=
    tblGet_map_listed ({} : Die) (fun _ x => x.packageReset d.pll.lossOn) i d.dies hlisted
  rw [hdie]
  exact hl

/-- A write of RST_ARM arms with the value 0xA5 and leaves an arming in force (R492). -/
theorem rstArm_eq (v : W32) (d : Dev) : rstArm v d = d.modPwr (fun w => { w with armed := w.armed || v.extractLsb' 0 8 == 0xA5#8 }) := by
  unfold rstArm
  split
  · next h => simp only [h, Bool.or_true]
  · next h => simp only [h, Bool.or_false]; rfl

theorem rstArm_hostWrote (v : W32) (d : Dev) : rstArm v d.hostWrote = { d with
    evt := d.hostWrote.evt, card := d.hostWrote.card, pwr := { d.pwr with armed := d.pwr.armed || v.extractLsb' 0 8 == 0xA5#8 } } := by
  rw [rstArm_eq]
  rfl

/-! ## The commands -/

section
variable {s : State} (hb : s.bus = true) (hf : s.dev.pwr.fwUp = true)
include hb hf
theorem rstArmWrite_effect (v : W32) : ∃ t, exec (.rstArmWrite v) s = .next t ∧
    t.dev.pwr.armed = (s.dev.pwr.armed || v.extractLsb' 0 8 == 0xA5#8) ∧ coresQueuesKept s t := by
  refine ⟨_, rfl, ?_⟩
  rw [hostWritePwr_answers hb hf, rstArm_hostWrote]
  exact ⟨rfl, rfl, rfl, rfl⟩
theorem resetCommand_refused {i : Instr} {k : ResetKind} (hi : i = .resetPackageWarm ∧ k = .warm ∨
    (∃ c, i = .resetCore c ∧ k = .core c) ∨ (∃ c, i = .resetCluster c ∧ k = .cluster c) ∨
    (∃ p, i = .resetPartition p ∧ k = .partition p) ∨ (∃ j, i = .resetComputeDie j ∧ k = .die j))
    (h : s.dev.pwr.armed = false ∨ s.dev.resetTarget k = false ∨ s.dev.resetStage k = false ∨ s.dev.resetFree k = false) :
    ∃ t, exec i s = .next t ∧ t.dev.pwr = { s.dev.pwr with armed := false, rej := satInc s.dev.pwr.rej } ∧
      t.dev.parts = s.dev.parts ∧ coresQueuesKept s t := by
  obtain ⟨f, hexec⟩ := exec_resetCommand hi s
  rw [hostReset_refused hb hf k f h, Dev.rstReject_commanded] at hexec
  exact ⟨_, hexec, rfl, rfl, rfl, rfl, rfl⟩

section
variable (ha : s.dev.pwr.armed = true)
include ha
theorem resetCore_runs {c : CoreId} (ht : s.dev.resetTarget (.core c) = true) (hs : s.dev.resetStage (.core c) = true)
    (hr : s.dev.resetFree (.core c) = true) : exec (.resetCore c) s = .next { s with dev := s.dev.commanded.resetCoreNow c 0#3 } :=
  congrArg Host.Outcome.next (hostReset_runs hb hf (.core c) (fun d => d.resetCoreNow c 0#3) ha ht hs hr)
theorem resetCluster_runs {c : ClusterId} (ht : s.dev.resetTarget (.cluster c) = true) (hs : s.dev.resetStage (.cluster c) = true)
    (hr : s.dev.resetFree (.cluster c) = true) :
    exec (.resetCluster c) s = .next { s with dev := s.dev.commanded.resetClusterNow c 0#3 } :=
  congrArg Host.Outcome.next (hostReset_runs hb hf (.cluster c) (fun d => d.resetClusterNow c 0#3) ha ht hs hr)
theorem resetPartition_runs {p : PartId} (ht : s.dev.resetTarget (.partition p) = true) (hs : s.dev.resetStage (.partition p) = true)
    (hr : s.dev.resetFree (.partition p) = true) :
    exec (.resetPartition p) s = .next { s with dev := s.dev.commanded.resetPartNow p 0#3 } :=
  congrArg Host.Outcome.next (hostReset_runs hb hf (.partition p) (fun d => d.resetPartNow p 0#3) ha ht hs hr)
theorem resetDie_runs {i : Fin 2} (ht : s.dev.resetTarget (.die i) = true) (hs : s.dev.resetStage (.die i) = true)
    (hr : s.dev.resetFree (.die i) = true) :
    exec (.resetComputeDie i) s = .next { s with dev := s.dev.commanded.resetDieNow i.val 0#3 } :=
  congrArg Host.Outcome.next (hostReset_runs hb hf (.die i) (fun d => d.resetDieNow i.val 0#3) ha ht hs hr)
theorem resetWarm_runs (hr : s.dev.resetFree .warm = true) :
    exec .resetPackageWarm s = .next { s with dev := s.dev.commanded.warmReset 0#3 } :=
  congrArg Host.Outcome.next (hostReset_runs hb hf .warm (fun d => d.warmReset 0#3) ha rfl rfl hr)
end
end

/-- Settles O45: a refused command is the shared refusal; each accepted one is the reset of its resource, stated above. -/
theorem resetCommands : Obligations.ResetCommands := by
  unfold Obligations.ResetCommands
  refine ⟨fun s v hb hf => rstArmWrite_effect hb hf v, fun s => ⟨_, rfl, rfl⟩, fun s k i hb hf => resetCommand_refused hb hf,
    fun s c hb hf ha ht hs hr hc hp => ?_, fun s cl hb hf ha ht hs hr => ?_, fun s p hb hf ha ht hs hr => ?_,
    fun s i hb hf ha ht hs hr => ?_, fun s hb hf ha hr => ?_⟩
  · obtain ⟨hstate, hpc, hlogical, hframes, hpwr, hcount⟩ := resetCoreNow_effect s.dev.commanded c 0#3
      (by rw [Dev.core_commanded]; exact hc) (by rw [Dev.core_commanded]; exact hp)
    rw [Dev.core_commanded] at hlogical hframes
    rw [Dev.part_commanded] at hcount
    rw [Dev.pwr_begin] at hpwr
    exact ⟨_, resetCore_runs hb hf ha ht hs hr, hstate, hpc, hlogical, hframes, by rw [hpwr]; exact List.mem_cons_self,
      by rw [hpwr]; rfl, by rw [hpwr]; rfl, hcount⟩
  · obtain ⟨hreset, hpwr, hcores, hcount⟩ := resetClusterNow_effect s.dev.commanded cl 0#3
    simp only [Dev.core_commanded] at hcores
    rw [Dev.part_commanded] at hcount
    rw [Dev.pwr_begin] at hpwr
    exact ⟨_, resetCluster_runs hb hf ha ht hs hr, hreset, by rw [hpwr]; rfl, hcores, hcount⟩
  · obtain ⟨hservice, hpwr, hcores⟩ := resetPartNow_effect s.dev.commanded p 0#3
    simp only [Dev.core_commanded] at hcores
    rw [Dev.part_commanded] at hservice
    rw [Dev.pwr_begin] at hpwr
    exact ⟨_, resetPartition_runs hb hf ha ht hs hr, congrArg Service.inReset hservice, congrArg Service.frozen hservice,
      congrArg Service.cast hservice, by rw [hpwr]; rfl, hcores, congrArg Service.rstPart hservice⟩
  · have hdie := dieReset_resetDieNow s.dev.commanded i.val 0#3
    have hpwr := hdie.pwr
    rw [Dev.dieBegun_eq] at hpwr
    refine ⟨_, resetDie_runs hb hf ha ht hs hr, hdie.inReset, by rw [hpwr], by rw [hpwr]; rfl, hdie.psram, fun p hp ho =>
      ⟨hdie.cleared p hp ?_, hdie.mode p hp, ?_⟩⟩
    · rw [Dev.part_commanded]; exact ho
    · rw [hdie.regions p, Dev.part_commanded]
  · exact ⟨_, resetWarm_runs hb hf ha hr, rfl, rfl, rfl, rfl, rfl, rfl, rfl, rfl, rfl, rfl, rfl, rfl,
      fun hl i hi => Dev.inReset_warmReset s.dev.commanded 0#3 hl i hi⟩

end Sys2Proof.Machine
end

section
/-! SUPPORT. Compute dies that are powered off, and the package states entered so (R497, R498). -/
namespace Sys2Proof.Machine

open Sys2Proof

/-! ## A die without power -/

/-- The device with QRSEL and XCFG of a partition without power at their reset values. -/
def Dev.forgetUnits (d : Dev) (p : PartId) : Dev :=
  { d with
    queues := tblMap {} d.queues (fun i q => if partOfQueue (BitVec.ofNat 13 i) == p then { q with rsel := 0#10 } else q),
    cores := tblMap {} d.cores (fun i k => if partOfCore (BitVec.ofNat 11 i) == p then { k with wdogEn := true, gateEn := true } else k) }
theorem Dev.role_forgetUnits (d : Dev) (p : PartId) (c : CoreId) : ((d.forgetUnits p).core c).role = (d.core c).role := by
  have h : (d.forgetUnits p).core c = if partOfCore (BitVec.ofNat 11 c.toNat) == p then { d.core c with wdogEn := true, gateEn := true }
      else d.core c :=
    tblGet_map ({} : Core) (fun i k => if partOfCore (BitVec.ofNat 11 i) == p then { k with wdogEn := true, gateEn := true } else k) c.toNat
      (by split <;> rfl) d.cores
  rw [h]
  split <;> rfl
@[simp] theorem Dev.standing_forgetSel (d : Dev) (p : PartId) : (d.forgetSel p).standing = d.standing := by
  have hroles : (fun c => ((d.forgetUnits p).core c).role) = fun c => (d.core c).role := funext (d.role_forgetUnits p)
  have hunits : (d.forgetUnits p).standing = { d.standing with roles := fun c => ((d.forgetUnits p).core c).role } := by rfl
  calc (d.forgetSel p).standing = (d.forgetUnits p).standing :=
        Dev.standing_modPart (d.forgetUnits p) p (fun x => { x with ownSel := 0#24 }) (fun _ => rfl) (fun _ => rfl)
    _ = d.standing := by rw [hunits, hroles]; rfl

/-- The partitions of a die are cleared when it loses power. -/
def Dev.forgetPart (d : Dev) (p : PartId) : Dev := (d.uncastPart p).forgetSel p
theorem castsNothing_forgetPart (d : Dev) (p : PartId) : CastsNothing d (d.forgetPart p) :=
  (castsNothing_uncastPart d p).trans (.of_standing (Dev.standing_forgetSel _ p))
theorem Dev.dieOff_eq (d : Dev) (i : Nat) : ∃ cs ps ds, d.dieOff i =
    { (partsOfDie i).foldl (Dev.clearPart Dev.forgetPart) ((d.cancelDie i).modDie i (fun x => { x with railOn := false })) with
      cores := cs, packets := ps, doms := ds } := ⟨_, _, _, rfl⟩
/-- A die that is powered off has its rail off; the rest of the base stays. -/
theorem Dev.base_dieOff (d : Dev) (i : Nat) :
    (d.dieOff i).standing.toBase = (d.modDie i (fun x => { x with railOn := false })).standing.toBase := by
  obtain ⟨cs, ps, ds, heq⟩ := d.dieOff_eq i
  have hbase := (clearsParts_foldl castsNothing_forgetPart (partsOfDie i) ((d.cancelDie i).modDie i (fun x => { x with railOn := false }))).base
  rw [heq]
  generalize (partsOfDie i).foldl (Dev.clearPart Dev.forgetPart) _ = e at *
  exact hbase

/-! ## Package standby -/

/-- The device with every compute die powered off. -/
def Dev.diesOff (d : Dev) : Dev := d.dies_.foldl (fun d i => d.dieOff i) d
theorem Dev.dies_cons (d : Dev) : ∃ is, d.dies_ = 0 :: is := by
  unfold Dev.dies_
  split <;> exact ⟨_, rfl⟩
theorem Dev.base_diesOff (d : Dev) : ∃ t, d.diesOff.standing.toBase = { d.standing.toBase with dies := t } := by
  refine foldl_preserves (fun e : Dev => ∃ t, e.standing.toBase = { d.standing.toBase with dies := t }) _ (fun e i he => ?_) _ d ⟨_, rfl⟩
  obtain ⟨t, ht⟩ := he
  refine ⟨(e.modDie i (fun x => { x with railOn := false })).dies, ?_⟩
  have hmod : (e.modDie i (fun x => { x with railOn := false })).standing.toBase =
      { e.standing.toBase with dies := (e.modDie i (fun x => { x with railOn := false })).dies } := by rfl
  rw [e.base_dieOff i, hmod, ht]
theorem Dev.rail_dieOff (d : Dev) (i j : Nat) (h : i = j ∨ (d.die j).railOn = false) : ((d.dieOff i).die j).railOn = false := by
  rw [die_of_base (d.base_dieOff i), Dev.die_modDie]
  split
  · rfl
  · next hij => exact h.resolve_left hij
theorem Dev.rail_diesOff (d : Dev) : (d.diesOff.die 0).railOn = false := by
  obtain ⟨is, his⟩ := d.dies_cons
  rw [Dev.diesOff, his, List.foldl_cons]
  exact foldl_preserves (fun e : Dev => (e.die 0).railOn = false) _ (fun e i he => e.rail_dieOff i 0 (.inr he)) is _
    (d.rail_dieOff 0 0 (.inl rfl))

/-- The device with the dies off and the contexts of every network bound again. -/
def Dev.diesOffBound (d : Dev) : Dev :=
  (allNets.filter (fun n => !(d.partsOfNet n).isEmpty)).foldl (fun d n => d.bindNet n) d.diesOff
theorem Dev.standing_diesOffBound (d : Dev) : d.diesOffBound.standing = d.diesOff.standing := by
  simp [Dev.diesOffBound]
theorem Dev.standbyNow_eq (d : Dev) : d.standbyNow = { d.diesOffBound with
    chans := (List.range (if d.diesOffBound.die1 then 192 else 96)).foldl
      (fun t i => tblMod {} t i (fun c => { c with selfRefresh := true })) d.diesOffBound.chans } := by rfl
/-- Package standby keeps the base but for the dies. -/
theorem Dev.base_standbyNow (d : Dev) : ∃ t, d.standbyNow.standing.toBase = { d.standing.toBase with dies := t } := by
  obtain ⟨t, ht⟩ := d.base_diesOff
  refine ⟨t, ?_⟩
  have hchans : d.standbyNow.standing.toBase = d.diesOffBound.standing.toBase := by rw [d.standbyNow_eq]; rfl
  rw [hchans, base_of_standing d.standing_diesOffBound, ht]
theorem Dev.rail_standbyNow (d : Dev) : (d.standbyNow.die 0).railOn = false := by
  have hdie : d.standbyNow.die 0 = d.diesOffBound.die 0 := by rw [d.standbyNow_eq]; rfl
  rw [hdie, die_of_base (base_of_standing d.standing_diesOffBound)]
  exact d.rail_diesOff

/-- Every listed entry of a table that is changed entry by entry reads as changed. -/
theorem tblGet_foldl_mod {α : Type} [DecidableEq α] (P : α → Prop) (d : α) (f : α → α) (hf : ∀ a, P (f a)) {n : Nat} (is : List Nat)
    (hn : n ∈ is) (t : Tbl α) : P (tblGet d (is.foldl (fun t i => tblMod d t i f) t) n) := by
  have hkeep (t : Tbl α) (i : Nat) (h : P (tblGet d t n)) : P (tblGet d (tblMod d t i f) n) := by
    by_cases hi : i = n
    · rw [hi, tblGet_mod_same]; exact hf _
    · rw [tblGet_mod_other d t f hi]; exact h
  induction is generalizing t with
  | nil => exact absurd hn List.not_mem_nil
  | cons i is ih =>
    rw [List.foldl_cons]
    obtain rfl | his := List.mem_cons.1 hn
    · exact foldl_preserves (fun t : Tbl α => P (tblGet d t n)) _ hkeep is _ (by rw [tblGet_mod_same]; exact hf _)
    · exact ih his _
theorem Dev.refresh_standbyNow (d : Dev) (i : Nat) (hi : i < 96) : (d.standbyNow.chan i).selfRefresh = true := by
  rw [d.standbyNow_eq]
  refine tblGet_foldl_mod (fun c : Channel => c.selfRefresh = true) {} _ (fun _ => rfl) _ (List.mem_range.2 ?_) _
  split <;> omega

/-! ## Deep standby -/

/-- Deep standby before its registers: package standby with the rings and every link down. -/
def Dev.deepLinks (d : Dev) : Dev := (d.standbyNow.psramRest.ringsDown).linksDown
theorem Dev.deepNow_eq (d : Dev) : ∃ ds, d.deepNow = { d.deepLinks with
    psram := if d.pwr.psret then d.deepLinks.psram else [], route := { d.deepLinks.route with index := [] },
    pins := { d.deepLinks.pins with
      rails := d.deepLinks.pins.rails &&& ~~~((if d.pwr.psret then 0xC#4 else 0xF#4) &&& d.deepLinks.pins.pmbTargets) },
    doms := ds } := ⟨_, rfl⟩
theorem psram_linksDown (d : Dev) : d.linksDown.psram = d.psram := congrArg (fun x : Standing => x.psram) (onlyLanes_linksDown d)
theorem pins_linksDown (d : Dev) : d.linksDown.pins = d.pins := congrArg (fun x : Standing => x.pins) (onlyLanes_linksDown d)
theorem Dev.psram_quiet (d : Dev) : d.psramRest.ringsDown.psram = d.psram := rfl
theorem Dev.pins_quiet (d : Dev) : d.psramRest.ringsDown.pins = d.pins := rfl
/-- What deep standby does. -/
theorem Dev.deepNow_effect (d : Dev) : (d.deepNow.die 0).railOn = false ∧ d.deepNow.route.index = [] ∧
    d.deepNow.pins.rails = d.pins.rails &&& ~~~((if d.pwr.psret then 0xC#4 else 0xF#4) &&& d.pins.pmbTargets) ∧
    d.deepNow.psram = (if d.pwr.psret then d.psram else []) ∧ (∀ l, (d.deepNow.lane l).link = false) := by
  obtain ⟨ds, heq⟩ := d.deepNow_eq
  obtain ⟨t, hbase⟩ := d.base_standbyNow
  have hpsram : d.deepLinks.psram = d.psram := by
    rw [Dev.deepLinks, psram_linksDown, Dev.psram_quiet]
    exact congrArg Base.psram hbase
  have hpins : d.deepLinks.pins = d.pins := by
    rw [Dev.deepLinks, pins_linksDown, Dev.pins_quiet]
    exact congrArg Base.pins hbase
  have hrail : (d.deepLinks.die 0).railOn = false := by
    rw [Dev.deepLinks, die_linksDown, Dev.die_quiet]
    exact d.rail_standbyNow
  have hlink (l : PartId) : (d.deepLinks.lane l).link = false := Dev.link_linksDown _ l
  rw [heq]
  generalize d.deepLinks = e at *
  exact ⟨hrail, rfl, by rw [hpins], by rw [hpsram], hlink⟩

end Sys2Proof.Machine
end

section
/-! SUPPORT. The power commands and states (R494 to R499). -/
namespace Sys2Proof.Machine

open Sys2Proof

/-! ## The networks drain -/

theorem Dev.modParts_frame (d : Dev) (ps : List PartId) (f : Partition → Partition) :
    d.modParts ps f = { d with parts := (d.modParts ps f).parts } := by
  refine foldl_preserves (fun e : Dev => e = { d with parts := e.parts }) _ (fun e p he => ?_) ps d rfl
  dsimp only [Dev.modPart]
  conv => lhs; rw [he]
/-- A network as it drains for standby. -/
def Network.drainsNow (x : Network) : Network := { x.close with drain := some .standby, drainTag := none }
/-- A network recorded to be cast again at wake. -/
def Network.recorded (x : Network) : Network := { x with recordAtStandby := true }
/-- One network drains for standby. -/
def Dev.drainNet (d : Dev) (n : NetId) : Dev := (d.startDrain n .standby none).modNet n Network.recorded
theorem Dev.drainNet_eq (d : Dev) (n : NetId) :
    ∃ t, d.drainNet n = { (d.modNet n Network.drainsNow).modNet n Network.recorded with parts := t } := by
  refine ⟨(d.drainNet n).parts, ?_⟩
  dsimp only [Dev.drainNet, Dev.startDrain]
  rw [Dev.modParts_frame]
  rfl
theorem Dev.net_drainNet (d : Dev) (b n : NetId) :
    (d.drainNet b).net n = if b = n then (d.net b).drainsNow.recorded else d.net n := by
  have hmod : ((d.modNet b Network.drainsNow).modNet b Network.recorded).net n =
      if b = n then (d.net b).drainsNow.recorded else d.net n := by
    rw [Dev.net_modNet, Dev.net_modNet_same, Dev.net_modNet]
    split <;> rfl
  obtain ⟨t, ht⟩ := d.drainNet_eq b
  rw [ht]
  exact hmod
theorem Dev.drainAll_frame (d : Dev) : d.drainAll = { d with nets := d.drainAll.nets, parts := d.drainAll.parts } := by
  refine foldl_preserves (fun e : Dev => e = { d with nets := e.nets, parts := e.parts }) _ (fun e n he => ?_) _ d rfl
  obtain ⟨t, ht⟩ := e.drainNet_eq n
  have hstep : e.drainNet n = { d with nets := (e.drainNet n).nets, parts := (e.drainNet n).parts } := by
    rw [ht]
    dsimp only [Dev.modNet]
    conv => lhs; rw [he]
  exact hstep
/-- A network that drains for standby, admission stopped. -/
def Network.standsBy (x : Network) : Prop := x.drain = some .standby ∧ x.recordAtStandby = true ∧ x.open_ = false
theorem Dev.standsBy_foldl {n : NetId} (ns : List NetId) (d : Dev) (h : n ∈ ns ∨ (d.net n).standsBy) :
    ((ns.foldl Dev.drainNet d).net n).standsBy := by
  induction ns generalizing d with
  | nil => simpa using h
  | cons b ns ih =>
    refine ih _ ?_
    rw [Dev.net_drainNet]
    by_cases hb : b = n
    · rw [if_pos hb]; exact .inr ⟨rfl, rfl, rfl⟩
    · rw [if_neg hb]; exact h.imp_left (fun hm => (List.mem_cons.1 hm).resolve_left (Ne.symm hb))
theorem mem_allNets : ∀ n : NetId, n ∈ allNets := by decide
/-- Every cast network that drained for nothing drains for standby. -/
theorem Dev.net_drainAll (d : Dev) (n : NetId) (hc : d.isCast n = true) (hd : (d.net n).drain = none) : (d.drainAll.net n).standsBy :=
  Dev.standsBy_foldl _ d (.inl (List.mem_filter.2 ⟨mem_allNets n, by simp [hc, hd]⟩))

/-! ## Package commands -/

/-- The device as an accepted power command leaves it, before its networks drain. -/
def Dev.entering (d : Dev) (st : PwrState) (keep : Bool) : Dev :=
  { d with evt := d.hostWrote.evt, card := d.hostWrote.card, pwr := { d.pwr with armed := false, state := st, psret := keep } }
theorem powerCmd_runs (d : Dev) (st : PwrState) (keep : Bool) (ha : d.pwr.armed = true) (hr : d.runningNow = true) :
    d.hostWrote.powerCmd st keep = (d.entering st keep).drainAll := by
  have h : ¬ ((!d.pwr.armed || !d.runningNow) = true) := by simp [ha, hr]
  exact if_neg h
theorem powerCmd_ignored (d : Dev) (st : PwrState) (keep : Bool) (h : d.pwr.armed = false ∨ d.runningNow = false) :
    d.hostWrote.powerCmd st keep = d.commanded.rstReject := by
  have hno : (!d.pwr.armed || !d.runningNow) = true := by obtain h | h := h <;> simp [h]
  exact if_pos hno
/-- The three power commands. -/
theorem exec_powerCmd {s : State} {i : Instr} {st : PwrState} {keep : Bool} (hb : s.bus = true) (hf : s.dev.pwr.fwUp = true)
    (hi : i = .packageStandby ∧ st = .enterStandby ∧ keep = false ∨ i = .deepStandby ∧ st = .enterDeep ∧ keep = false ∨
      i = .deepStandbyRetained ∧ st = .enterDeep ∧ keep = true) :
    exec i s = .next { s with dev := s.dev.hostWrote.powerCmd st keep } := by
  obtain ⟨rfl, rfl, rfl⟩ | ⟨rfl, rfl, rfl⟩ | ⟨rfl, rfl, rfl⟩ := hi <;>
    exact congrArg Host.Outcome.next (hostWritePwr_answers hb hf _)

/-! ## Entry and wake -/

section
variable {d : Dev} (hi : ∀ n, (d.net n).drain = none ∧ (d.net n).casting = none)
  (hr : ∀ n, d.isCast n = true → (d.net n).recordAtStandby = true)
include hi hr
/-- With every network drained and recorded the state commanded is entered. -/
theorem powerEntered_drained : powerEntered d = match d.pwr.state with
    | .enterStandby => d.standbyNow.modPwr (fun w => { w with state := .standby, ready := false })
    | .enterDeep => d.deepNow.modPwr (fun w => { w with state := .deep, ready := false })
    | _ => d := by
  have hidle : allNets.any (fun n => (d.net n).drain.isSome || (d.net n).casting.isSome) = false := by simp [hi]
  have hrecorded : allNets.any (fun n => d.isCast n && !(d.net n).recordAtStandby) = false := by
    simp only [List.any_eq_false, Bool.and_eq_true, Bool.not_eq_true', not_and, Bool.not_eq_false]
    exact fun n _ hc => hr n hc
  unfold powerEntered
  rw [hidle, hrecorded]
  rfl
end

theorem Dev.die_wakeNow (d : Dev) : (d.wakeNow.die 0).railOn = true := by
  have hfold (is : List Nat) (e : Dev) (h : 0 ∈ is ∨ (e.die 0).railOn = true) :
      ((is.foldl (fun d i => d.modDie i (fun x => { x with railOn := true, inReset := false })) e).die 0).railOn = true := by
    induction is generalizing e with
    | nil => simpa using h
    | cons i is ih =>
      refine ih _ ?_
      rw [Dev.die_modDie]
      by_cases h0 : i = 0
      · rw [if_pos h0]; exact .inr rfl
      · rw [if_neg h0]; exact h.imp_left (fun hm => (List.mem_cons.1 hm).resolve_left (Ne.symm h0))
  obtain ⟨is, his⟩ := d.dies_cons
  exact hfold d.dies_ d (.inl (by rw [his]; exact List.mem_cons_self))

end Sys2Proof.Machine
end

section
/-! SUPPORT. Partition power (R495, R496), and the power states as a whole. -/
namespace Sys2Proof.Machine

open Sys2Proof

/-! ## Partition power commands -/

/-- The device with the power state of a partition requested. -/
def Dev.requested (d : Dev) (p : PartId) (pw : PPower) (req : BitVec 2) : Dev :=
  d.modPart p (fun x => { x with powerTo := some pw, pwrReq := req })
theorem Dev.part_requested (d : Dev) (p : PartId) (pw : PPower) (req : BitVec 2) :
    (d.requested p pw req).part p = { d.part p with powerTo := some pw, pwrReq := req } := Dev.part_modPart_same _ _ _
theorem Dev.part_requested_other (d : Dev) {p x : PartId} (hx : x ≠ p) (pw : PPower) (req : BitVec 2) :
    (d.requested p pw req).part x = d.part x := (Dev.part_modPart d p x _).trans (if_neg (Ne.symm hx))

section
variable (p : PartId) (d : Dev)
theorem pwrRetention_eq (hon : (d.part p).power = .on) (hto : (d.part p).powerTo = none) : pwrRetention p d =
    if (d.part p).cast = .stopped ∧ (d.part p).inReset = false ∧ (d.net (d.part p).net).drain = none then d.requested p .retention 1#2
    else d.rstReject := by
  simp [pwrRetention, Dev.requested, hon, hto, and_assoc]
theorem pwrOff_eq (hon : (d.part p).power = .on) (hto : (d.part p).powerTo = none) : pwrOff p d =
    if ((d.part p).cast = .uncast ∨ (d.part p).cast = .heldAbort) ∧ (d.net (d.part p).net).casting = none then d.requested p .off 2#2
    else d.rstReject := by
  simp [pwrOff, Dev.requested, hon, hto]
theorem pwrOn_eq (hon : (d.part p).power ≠ .on) (hto : (d.part p).powerTo = none) : pwrOn p d =
    { d.requested p .on 0#2 with doms := tblMod {} d.doms p.toNat (fun m => { m with gated := false, powered := true }) } := by
  simp [pwrOn, Dev.requested, hon, hto]
end

theorem Dev.rstReject_hostWrote (d : Dev) : d.hostWrote.rstReject =
    { d with evt := d.hostWrote.evt, card := d.hostWrote.card, pwr := { d.pwr with rej := satInc d.pwr.rej } } := by rfl
theorem rejected_effect (s : State) (p : PartId) : coresQueuesKept s { s with dev := s.dev.hostWrote.rstReject } ∧
    s.dev.hostWrote.rstReject.part p = s.dev.part p ∧ s.dev.hostWrote.rstReject.pwr = { s.dev.pwr with rej := satInc s.dev.pwr.rej } := by
  rw [Dev.rstReject_hostWrote]
  exact ⟨⟨rfl, rfl, rfl⟩, rfl, rfl⟩

section
variable {s : State} {p : PartId} (h : hostRuns s) (hp : s.dev.diePresent (dieOfPart p) = true)
include h hp
theorem exec_pPwrRetention : exec (.pPwrRetention p) s = .next { s with dev := pwrRetention p s.dev.hostWrote } :=
  congrArg Host.Outcome.next (hostWritePart_runs h hp (pwrRetention p))
theorem exec_pPwrOff : exec (.pPwrOff p) s = .next { s with dev := pwrOff p s.dev.hostWrote } :=
  congrArg Host.Outcome.next (hostWritePart_runs h hp (pwrOff p))
theorem exec_pPwrOn : exec (.pPwrOn p) s = .next { s with dev := pwrOn p s.dev.hostWrote } :=
  congrArg Host.Outcome.next (hostWritePart_runs h hp (pwrOn p))


section
variable (hon : (s.dev.part p).power = .on) (hto : (s.dev.part p).powerTo = none)
include hon hto
theorem pPwrRetention_effect : ∃ t, exec (.pPwrRetention p) s = .next t ∧ coresQueuesKept s t ∧
    ((s.dev.part p).cast = .stopped → (s.dev.part p).inReset = false → (s.dev.net (s.dev.part p).net).drain = none →
      t.dev.part p = { s.dev.part p with powerTo := some .retention, pwrReq := 1#2 }) ∧
    ((s.dev.part p).cast ≠ .stopped → t.dev.part p = s.dev.part p ∧ t.dev.pwr = { s.dev.pwr with rej := satInc s.dev.pwr.rej }) := by
  refine ⟨_, exec_pPwrRetention h hp, ?_⟩
  rw [pwrRetention_eq p s.dev.hostWrote hon hto]
  split
  · next hc => exact ⟨⟨rfl, rfl, rfl⟩, fun _ _ _ => Dev.part_requested _ p _ _, fun hn => absurd hc.1 hn⟩
  · next hc =>
    obtain ⟨hkept, hrej⟩ := rejected_effect s p
    exact ⟨hkept, fun h1 h2 h3 => absurd ⟨h1, h2, h3⟩ hc, fun _ => hrej⟩
theorem pPwrOff_effect : ∃ t, exec (.pPwrOff p) s = .next t ∧ coresQueuesKept s t ∧
    ((s.dev.part p).cast = .uncast ∨ (s.dev.part p).cast = .heldAbort → (s.dev.net (s.dev.part p).net).casting = none →
      t.dev.part p = { s.dev.part p with powerTo := some .off, pwrReq := 2#2 }) ∧
    ((s.dev.part p).cast ≠ .uncast → (s.dev.part p).cast ≠ .heldAbort →
      t.dev.part p = s.dev.part p ∧ t.dev.pwr = { s.dev.pwr with rej := satInc s.dev.pwr.rej }) := by
  refine ⟨_, exec_pPwrOff h hp, ?_⟩
  rw [pwrOff_eq p s.dev.hostWrote hon hto]
  split
  · next hc => exact ⟨⟨rfl, rfl, rfl⟩, fun _ _ => Dev.part_requested _ p _ _, fun h1 h2 => absurd hc.1 (not_or.2 ⟨h1, h2⟩)⟩
  · next hc =>
    obtain ⟨hkept, hrej⟩ := rejected_effect s p
    exact ⟨hkept, fun h1 h2 => absurd ⟨h1, h2⟩ hc, fun _ _ => hrej⟩
end
theorem pPwrOn_effect (hon : (s.dev.part p).power ≠ .on) (hto : (s.dev.part p).powerTo = none) :
    ∃ t, exec (.pPwrOn p) s = .next t ∧ t.dev.part p = { s.dev.part p with powerTo := some .on, pwrReq := 0#2 } ∧
      (∀ x, x ≠ p → t.dev.part x = s.dev.part x) ∧ coresQueuesKept s t := by
  refine ⟨_, exec_pPwrOn h hp, ?_⟩
  rw [pwrOn_eq p s.dev.hostWrote hon hto]
  refine ⟨Dev.part_requested s.dev.hostWrote p _ _, fun x hx => ?_, rfl, rfl, rfl⟩
  exact Dev.part_requested_other s.dev.hostWrote hx _ _
end

/-! ## Transitions that end -/

/-- A partition in retention: its boundary shut, its entry counted. -/
def Partition.retained (x : Partition) : Partition :=
  { x with power := .retention, powerTo := none, shut := true, scrubbing := false, retEntries := satInc x.retEntries }
theorem powerDone_retention (p : PartId) (d : Dev) (hto : (d.part p).powerTo = some .retention) :
    ∃ ds, powerDone p d = { (d.modPart p Partition.retained).boundaryDown p with doms := ds } := by
  unfold powerDone
  rw [hto]
  exact ⟨_, rfl⟩
/-- A partition that is off keeps no region. -/
def Partition.poweredOff (x : Partition) : Partition := { x with power := .off, powerTo := none, regions := [] }
theorem powerDone_off (p : PartId) (d : Dev) (hto : (d.part p).powerTo = some .off) :
    ∃ n ds, powerDone p d = { ((d.forgetPart p).modPart p Partition.poweredOff).bindNet n with doms := ds } := by
  unfold powerDone
  rw [hto]
  exact ⟨_, _, rfl⟩
/-- A partition back from off takes a brown-out warning in force (R48). -/
def Partition.poweredOn (warn : Bool) (x : Partition) : Partition :=
  ({ x with power := .on, powerTo := none, bow := warn } : Partition).request
theorem powerDone_on (p : PartId) (d : Dev) (hto : (d.part p).powerTo = some .on) (hoff : (d.part p).power = .off) :
    powerDone p d = d.modPart p (Partition.poweredOn (d.die (dieOfPart p)).warn) := by
  unfold powerDone
  rw [hto, hoff]
  rfl

theorem powerDone_retention_effect (p : PartId) (d : Dev) (hto : (d.part p).powerTo = some .retention) :
    ((powerDone p d).part p).power = .retention ∧ ((powerDone p d).part p).powerTo = none ∧ ((powerDone p d).part p).shut = true ∧
      ((powerDone p d).part p).retEntries = satInc (d.part p).retEntries ∧ ((powerDone p d).part p).cast = (d.part p).cast := by
  obtain ⟨ds, heq⟩ := powerDone_retention p d hto
  have hstanding := Dev.standing_boundaryDown (d.modPart p Partition.retained) p
  have hpart : (d.modPart p Partition.retained).part p = (d.part p).retained := Dev.part_modPart_same _ _ _
  have hservice := service_of_standing hstanding p
  have hpower := power_of_ground (ground_of_standing hstanding) p
  rw [hpart] at hservice hpower
  rw [heq]
  generalize (d.modPart p Partition.retained).boundaryDown p = e at *
  exact ⟨hpower, congrArg Service.powerTo hservice, congrArg Service.shut hservice, congrArg Service.retEntries hservice,
    congrArg Service.cast hservice⟩
theorem powerDone_off_effect (p : PartId) (d : Dev) (hto : (d.part p).powerTo = some .off) :
    ((powerDone p d).part p).power = .off ∧ ((powerDone p d).part p).powerTo = none ∧ ((powerDone p d).part p).cast = .uncast ∧
      ((powerDone p d).part p).regions = [] ∧ (powerDone p d).psram = d.psram := by
  obtain ⟨n, ds, heq⟩ := powerDone_off p d hto
  have hforget := castsNothing_forgetPart d p
  have hcast : ((d.forgetPart p).part p).cast = .uncast :=
    (cast_of_standing (Dev.standing_forgetSel (d.uncastPart p) p) p).trans (d.cast_uncastPart p)
  have hpsram : (d.forgetPart p).psram = d.psram := psram_of_base (base_of_ground hforget.ground)
  rw [heq]
  generalize d.forgetPart p = e at *
  have hstanding := Dev.standing_bindNet (e.modPart p Partition.poweredOff) n
  have hpart : (e.modPart p Partition.poweredOff).part p = (e.part p).poweredOff := Dev.part_modPart_same _ _ _
  have hservice := service_of_standing hstanding p
  have hplant := plant_of_ground (ground_of_standing hstanding) p
  have hmem : ((e.modPart p Partition.poweredOff).bindNet n).psram = (e.modPart p Partition.poweredOff).psram :=
    psram_of_base (base_of_standing hstanding)
  rw [hpart] at hservice hplant
  generalize (e.modPart p Partition.poweredOff).bindNet n = f at *
  exact ⟨congrArg Plant.power hplant, congrArg Service.powerTo hservice, (congrArg Service.cast hservice).trans hcast,
    congrArg Plant.regions hplant, hmem.trans hpsram⟩

/-- A partition back from retention. -/
def Partition.exited (warn ok : Bool) (x : Partition) : Partition :=
  ({ x with power := .on, powerTo := none, checkFail := !ok, bow := x.bow || warn } : Partition).request
/-- A partition held because its retention was not what it had been (assumption 123). -/
def Partition.heldAtExit (p : PartId) (x : Partition) : Partition :=
  { x with cast := .heldAbort, castErr := castCode 109, castStep := 9#4, castRes := arg32 p }
theorem retentionExit_eq (p : PartId) (ok : Bool) (d : Dev) (hto : (d.part p).powerTo = some .on) (hr : (d.part p).power = .retention) :
    retentionExit p ok d = if ok then d.modPart p (Partition.exited (d.die (dieOfPart p)).warn ok)
      else ((d.modPart p (Partition.exited (d.die (dieOfPart p)).warn ok)).modPart p (Partition.heldAtExit p)).raise 0x5002#16 p
        [9#32, arg32 (castCode 109), arg32 p, d.health.mapgen] := by
  have h : ¬ (((d.part p).powerTo != some .on || (d.part p).power != .retention) = true) := by simp [hto, hr]
  exact if_neg h

theorem retentionExit_effect (p : PartId) (ok : Bool) (d : Dev) (hto : (d.part p).powerTo = some .on) (hr : (d.part p).power = .retention) :
    ((retentionExit p ok d).part p).power = .on ∧ ((retentionExit p ok d).part p).powerTo = none ∧
      ((retentionExit p ok d).part p).checkFail = (!ok) ∧
      ((retentionExit p ok d).part p).bow = ((d.part p).bow || (d.die (dieOfPart p)).warn) ∧
      (ok = true → ((retentionExit p ok d).part p).cast = (d.part p).cast) ∧
      (ok = false → ((retentionExit p ok d).part p).cast = .heldAbort ∧ ((retentionExit p ok d).part p).castStep = 9#4) ∧
      (retentionExit p ok d).cores = d.cores ∧ (retentionExit p ok d).queues = d.queues ∧ (retentionExit p ok d).psram = d.psram := by
  rw [retentionExit_eq p ok d hto hr]
  have hexit : (d.modPart p (Partition.exited (d.die (dieOfPart p)).warn ok)).part p =
      (d.part p).exited (d.die (dieOfPart p)).warn ok := Dev.part_modPart_same _ _ _
  cases ok
  · have hheld : ((d.modPart p (Partition.exited (d.die (dieOfPart p)).warn false)).modPart p (Partition.heldAtExit p)).part p =
        ((d.part p).exited (d.die (dieOfPart p)).warn false).heldAtExit p := by rw [Dev.part_modPart_same, hexit]
    rw [if_neg (by decide), Dev.raise_part_other, hheld]
    exact ⟨rfl, rfl, rfl, rfl, nofun, fun _ => ⟨rfl, rfl⟩, by simp, by simp, by simp⟩
  · rw [if_pos rfl, hexit]
    exact ⟨rfl, rfl, rfl, rfl, fun _ => rfl, nofun, rfl, rfl, rfl⟩

/-! ## WAKE -/

theorem wake_standby (d : Dev) (hst : d.pwr.state = .standby) (hl : d.pll.lossOn = false) : wake d.hostWrote = d.hostWrote.wakeNow := by
  simp [wake, hst, hl]
theorem wake_standby_lossOn (d : Dev) (hst : d.pwr.state = .standby) (hl : d.pll.lossOn = true) :
    wake d.hostWrote = d.hostWrote.rstReject := by
  simp [wake, hst, hl]
theorem wake_deep (d : Dev) (hst : d.pwr.state = .deep) :
    wake d.hostWrote = (d.hostWrote.warmReset 0#3).modPwr (fun w => { w with fullTrain := !d.pwr.psret }) := by
  simp [wake, hst]
/-- The waking of the dies leaves the memory. -/
theorem Dev.psram_wakeNow (d : Dev) : d.wakeNow.psram = d.psram := by
  have hdies : (d.dies_.foldl (fun d i => d.modDie i (fun x => { x with railOn := true, inReset := false })) d).psram = d.psram := by
    refine foldl_keeps Dev.psram _ (fun _ _ => ?_) _ d
    rfl
  exact hdies
/-- WAKE in either standby state, outside a loss of the root clock. -/
theorem wake_effect (d : Dev) (h : d.pwr.state = .standby ∧ d.pll.lossOn = false ∨ d.pwr.state = .deep) :
    (wake d.hostWrote).psram = d.psram ∧
      (d.pwr.state = .standby → (wake d.hostWrote).pwr.state = .waking ∧ (wake d.hostWrote).pwr.stage = 4#4 ∧
        ((wake d.hostWrote).die 0).railOn = true) ∧
      (d.pwr.state = .deep → (wake d.hostWrote).pwr.stage = 1#4 ∧ (wake d.hostWrote).pwr.warmCnt = satInc d.pwr.warmCnt ∧
        (wake d.hostWrote).pwr.state = .running ∧ (wake d.hostWrote).pwr.fullTrain = !d.pwr.psret) := by
  obtain ⟨hst, hl⟩ | hst := h
  · rw [wake_standby d hst hl, hst]
    exact ⟨Dev.psram_wakeNow _, fun _ => ⟨rfl, rfl, Dev.die_wakeNow _⟩, nofun⟩
  · rw [wake_deep d hst, hst]
    exact ⟨rfl, nofun, fun _ => ⟨rfl, rfl, rfl, rfl⟩⟩

/-- Settles O48: package states by what powering off a die keeps, partition states by what an uncast keeps. -/
theorem powerStates : Obligations.PowerStates := by
  unfold Obligations.PowerStates
  refine ⟨fun s i st keep hb hf hi ha hr => ?_, fun s hi hr => ⟨fun hst => ?_, fun hst _ => ?_⟩, fun s hb hf hst => ?_,
    fun s p h hp hon hto => ⟨pPwrRetention_effect h hp hon hto, pPwrOff_effect h hp hon hto⟩,
    fun s p h hp hon hto => pPwrOn_effect h hp hon hto,
    fun s p => ⟨fun hto => ?_, fun hto => ⟨_, rfl, powerDone_off_effect p s.dev hto⟩, fun hto hoff => ?_⟩, fun s p ok hto hr => ?_,
    fun s i hb hf hi h => ?_, fun s hb hf hst hl => ?_⟩
  · refine ⟨_, exec_powerCmd hb hf hi, ?_⟩
    rw [powerCmd_runs s.dev st keep ha hr]
    refine ⟨?_, rfl, ⟨?_, ?_, ?_⟩, ?_, ?_, fun n hc hd => Dev.net_drainAll (s.dev.entering st keep) n hc hd⟩ <;>
      (rw [Dev.drainAll_frame]; rfl)
  · refine ⟨_, rfl, ?_⟩
    rw [powerEntered_drained hi hr, hst]
    obtain ⟨t, hbase⟩ := s.dev.base_standbyNow
    exact ⟨rfl, rfl, s.dev.rail_standbyNow, s.dev.refresh_standbyNow, congrArg Base.psram hbase, rfl⟩
  · refine ⟨_, rfl, ?_⟩
    rw [powerEntered_drained hi hr, hst]
    obtain ⟨hrail, hindex, hpins, hpsram, hlink⟩ := s.dev.deepNow_effect
    generalize s.dev.deepNow = e at *
    exact ⟨rfl, hrail, hindex, hpins, hpsram, hlink, rfl⟩
  · exact ⟨_, congrArg Host.Outcome.next (hostWritePwr_answers hb hf wake), wake_effect s.dev hst⟩
  · obtain ⟨hpower, hto, hshut, hentries, hcast⟩ := powerDone_retention_effect p s.dev hto
    exact ⟨_, rfl, hpower, hto, hshut, hentries, hcast, rfl⟩
  · refine ⟨_, rfl, ?_⟩
    rw [powerDone_on p s.dev hto hoff]
    have hpart := Dev.part_modPart_same s.dev p (Partition.poweredOn (s.dev.die (dieOfPart p)).warn)
    refine ⟨⟨rfl, fun x hx => ?_⟩, ?_⟩
    · exact (Dev.part_modPart s.dev p x _).trans (if_neg (Ne.symm hx))
    · dsimp only; rw [hpart]; exact ⟨rfl, rfl, rfl, rfl⟩
  · exact ⟨_, rfl, retentionExit_effect p ok s.dev hto hr⟩
  · have hcmd : ∃ st keep, i = .packageStandby ∧ st = PwrState.enterStandby ∧ keep = false ∨
        i = .deepStandby ∧ st = .enterDeep ∧ keep = false ∨ i = .deepStandbyRetained ∧ st = .enterDeep ∧ keep = true := by
      obtain hi | hi | hi := hi <;> simp [hi]
    obtain ⟨st, keep, hcmd⟩ := hcmd
    refine ⟨_, exec_powerCmd hb hf hcmd, ?_⟩
    rw [powerCmd_ignored s.dev st keep h]
    rfl
  · refine ⟨_, congrArg Host.Outcome.next (hostWritePwr_answers hb hf wake), ?_⟩
    rw [wake_standby_lossOn s.dev hst hl, Dev.rstReject_hostWrote]
    exact ⟨rfl, rfl, rfl, rfl, rfl⟩

end Sys2Proof.Machine
end

section
/-! SUPPORT. A queue through a producer's word (R204, R215): credits in hand, the word's place, and what receivers and the
spill ring leave of it. -/
namespace Sys2Proof.Machine

open Sys2Proof

/-! ## Credits in hand -/

/-- Credits of a port in hand, on chip and for the stager. -/
def Queue.hand (q : Queue) (p : Nat) : Nat × Nat := ((q.prod p).credits, (q.prod p).scredits)

section
variable (q : Queue) (p : Nat)
theorem Queue.prod_modProd_same (f : Prod → Prod) : (q.modProd p f).prod p = f (q.prod p) := tblGet_mod_same ({} : Prod) q.prods p f
theorem Queue.hand_modProd (f : Prod → Prod) (h : ∀ x, (f x).credits = x.credits ∧ (f x).scredits = x.scredits) :
    (q.modProd p f).hand p = q.hand p := by
  unfold Queue.hand
  rw [Queue.prod_modProd_same, (h _).1, (h _).2]
theorem Queue.hand_of_prods {a b : Queue} (h : a.prods = b.prods) : a.hand p = b.hand p := by
  simp only [Queue.hand, Queue.prod, h]
theorem Queue.hasCredit_of_hand {a b : Queue} (h : a.hand p = b.hand p) : a.hasCredit p = b.hasCredit p :=
  congrArg (fun x : Nat × Nat => x.1 + x.2 != 0) h
@[simp] theorem Queue.prods_append (b : Bool) (cs : List (Option QWord)) : (q.append b cs).prods = q.prods := by
  unfold Queue.append
  split <;> rfl
@[simp] theorem Queue.prods_fillLen (w : QWord) : (q.fillLen w).prods = q.prods := by
  dsimp only [Queue.fillLen]
  split
  · rfl
  · split
    · rfl
    · split <;> rfl

theorem Queue.hand_closeBad (arm : Bool) : (q.closeBad p arm).hand p = q.hand p := by
  dsimp only [Queue.closeBad]
  split
  · rfl
  · have hclose (a : Queue) (n : W16) (ha : a.prods = q.prods) :
        ({ a.modProd p (fun x => { x with inPkt := false, pktLen := 0, open_ := [], discard := arm }) with badpkt := n } : Queue).hand p =
          q.hand p :=
      (Queue.hand_modProd a p (fun x => { x with inPkt := false, pktLen := 0, open_ := [], discard := arm }) (fun _ => ⟨rfl, rfl⟩)).trans
        (Queue.hand_of_prods p ha)
    split
    · exact hclose _ _ (Queue.prods_fillLen _ _)
    · exact hclose _ _ rfl
theorem Queue.hand_putLen (st : Bool) (w : QWord) : (q.putLen p st w).hand p = q.hand p := by
  have hword (a : Queue) (n : Nat) (ha : a.prods = q.prods) :
      ((a.append st [some w]).modProd p (fun x => { x with inPkt := true, pktLen := n })).hand p = q.hand p := by
    refine (Queue.hand_modProd _ p _ ?_).trans (Queue.hand_of_prods p ((Queue.prods_append _ _ _).trans ha))
    exact fun _ => ⟨rfl, rfl⟩
  have hopen (a : Queue) (c : Bool) (ls : Option W32) (ha : a.prods = q.prods) :
      (if c then a else ({ a with lenSlot := ls } : Queue).append st [none]).prods = q.prods := by
    cases c
    · exact (Queue.prods_append _ _ _).trans ha
    · exact ha
  unfold Queue.putLen
  dsimp only
  split
  · exact Queue.hand_modProd _ _ _ (fun _ => ⟨rfl, rfl⟩)
  · split
    · split
      · exact Queue.hand_closeBad _ _ _
      · rfl
    · split
      · refine (Queue.hand_modProd _ p _ ?_).trans ((Queue.hand_of_prods p (Queue.prods_fillLen _ _)).trans
          (hword _ _ (hopen q _ _ rfl)))
        exact fun _ => ⟨rfl, rfl⟩
      · exact hword _ _ (hopen q _ _ rfl)
theorem Queue.hand_putCommit (w : QWord) : (q.putCommit p w).hand p = q.hand p := by
  unfold Queue.putCommit
  dsimp only
  split
  · exact Queue.hand_modProd _ _ _ (fun _ => ⟨rfl, rfl⟩)
  · split
    · exact Queue.hand_closeBad _ _ _
    · split
      · refine (Queue.hand_modProd _ p _ ?_).trans (Queue.hand_of_prods p (Queue.prods_append _ _ _))
        exact fun _ => ⟨rfl, rfl⟩
      · exact Queue.hand_modProd _ _ _ (fun _ => ⟨rfl, rfl⟩)
theorem Queue.hand_putSlotMarker (s : SlotImg) (w : QWord) : (q.putSlotMarker s p w).hand p = q.hand p := by
  have hmod : (q.modProd p (fun x => { x with slotFrame := (q.prod p).slotFrame + 1, slotWord := 0 })).hand p = q.hand p :=
    Queue.hand_modProd _ _ _ (fun _ => ⟨rfl, rfl⟩)
  unfold Queue.putSlotMarker
  dsimp only
  split
  · exact hmod
  · split
    · split
      · exact hmod
      · exact hmod
    · exact hmod
theorem Queue.hand_putSlotWord (s : SlotImg) (w : QWord) : (q.putSlotWord s p w).hand p = q.hand p := by
  have hmod (n : Nat) : (q.modProd p (fun x => { x with slotWord := n })).hand p = q.hand p :=
    Queue.hand_modProd _ _ _ (fun _ => ⟨rfl, rfl⟩)
  unfold Queue.putSlotWord
  dsimp only
  split
  · rfl
  · split
    · exact hmod _
    · exact hmod _

/-- The credit of a port that a word uses: one of the chip's while there is one, else one of the stager's. -/
def Queue.spend (q : Queue) (p : Nat) (w : QWord) : Queue :=
  q.modProd p (fun x => if (q.prod p).credits == 0 then { x with scredits := x.scredits - 1, epoch := w.epoch }
    else { x with credits := x.credits - 1, epoch := w.epoch })
/-- The queue with a word where its packet mode, or its slot, places it. -/
def Queue.placed (q : Queue) (p : Nat) (w : QWord) : Queue :=
  match q.slot with
  | some s => { (if w.isStart then (q.spend p w).putSlotMarker s p w else (q.spend p w).putSlotWord s p w) with lastEpoch := w.epoch }
  | none =>
    match q.pmode with
    | .plain => ((q.spend p w).append ((q.prod p).credits == 0) [some w]).modProd p
        (fun x => { x with slotWord := if w.isStart then 0 else x.slotWord + 1 })
    | .lengthPrefix => (q.spend p w).putLen p ((q.prod p).credits == 0) w
    | .commit => (q.spend p w).putCommit p w
theorem Queue.put_eq (w : QWord) : q.put p w = { q.placed p w with wordIdx := if w.eor then 0 else q.wordIdx + 1 } := rfl
theorem Queue.placed_plain (w : QWord) (hslot : q.slot = none) (hmode : q.pmode = .plain) : q.placed p w =
    ((q.spend p w).append ((q.prod p).credits == 0) [some w]).modProd p
      (fun x => { x with slotWord := if w.isStart then 0 else x.slotWord + 1 }) := by
  rw [Queue.placed, hslot, hmode]
/-- A word uses one credit of its port, in every packet mode (R204, R215). -/
theorem Queue.hand_put (w : QWord) : (q.put p w).hand p = (q.spend p w).hand p := by
  have hidx (a : Queue) (n : Nat) : ({ a with wordIdx := n } : Queue).hand p = a.hand p := rfl
  rw [Queue.put_eq, hidx, Queue.placed]
  split
  · next s _ =>
    split
    · exact Queue.hand_putSlotMarker (q.spend p w) p s w
    · exact Queue.hand_putSlotWord (q.spend p w) p s w
  · split
    · refine (Queue.hand_modProd _ p _ ?_).trans (Queue.hand_of_prods p (Queue.prods_append (q.spend p w) _ _))
      exact fun _ => ⟨rfl, rfl⟩
    · exact Queue.hand_putLen (q.spend p w) p _ w
    · exact Queue.hand_putCommit (q.spend p w) p w
theorem Queue.hand_spend (w : QWord) (h : q.hasCredit p = true) :
    ((q.spend p w).hand p).1 + ((q.spend p w).hand p).2 + 1 = (q.hand p).1 + (q.hand p).2 := by
  have hsum : (q.prod p).credits + (q.prod p).scredits ≠ 0 := by simpa [Queue.hasCredit] using h
  dsimp only [Queue.hand, Queue.spend]
  rw [Queue.prod_modProd_same]
  split
  · next h0 =>
    have h0 : (q.prod p).credits = 0 := by simpa using h0
    dsimp only
    omega
  · next h0 =>
    have h0 : (q.prod p).credits ≠ 0 := by simpa using h0
    dsimp only
    omega
end

/-! ## What follows a word in its queue -/

theorem Queue.openFlags_frame (q : Queue) (w : QWord) : ∃ fs, q.openFlags w = { q with frameFlags := fs } := by
  unfold Queue.openFlags
  split
  · exact ⟨_, rfl⟩
  · split <;> exact ⟨_, rfl⟩
theorem Queue.hand_openFlags (q : Queue) (w : QWord) (p : Nat) : (q.openFlags w).hand p = q.hand p := by
  obtain ⟨fs, h⟩ := q.openFlags_frame w
  rw [h]
  rfl
theorem Queue.wordIdx_openFlags (q : Queue) (w : QWord) : (q.openFlags w).wordIdx = q.wordIdx := by
  obtain ⟨fs, h⟩ := q.openFlags_frame w
  rw [h]
theorem Queue.wordIdx_put (q : Queue) (p : Nat) (w : QWord) : (q.put p w).wordIdx = if w.eor then 0 else q.wordIdx + 1 := rfl
/-- A queue when its receivers have moved after a change. -/
def Dev.received (d : Dev) (q : Queue) : Queue := (d.resetRcvs q).awaitAll.passVacant.payOwed.detachLag
/-- Only the receivers of a queue and their counts of gaps differ. -/
def Queue.onlyRcvs (a b : Queue) : Prop := b = { a with rcvs := b.rcvs, gaps := b.gaps, gapw := b.gapw }
theorem Queue.onlyRcvs_trans {a b c : Queue} (h1 : a.onlyRcvs b) (h2 : b.onlyRcvs c) : a.onlyRcvs c := by
  unfold Queue.onlyRcvs at *
  rw [h2]
  conv => lhs; rw [h1]
section
variable {a b : Queue} (h : a.onlyRcvs b)
include h
theorem Queue.prods_of_onlyRcvs : b.prods = a.prods := by rw [show b = _ from h]
theorem Queue.wordIdx_of_onlyRcvs : b.wordIdx = a.wordIdx := by rw [show b = _ from h]
theorem Queue.tail_of_onlyRcvs : b.tail = a.tail := by
  rw [show b = _ from h]
  rfl
end
theorem Dev.onlyRcvs_received (d : Dev) (q : Queue) : q.onlyRcvs (d.received q) := by
  have hreset : q.onlyRcvs (d.resetRcvs q) := rfl
  have hawait (a : Queue) : a.onlyRcvs a.awaitAll := rfl
  have hpass (a : Queue) : a.onlyRcvs a.passVacant := rfl
  have howed (a : Queue) : a.onlyRcvs a.payOwed := rfl
  have hlag (a : Queue) : a.onlyRcvs a.detachLag := rfl
  exact Queue.onlyRcvs_trans hreset (Queue.onlyRcvs_trans (hawait _) (Queue.onlyRcvs_trans (hpass _)
    (Queue.onlyRcvs_trans (howed _) (hlag _))))
/-- What every receiver has released leaves the front of the store. -/
theorem Queue.settle_frame (q : Queue) : ∃ k f o, k ≤ q.store.length ∧
    q.settle = { q with store := q.store.drop k, old := q.old + BitVec.ofNat 32 k, slotF := f, slotO := o } := by
  refine ⟨min q.released q.store.length, q.settle.slotF, q.settle.slotO, Nat.min_le_right _ _, ?_⟩
  unfold Queue.settle
  dsimp only
  split <;> rfl

section
variable (d : Dev) (id : QueueId)
theorem Dev.queue_setQueue_same (q : Queue) : (d.setQueue id q).queue id = q := tblGet_set_same ({} : Queue) q d.queues id.toNat
theorem Dev.queue_setQueue_other {x : QueueId} (hx : x ≠ id) (q : Queue) : (d.setQueue id q).queue x = d.queue x :=
  tblGet_set_other ({} : Queue) q d.queues (fun h => hx (BitVec.eq_of_toNat_eq h.symm))
theorem Dev.queues_moved : (d.moved id).queues = d.queues := by
  unfold Dev.moved
  split <;> rfl
theorem Dev.queue_moved (x : QueueId) : (d.moved id).queue x = d.queue x :=
  congrArg (fun t : Tbl Queue => tblGet ({} : Queue) t x.toNat) (d.queues_moved id)
theorem Dev.putQueue_same (q : Queue) : (d.putQueue id q).queue id = (d.received q).settle := by
  rw [Dev.putQueue, Dev.queue_moved, Dev.queue_setQueue_same]
  rfl
theorem Dev.putQueue_other {x : QueueId} (hx : x ≠ id) (q : Queue) : (d.putQueue id q).queue x = d.queue x := by
  rw [Dev.putQueue, Dev.queue_moved, Dev.queue_setQueue_other d id hx]
theorem Dev.queue_toChannel (b : BurstReq) (ch : Nat) (x : QueueId) : (d.toChannel b ch).queue x = d.queue x := by
  dsimp only [Dev.toChannel]
  split <;> rfl
theorem Dev.queue_tfault (who : Requester) (p : PartId) (a : Nat) (x : QueueId) : (d.tfault who p a).queue x = d.queue x := rfl
/-- A burst that leaves for the spill ring keeps every credit and the count of words, and every other queue. -/
theorem Dev.spillOut_queue : ((d.spillOut id).queue id).prods = (d.queue id).prods ∧
    ((d.spillOut id).queue id).wordIdx = (d.queue id).wordIdx ∧ ∀ x, x ≠ id → (d.spillOut id).queue x = d.queue x := by
  dsimp only [Dev.spillOut]
  split
  · exact ⟨rfl, rfl, fun _ _ => rfl⟩
  · split
    · simp only [Dev.queue_toChannel, Dev.queue_setQueue_same]
      exact ⟨trivial, trivial, fun x hx => Dev.queue_setQueue_other d id hx _⟩
    · simp only [Dev.queue_tfault, Dev.queue_setQueue_same]
      exact ⟨trivial, trivial, fun x hx => (Dev.queue_setQueue_other _ id hx _).trans (Dev.queue_setQueue_other d id hx _)⟩
/-- A queue whose stager holds no full burst sends none. -/
theorem Dev.spillOut_short (h : (d.queue id).stager.length < 56) : d.spillOut id = d := by
  dsimp only [Dev.spillOut]
  rw [if_pos]
  simp [h]
end

/-! ## Patches and snoops -/

section
variable (d : Dev) (id : QueueId) (idx : Nat) (w : QWord)
/-- A word and a device that differ by a payload, and by no queue. -/
def Dev.repays (acc : QWord × Dev) : Prop := (∃ v, acc.1 = { w with payload := v }) ∧ acc.2.queues = d.queues
/-- A patch changes the payload of the word and no queue. -/
theorem Dev.repays_patchWord : d.repays w (d.patchWord id idx w) := by
  unfold Dev.patchWord
  refine foldl_preserves (d.repays w) _ (fun acc c hacc => ?_) _ (w, d) ⟨⟨w.payload, rfl⟩, rfl⟩
  obtain ⟨⟨v, hv⟩, hq⟩ := hacc
  dsimp only
  split
  · split
    · exact ⟨⟨_, by rw [hv]⟩, hq⟩
    · exact ⟨⟨v, hv⟩, hq⟩
  · exact ⟨⟨v, hv⟩, hq⟩
theorem Dev.queues_snoopWord : (d.snoopWord id idx w).queues = d.queues := by
  refine foldl_keeps Dev.queues _ (fun e c => ?_) _ d
  dsimp only
  split
  · split <;> rfl
  · rfl
/-- A queue that no core patches or snoops. -/
abbrev Dev.unwatched (d : Dev) (id : QueueId) : Prop := ∀ c, (d.core c).snoopQ ≠ some id ∧ (d.core c).patchQ ≠ some id
theorem Dev.patchWord_unwatched (h : d.unwatched id) : d.patchWord id idx w = (w, d) := by
  refine foldl_preserves (fun acc : QWord × Dev => acc = (w, d)) _ (fun acc c hacc => ?_) _ (w, d) rfl
  subst hacc
  dsimp only
  rw [if_neg]
  simp [(h c).2]
theorem Dev.snoopWord_unwatched (h : d.unwatched id) : d.snoopWord id idx w = d := by
  refine foldl_preserves (fun e : Dev => e = d) _ (fun e c he => ?_) _ d rfl
  subst he
  dsimp only
  rw [if_neg]
  simp [(h c).1]
end

end Sys2Proof.Machine
end

section
/-! SUPPORT. Producers' words and credit requests at a queue (R46, R204, R215 to R217, R236). -/
namespace Sys2Proof.Machine

open Sys2Proof

/-! ## A word that the queue takes -/

theorem readByte_of_base {d e : Dev} (h : e.standing.toBase = d.standing.toBase) (a : Nat) : e.readByte a = d.readByte a := by
  simp only [Dev.readByte, die1_of_base h, psram_of_base h]
theorem Dev.queue_of_queues {d e : Dev} (h : e.queues = d.queues) (x : QueueId) : e.queue x = d.queue x :=
  congrArg (fun t : Tbl Queue => tblGet ({} : Queue) t x.toNat) h

/-- The queue of a producer whose word is not discarded. -/
def Queue.marked (q : Queue) (p : Nat) : Queue := q.modProd p (fun x => { x with dropToMarker := false })
/-- The device when patches and snoops have met a word. -/
def Dev.met (d : Dev) (id : QueueId) (w : QWord) : Dev :=
  (d.patchWord id (d.queue id).wordIdx w).2.snoopWord id (d.queue id).wordIdx (d.patchWord id (d.queue id).wordIdx w).1
/-- The word as the queue stores it. -/
def Dev.stored (d : Dev) (id : QueueId) (w : QWord) : QWord := (d.patchWord id (d.queue id).wordIdx w).1
/-- The queue with a word put into it. -/
def Dev.putWord (d : Dev) (id : QueueId) (port : Nat) (w : QWord) : Queue :=
  ((((d.queue id).marked port).put port (d.stored id w)).openFlags (d.stored id w))

section
variable {d : Dev} {id : QueueId} {port : BitVec 10} {w : QWord}
theorem Dev.write_taken (hl : d.queueLive id = true) (hc : (d.queue id).hasCredit port.toNat = true)
    (hf : d.portForced id port = false) (hm : ((d.queue id).prod port.toNat).dropToMarker = false ∨ w.isStart = true) :
    d.write id port w = ((d.met id w).putQueue id (d.putWord id port.toNat w)).spillOut id := by
  have hdrop : ¬ ((((d.queue id).prod port.toNat).dropToMarker && !w.isStart) = true) := by
    obtain h | h := hm <;> simp [h]
  unfold Dev.write
  dsimp only
  rw [if_neg (by simp [hl]), if_neg (by simp [hc]), if_neg (by simp [hf]), if_neg hdrop]
  rfl
end

section
variable (d : Dev) (id : QueueId) (w : QWord)
theorem Dev.queues_met : (d.met id w).queues = d.queues :=
  (Dev.queues_snoopWord _ id _ _).trans (d.repays_patchWord id _ w).2
theorem Dev.stored_eor : (d.stored id w).eor = w.eor := by
  obtain ⟨⟨v, hv⟩, -⟩ := d.repays_patchWord id (d.queue id).wordIdx w
  rw [Dev.stored, hv]
/-- A word put into a queue uses one credit of its port and is counted in its record. -/
theorem Dev.putWord_effect (port : Nat) (hc : (d.queue id).hasCredit port = true) :
    ((d.putWord id port w).hand port).1 + ((d.putWord id port w).hand port).2 + 1 =
      ((d.queue id).hand port).1 + ((d.queue id).hand port).2 ∧
    (d.putWord id port w).wordIdx = if w.eor then 0 else (d.queue id).wordIdx + 1 := by
  have hmarked : ((d.queue id).marked port).hand port = (d.queue id).hand port :=
    Queue.hand_modProd _ port (fun x => { x with dropToMarker := false }) (fun _ => ⟨rfl, rfl⟩)
  have hcredit : ((d.queue id).marked port).hasCredit port = true := (Queue.hasCredit_of_hand port hmarked).trans hc
  have hhand : (d.putWord id port w).hand port = (((d.queue id).marked port).spend port (d.stored id w)).hand port :=
    (Queue.hand_openFlags _ _ port).trans (Queue.hand_put _ port _)
  refine ⟨?_, ?_⟩
  · rw [hhand, ← hmarked]
    exact Queue.hand_spend _ port _ hcredit
  · rw [Dev.putWord, Queue.wordIdx_openFlags, Queue.wordIdx_put, d.stored_eor id w]
    rfl
/-- What is put back keeps its credits and its count of words. -/
theorem Dev.prods_putQueue (q : Queue) : ((d.putQueue id q).queue id).prods = q.prods ∧
    ((d.putQueue id q).queue id).wordIdx = q.wordIdx := by
  obtain ⟨k, f, o, -, hsettle⟩ := (d.received q).settle_frame
  have hprods := Queue.prods_of_onlyRcvs (d.onlyRcvs_received q)
  have hidx := Queue.wordIdx_of_onlyRcvs (d.onlyRcvs_received q)
  rw [Dev.putQueue_same, hsettle]
  exact ⟨hprods, hidx⟩
end

section
variable (d : Dev) (id : QueueId) (port : BitVec 10) (w : QWord)
/-- A word that a producer's credit covers (R204, R215). -/
theorem write_effect (hl : d.queueLive id = true) (hc : (d.queue id).hasCredit port.toNat = true)
    (hf : d.portForced id port = false) (hm : ((d.queue id).prod port.toNat).dropToMarker = false ∨ w.isStart = true) :
    (((d.write id port w).queue id).hand port.toNat).1 + (((d.write id port w).queue id).hand port.toNat).2 + 1 =
        ((d.queue id).hand port.toNat).1 + ((d.queue id).hand port.toNat).2 ∧
      ((d.write id port w).queue id).wordIdx = (if w.eor then 0 else (d.queue id).wordIdx + 1) ∧
      ∀ x, x ≠ id → (d.write id port w).queue x = d.queue x := by
  obtain ⟨hhand, hidx⟩ := d.putWord_effect id w port.toNat hc
  obtain ⟨hprods, hword⟩ := (d.met id w).prods_putQueue id (d.putWord id port.toNat w)
  obtain ⟨hspill, hspillIdx, hother⟩ := ((d.met id w).putQueue id (d.putWord id port.toNat w)).spillOut_queue id
  rw [Dev.write_taken hl hc hf hm, Queue.hand_of_prods _ (hspill.trans hprods)]
  refine ⟨hhand, (hspillIdx.trans hword).trans hidx, fun x hx => ?_⟩
  rw [hother x hx, Dev.putQueue_other _ id hx, Dev.queue_of_queues (d.queues_met id w)]
/-- A word at the boundary of a partition that is not live is absorbed (R46). -/
theorem Dev.write_absorbed (hl : d.queueLive id = false) : d.write id port w = d.absorb (partOfQueue id) := by
  unfold Dev.write
  dsimp only
  rw [if_pos (by simp [hl])]
theorem Dev.absorb_keeps (p : PartId) : (d.absorb p).cores = d.cores ∧ (d.absorb p).queues = d.queues ∧
    (d.absorb p).psram = d.psram := by
  dsimp only [Dev.absorb]
  split <;> exact ⟨rfl, rfl, rfl⟩
theorem Dev.absorb_counts (p : PartId) (h1 : (d.die (dieOfPart p)).inReset = false) (h2 : (d.die (dieOfPart p)).railOn = true) :
    ((d.absorb p).part p).absorb = satInc (d.part p).absorb := by
  dsimp only [Dev.absorb]
  rw [if_neg (by simp [h1, h2]), Dev.part_modPart_same]
end

/-! ## A word in a plain queue -/

theorem leading_eq_length_iff (l : List (Option QWord)) : leading l = l.length ↔ ∀ c ∈ l, c.isSome = true := by
  induction l with
  | nil => simp [leading]
  | cons c l ih => cases c <;> simp [leading, ih]
/-- The tail of a queue whose words all lie on chip and are visible. -/
theorem Queue.tail_full {q : Queue} (hslot : q.slot = none) (hlen : q.lenSlot = none) (hring : q.ring = []) (hstager : q.stager = [])
    (hfull : leading q.store = q.store.length) : q.tail = q.old + BitVec.ofNat 32 q.store.length := by
  simp [Queue.tail, Queue.vis, Queue.total, hslot, hlen, hring, hstager, hfull]

/-- A plain queue on chip whose words are all visible. -/
structure Queue.plainFull (q : Queue) : Prop where
  slot : q.slot = none
  lenSlot : q.lenSlot = none
  ring : q.ring = []
  stager : q.stager = []
  full : leading q.store = q.store.length
theorem Queue.plainFull.tail {q : Queue} (h : q.plainFull) : q.tail = q.old + BitVec.ofNat 32 q.store.length :=
  Queue.tail_full h.slot h.lenSlot h.ring h.stager h.full
/-- Words that leave the front move no tail. -/
theorem Queue.plainFull.drop {q : Queue} (h : q.plainFull) (k f o : Nat) (hk : k ≤ q.store.length) :
    ({ q with store := q.store.drop k, old := q.old + BitVec.ofNat 32 k, slotF := f, slotO := o } : Queue).tail = q.tail ∧
      ({ q with store := q.store.drop k, old := q.old + BitVec.ofNat 32 k, slotF := f, slotO := o } : Queue).plainFull := by
  have hfull : leading (q.store.drop k) = (q.store.drop k).length :=
    (leading_eq_length_iff _).2 (fun c hc => (leading_eq_length_iff _).1 h.full c (List.mem_of_mem_drop hc))
  have hplain : ({ q with store := q.store.drop k, old := q.old + BitVec.ofNat 32 k, slotF := f, slotO := o } : Queue).plainFull :=
    ⟨h.slot, h.lenSlot, h.ring, h.stager, hfull⟩
  refine ⟨?_, hplain⟩
  rw [hplain.tail, h.tail, List.length_drop, BitVec.add_assoc, ← BitVec.ofNat_add, Nat.add_sub_cancel' hk]
theorem Queue.plainFull.settle {q : Queue} (h : q.plainFull) : q.settle.tail = q.tail ∧ q.settle.plainFull := by
  obtain ⟨k, f, o, hk, hsettle⟩ := q.settle_frame
  rw [hsettle]
  exact h.drop k f o hk
theorem Queue.plainFull.of_onlyRcvs {a b : Queue} (h : a.plainFull) (hb : a.onlyRcvs b) : b.plainFull := by
  rw [show b = _ from hb]
  exact ⟨h.slot, h.lenSlot, h.ring, h.stager, h.full⟩
/-- What is put back of a plain queue keeps its tail. -/
theorem Queue.plainFull.putQueue {q : Queue} (h : q.plainFull) (d : Dev) (id : QueueId) :
    ((d.putQueue id q).queue id).tail = q.tail ∧ ((d.putQueue id q).queue id).plainFull := by
  have hrcvs := d.onlyRcvs_received q
  obtain ⟨htail, hplain⟩ := (h.of_onlyRcvs hrcvs).settle
  rw [Dev.putQueue_same]
  exact ⟨htail.trans (Queue.tail_of_onlyRcvs hrcvs), hplain⟩

section
variable {q : Queue} {p : Nat} (w : QWord)
theorem Queue.append_chip (a : Queue) : ∃ e, a.append false [some w] = { a with store := a.store ++ [some w], lastEpoch := e } := ⟨_, rfl⟩
/-- A word with a credit of the chip lies at the end of a plain queue's store. -/
theorem Queue.put_plain (hslot : q.slot = none) (hmode : q.pmode = .plain) (hc : 0 < (q.prod p).credits) :
    ∃ ps e n, q.put p w = { q with prods := ps, store := q.store ++ [some w], lastEpoch := e, wordIdx := n } := by
  have hchip : ((q.prod p).credits == 0) = false := by simp; omega
  have hspend : q.spend p w = { q with prods := (q.spend p w).prods } := rfl
  obtain ⟨e, happend⟩ := Queue.append_chip w (q.spend p w)
  rw [Queue.put_eq, Queue.placed_plain q p w hslot hmode, hchip, happend, hspend]
  exact ⟨_, _, _, rfl⟩
theorem Queue.plainFull.append {q : Queue} (h : q.plainFull) (ps : Tbl Prod) (e : BitVec 3) (n : Nat) :
    ({ q with prods := ps, store := q.store ++ [some w], lastEpoch := e, wordIdx := n } : Queue).tail = q.tail + 1#32 ∧
      ({ q with prods := ps, store := q.store ++ [some w], lastEpoch := e, wordIdx := n } : Queue).plainFull := by
  have hfull : leading (q.store ++ [some w]) = (q.store ++ [some w]).length := by
    refine (leading_eq_length_iff _).2 (fun c hc => ?_)
    obtain hc | hc := List.mem_append.1 hc
    · exact (leading_eq_length_iff _).1 h.full c hc
    · rw [List.mem_singleton.1 hc]; rfl
  have hplain : ({ q with prods := ps, store := q.store ++ [some w], lastEpoch := e, wordIdx := n } : Queue).plainFull :=
    ⟨h.slot, h.lenSlot, h.ring, h.stager, hfull⟩
  refine ⟨?_, hplain⟩
  rw [hplain.tail, h.tail, List.length_append, List.length_singleton, BitVec.ofNat_add, BitVec.add_assoc]
theorem Queue.plainFull.openFlags {q : Queue} (h : q.plainFull) : (q.openFlags w).tail = q.tail ∧ (q.openFlags w).plainFull := by
  obtain ⟨fs, hflags⟩ := q.openFlags_frame w
  rw [hflags]
  exact ⟨rfl, ⟨h.slot, h.lenSlot, h.ring, h.stager, h.full⟩⟩
theorem Queue.credits_spend (hc : 0 < (q.prod p).credits) : ((q.spend p w).hand p).1 = (q.hand p).1 - 1 := by
  dsimp only [Queue.hand, Queue.spend]
  rw [Queue.prod_modProd_same, if_neg (by simp; omega)]
end

/-- A lane that is not forced forces no port. -/
theorem Dev.portForced_of_laneForced (d : Dev) (id : QueueId) (port : BitVec 10) (h : d.laneForced id none = false) :
    d.portForced id port = false := by
  rw [← Bool.not_eq_true] at h ⊢
  intro hp
  obtain ⟨e, he, hp⟩ := List.any_eq_true.1 hp
  obtain ⟨g, hg, hp⟩ := List.any_eq_true.1 hp
  simp only [Bool.and_eq_true, beq_iff_eq, Option.isNone_iff_eq_none] at hp
  obtain ⟨⟨⟨hforced, hq⟩, hr⟩, -⟩ := hp
  exact h (List.any_eq_true.2 ⟨e, he, List.any_eq_true.2 ⟨g, hg, by simp [hforced, hq, hr]⟩⟩)

/-- A word put into a plain queue stands at its end. -/
theorem Queue.plainFull.put {q : Queue} {p : Nat} (h : q.plainFull) (w : QWord) (hmode : q.pmode = .plain)
    (hc : 0 < (q.prod p).credits) : (q.put p w).tail = q.tail + 1#32 ∧ (q.put p w).plainFull := by
  obtain ⟨ps, e, n, hput⟩ := Queue.put_plain w h.slot hmode hc
  rw [hput]
  exact h.append w ps e n

/-- A word of a producer with credit enters a plain queue at T (R204). -/
theorem write_plain (d : Dev) (id : QueueId) (port : BitVec 10) (w : QWord) (hl : d.queueLive id = true)
    (hf : d.laneForced id none = false) (hplain : (d.queue id).plainFull) (hmode : (d.queue id).pmode = .plain)
    (hwatch : d.unwatched id) (hc : 0 < ((d.queue id).prod port.toNat).credits)
    (hm : ((d.queue id).prod port.toNat).dropToMarker = false) :
    ((d.write id port w).queue id).tail = (d.queue id).tail + 1#32 ∧
      (((d.write id port w).queue id).prod port.toNat).credits = ((d.queue id).prod port.toNat).credits - 1 ∧
      (d.write id port w).cores = d.cores := by
  have hcredit : (d.queue id).hasCredit port.toNat = true := by simp [Queue.hasCredit]; omega
  have hmet : d.met id w = d := by
    rw [Dev.met, d.patchWord_unwatched id _ w hwatch]
    exact d.snoopWord_unwatched id _ w hwatch
  have hstored : d.stored id w = w := by rw [Dev.stored, d.patchWord_unwatched id _ w hwatch]
  have hmarked : ((d.queue id).marked port.toNat).plainFull := ⟨hplain.slot, hplain.lenSlot, hplain.ring, hplain.stager, hplain.full⟩
  have hmarkedHand : ((d.queue id).marked port.toNat).hand port.toNat = (d.queue id).hand port.toNat :=
    Queue.hand_modProd _ _ (fun x => { x with dropToMarker := false }) (fun _ => ⟨rfl, rfl⟩)
  have hmarkedCredit : 0 < (((d.queue id).marked port.toNat).prod port.toNat).credits :=
    lt_of_lt_of_eq hc (congrArg Prod.fst hmarkedHand).symm
  obtain ⟨hputTail, hput⟩ := hmarked.put w hmode hmarkedCredit
  obtain ⟨hflagTail, hflag⟩ := hput.openFlags w
  obtain ⟨hbackTail, hback⟩ := hflag.putQueue d id
  have hcores (q : Queue) : (d.putQueue id q).cores = d.cores := by
    dsimp only [Dev.putQueue, Dev.moved]
    split <;> rfl
  have hhand : (((((d.queue id).marked port.toNat).put port.toNat w).openFlags w).hand port.toNat).1 =
      ((d.queue id).hand port.toNat).1 - 1 := by
    rw [Queue.hand_openFlags, Queue.hand_put, Queue.credits_spend w hmarkedCredit, hmarkedHand]
  have hprods := Queue.hand_of_prods port.toNat
    (d.prods_putQueue id ((((d.queue id).marked port.toNat).put port.toNat w).openFlags w)).1
  rw [Dev.write_taken hl hcredit (d.portForced_of_laneForced id port hf) (.inl hm), hmet, Dev.putWord, hstored,
    Dev.spillOut_short _ id (by rw [hback.stager]; decide)]
  refine ⟨?_, ?_, hcores _⟩
  · rw [hbackTail, hflagTail, hputTail]
    rfl
  · exact (congrArg Prod.fst hprods).trans hhand

end Sys2Proof.Machine
end

section
/-! SUPPORT. Credit requests of a core port (R159, R215 to R217, R236). -/
namespace Sys2Proof.Machine

open Sys2Proof

/-! ## What a queue answers -/

/-- A queue that gives a port one credit of the chip. -/
def Queue.given (q : Queue) (p : Nat) : Queue := q.modProd p (fun y => { y with credits := y.credits + 1, wants := false })
/-- A queue that gives a port one credit of the stager. -/
def Queue.givenStager (q : Queue) (p : Nat) : Queue := q.modProd p (fun y => { y with scredits := y.scredits + 1, wants := false })
/-- A queue that refuses a request (assumption 34: one count per refused request). -/
def Queue.refused (q : Queue) : Queue := { q with qhold := satInc q.qhold }

/-- The queue after a port's request of one credit, where no receiver may be detached. -/
def Dev.answer (d : Dev) (id : QueueId) (p : Nat) : Queue :=
  match (d.queue id).slot with
  | some s =>
    if d.canTake id ((d.queue id).slotNeed s p (d.queue id |>.prod p).credits - (d.queue id).store.length) then
      ((d.queue id).reserve ((d.queue id).slotNeed s p (d.queue id |>.prod p).credits)).given p
    else (d.queue id).refused
  | none =>
    if (d.queue id).elastic != 0 && ((d.queue id).spilling || (d.queue id).scredits != 0 || (d.queue id).cap ≤ (d.queue id).occ) then
      if (d.queue id).stagerRoom 1 then ({ d.queue id with spilling := true } : Queue).givenStager p
      else { (d.queue id).refused with
        spilling := true, ringFull := (d.queue id).ringFull || (d.queue id).elastic ≤ (d.queue id).ring.length }
    else if d.canTake id 1 then (d.queue id).given p
    else (d.queue id).refused

section
variable {d : Dev} {id : QueueId} {p : Nat}
theorem Dev.answer_slot {s : SlotImg} (hs : (d.queue id).slot = some s) : d.answer id p =
    if d.canTake id ((d.queue id).slotNeed s p (d.queue id |>.prod p).credits - (d.queue id).store.length) then
      ((d.queue id).reserve ((d.queue id).slotNeed s p (d.queue id |>.prod p).credits)).given p
    else (d.queue id).refused := by
  rw [Dev.answer, hs]
theorem Dev.answer_none (hs : (d.queue id).slot = none) : d.answer id p =
    if (d.queue id).elastic != 0 && ((d.queue id).spilling || (d.queue id).scredits != 0 || (d.queue id).cap ≤ (d.queue id).occ) then
      if (d.queue id).stagerRoom 1 then ({ d.queue id with spilling := true } : Queue).givenStager p
      else { (d.queue id).refused with
        spilling := true, ringFull := (d.queue id).ringFull || (d.queue id).elastic ≤ (d.queue id).ring.length }
    else if d.canTake id 1 then (d.queue id).given p
    else (d.queue id).refused := by
  rw [Dev.answer, hs]
theorem Dev.answer_normal (hs : (d.queue id).slot = none) (he : (d.queue id).elastic = 0) :
    d.answer id p = if d.canTake id 1 then (d.queue id).given p else (d.queue id).refused := by
  rw [Dev.answer_none hs, if_neg (by simp [he])]
theorem Dev.answer_spilling (hs : (d.queue id).slot = none) (he : (d.queue id).elastic ≠ 0) (hsp : (d.queue id).spilling = true) :
    d.answer id p = if (d.queue id).stagerRoom 1 then ({ d.queue id with spilling := true } : Queue).givenStager p
      else { (d.queue id).refused with
        spilling := true, ringFull := (d.queue id).ringFull || (d.queue id).elastic ≤ (d.queue id).ring.length } := by
  rw [Dev.answer_none hs, if_pos (by simp [he, hsp])]
end

/-- Among receivers that may not be detached none is, or one of the oldest may not. -/
theorem oldest_undetached {rs : List Rcv} (h : ∀ x ∈ rs, x.detach = false) (f : Rcv → Bool) :
    ((rs.filter f).isEmpty || (rs.filter f).any (fun r => !r.detach)) = true := by
  cases hl : rs.filter f with
  | nil => rfl
  | cons r l =>
    have hr : r ∈ rs := List.mem_of_mem_filter (hl ▸ List.mem_cons_self : r ∈ rs.filter f)
    simp [h r hr]

section
variable (d : Dev) (id : QueueId) (port : BitVec 10)
/-- A request of one credit changes only its queue. -/
theorem Dev.grant_eq (hr : ∀ x ∈ (d.queue id).rcvs, x.detach = false)
    (hn : ((d.queue id).prod port.toNat).credits + ((d.queue id).prod port.toNat).scredits < 16) :
    d.grant id port 1 = d.setQueue id (d.answer id port.toNat) := by
  have hold := oldest_undetached hr (fun r => r.h == (d.queue id).old)
  have hshort (a b : Dev) : (if ((d.queue id).store.isEmpty || ((d.queue id).rcvs.filter (fun r => r.h == (d.queue id).old)).isEmpty ||
      ((d.queue id).rcvs.filter (fun r => r.h == (d.queue id).old)).any (fun r => !r.detach)) = true then a else b) = a := by
    rw [if_pos (by rw [Bool.or_assoc, hold, Bool.or_true])]
  unfold Dev.grant
  dsimp only
  rw [if_neg (by simp; omega)]
  split
  · next s hs =>
    rw [Dev.answer_slot hs, Nat.add_sub_cancel]
    split
    · rfl
    · exact hshort _ _
  · next hs =>
    rw [Dev.answer_none hs]
    split
    · have hroom : ({ d.queue id with spilling := true } : Queue).stagerRoom 1 = (d.queue id).stagerRoom 1 := rfl
      rw [hroom]
      split <;> rfl
    · split
      · rfl
      · exact hshort _ _
theorem Dev.answer_net : (d.answer id port.toNat).net = (d.queue id).net := by
  unfold Dev.answer
  split
  · split <;> rfl
  · split
    · split <;> rfl
    · split <;> rfl

/-- A request where nothing waits for the credit is the grant alone. -/
theorem creditGrant_eq (hl : d.queueLive id = true) (hz : (d.part (partOfQueue id)).frozen = false)
    (hf : d.portForced id port = false) (hg : d.route.groups = []) (hn : (d.net (d.queue id).net).groups = [])
    {q : Queue} (hq : d.grant id port 1 = d.setQueue id q) (hnet : q.net = (d.queue id).net) :
    creditGrant id port 1 d = d.setQueue id q := by
  have htile (e : Dev) (he : e.route.groups = []) : e.tileBurst id = e := by
    simp [Dev.tileBurst, Dev.nextTile, he]
  have hcredit : (d.setQueue id q).ingestCredit id = d.setQueue id q := by
    have hgroups : ((d.setQueue id q).net ((d.setQueue id q).queue id).net).groups = [] := by
      rw [Dev.queue_setQueue_same, hnet]
      exact hn
    dsimp only [Dev.ingestCredit]
    rw [hgroups]
    rfl
  unfold creditGrant
  rw [if_neg (by simp [hl, hz, hf])]
  dsimp only
  rw [hq]
  generalize ((((d.setQueue id q).queue id).prod port.toNat).credits == ((d.queue id).prod port.toNat).credits + 1) = got
  have hone : ¬ ((1 == 64 && got) = true) := by simp
  rw [if_neg hone, htile (d.setQueue id q) hg, ite_self, hcredit]
end

/-! ## What the answer holds -/

theorem Queue.prod_given (q : Queue) (p : Nat) : ((q.given p).prod p).credits = (q.prod p).credits + 1 := by
  rw [Queue.given, Queue.prod_modProd_same]
theorem Queue.prod_givenStager (q : Queue) (p : Nat) : ((q.givenStager p).prod p).scredits = (q.prod p).scredits + 1 ∧
    ((q.givenStager p).prod p).credits = (q.prod p).credits := by
  rw [Queue.givenStager, Queue.prod_modProd_same]
  exact ⟨rfl, rfl⟩

/-- A queue that a command sets is the only unit that differs. -/
theorem onlyQueue_set (s : State) (id : QueueId) (q : Queue) : onlyQueue id s { s with dev := s.dev.setQueue id q } :=
  ⟨rfl, fun _ hx => Dev.queue_setQueue_other s.dev id hx q⟩

/-- Settles O8: a word uses a credit of the hand it is put from, and a request of one credit is the queue's answer. -/
theorem wordsAndCredits : Obligations.WordsAndCredits := by
  unfold Obligations.WordsAndCredits
  refine ⟨fun s q port w hl hc hf hm => ?_, fun s q port w hl => ?_, fun s q port w hplain hc hm => ?_,
    fun s q port hl hz hf hr hg hn h16 => ?_⟩
  · obtain ⟨hhand, hidx, hother⟩ := write_effect s.dev q port w hl hc hf hm
    exact ⟨_, rfl, hhand, hidx, hother, readByte_of_base (base_of_standing (Dev.standing_write s.dev q port w))⟩
  · refine ⟨_, rfl, ?_⟩
    rw [s.dev.write_absorbed q port w hl]
    exact ⟨s.dev.absorb_keeps _, fun h => s.dev.absorb_counts _ h.1 h.2⟩
  · obtain ⟨hl, hf, hslot, hmode, hlen, -, hring, hstager, hfull, hwatch⟩ := hplain
    obtain ⟨htail, hcredits, hcores⟩ := write_plain s.dev q port w hl hf ⟨hslot, hlen, hring, hstager, hfull⟩ hmode hwatch hc hm
    have hother := (write_effect s.dev q port w hl (by simp [Queue.hasCredit]; omega) (s.dev.portForced_of_laneForced q port hf)
      (.inl hm)).2.2
    exact ⟨_, rfl, htail, hcredits, hother, fun c => congrArg (fun t : Tbl Core => tblGet ({} : Core) t c.toNat) hcores,
      readByte_of_base (base_of_standing (Dev.standing_write s.dev q port w))⟩
  · have hgrant := s.dev.grant_eq q port hr h16
    have hrun : exec (.creditGrant q port 1) s = .next { s with dev := s.dev.setQueue q (s.dev.answer q port.toNat) } := by
      rw [← creditGrant_eq s.dev q port hl hz hf hg hn hgrant (s.dev.answer_net q port)]
      rfl
    refine ⟨_, _, _, rfl, hrun, onlyQueue_set s q _, rfl, ?_⟩
    rw [Dev.queue_setQueue_same]
    refine ⟨fun hs he => ?_, fun sl hs => ?_, fun hs he hsp => ?_⟩
    · rw [Dev.answer_normal hs he]
      exact ⟨fun h => by rw [if_pos h]; exact ⟨Queue.prod_given _ _, rfl⟩, fun h => by rw [if_neg (by simp [h])]; exact ⟨rfl, rfl⟩⟩
    · rw [Dev.answer_slot hs]
      exact ⟨fun h => by rw [if_pos h]; exact ⟨Queue.prod_given _ _, rfl⟩, fun h => by rw [if_neg (by simp [h])]; exact ⟨rfl, rfl⟩⟩
    · rw [Dev.answer_spilling hs he hsp]
      exact ⟨fun h => by rw [if_pos h]; exact Queue.prod_givenStager _ _, fun h => by rw [if_neg (by simp [h])]; exact ⟨rfl, rfl⟩⟩

end Sys2Proof.Machine
end

section
/-! SUPPORT. What the words, bursts and events of the compute dies leave in the plinth: networks, ingest, route memory, adaptation,
health, DMA, records, the mailbox and the presence of the host. Each shared operation keeps it, stated once. -/
namespace Sys2Proof.Machine

open Sys2Proof

/-! ## The plinth -/

/-- Whether the host is there, and how often it was not (R479). -/
structure Presence where
  silent : Bool
  fallen : Bool
  hostSil : W32

/-- The units of the plinth that words and events of the compute dies do not reach. -/
structure Plinth where
  nets : Tbl Network
  ing : Ingest
  route : Route
  adapt : Tbl Adapt
  health : Health
  dma : Tbl DmaChan
  routs : Tbl Rout
  mbx : Mbx
  host : Presence

abbrev Evt.presence (e : Evt) : Presence := ⟨e.silent, e.fallen, e.hostSil⟩

def Dev.plinth (d : Dev) : Plinth :=
  ⟨d.nets, d.ing, d.route, d.adapt, d.health, d.dma, d.routs, d.mbx, d.evt.presence⟩

/-! ## Reading the plinth -/

section
variable {d e : Dev} (h : e.plinth = d.plinth)
include h
theorem nets_of_plinth : e.nets = d.nets := congrArg Plinth.nets h
theorem ing_of_plinth : e.ing = d.ing := congrArg Plinth.ing h
theorem route_of_plinth : e.route = d.route := congrArg Plinth.route h
theorem health_of_plinth : e.health = d.health := congrArg Plinth.health h
theorem dma_of_plinth : e.dma = d.dma := congrArg Plinth.dma h
theorem routs_of_plinth : e.routs = d.routs := congrArg Plinth.routs h
theorem presence_of_plinth : e.evt.presence = d.evt.presence := congrArg Plinth.host h
theorem net_of_plinth (n : NetId) : e.net n = d.net n := congrArg (fun t : Tbl Network => tblGet ({} : Network) t n.toNat) (nets_of_plinth h)
theorem group_of_plinth (n : NetId) (g : BitVec 4) : e.group n g = d.group n g :=
  congrArg (fun x : Network => tblGet none x.groups g.toNat) (net_of_plinth h n)
theorem rout_of_plinth (n : BitVec 6) : e.rout n = d.rout n := congrArg (fun t : Tbl Rout => tblGet ({} : Rout) t n.toNat) (routs_of_plinth h)
end

/-! ## Updates of one unit, and events -/

/-- An event does not say that the host is there (R470, R479). -/
@[simp] theorem Evt.presence_put (e : Evt) (code : W16) (u : Bool) (aux : Byte) (t : W64) (args : List W32) :
    (e.put code u aux t args).presence = e.presence := by
  dsimp only [Evt.put]
  split
  · rfl
  · split <;> split <;> rfl

section
variable (d : Dev)
@[simp] theorem Dev.plinth_modQueue (q : QueueId) (f : Queue → Queue) : (d.modQueue q f).plinth = d.plinth := by rfl
@[simp] theorem Dev.plinth_setQueue (q : QueueId) (v : Queue) : (d.setQueue q v).plinth = d.plinth := by rfl
@[simp] theorem Dev.plinth_modCore (c : CoreId) (f : Core → Core) : (d.modCore c f).plinth = d.plinth := by rfl
@[simp] theorem Dev.plinth_modPart (p : PartId) (f : Partition → Partition) : (d.modPart p f).plinth = d.plinth := by rfl
@[simp] theorem Dev.plinth_modCluster (c : ClusterId) (f : Cluster → Cluster) : (d.modCluster c f).plinth = d.plinth := by rfl
@[simp] theorem Dev.plinth_modRing (i : Nat) (f : Ring → Ring) : (d.modRing i f).plinth = d.plinth := by rfl
@[simp] theorem Dev.plinth_modChan (i : Nat) (f : Channel → Channel) : (d.modChan i f).plinth = d.plinth := by rfl
@[simp] theorem Dev.plinth_modDie (i : Nat) (f : Die → Die) : (d.modDie i f).plinth = d.plinth := by rfl
@[simp] theorem Dev.plinth_raiseAux (code : W16) (aux : Byte) (args : List W32) : (d.raiseAux code aux args).plinth = d.plinth := by
  simp only [Dev.plinth, Dev.raiseAux, Dev.modEvt, Evt.presence_put]
@[simp] theorem Dev.plinth_raise (code : W16) (p : PartId) (args : List W32) : (d.raise code p args).plinth = d.plinth :=
  d.plinth_raiseAux code _ args
@[simp] theorem Dev.plinth_raise0 (code : W16) (args : List W32) : (d.raise0 code args).plinth = d.plinth := d.plinth_raiseAux code _ args
@[simp] theorem Dev.plinth_foldl {α : Type} (f : Dev → α → Dev) (h : ∀ d a, (f d a).plinth = d.plinth) (l : List α) (d : Dev) :
    (l.foldl f d).plinth = d.plinth := foldl_keeps Dev.plinth f h l d
@[simp] theorem Dev.plinth_ite (b : Prop) [Decidable b] (d e : Dev) :
    (if b then d else e).plinth = if b then d.plinth else e.plinth := apply_ite Dev.plinth b d e
@[simp] theorem Dev.plinth_modParts (ps : List PartId) (f : Partition → Partition) : (d.modParts ps f).plinth = d.plinth :=
  Dev.plinth_foldl _ (fun e p => e.plinth_modPart p f) ps d
@[simp] theorem Dev.plinth_modCores (cs : List CoreId) (f : Core → Core) : (d.modCores cs f).plinth = d.plinth :=
  Dev.plinth_foldl _ (fun e c => e.plinth_modCore c f) cs d
end

/-! ## Words into queues -/

section
variable (d : Dev)
@[simp] theorem Dev.plinth_tfault (who : Requester) (p : PartId) (a : Nat) : (d.tfault who p a).plinth = d.plinth := by
  simp [Dev.tfault]
@[simp] theorem Dev.plinth_toChannel (b : BurstReq) (ch : Nat) : (d.toChannel b ch).plinth = d.plinth := by
  simp [Dev.toChannel]
@[simp] theorem Dev.plinth_moved (q : QueueId) : (d.moved q).plinth = d.plinth := by
  simp [Dev.moved]
@[simp] theorem Dev.plinth_moveQueue (q : QueueId) (f : Queue → Queue) : (d.moveQueue q f).plinth = d.plinth := by
  simp [Dev.moveQueue]
@[simp] theorem Dev.plinth_putQueue (id : QueueId) (q : Queue) : (d.putQueue id q).plinth = d.plinth := by
  simp [Dev.putQueue]
@[simp] theorem Dev.plinth_spillOut (id : QueueId) : (d.spillOut id).plinth = d.plinth := by
  dsimp only [Dev.spillOut]
  split
  · rfl
  · split <;> simp
@[simp] theorem Dev.plinth_patchWord (id : QueueId) (idx : Nat) (w : QWord) : (d.patchWord id idx w).2.plinth = d.plinth := by
  refine foldl_keeps (fun acc : QWord × Dev => acc.2.plinth) _ (fun acc c => ?_) _ (w, d)
  dsimp only
  split
  · split <;> rfl
  · rfl
@[simp] theorem Dev.plinth_snoopWord (id : QueueId) (idx : Nat) (w : QWord) : (d.snoopWord id idx w).plinth = d.plinth := by
  simp [Dev.snoopWord]
@[simp] theorem Dev.plinth_absorb (p : PartId) : (d.absorb p).plinth = d.plinth := by
  dsimp only [Dev.absorb]
  split <;> rfl
@[simp] theorem Dev.plinth_write (id : QueueId) (port : BitVec 10) (w : QWord) : (d.write id port w).plinth = d.plinth := by
  simp [Dev.write]
@[simp] theorem Dev.plinth_writeAll (id : QueueId) (port : BitVec 10) (ws : List QWord) :
    (d.writeAll id port ws).plinth = d.plinth := by
  simp [Dev.writeAll]
/-- A read that fires moves its receiver, and the census of its partition. -/
@[simp] theorem Dev.plinth_seqRead (id : QueueId) (r : BitVec 10) : (d.seqRead id r).plinth = d.plinth := by
  dsimp only [Dev.seqRead]
  split
  · rfl
  · split <;> simp
end

/-! ## Images that an admitted frame issues -/

section
variable (d : Dev)
@[simp] theorem Dev.plinth_imageEnd (id : QueueId) (b : BurstReq) : (d.imageEnd id b).plinth = d.plinth := by
  simp [Dev.imageEnd]
@[simp] theorem Dev.plinth_checked (b : BurstReq) : (d.checked b).2.plinth = d.plinth := by
  unfold Dev.checked
  split
  · rfl
  · split <;> rfl
  · split <;> simp
/-- The burst of an image or of a replay slot brings words to a queue alone. -/
theorem Dev.plinth_submit_image (b : BurstReq) (hw : b.write = false)
    (h : (∃ q, b.who = .image q) ∨ ∃ u, b.who = .intake u) : (d.submit b).plinth = d.plinth := by
  unfold Dev.submit
  split
  · simp
  · have hwho := d.checked_who b
    have hwrite := (d.checked_write b).trans hw
    dsimp only
    unfold Dev.burstEnd
    rw [hwho, hwrite]
    obtain ⟨q, hq⟩ | ⟨u, hu⟩ := h
    · simp [hq]
    · simp [hu]
@[simp] theorem Dev.plinth_imageBurst (id : QueueId) : (d.imageBurst id).plinth = d.plinth := by
  dsimp only [Dev.imageBurst]
  split
  · rfl
  · split
    · rfl
    · rw [Dev.plinth_submit_image _ _ rfl, Dev.plinth_setQueue]
      dsimp only
      split
      · exact .inr ⟨_, rfl⟩
      · exact .inl ⟨_, rfl⟩
@[simp] theorem Dev.plinth_issueImage (id : QueueId) (a : DevAddr) (n : Nat) : (d.issueImage id a n).plinth = d.plinth := by
  simp [Dev.issueImage]
@[simp] theorem Dev.plinth_issueImages (n : NetId) (bank : Adapt → BitVec 2) : (d.issueImages n bank).plinth = d.plinth := by
  simp [Dev.issueImages]
end

/-! ## Cores and partitions that leave service -/

section
variable (d : Dev)
@[simp] theorem Dev.plinth_sendPacket (p : Packet) : (d.sendPacket p).plinth = d.plinth := by
  have hinject (e : Dev) (q : Packet) : (e.inject q).plinth = e.plinth := by
    unfold Dev.inject
    split <;> rfl
  dsimp only [Dev.sendPacket]
  rw [hinject]
  split <;> rfl
@[simp] theorem Dev.plinth_notice (p : PartId) (dst : Endpoint) (opc : Byte) : (d.notice p dst opc).plinth = d.plinth :=
  d.plinth_sendPacket _
@[simp] theorem Dev.plinth_giveUpOuts (c : CoreId) (r : Option Nat) (f : QueueId → Bool) : (d.giveUpOuts c r f).plinth = d.plinth := by
  refine Dev.plinth_foldl _ (fun e o => ?_) _ d
  cases o <;> simp
@[simp] theorem Dev.plinth_giveUpIns (c : CoreId) (f : QueueId → Bool) : (d.giveUpIns c f).plinth = d.plinth := by
  refine Dev.plinth_foldl _ (fun e o => ?_) _ d
  obtain ⟨o, i⟩ := o
  cases o <;> simp
@[simp] theorem Dev.plinth_releaseRows (c : CoreId) (next : List (Nat × Nat)) : (d.releaseRows c next).plinth = d.plinth := by
  refine Dev.plinth_foldl _ (fun e i => ?_) _ d
  split
  · rfl
  · split
    · split <;> simp
    · rfl
@[simp] theorem Dev.plinth_leavePorts (c : CoreId) (spare : Bool) : (d.leavePorts c spare).plinth = d.plinth := by
  dsimp only [Dev.leavePorts]
  simp
@[simp] theorem Dev.plinth_dropRcvs (c : CoreId) : (d.dropRcvs c).plinth = d.plinth := by
  refine Dev.plinth_foldl _ (fun e o => ?_) _ d
  cases o <;> simp
@[simp] theorem Dev.plinth_passRcvs (c : CoreId) (f : W32) : (d.passRcvs c f).plinth = d.plinth := by
  refine Dev.plinth_foldl _ (fun e o => ?_) _ d
  cases o <;> simp
@[simp] theorem Dev.plinth_voidVacant (c : CoreId) : (d.voidVacant c).plinth = d.plinth := by
  refine Dev.plinth_foldl _ (fun e o => ?_) _ d
  cases o <;> simp
@[simp] theorem Dev.plinth_isolate (c : CoreId) : (d.isolate c).plinth = d.plinth := by
  simp [Dev.isolate]
@[simp] theorem Dev.plinth_enableAlt (n : NetId) (st : StageId) (a b : ClusterId) : (d.enableAlt n st a b).plinth = d.plinth := by
  dsimp only [Dev.enableAlt]
  split
  · rfl
  · refine Dev.plinth_foldl _ (fun e g => ?_) _ d
    split <;> rfl
@[simp] theorem Dev.plinth_censusBack (p : PartId) : (d.censusBack p).plinth = d.plinth := by
  simp [Dev.censusBack]
@[simp] theorem Dev.plinth_censusBackNet (n : NetId) : (d.censusBackNet n).plinth = d.plinth := by
  simp [Dev.censusBackNet]
@[simp] theorem Dev.plinth_boundaryDown (p : PartId) : (d.boundaryDown p).plinth = d.plinth := by
  simp [Dev.boundaryDown]
@[simp] theorem Dev.plinth_takeOver (p : PartId) : (d.takeOver p).plinth = d.plinth := by
  simp [Dev.takeOver]
@[simp] theorem Dev.plinth_emptyQueue (q : QueueId) : (d.emptyQueue q).plinth = d.plinth := by
  simp [Dev.emptyQueue]
@[simp] theorem Dev.plinth_copyMap (l : LogicalId) (p : PartId) (c : Option CoreId) : (d.copyMap l p c).plinth = d.plinth := by
  simp [Dev.copyMap]
end

end Sys2Proof.Machine
end

section
/-! SUPPORT. The admission side: what the delivery of ingest words leaves (R432), and a maquette frame that enters (R79). -/
namespace Sys2Proof.Machine

open Sys2Proof

/-! ## Groups -/

section
variable (d : Dev) (n : NetId) (g : BitVec 4) (f : Group → Group)
/-- `modGroup` changes the group that it names and no other. -/
theorem Dev.group_modGroup (m : NetId) (k : BitVec 4) :
    (d.modGroup n g f).group m k = if n = m ∧ g = k then (d.group n g).map f else d.group m k := by
  by_cases hn : n = m
  · subst hn
    have hgroups : (d.modGroup n g f).group n k = tblGet none (tblMod none (d.net n).groups g.toNat (fun o => o.map f)) k.toNat := by
      rw [Dev.group, Dev.modGroup, Dev.net_modNet_same]
    rw [hgroups]
    by_cases hg : g = k
    · subst hg; simp [Dev.group]
    · have hk : g.toNat ≠ k.toNat := fun e => hg (BitVec.eq_of_toNat_eq e)
      simp [Dev.group, hg, tblGet_mod_other _ _ _ hk]
  · rw [Dev.group, Dev.modGroup, Dev.net_modNet, if_neg hn, if_neg (fun h => hn h.1)]
    rfl
@[simp] theorem Dev.group_modGroup_same : (d.modGroup n g f).group n g = (d.group n g).map f := by
  simp [Dev.group_modGroup]
/-- A change of a network apart from its groups changes no group. -/
theorem Dev.group_modNet (f : Network → Network) (h : ∀ x, (f x).groups = x.groups) (m : NetId) :
    (d.modNet n f).group m g = d.group m g := by
  rw [Dev.group, Dev.net_modNet]
  split
  · next hn => rw [h, hn]; rfl
  · rfl
end

/-! ## Delivery -/

/-- A group apart from the lines that wait in the ingest buffer. -/
def Group.unbuffered (x : Group) : Group := { x with buf := [] }

/-- Networks, groups and contexts apart from the lines that wait in the ingest buffer. -/
structure Admission where
  net : NetId → Network
  group : NetId → BitVec 4 → Option Group
  ing : Ingest

def Dev.admission (d : Dev) : Admission :=
  ⟨fun n => { d.net n with groups := [] }, fun n g => (d.group n g).map Group.unbuffered, d.ing⟩

section
variable {d e : Dev}
theorem admission_of_plinth (h : e.plinth = d.plinth) : e.admission = d.admission := by
  simp only [Dev.admission, net_of_plinth h, group_of_plinth h, ing_of_plinth h]
theorem maq_of_admission (h : e.admission = d.admission) (n : NetId) : (e.net n).maq = (d.net n).maq :=
  congrArg (fun a : Admission => (a.net n).maq) h
theorem group_of_admission (h : e.admission = d.admission) (n : NetId) (g : BitVec 4) :
    (e.group n g).map Group.unbuffered = (d.group n g).map Group.unbuffered := congrArg (fun a : Admission => a.group n g) h
theorem ing_of_admission (h : e.admission = d.admission) : e.ing = d.ing := congrArg Admission.ing h
end

section
variable (d : Dev) (n : NetId) (g : BitVec 4)
/-- A change of the lines that wait for a group. -/
@[simp] theorem Dev.admission_modBuf (b : Group → Tbl (List InLine)) :
    (d.modGroup n g (fun x => { x with buf := b x })).admission = d.admission := by
  have hnet (m : NetId) : ({ (d.modGroup n g (fun x => { x with buf := b x })).net m with groups := [] } : Network) =
      { d.net m with groups := [] } := by
    rw [Dev.modGroup, Dev.net_modNet]
    split
    · next hn => subst hn; rfl
    · rfl
  have hgroup (m : NetId) (k : BitVec 4) :
      ((d.modGroup n g (fun x => { x with buf := b x })).group m k).map Group.unbuffered = (d.group m k).map Group.unbuffered := by
    rw [Dev.group_modGroup]
    split
    · next hk =>
      obtain ⟨rfl, rfl⟩ := hk
      cases d.group n g <;> rfl
    · rfl
  simp only [Dev.admission, hnet, hgroup]
  rfl
@[simp] theorem Dev.admission_ingestRun (m fuel : Nat) : (d.ingestRun n g m fuel).admission = d.admission := by
  induction fuel generalizing d with
  | zero => rfl
  | succ k ih =>
    dsimp only [Dev.ingestRun]
    split
    · rfl
    · split
      · rfl
      · split
        · rfl
        · rw [ih, Dev.admission_modBuf]
        · split
          · exact admission_of_plinth (d.plinth_modQueue _ _)
          · rw [ih, Dev.admission_modBuf, admission_of_plinth (d.plinth_write _ _ _)]
@[simp] theorem Dev.admission_ingestAll (m : Nat) : (d.ingestAll n g m).admission = d.admission :=
  d.admission_ingestRun n g m _
end

/-! ## A maquette frame enters (R79, R527) -/

/-- The maquette frames of a network once one more has entered. -/
def Maq.entered (m : Maq) (trial : Bool) : Maq :=
  { m with counter := m.counter + 1#32, due := trial && m.due, trial := trial, inFlight := m.inFlight ++ [m.counter] }

section
variable (d : Dev) (n : NetId) (g : BitVec 4)
/-- The device once the frame has its number, before its images are issued and its rows delivered. -/
def Dev.numbered (d : Dev) (n : NetId) (g : BitVec 4) : Dev :=
  let d1 := d.modNet n (fun y => { y with maq := y.maq.entered (d.trialUnit n).isSome })
  let d2 := match d.trialUnit n with | some u => d1.modAdapt u (fun a => { a with trialLeft := a.trialLeft - 1 }) | none => d1
  d2.modGroup n g (fun x => { x with last := some ((d.net n).maq.counter, true), taken := false })
theorem Dev.numbered_nets : (d.numbered n g).nets = ((d.modNet n (fun y => { y with maq := y.maq.entered (d.trialUnit n).isSome })).modGroup n g
    (fun x => { x with last := some ((d.net n).maq.counter, true), taken := false })).nets := by
  dsimp only [Dev.numbered]
  split <;> rfl
theorem Dev.maq_numbered : ((d.numbered n g).net n).maq = (d.net n).maq.entered (d.trialUnit n).isSome := by
  rw [Dev.net, Dev.numbered_nets, ← Dev.net, Dev.modGroup, Dev.net_modNet_same, Dev.net_modNet_same]
theorem Dev.group_numbered (m : NetId) (k : BitVec 4) : (d.numbered n g).group m k = if n = m ∧ g = k then
    (d.group n g).map (fun x => { x with last := some ((d.net n).maq.counter, true), taken := false }) else d.group m k := by
  rw [Dev.group, Dev.net, Dev.numbered_nets, ← Dev.net, ← Dev.group, Dev.group_modGroup]
  simp only [Dev.group_modNet d n _ (fun y => { y with maq := y.maq.entered (d.trialUnit n).isSome }) (fun _ => rfl)]
/-- What follows the number is the delivery of words. -/
theorem Dev.admission_maqInject {x : Group} (hx : d.group n g = some x) :
    (d.maqInject n g).admission = (d.numbered n g).admission := by
  have hdeliver (e : Dev) (k : W32) (ws : List W64) (ep : BitVec 3) (ms : List Nat) : (ms.foldl (fun d m =>
      (d.modGroup n g (fun y => { y with buf := tblMod [] y.buf m (fun ls => ls ++ maqLines x.img m k (d.firstCtx n g) ep ws) })).ingestAll
        n g m) e).admission = e.admission := by
    refine foldl_keeps Dev.admission _ (fun b m => ?_) ms e
    rw [Dev.admission_ingestAll, Dev.admission_modBuf]
  unfold Dev.maqInject
  rw [hx]
  dsimp only
  rw [hdeliver, admission_of_plinth (Dev.plinth_issueImages _ _ _)]
  rfl
end

section
variable {d : Dev} {n : NetId} {g : BitVec 4} {x : Group} (hx : d.group n g = some x)
include hx
/-- The frame takes the next number of the counter, and is in flight. -/
theorem Dev.maq_maqInject : ((d.maqInject n g).net n).maq = (d.net n).maq.entered (d.trialUnit n).isSome := by
  rw [maq_of_admission (d.admission_maqInject n g hx), Dev.maq_numbered]
/-- The frame is the last that the admission stage was given; which frames are live does not change. -/
theorem Dev.group_maqInject : ∃ b, (d.maqInject n g).group n g =
    some { x with last := some ((d.net n).maq.counter, true), taken := false, buf := b } := by
  have h := group_of_admission (d.admission_maqInject n g hx) n g
  rw [Dev.group_numbered, if_pos ⟨rfl, rfl⟩, hx] at h
  obtain ⟨y, hy, hyx⟩ := Option.map_eq_some_iff.1 h
  exact ⟨y.buf, by rw [hy]; exact congrArg some (congrArg (fun z : Group => { z with buf := y.buf }) hyx)⟩
end

end Sys2Proof.Machine
end

section
/-! SUPPORT. Member frames (R72, R434): where every context stands in its member frame, which only the lines of that frame move, and
what the close of a line-scan frame makes of it. -/
namespace Sys2Proof.Machine

open Sys2Proof

/-! ## Where the contexts stand -/

/-- Where a context stands in its member frame. -/
structure Member where
  net : NetId
  grp : BitVec 4
  frame : W32
  begun : Bool
  line : Nat
  linesM1 : BitVec 14

abbrev Context.stand (x : Context) : Member := ⟨x.net, x.grp, x.memFrame, x.begun, x.line, x.linesM1⟩

/-- The member frame has ended. -/
def Member.ended (m : Member) : Member := { m with frame := m.frame + 1#32, begun := false, line := 0 }
/-- One more line of the member frame is accounted for; the last ends it. -/
def Member.pastLine (m : Member) : Member := if m.line = m.linesM1.toNat then m.ended else { m with line := m.line + 1 }

/-- Which groups are cast, and where every context stands. -/
structure Members where
  cast : NetId → BitVec 4 → Bool
  ctx : BitVec 10 → Member

/-- One context stands elsewhere. -/
def Members.set (m : Members) (c : BitVec 10) (v : Member) : Members := { m with ctx := fun x => if c = x then v else m.ctx x }

def Dev.members (d : Dev) : Members := ⟨fun n g => (d.group n g).isSome, fun c => (d.ctx c).stand⟩

@[simp] theorem Members.set_set (m : Members) (c : BitVec 10) (v w : Member) : (m.set c v).set c w = m.set c w := by
  have h (x : BitVec 10) : (if c = x then w else if c = x then v else m.ctx x) = if c = x then w else m.ctx x := by
    split <;> rfl
  simp only [Members.set, h]
@[simp] theorem Members.set_same (m : Members) (c : BitVec 10) : m.set c (m.ctx c) = m := by
  have h (x : BitVec 10) : (if c = x then m.ctx c else m.ctx x) = m.ctx x := by
    split
    · next hx => rw [hx]
    · rfl
  simp only [Members.set, h]

section
variable {d e : Dev}
theorem members_of_admission (h : e.admission = d.admission) : e.members = d.members := by
  have hgroup (n : NetId) (g : BitVec 4) : (e.group n g).isSome = (d.group n g).isSome := by
    simpa using congrArg Option.isSome (group_of_admission h n g)
  simp only [Dev.members, hgroup, Dev.ctx, ing_of_admission h]
theorem members_of_plinth (h : e.plinth = d.plinth) : e.members = d.members := members_of_admission (admission_of_plinth h)
theorem member_of_members {m : Members} (h : d.members = m) (c : BitVec 10) : (d.ctx c).stand = m.ctx c :=
  congrArg (fun x : Members => x.ctx c) h
theorem cast_of_members {m : Members} (h : d.members = m) (n : NetId) (g : BitVec 4) : (d.group n g).isSome = m.cast n g :=
  congrArg (fun x : Members => x.cast n g) h
end

/-! ## What leaves the contexts where they stand -/

section
variable (d : Dev) (n : NetId) (g : BitVec 4)
theorem Dev.members_modCtx (c : BitVec 10) (f : Context → Context) :
    (d.modCtx c f).members = d.members.set c (f (d.ctx c)).stand := by
  have hctx (x : BitVec 10) : ((d.modCtx c f).ctx x).stand = if c = x then (f (d.ctx c)).stand else (d.ctx x).stand := by
    rw [Dev.ctx_modCtx]
    split <;> rfl
  simp only [Dev.members, Members.set, hctx]
  rfl
/-- A change of a context that leaves it where it stands. -/
theorem Dev.members_modCtx_keeps (c : BitVec 10) (f : Context → Context) (h : ∀ x, (f x).stand = x.stand) :
    (d.modCtx c f).members = d.members := by
  rw [Dev.members_modCtx, h]
  exact Members.set_same _ c
@[simp] theorem Dev.members_modGroup (f : Group → Group) : (d.modGroup n g f).members = d.members := by
  have hgroup (m : NetId) (k : BitVec 4) : ((d.modGroup n g f).group m k).isSome = (d.group m k).isSome := by
    rw [Dev.group_modGroup]
    split
    · next h =>
      obtain ⟨rfl, rfl⟩ := h
      exact Option.isSome_map
    · rfl
  simp only [Dev.members, hgroup]
  rfl
theorem Dev.members_modNet (f : Network → Network) (h : ∀ x, (f x).groups = x.groups) : (d.modNet n f).members = d.members := by
  simp only [Dev.members, Dev.group_modNet d n _ f h]
  rfl
@[simp] theorem Dev.members_foldl {α : Type} (f : Dev → α → Dev) (h : ∀ d a, (f d a).members = d.members) (l : List α) (d : Dev) :
    (l.foldl f d).members = d.members := foldl_keeps Dev.members f h l d
@[simp] theorem Dev.members_ite (b : Prop) [Decidable b] (d e : Dev) :
    (if b then d else e).members = if b then d.members else e.members := apply_ite Dev.members b d e

@[simp] theorem Dev.members_ingestAll (m : Nat) : (d.ingestAll n g m).members = d.members :=
  members_of_admission (d.admission_ingestAll n g m)
@[simp] theorem Dev.members_bufRow (m : Nat) (l : InLine) : (d.bufRow n g m l).members = d.members := by
  simp [Dev.bufRow]
@[simp] theorem Dev.members_trimFlights : (d.trimFlights n).members = d.members := d.members_modNet n _ (fun _ => rfl)
@[simp] theorem Dev.members_trimLive : (d.trimLive n g).members = d.members := d.members_modGroup n g _
@[simp] theorem Dev.members_bufferRead (f : W32) : (d.bufferRead n g f).members = d.members :=
  Dev.members_modGroup (d.sramRead.free 1).2 n g
    (fun x => { x with invalid := if (d.sramRead.free 1).1 == 1#1 then f :: x.invalid else x.invalid.erase f })
@[simp] theorem Dev.members_admitFrame (f : W32) : (d.admitFrame n g f).members = d.members := by
  dsimp only [Dev.admitFrame]
  generalize hd : Dev.issueImages _ _ _ = e
  have he : e.members = d.members := by
    rw [← hd, members_of_plinth (Dev.plinth_issueImages _ _ _)]
    simp [Dev.members_modNet]
  cases e.group n g with
  | none => exact he
  | some x => simpa using he
@[simp] theorem Dev.members_refuseFrame (f : W32) : (d.refuseFrame n g f).members = d.members := by
  simp [Dev.refuseFrame, Dev.members_modCtx_keeps]
@[simp] theorem Dev.members_decideFrames (fuel : Nat) : (d.decideFrames n g fuel).members = d.members := by
  induction fuel generalizing d with
  | zero => rfl
  | succ k ih =>
    dsimp only [Dev.decideFrames]
    split
    · rfl
    · split
      · rfl
      · simp [ih]
@[simp] theorem Dev.members_recheck : (d.recheck n g).members = d.members := d.members_decideFrames n g _
@[simp] theorem Dev.members_maqInject : (d.maqInject n g).members = d.members := by
  cases hx : d.group n g with
  | none => simp only [Dev.maqInject, hx]
  | some x =>
    rw [members_of_admission (d.admission_maqInject n g hx)]
    dsimp only [Dev.numbered]
    rw [Dev.members_modGroup]
    have hnet : (d.modNet n (fun y => { y with maq := y.maq.entered (d.trialUnit n).isSome })).members = d.members :=
      d.members_modNet n _ (fun _ => rfl)
    split <;> exact hnet
@[simp] theorem Dev.members_maqTry : (d.maqTry n g).members = d.members := by
  dsimp only [Dev.maqTry]
  split
  · simp
  · rfl
end

/-! ## A line that is missing, and the frame that it ends -/

section
variable (d : Dev) (c : BitVec 10)
theorem Dev.members_memberEnd : (d.memberEnd c).members = d.members.set c (d.ctx c).stand.ended := by
  dsimp only [Dev.memberEnd]
  rw [Dev.members_maqTry, Dev.members_trimLive, Dev.members_modCtx]
  rfl

variable {d c}
/-- A missing line of a frame that has begun moves its context past the line. -/
theorem Dev.members_putLine_none (hb : (d.ctx c).begun = true) (hg : (d.group (d.ctx c).net (d.ctx c).grp).isSome = true) :
    (d.putLine c none).members = d.members.set c (d.ctx c).stand.pastLine := by
  obtain ⟨g, hg⟩ := Option.isSome_iff_exists.1 hg
  obtain ⟨e, he, heq⟩ : ∃ e : Dev, e.members = d.members ∧ d.putLine c none =
      (if (d.ctx c).line == (d.ctx c).linesM1.toNat then (e.modCtx c (fun x => { x with line := x.line + 1 })).memberEnd c
        else e.modCtx c (fun x => { x with line := x.line + 1 })).recheck (d.ctx c).net (d.ctx c).grp := by
    dsimp only [Dev.putLine]
    rw [hb, if_pos rfl, hg]
    refine ⟨_, ?_, rfl⟩
    simp [Dev.members_modCtx_keeps]
  rw [heq, Dev.members_recheck]
  have hm : (e.ctx c).stand = (d.ctx c).stand := member_of_members he c
  have hline : (e.modCtx c (fun x => { x with line := x.line + 1 })).members =
      d.members.set c { (d.ctx c).stand with line := (d.ctx c).line + 1 } := by
    rw [Dev.members_modCtx, he]
    exact congrArg (fun m : Member => d.members.set c { m with line := m.line + 1 }) hm
  by_cases heof : (d.ctx c).line = (d.ctx c).linesM1.toNat
  · rw [if_pos (by simpa using heof), Dev.members_memberEnd, hline, Members.set_set, member_of_members hline, Member.pastLine,
      if_pos heof]
    simp only [Members.set, if_true, Member.ended]
  · rw [if_neg (by simpa using heof), hline, Member.pastLine, if_neg heof]

/-- The lines still missing of a member frame end it. -/
theorem Dev.members_missLines (k : Nat) (hb : (d.ctx c).begun = true) (hg : (d.group (d.ctx c).net (d.ctx c).grp).isSome = true)
    (hk : (d.ctx c).line + k = (d.ctx c).linesM1.toNat) :
    (d.missLines c (k + 1)).members = d.members.set c (d.ctx c).stand.ended := by
  induction k generalizing d with
  | zero =>
    have hput := Dev.members_putLine_none hb hg
    rwa [Member.pastLine, if_pos (show (d.ctx c).stand.line = (d.ctx c).stand.linesM1.toNat from hk)] at hput
  | succ k ih =>
    have hput := Dev.members_putLine_none hb hg
    rw [Member.pastLine, if_neg (show ¬ (d.ctx c).stand.line = (d.ctx c).stand.linesM1.toNat from fun h => by
      have : (d.ctx c).line = (d.ctx c).linesM1.toNat := h
      omega)] at hput
    have hm := member_of_members hput c
    simp only [Members.set, if_true, Member.mk.injEq] at hm
    obtain ⟨hnet, hgrp, hframe, hbegun, hline, hlines⟩ := hm
    rw [Dev.missLines, ih (hbegun.trans hb) (by rw [cast_of_members hput, hnet, hgrp]; exact hg) (by rw [hline, hlines]; omega),
      hput, Members.set_set]
    simp only [Member.ended, hnet, hgrp, hframe, hlines]

/-- A member frame in progress ends. -/
theorem Dev.members_endMember (hb : (d.ctx c).begun = true) (hg : (d.group (d.ctx c).net (d.ctx c).grp).isSome = true)
    (hl : (d.ctx c).line ≤ (d.ctx c).linesM1.toNat) : (d.endMember c).members = d.members.set c (d.ctx c).stand.ended := by
  obtain ⟨e, he, heq⟩ : ∃ e : Dev, e.members = d.members ∧
      d.endMember c = e.missLines c ((d.ctx c).linesM1.toNat + 1 - (d.ctx c).line) := by
    refine ⟨_, ?_, rfl⟩
    split
    · simp [Dev.modBlock, Dev.members_modCtx_keeps]
    · rfl
  rw [heq]
  have hm := member_of_members he c
  simp only [Dev.members, Member.mk.injEq] at hm
  obtain ⟨hnet, hgrp, hframe, hbegun, hline, hlines⟩ := hm
  have hk : (d.ctx c).linesM1.toNat + 1 - (d.ctx c).line = ((d.ctx c).linesM1.toNat - (d.ctx c).line) + 1 := by omega
  rw [hk, Dev.members_missLines _ (hbegun.trans hb) (by rw [cast_of_members he, hnet, hgrp]; exact hg) (by rw [hline, hlines]; omega), he]
  simp only [Member.ended, hnet, hgrp, hframe, hlines]
end

/-! ## CLOSE (R72) -/

/-- The members of a list that are in frame `f` of group `g` are in it, as CLOSE finds them. -/
def Dev.inFrame (d : Dev) (n : NetId) (g : BitVec 4) (f : W32) (cs : List (BitVec 10)) : Prop :=
  (d.group n g).isSome = true ∧ ∀ c ∈ cs, (d.ctx c).memFrame = f →
    (d.ctx c).net = n ∧ (d.ctx c).grp = g ∧ (d.ctx c).begun = true ∧ (d.ctx c).line ≤ (d.ctx c).linesM1.toNat

/-- The members of a list that are in frame `f` end it. -/
def Dev.endMembers (d : Dev) (f : W32) (cs : List (BitVec 10)) : Dev :=
  cs.foldl (fun d c => if (d.ctx c).memFrame == f then d.endMember c else d) d

section
variable {n : NetId} {g : BitVec 4} {f : W32}
/-- The frame ends for each member that is in it, and the others stay where they stand. -/
theorem Dev.member_endMembers (cs : List (BitVec 10)) {d : Dev} (h : d.inFrame n g f cs) :
    (∀ c ∈ cs, (d.ctx c).memFrame = f → ((d.endMembers f cs).ctx c).stand = (d.ctx c).stand.ended) ∧
      ∀ c, (d.ctx c).memFrame ≠ f → ((d.endMembers f cs).ctx c).stand = (d.ctx c).stand := by
  induction cs generalizing d with
  | nil => exact ⟨fun c hc => absurd hc List.not_mem_nil, fun _ _ => rfl⟩
  | cons a cs ih =>
    obtain ⟨hgroup, hcs⟩ := h
    by_cases ha : (d.ctx a).memFrame = f
    · obtain ⟨hnet, hgrp, hbegun, hline⟩ := hcs a List.mem_cons_self ha
      have hend := Dev.members_endMember hbegun (by rw [hnet, hgrp]; exact hgroup) hline
      have hself : ((d.endMember a).ctx a).stand = (d.ctx a).stand.ended := by
        rw [member_of_members hend]; simp only [Members.set, if_true]
      have hother (c : BitVec 10) (hc : a ≠ c) : ((d.endMember a).ctx c).stand = (d.ctx c).stand := by
        rw [member_of_members hend]; simp only [Members.set, if_neg hc]; rfl
      have hpast : ((d.endMember a).ctx a).memFrame ≠ f := by
        rw [show ((d.endMember a).ctx a).memFrame = (d.ctx a).memFrame + 1#32 from congrArg Member.frame hself, ha]
        simp
      have hrest : (d.endMember a).inFrame n g f cs := by
        refine ⟨by rw [cast_of_members hend]; exact hgroup, fun c hc hf => ?_⟩
        have hac : a ≠ c := fun e => hpast (e ▸ hf)
        have hm := hother c hac
        simp only [Member.mk.injEq] at hm
        obtain ⟨h1, h2, h3, h4, h5, h6⟩ := hm
        have := hcs c (List.mem_cons_of_mem _ hc) (h3 ▸ hf)
        rwa [h1, h2, h4, h5, h6]
      have hrun : d.endMembers f (a :: cs) = (d.endMember a).endMembers f cs := by
        simp only [Dev.endMembers, List.foldl_cons, ha, beq_self_eq_true, if_true]
      obtain ⟨hin, hout⟩ := ih hrest
      rw [hrun]
      refine ⟨fun c hc hf => ?_, fun c hf => ?_⟩
      · by_cases hac : a = c
        · subst hac
          rw [hout a hpast, hself]
        · have hm := hother c hac
          have hmem := (List.mem_cons.1 hc).resolve_left (Ne.symm hac)
          rw [hin c hmem ((congrArg Member.frame hm).trans hf), hm]
      · have hac : a ≠ c := fun e => hf (e ▸ ha)
        have hm := hother c hac
        rw [hout c (fun e => hf ((congrArg Member.frame hm).symm.trans e)), hm]
    · have hrun : d.endMembers f (a :: cs) = d.endMembers f cs := by
        simp only [Dev.endMembers, List.foldl_cons, beq_iff_eq, if_neg ha]
      obtain ⟨hin, hout⟩ := ih ⟨hgroup, fun c hc => hcs c (List.mem_cons_of_mem _ hc)⟩
      rw [hrun]
      exact ⟨fun c hc hf => hin c ((List.mem_cons.1 hc).resolve_left (fun e => ha (e ▸ hf))) hf, hout⟩

/-- A close of the frame in progress ends it for every member that is in it. -/
theorem Dev.closeFrameOf_eq (d : Dev) {x : Group} {a : Adm} (hx : d.group n g = some x)
    (hf : x.live.find? (fun e => (d.ctxsOf n g).any (fun c => (d.ctx c).memFrame == e.1)) = some (f, a)) :
    d.closeFrameOf n g = some ((d.endMembers f (d.ctxsOf n g)).recheck n g) := by
  simp only [Dev.closeFrameOf, hx, hf]
  rfl
/-- No frame in progress: nothing closes. -/
theorem Dev.closeFrameOf_none (d : Dev) {x : Group} (hx : d.group n g = some x)
    (hf : ∀ e ∈ x.live, ∀ c ∈ d.ctxsOf n g, (d.ctx c).memFrame ≠ e.1) : d.closeFrameOf n g = none := by
  have hnone : x.live.find? (fun e => (d.ctxsOf n g).any (fun c => (d.ctx c).memFrame == e.1)) = none := by
    simpa using hf
  simp only [Dev.closeFrameOf, hx, hnone]
end

end Sys2Proof.Machine
end

section
/-! SUPPORT. What the mailbox commands of a cast network change (R72, R326, R466, R523): a partition that opens again, a casting that
goes on or aborts, and the answer of firmware. -/
namespace Sys2Proof.Machine

open Sys2Proof

/-! ## Firmware's answer (R468) -/

/-- The device once firmware has taken a mailbox command. -/
def Dev.commandTaken (d : Dev) (tag opc : Byte) (args : List (Nat × W32)) : Dev :=
  (d.hostWrote.modMbx (fun m => m.putArgs args)).modMbx (fun m => m.taken tag opc)

theorem mbxCommand_onDev {s : State} (h : mboxFree s) (tag opc : Byte) (args : List (Nat × W32)) (f : Store → Dev → Dev) :
    mbxCommand tag opc args (onDev f) s = { s with dev := f s.store (s.dev.commandTaken tag opc args) } :=
  mbxCommand_free h tag opc args (onDev f)

theorem shortEnd_answered (s : State) (res : W16) (ws : List W32) (d : Dev) : mbxAnswered { s with dev := shortEnd res ws d } res :=
  ⟨rfl, rfl, rfl⟩
/-- A command that is answered and does nothing else. -/
theorem shortEnd_onlyMailbox (s : State) (tag opc : Byte) (args : List (Nat × W32)) (res : W16) (ws : List W32) :
    onlyMailbox s { s with dev := shortEnd res ws (s.dev.commandTaken tag opc args) } := rfl
/-- A long command whose check passes is answered, and what it starts changes the mailbox in no other way. -/
theorem longStart_passes (tag opc : Byte) (go : Dev → W16 × Dev) (d : Dev) (h : d.mbx.longs.length < 4) :
    ∃ m : Mbx, longStart tag opc 0#16 .none go d = { (go d).2 with mbx := m } ∧ m.busy = false ∧ m.done = true ∧ m.result = 0#16 := by
  refine ⟨(longStart tag opc 0#16 .none go d).mbx, ?_⟩
  have hn : ¬ 4 ≤ d.mbx.longs.length := by omega
  simp only [longStart, if_neg hn]
  exact ⟨rfl, rfl, rfl, rfl⟩

/-! ## Partitions of a list -/

section
variable (d : Dev) (ps : List PartId) (f : Partition → Partition)
/-- A partition of the list is as the change makes every partition. -/
theorem Dev.cast_modParts {v : PState} (hf : ∀ x, (f x).cast = v) {p : PartId} (hp : p ∈ ps) : ((d.modParts ps f).part p).cast = v := by
  have hkeep (ps : List PartId) : ∀ d : Dev, (d.part p).cast = v → ((d.modParts ps f).part p).cast = v := fun d hd =>
    foldl_preserves (fun e : Dev => (e.part p).cast = v) _ (fun e q he => by
      rw [Dev.part_modPart]
      split
      · exact hf _
      · exact he) ps d hd
  induction ps generalizing d with
  | nil => exact absurd hp List.not_mem_nil
  | cons q ps ih =>
    by_cases hq : q = p
    · subst hq
      exact hkeep ps _ (by rw [Dev.part_modPart_same]; exact hf _)
    · exact ih _ ((List.mem_cons.1 hp).resolve_left (Ne.symm hq))
end

/-! ## What leaves the cores as they are -/

section
variable (d : Dev)
@[simp] theorem Dev.cores_ite (b : Prop) [Decidable b] (d e : Dev) :
    (if b then d else e).cores = if b then d.cores else e.cores := apply_ite Dev.cores b d e
@[simp] theorem Dev.cores_foldl {α : Type} (f : Dev → α → Dev) (h : ∀ d a, (f d a).cores = d.cores) (l : List α) (d : Dev) :
    (l.foldl f d).cores = d.cores := foldl_keeps Dev.cores f h l d
@[simp] theorem Dev.cores_modParts (ps : List PartId) (f : Partition → Partition) : (d.modParts ps f).cores = d.cores := by
  rw [Dev.modParts_frame]
@[simp] theorem Dev.cores_moved (q : QueueId) : (d.moved q).cores = d.cores := by
  simp [Dev.moved]
@[simp] theorem Dev.cores_putQueue (id : QueueId) (q : Queue) : (d.putQueue id q).cores = d.cores := by
  simp [Dev.putQueue]
@[simp] theorem Dev.cores_boundaryDown (p : PartId) : (d.boundaryDown p).cores = d.cores := by
  simp [Dev.boundaryDown]
@[simp] theorem Dev.cores_longResult (tag : Option Byte) (r : W16) : (d.longResult tag r).cores = d.cores := by
  cases tag <;> rfl
@[simp] theorem Dev.cores_raise (code : W16) (p : PartId) (args : List W32) : (d.raise code p args).cores = d.cores := by rfl
@[simp] theorem Dev.cores_raise0 (code : W16) (args : List W32) : (d.raise0 code args).cores = d.cores := by rfl
end

/-! ## A partition opens again (R46, R326) -/

section
variable (d : Dev) (p : PartId)
/-- A partition as it opens again, before its receivers are taken over. -/
def Partition.opened (x : Partition) : Partition :=
  { x with cast := if x.cast == .stopped then .released else x.cast, shut := false, scrubbing := true, scrubPos := 0 }
@[simp] theorem Dev.cores_censusBack : (d.censusBack p).cores = d.cores := by
  simp [Dev.censusBack]
@[simp] theorem Dev.cores_takeOver : (d.takeOver p).cores = d.cores := by
  simp [Dev.takeOver]
@[simp] theorem Dev.cores_resumeRefs : (d.resumeRefs p).cores = d.cores := by rfl
@[simp] theorem Dev.cores_reopen : (d.reopen p).cores = d.cores := by
  simp [Dev.reopen]
theorem Dev.nets_reopen : (d.reopen p).nets = d.nets := by
  have h : (d.reopen p).nets = ((if (d.part p).shut then (d.modPart p Partition.opened).takeOver p
      else d.modPart p Partition.opened).censusBack p).nets := rfl
  rw [h, nets_of_plinth (Dev.plinth_censusBack _ p)]
  split
  · exact nets_of_plinth (Dev.plinth_takeOver _ p)
  · rfl
theorem Dev.standing_reopen : (d.reopen p).standing = (d.modPart p Partition.opened).standing := by
  have htake (e : Dev) : (e.takeOver p).standing = e.standing := by simp [Dev.takeOver]
  have h : (d.reopen p).standing = ((if (d.part p).shut then (d.modPart p Partition.opened).takeOver p
      else d.modPart p Partition.opened).censusBack p).standing := Dev.standing_modRoute _ _ (fun _ => rfl)
  rw [h, Dev.standing_censusBack, Dev.standing_ite, htake, ite_self]
theorem Dev.service_reopen (q : PartId) : ((d.reopen p).part q).service = ((d.modPart p Partition.opened).part q).service :=
  service_of_standing (d.standing_reopen p) q
theorem Dev.queues_reopen (h : (d.part p).shut = false) : (d.reopen p).queues = d.queues := by
  have hcensus (e : Dev) : (e.censusBack p).queues = e.queues := by
    unfold Dev.censusBack
    split <;> rfl
  have hq : (d.reopen p).queues = ((if (d.part p).shut then (d.modPart p Partition.opened).takeOver p
      else d.modPart p Partition.opened).censusBack p).queues := rfl
  rw [hq, hcensus, h]
  rfl
end

/-- Some partitions open again. -/
def Dev.reopenAll (d : Dev) (ps : List PartId) : Dev := ps.foldl (fun d p => d.reopen p) d

section
variable (d : Dev) (ps : List PartId)
theorem Dev.cores_reopenAll : (d.reopenAll ps).cores = d.cores := Dev.cores_foldl _ (fun e p => e.cores_reopen p) ps d
theorem Dev.nets_reopenAll : (d.reopenAll ps).nets = d.nets := foldl_keeps Dev.nets _ (fun e p => e.nets_reopen p) ps d
theorem Dev.psram_reopenAll : (d.reopenAll ps).psram = d.psram := by
  refine foldl_keeps Dev.psram _ (fun e p => ?_) ps d
  have h : (e.reopen p).standing.toGround = (e.modPart p Partition.opened).standing.toGround := ground_of_standing (e.standing_reopen p)
  exact psram_of_base (base_of_ground (h.trans (e.ground_modPart p _ (fun _ => rfl))))
/-- Stopped partitions that open again are released. -/
theorem Dev.cast_reopenAll {p : PartId} (h : p ∈ ps ∧ (d.part p).cast = .stopped ∨ (d.part p).cast = .released) :
    ((d.reopenAll ps).part p).cast = .released := by
  induction ps generalizing d with
  | nil => exact h.resolve_left (fun h => List.not_mem_nil h.1)
  | cons q ps ih =>
    refine ih _ ?_
    have hs : ((d.reopen q).part p).cast = ((d.modPart q Partition.opened).part p).cast :=
      congrArg Service.cast (d.service_reopen q p)
    rw [hs, Dev.part_modPart]
    by_cases hq : q = p
    · subst hq
      rw [if_pos rfl]
      obtain ⟨-, h⟩ | h := h <;> exact .inr (by simp [Partition.opened, h])
    · rw [if_neg hq]
      exact h.imp_left (fun h => ⟨(List.mem_cons.1 h.1).resolve_left (Ne.symm hq), h.2⟩)
/-- Openings of partitions that are not shut leave every queue. -/
theorem Dev.queues_reopenAll (h : ∀ p ∈ ps, (d.part p).shut = false) : (d.reopenAll ps).queues = d.queues := by
  induction ps generalizing d with
  | nil => rfl
  | cons q ps ih =>
    have hshut (p : PartId) (hp : p ∈ ps) : ((d.reopen q).part p).shut = false := by
      rw [show ((d.reopen q).part p).shut = ((d.modPart q Partition.opened).part p).shut from
        congrArg Service.shut (d.service_reopen q p), Dev.part_modPart]
      split
      · rfl
      · exact h p (List.mem_cons_of_mem _ hp)
    exact (ih _ hshut).trans (d.queues_reopen q (h q List.mem_cons_self))
end

/-! ## A casting that waits (R327, R466) -/

section
variable {d : Dev} {n : NetId} {k : Casting} (h : (d.net n).casting = some k)
include h
/-- The next repair round changes the network's casting and the count of rounds of its partitions. -/
theorem Dev.nextRound_effect (inc : List CoreId) : (∃ t, d.nextRound n inc = { d with nets := (d.nextRound n inc).nets, parts := t }) ∧
    ((d.nextRound n inc).net n).casting = some { k with round := k.round + 1, incomplete := inc, paused := false } := by
  simp only [Dev.nextRound, h]
  rw [Dev.modParts_frame]
  refine ⟨⟨_, rfl⟩, ?_⟩
  show ((d.modCasting n _).net n).casting = _
  rw [Dev.modCasting, Dev.net_modNet_same, h]
  rfl
/-- An abort holds the network and its partitions, and touches no core and no byte of memory. -/
theorem Dev.castAbort_effect (code : Nat) (res : W32) : ((d.castAbort n code res).net n).casting = none ∧
    ((d.castAbort n code res).net n).held = true ∧ (∀ p ∈ d.partsOfNet n, ((d.castAbort n code res).part p).cast = .heldAbort) ∧
    (d.castAbort n code res).cores = d.cores ∧ (d.castAbort n code res).psram = d.psram := by
  have hnet (e : Dev) : ((e.modNet n (fun x => { x with casting := none, held := true })).net n).casting = none ∧
      ((e.modNet n (fun x => { x with casting := none, held := true })).net n).held = true := by
    rw [Dev.net_modNet_same]; exact ⟨rfl, rfl⟩
  have htag (e : Dev) : (e.longResult k.tag 8#16).net n = e.net n := by cases k.tag <;> rfl
  refine ⟨?_, ?_, fun p hp => ?_, ?_, ?_⟩
  · simp only [Dev.castAbort, h]
    split <;> exact (congrArg Network.casting (htag _)).trans (hnet _).1
  · simp only [Dev.castAbort, h]
    split <;> exact (congrArg Network.held (htag _)).trans (hnet _).2
  · have hheld : ((d.modParts (d.partsOfNet n) (fun x => { x with
        cast := .heldAbort, scrubbing := false, castErr := castCode code, castStep := BitVec.ofNat 4 k.step, castRes := res })).part p).cast =
        .heldAbort := by
      refine d.cast_modParts _ _ (fun x => ?_) hp
      rfl
    rw [← hheld]
    refine cast_of_standing ?_ p
    simp only [Dev.castAbort, h]
    split <;> simp
  · simp only [Dev.castAbort, h]
    split <;> simp
  · refine psram_of_base (base_of_ground (castsNothing_castAbort d n code res).ground)
end

end Sys2Proof.Machine
end

section
/-! SUPPORT. RESUME, CLOSE, REPAIR and RETEST (R72, R326, R466, R523). -/
namespace Sys2Proof.Machine

open Sys2Proof

/-! ## What firmware's taking of a command leaves -/

section
variable (d : Dev) (tag opc : Byte) (args : List (Nat × W32)) (n : NetId)
@[simp] theorem Dev.nets_commandTaken : (d.commandTaken tag opc args).nets = d.nets := by simp [Dev.commandTaken]
@[simp] theorem Dev.parts_commandTaken : (d.commandTaken tag opc args).parts = d.parts := by simp [Dev.commandTaken]
@[simp] theorem Dev.ing_commandTaken : (d.commandTaken tag opc args).ing = d.ing := by simp [Dev.commandTaken]
@[simp] theorem Dev.health_commandTaken : (d.commandTaken tag opc args).health = d.health := by simp [Dev.commandTaken]
@[simp] theorem Dev.cores_commandTaken : (d.commandTaken tag opc args).cores = d.cores := by simp [Dev.commandTaken]
@[simp] theorem Dev.queues_commandTaken : (d.commandTaken tag opc args).queues = d.queues := by simp [Dev.commandTaken]
@[simp] theorem Dev.psram_commandTaken : (d.commandTaken tag opc args).psram = d.psram := by simp [Dev.commandTaken]
@[simp] theorem Dev.net_commandTaken : (d.commandTaken tag opc args).net n = d.net n := by simp [Dev.net]
@[simp] theorem Dev.part_commandTaken (p : PartId) : (d.commandTaken tag opc args).part p = d.part p := by simp [Dev.part]
@[simp] theorem Dev.core_commandTaken (c : CoreId) : (d.commandTaken tag opc args).core c = d.core c := by simp [Dev.core]
@[simp] theorem Dev.ctx_commandTaken (c : BitVec 10) : (d.commandTaken tag opc args).ctx c = d.ctx c := by simp [Dev.ctx]
@[simp] theorem Dev.group_commandTaken (g : BitVec 4) : (d.commandTaken tag opc args).group n g = d.group n g := by simp [Dev.group]
@[simp] theorem Dev.ctxsOf_commandTaken (g : BitVec 4) : (d.commandTaken tag opc args).ctxsOf n g = d.ctxsOf n g := by simp [Dev.ctxsOf]
@[simp] theorem Dev.partsOfNet_commandTaken : (d.commandTaken tag opc args).partsOfNet n = d.partsOfNet n := by simp [Dev.partsOfNet]
@[simp] theorem Dev.mayResume_commandTaken : (d.commandTaken tag opc args).mayResume n = d.mayResume n := by simp [Dev.mayResume]
@[simp] theorem Dev.repairWaits_commandTaken : (d.commandTaken tag opc args).repairWaits n = d.repairWaits n := by simp [Dev.repairWaits]
@[simp] theorem Dev.retestCores_commandTaken (core : W32) : (d.commandTaken tag opc args).retestCores core = d.retestCores core := by
  simp [Dev.retestCores, Dev.fenced]
end

section
variable (d : Dev) (res : W16) (ws : List W32) (n : NetId)
@[simp] theorem Dev.net_shortEnd : (shortEnd res ws d).net n = d.net n := by simp [shortEnd, Dev.mbxAnswer]
@[simp] theorem Dev.part_shortEnd (p : PartId) : (shortEnd res ws d).part p = d.part p := by simp [shortEnd, Dev.mbxAnswer]
@[simp] theorem Dev.cores_shortEnd : (shortEnd res ws d).cores = d.cores := by simp [shortEnd, Dev.mbxAnswer]
@[simp] theorem Dev.queues_shortEnd : (shortEnd res ws d).queues = d.queues := by simp [shortEnd, Dev.mbxAnswer]
@[simp] theorem Dev.psram_shortEnd : (shortEnd res ws d).psram = d.psram := by simp [shortEnd, Dev.mbxAnswer]
end

/-! ## RESUME (R326) -/

/-- A stopped network as RESUME opens it: its partitions are released, and admission opens at the next frame boundary. -/
def Dev.resumed (d : Dev) (n : NetId) : Dev :=
  (d.reopenAll (d.partsOfNet n)).modNet n (fun x => { x with openAt := true, aclosed := false })

section
variable (d : Dev) (n : NetId)
theorem Dev.net_resumed : (d.resumed n).net n = { d.net n with openAt := true, aclosed := false } := by
  rw [Dev.resumed, Dev.net_modNet_same, Dev.net, Dev.nets_reopenAll, Dev.net]
theorem Dev.parts_resumed : (d.resumed n).parts = (d.reopenAll (d.partsOfNet n)).parts := rfl
theorem Dev.cast_resumed (h : d.mayResume n = true) {p : PartId} (hp : p ∈ d.partsOfNet n) : ((d.resumed n).part p).cast = .released := by
  simp only [Dev.mayResume, Bool.and_eq_true, List.all_eq_true, beq_iff_eq] at h
  rw [Dev.part, Dev.parts_resumed]
  exact d.cast_reopenAll _ (.inl ⟨hp, (h.2 p hp).1.1⟩)
theorem Dev.cores_resumed : (d.resumed n).cores = d.cores := d.cores_reopenAll (d.partsOfNet n)
theorem Dev.psram_resumed : (d.resumed n).psram = d.psram := d.psram_reopenAll (d.partsOfNet n)
theorem Dev.queues_resumed (h : ∀ p ∈ d.partsOfNet n, (d.part p).shut = false) : (d.resumed n).queues = d.queues :=
  d.queues_reopenAll (d.partsOfNet n) h
end

section
variable {s : State} (hf : mboxFree s) (tag : Byte) (net : W32) {n : NetId} (hn : netArg net = some n)

include hf hn
/-- RESUME releases the stopped partitions, and admission opens at the next frame boundary (R326). -/
theorem exec_resume (hm : s.dev.mayResume n = true) : ∃ u, exec (.resume tag net) s = .next u ∧ mbxAnswered u 0#16 ∧
    (∀ p ∈ s.dev.partsOfNet n, (u.dev.part p).cast = .released) ∧ (u.dev.net n).openAt = true ∧
    (u.dev.net n).epoch = (s.dev.net n).epoch ∧ u.store = s.store ∧ u.dev.cores = s.dev.cores ∧ u.dev.psram = s.dev.psram ∧
    ((∀ p ∈ s.dev.partsOfNet n, (s.dev.part p).shut = false) → u.dev.queues = s.dev.queues) := by
  have hrun : exec (.resume tag net) s =
      .next { s with dev := shortEnd 0#16 [] ((s.dev.commandTaken tag 0x13#8 [(1, net)]).resumed n) } := by
    rw [show exec (.resume tag net) s = .next (resumeCmd tag net s) from rfl, resumeCmd, mbxCommand_onDev hf]
    simp only [hn, Dev.mayResume_commandTaken, hm, Bool.not_true, Bool.false_eq_true, if_false]
    rfl
  refine ⟨_, hrun, shortEnd_answered _ _ _ _, ?_⟩
  rw [← Dev.mayResume_commandTaken s.dev tag 0x13#8 [(1, net)]] at hm
  have hcast := fun p => Dev.cast_resumed _ n hm (p := p)
  have hqueues := Dev.queues_resumed (s.dev.commandTaken tag 0x13#8 [(1, net)]) n
  simp only [Dev.partsOfNet_commandTaken, Dev.part_commandTaken, Dev.queues_commandTaken] at hcast hqueues
  simp only [Dev.part_shortEnd, Dev.net_shortEnd, Dev.cores_shortEnd, Dev.psram_shortEnd, Dev.queues_shortEnd, Dev.net_resumed,
    Dev.cores_resumed, Dev.psram_resumed, Dev.net_commandTaken, Dev.cores_commandTaken, Dev.psram_commandTaken]
  exact ⟨hcast, trivial, trivial, trivial, trivial, trivial, hqueues⟩

/-! ## REPAIR (R466) -/

/-- REPAIR lets the casting that waits go on with its next round (R466). -/
theorem exec_repairContinue {k : Casting} (hk : (s.dev.net n).casting = some k) (hp : k.paused = true) :
    ∃ u, exec (.repairContinue tag net) s = .next u ∧ mbxAnswered u 0#16 ∧
      (u.dev.net n).casting = some { k with round := k.round + 1, paused := false } ∧ u.store = s.store ∧ coresQueuesKept s u := by
  have hw : s.dev.repairWaits n = some k := by simp only [Dev.repairWaits, hk, hp, if_true]
  have hrun : exec (.repairContinue tag net) s = .next { s with
      dev := shortEnd 0#16 [] ((s.dev.commandTaken tag 0x16#8 [(1, net), (2, 0#32)]).nextRound n k.incomplete) } := by
    rw [show exec (.repairContinue tag net) s = .next (repairContinue tag net s) from rfl, repairContinue, mbxCommand_onDev hf]
    simp only [hn, Dev.repairWaits_commandTaken, hw]
  rw [← Dev.net_commandTaken s.dev tag 0x16#8 [(1, net), (2, 0#32)]] at hk
  obtain ⟨⟨t, hframe⟩, hround⟩ := Dev.nextRound_effect hk k.incomplete
  refine ⟨_, hrun, shortEnd_answered _ _ _ _, ?_, rfl, ?_, ?_, ?_⟩
  · rw [Dev.net_shortEnd, hround]
  · rw [Dev.cores_shortEnd, congrArg Dev.cores hframe, Dev.cores_commandTaken]
  · rw [Dev.queues_shortEnd, congrArg Dev.queues hframe, Dev.queues_commandTaken]
  · rw [Dev.psram_shortEnd, congrArg Dev.psram hframe, Dev.psram_commandTaken]

/-- REPAIR aborts the casting that waits (R466). -/
theorem exec_repairAbort {k : Casting} (hk : (s.dev.net n).casting = some k) (hp : k.paused = true) :
    ∃ u, exec (.repairAbort tag net) s = .next u ∧ mbxAnswered u 0#16 ∧ (u.dev.net n).casting = none ∧ (u.dev.net n).held = true ∧
      (∀ p ∈ s.dev.partsOfNet n, (u.dev.part p).cast = .heldAbort) ∧ u.store = s.store ∧ u.dev.cores = s.dev.cores ∧
      u.dev.psram = s.dev.psram := by
  have hw : s.dev.repairWaits n = some k := by simp only [Dev.repairWaits, hk, hp, if_true]
  have hrun : exec (.repairAbort tag net) s = .next { s with
      dev := shortEnd 0#16 [] ((s.dev.commandTaken tag 0x16#8 [(1, net), (2, 1#32)]).castAbort n 107 (arg32 n)) } := by
    rw [show exec (.repairAbort tag net) s = .next (repairAbort tag net s) from rfl, repairAbort, mbxCommand_onDev hf]
    simp only [hn, Dev.repairWaits_commandTaken, hw]
  rw [← Dev.net_commandTaken s.dev tag 0x16#8 [(1, net), (2, 1#32)]] at hk
  obtain ⟨hnone, hheld, hparts, hcores, hpsram⟩ := Dev.castAbort_effect hk 107 (arg32 n)
  rw [Dev.partsOfNet_commandTaken] at hparts
  refine ⟨_, hrun, shortEnd_answered _ _ _ _, ?_⟩
  simp only [Dev.net_shortEnd, Dev.part_shortEnd, Dev.cores_shortEnd, Dev.psram_shortEnd, hcores, hpsram, Dev.cores_commandTaken,
    Dev.psram_commandTaken, hnone, hheld]
  exact ⟨trivial, trivial, hparts, trivial, trivial, trivial⟩
end

/-! ## CLOSE (R72) -/

/-- The end of CLOSE for a group of a network, by what closes. -/
def Dev.closeEnd (d : Dev) (n : NetId) (g : BitVec 4) (x : Group) : Dev :=
  if !x.img.lscan then shortEnd 11#16 [] d
  else match d.closeFrameOf n g with
    | some e => shortEnd 0#16 [] e
    | none => shortEnd 11#16 [] d

section
variable {d : Dev} {n : NetId} {g : BitVec 4} {x : Group}
theorem Dev.closeEnd_some (hl : x.img.lscan = true) {e : Dev} (h : d.closeFrameOf n g = some e) : d.closeEnd n g x = shortEnd 0#16 [] e := by
  simp only [Dev.closeEnd, hl, h, Bool.not_true, Bool.false_eq_true, if_false]
/-- The frame that closes ends in every context that it is in. -/
theorem Dev.closeEnd_open (hx : d.group n g = some x) (hl : x.img.lscan = true) {f : W32} {a : Adm}
    (hlive : x.live.find? (fun e => (d.ctxsOf n g).any (fun c => (d.ctx c).memFrame == e.1)) = some (f, a))
    (hin : ∀ c ∈ d.ctxsOf n g, (d.ctx c).memFrame = f →
      (d.ctx c).net = n ∧ (d.ctx c).grp = g ∧ (d.ctx c).begun = true ∧ (d.ctx c).line ≤ (d.ctx c).linesM1.toNat) :
    ∃ e, d.closeEnd n g x = shortEnd 0#16 [] e ∧ ∀ c ∈ d.ctxsOf n g, (d.ctx c).memFrame = f →
      (e.ctx c).memFrame = f + 1#32 ∧ (e.ctx c).begun = false ∧ (e.ctx c).line = 0 := by
  refine ⟨_, Dev.closeEnd_some hl (d.closeFrameOf_eq hx hlive), fun c hc hcf => ?_⟩
  have hended : (((d.endMembers f (d.ctxsOf n g)).recheck n g).ctx c).stand = (d.ctx c).stand.ended := by
    rw [member_of_members (Dev.members_recheck _ _ _) c]
    exact (Dev.member_endMembers (d.ctxsOf n g) ⟨by rw [hx]; rfl, hin⟩).1 c hc hcf
  simp only [Context.stand, Member.ended, Member.mk.injEq] at hended
  obtain ⟨-, -, hframe, hbegun, hline, -⟩ := hended
  exact ⟨hframe.trans (by rw [hcf]), hbegun, hline⟩
theorem Dev.closeEnd_none (h : x.img.lscan = false ∨ d.closeFrameOf n g = none) : d.closeEnd n g x = shortEnd 11#16 [] d := by
  obtain h | h := h
  · simp only [Dev.closeEnd, h, Bool.not_false, if_true]
  · simp only [Dev.closeEnd, h, ite_self]
end

section
variable {s : State} (hf : mboxFree s) (tag : Byte) {net grp : W32}

section
variable {n : NetId} {g : Group} (hn : netArg net = some n) (hgrp : grp.toNat < 16) (hg : s.dev.group n (grp.setWidth 4) = some g)
include hf hn hgrp hg
/-- CLOSE of a group. -/
theorem exec_close : exec (.close tag net grp) s =
    .next { s with dev := (s.dev.commandTaken tag 0x15#8 [(1, net), (2, grp)]).closeEnd n (grp.setWidth 4) g } := by
  rw [show exec (.close tag net grp) s = .next (closeCmd tag net grp s) from rfl, closeCmd, mbxCommand_onDev hf]
  simp only [hn, hgrp, if_true, Dev.group_commandTaken, hg]
  rfl

/-- CLOSE of a line-scan frame that is open ends it in every context that it is in. -/
theorem exec_close_open (hl : g.img.lscan = true) {f : W32} {a : Adm}
    (hlive : g.live.find? (fun e => (s.dev.ctxsOf n (grp.setWidth 4)).any (fun c => (s.dev.ctx c).memFrame == e.1)) = some (f, a))
    (hin : ∀ c ∈ s.dev.ctxsOf n (grp.setWidth 4), (s.dev.ctx c).memFrame = f →
      (s.dev.ctx c).net = n ∧ (s.dev.ctx c).grp = grp.setWidth 4 ∧ (s.dev.ctx c).begun = true ∧
        (s.dev.ctx c).line ≤ (s.dev.ctx c).linesM1.toNat) :
    ∃ u, exec (.close tag net grp) s = .next u ∧ mbxAnswered u 0#16 ∧ u.store = s.store ∧
      ∀ c ∈ s.dev.ctxsOf n (grp.setWidth 4), (s.dev.ctx c).memFrame = f →
        (u.dev.ctx c).memFrame = f + 1#32 ∧ (u.dev.ctx c).begun = false ∧ (u.dev.ctx c).line = 0 := by
  obtain ⟨e, hclose, hended⟩ := Dev.closeEnd_open (d := s.dev.commandTaken tag 0x15#8 [(1, net), (2, grp)]) (f := f) (a := a)
    (by rw [Dev.group_commandTaken]; exact hg) hl (by simpa only [Dev.ctxsOf_commandTaken, Dev.ctx_commandTaken] using hlive)
    (by simpa only [Dev.ctxsOf_commandTaken, Dev.ctx_commandTaken] using hin)
  simp only [Dev.ctxsOf_commandTaken, Dev.ctx_commandTaken] at hended
  have hrun := exec_close hf tag hn hgrp hg
  rw [hclose] at hrun
  exact ⟨_, hrun, shortEnd_answered _ _ _ _, rfl, hended⟩

/-- CLOSE is turned away where no line-scan frame is open. -/
theorem exec_close_away
    (hno : g.img.lscan = false ∨ ∀ e ∈ g.live, ∀ c ∈ s.dev.ctxsOf n (grp.setWidth 4), (s.dev.ctx c).memFrame ≠ e.1) :
    ∃ u, exec (.close tag net grp) s = .next u ∧ mbxAnswered u 11#16 ∧ onlyMailbox s u := by
  have hrun := exec_close hf tag hn hgrp hg
  rw [Dev.closeEnd_none (hno.imp_right (fun h => Dev.closeFrameOf_none _ (x := g) (by rw [Dev.group_commandTaken]; exact hg)
    (by simpa only [Dev.ctxsOf_commandTaken, Dev.ctx_commandTaken] using h)))] at hrun
  exact ⟨_, hrun, shortEnd_answered _ _ _ _, shortEnd_onlyMailbox _ _ _ _ _ _⟩
end

include hf
/-- CLOSE of what is no network or no group. -/
theorem exec_close_bad (h : netArg net = none ∨ 16 ≤ grp.toNat) :
    ∃ u, exec (.close tag net grp) s = .next u ∧ mbxAnswered u 2#16 ∧ onlyMailbox s u := by
  have hrun : exec (.close tag net grp) s =
      .next { s with dev := shortEnd 2#16 [] (s.dev.commandTaken tag 0x15#8 [(1, net), (2, grp)]) } := by
    rw [show exec (.close tag net grp) s = .next (closeCmd tag net grp s) from rfl, closeCmd, mbxCommand_onDev hf]
    cases hn : netArg net with
    | none => rfl
    | some n =>
      have hg : ¬ grp.toNat < 16 := Nat.not_lt.2 (h.resolve_left (by simp [hn]))
      simp only [hg, if_false]
  exact ⟨_, hrun, shortEnd_answered _ _ _ _, shortEnd_onlyMailbox _ _ _ _ _ _⟩
end

/-! ## RETEST (R523) -/

/-- The cores are named for a test. -/
def Dev.retestNamed (d : Dev) (cs : List CoreId) (all : Bool) : Dev :=
  d.modHealth (fun h => { h with retest := cs, retestAll := all, rtPassed := 0#12, rtFailed := 0#12, rtSegs := 0#8 })
/-- What turns RETEST away: a test under way, or a core that is busy. -/
def Dev.retestBusy (d : Dev) (cs : List CoreId) : Bool :=
  !d.health.retest.isEmpty || d.health.retestAll || cs.any (fun c =>
    (d.part (partOfCore c)).act.isSome || (d.part (partOfCore c)).cast == .partly ||
    allNets.any (fun n => (d.net n).casting.isSome && (d.partsOfNet n).contains (partOfCore c)))

theorem Dev.retestBusy_commandTaken (d : Dev) (tag opc : Byte) (args : List (Nat × W32)) (cs : List CoreId) :
    (d.commandTaken tag opc args).retestBusy cs = d.retestBusy cs := by
  simp [Dev.retestBusy]
theorem Dev.retestBusy_false {d : Dev} {cs : List CoreId} (hr : d.health.retest = []) (ha : d.health.retestAll = false)
    (hfree : ∀ x ∈ cs, (d.part (partOfCore x)).act = none ∧ (d.part (partOfCore x)).cast ≠ .partly)
    (hcast : ∀ n, (d.net n).casting = none) : d.retestBusy cs = false := by
  have hany : cs.any (fun c => (d.part (partOfCore c)).act.isSome || (d.part (partOfCore c)).cast == .partly ||
      allNets.any (fun n => (d.net n).casting.isSome && (d.partsOfNet n).contains (partOfCore c))) = false := by
    rw [List.any_eq_false]
    intro x hx
    obtain ⟨hact, hpartly⟩ := hfree x hx
    simp [hact, hpartly, hcast]
  simp only [Dev.retestBusy, hr, ha, hany, List.isEmpty_nil, Bool.not_true, Bool.or_self]

/-- RETEST names the cores that are tested again. -/
theorem exec_retest {s : State} (hf : mboxFree s) (tag : Byte) {core : W32} {c : CoreId} {cs : List CoreId}
    (hlong : s.dev.mbx.longs.length < 4) (hcores : s.dev.retestCores core = some (c :: cs)) (hbusy : s.dev.retestBusy (c :: cs) = false) :
    ∃ u, exec (.retest tag core) s = .next u ∧ mbxAnswered u 0#16 ∧ u.dev.health.retest = c :: cs ∧
      u.dev.health.rtPassed = 0#12 ∧ u.dev.health.rtFailed = 0#12 ∧ u.store = s.store ∧ coresQueuesKept s u := by
  obtain ⟨m, hm, hfree, hdone, hresult⟩ := longStart_passes tag 0x20#8 (fun d => (0#16, d.retestNamed (c :: cs) (core == 0xFFFF#32)))
    (s.dev.commandTaken tag 0x20#8 [(0, core)]) hlong
  have hrun : exec (.retest tag core) s = .next { s with
      dev := { (s.dev.commandTaken tag 0x20#8 [(0, core)]).retestNamed (c :: cs) (core == 0xFFFF#32) with mbx := m } } := by
    rw [show exec (.retest tag core) s = .next (retest tag core s) from rfl, retest, mbxCommand_onDev hf, ← hm]
    rw [← Dev.retestBusy_commandTaken s.dev tag 0x20#8 [(0, core)]] at hbusy
    simp only [Dev.retestBusy] at hbusy
    simp only [Dev.retestCores_commandTaken, hcores, hbusy, Bool.false_eq_true, if_false, List.isEmpty_cons]
    rfl
  refine ⟨_, hrun, ⟨hfree, hdone, hresult⟩, ?_⟩
  exact ⟨rfl, rfl, rfl, rfl, s.dev.cores_commandTaken tag 0x20#8 [(0, core)], s.dev.queues_commandTaken tag 0x20#8 [(0, core)],
    s.dev.psram_commandTaken tag 0x20#8 [(0, core)]⟩

/-- Settles O18: each command is firmware's answer to what it finds, and the run that it starts. -/
theorem resumeCloseAndRepair : Obligations.ResumeCloseAndRepair := by
  unfold Obligations.ResumeCloseAndRepair
  exact ⟨fun s tag net n hf hn hm => exec_resume hf tag net hn hm,
    fun s tag net grp n g f a hf hn hgrp hg hl hlive hin => exec_close_open hf tag hn hgrp hg hl hlive hin,
    fun s tag net grp n g hf hn hgrp hg hno => exec_close_away hf tag hn hgrp hg hno,
    fun s tag net grp hf h => exec_close_bad hf tag h,
    fun s tag net n k hf hn hk hp => exec_repairContinue hf tag net hn hk hp,
    fun s tag net n k hf hn hk hp => exec_repairAbort hf tag net hn hk hp,
    fun s tag core c cs hf hlong hcores hr ha hfree hcast => exec_retest hf tag hlong hcores (Dev.retestBusy_false hr ha hfree hcast)⟩

end Sys2Proof.Machine
end

section
/-! SUPPORT. Maquette frames: how one falls due, takes a slot or displaces a camera frame, and how its block reports reach the checker
(R79, R527, R528). -/
namespace Sys2Proof.Machine

open Sys2Proof

/-! ## Whether a maquette frame is wanted, while frames are refused -/

section
variable (d : Dev) (n : NetId) (g : BitVec 4)
theorem Dev.maqWants_modGroup (f : Group → Group) : (d.modGroup n g f).maqWants n = d.maqWants n := by
  have hnet : (d.modGroup n g f).net n = { d.net n with groups := tblMod none (d.net n).groups g.toNat (fun o => o.map f) } := by
    rw [Dev.modGroup, Dev.net_modNet_same]
  simp only [Dev.maqWants, Dev.mayAdmit, Dev.companion, hnet]
  rfl
theorem Dev.maqWants_modCtx (c : BitVec 10) (f : Context → Context) : (d.modCtx c f).maqWants n = d.maqWants n := rfl
/-- A frame of a group as it is refused whole. -/
def Group.refuse (x : Group) (f : W32) : Group :=
  { x with live := x.live.map (fun y => if y.1 == f then (f, .refused) else y),
           buf := tblMap [] x.buf (fun _ ls => ls.filter (fun l => l.frame != f || l.maq)) }
theorem Dev.refuseFrame_eq (f : W32) : d.refuseFrame n g f = (((d.modGroup n g (fun x => x.refuse f)).ctxsOf n g).foldl
    (fun d c => d.modCtx c (fun x => { x with refused := satInc x.refused })) (d.modGroup n g (fun x => x.refuse f))) := rfl
theorem Dev.nets_refuseFrame (f : W32) : (d.refuseFrame n g f).nets = (d.modGroup n g (fun x => x.refuse f)).nets := by
  rw [Dev.refuseFrame_eq]
  refine foldl_keeps Dev.nets _ (fun e c => ?_) _ _
  rfl
theorem Dev.group_refuseFrame (f : W32) : (d.refuseFrame n g f).group n g = (d.group n g).map (fun x => x.refuse f) := by
  rw [Dev.group, Dev.net, Dev.nets_refuseFrame, ← Dev.net, ← Dev.group, Dev.group_modGroup_same]
theorem Dev.maq_refuseFrame (f : W32) : ((d.refuseFrame n g f).net n).maq = (d.net n).maq := by
  rw [Dev.net, Dev.nets_refuseFrame, ← Dev.net, Dev.modGroup, Dev.net_modNet_same]
theorem Dev.maqWants_refuseFrame (f : W32) : (d.refuseFrame n g f).maqWants n = d.maqWants n := by
  rw [Dev.refuseFrame_eq, ← d.maqWants_modGroup n g (fun x => x.refuse f)]
  refine foldl_keeps (fun e : Dev => e.maqWants n) _ (fun e c => ?_) _ _
  exact e.maqWants_modCtx n c _
end

/-! ## A frame that takes the slot of a waiting camera frame (R79) -/

/-- The slot of frame `f` is taken: the frame is refused, and a maquette frame is to come. -/
def Dev.slotTaken (d : Dev) (n : NetId) (g : BitVec 4) (f : W32) : Dev :=
  (d.refuseFrame n g f).modGroup n g (fun x => { x with taken := true })

section
variable {d : Dev} {n : NetId} {g : BitVec 4} {x : Group} (hx : d.group n g = some x) (f : W32)
include hx
theorem Dev.group_slotTaken : (d.slotTaken n g f).group n g = some { x.refuse f with taken := true } := by
  rw [Dev.slotTaken, Dev.group_modGroup_same, Dev.group_refuseFrame, hx]
  rfl
omit hx in
theorem Dev.maq_slotTaken : ((d.slotTaken n g f).net n).maq = (d.net n).maq := by
  rw [Dev.slotTaken, Dev.modGroup, Dev.net_modNet_same, ← d.maq_refuseFrame n g f]
omit hx in
theorem Dev.maqWants_slotTaken : (d.slotTaken n g f).maqWants n = d.maqWants n := by
  rw [Dev.slotTaken, Dev.maqWants_modGroup, Dev.maqWants_refuseFrame]
/-- The maquette frame enters as soon as no admitted frame is still arriving. -/
theorem Dev.maqTry_slotTaken (hw : d.maqWants n = true) : (d.slotTaken n g f).maqTry n g =
    if (x.refuse f).live.all (fun e => e.2 == .refused) then (d.slotTaken n g f).maqInject n g else d.slotTaken n g f := by
  simp only [Dev.maqTry, Dev.group_slotTaken hx, Dev.maqWants_slotTaken, hw, Bool.and_true, Bool.true_and]
end

/-- The waiting frame is refused. -/
theorem Group.refused_mem_refuse {x : Group} {f : W32} {a : Adm} (h : x.live.find? (fun e => e.2 == .pending) = some (f, a)) :
    (f, Adm.refused) ∈ (x.refuse f).live :=
  List.mem_map.2 ⟨(f, a), List.mem_of_find?_eq_some h, by simp⟩

/-! ## The rows of the maquette engine -/

theorem exec_maquetteDue (s : State) (n : NetId) (h : s.dev.netReleasedNow n = true) :
    ∃ t, exec (.maquetteDue n) s = .next t ∧ onlyNet n s t ∧
      t.dev.net n = { s.dev.net n with maq := { (s.dev.net n).maq with due := true } } := by
  have hrun : exec (.maquetteDue n) s =
      .next { s with dev := s.dev.modNet n (fun x => { x with maq := { x.maq with due := true } }) } := by
    rw [show exec (.maquetteDue n) s = .next { s with dev := maqDue n s.dev } from rfl, maqDue, if_pos h]
  exact ⟨_, hrun, onlyNet_mod s n _, Dev.net_modNet_same _ _ _⟩

/-- A group with a free slot is cast, and has maquette frames. -/
theorem Dev.group_of_freeSlot {d : Dev} {n : NetId} {g : BitVec 4} (h : d.freeSlot n g = true) :
    ∃ x, d.group n g = some x ∧ x.img.maqFrames ≠ [] := by
  simp only [Dev.freeSlot, Bool.and_eq_true] at h
  obtain ⟨-, h⟩ := h
  cases hx : d.group n g with
  | none => simp [hx] at h
  | some x =>
    simp only [hx, Bool.and_eq_true] at h
    exact ⟨x, rfl, by simpa using h.2⟩

/-- A maquette frame that is wanted enters at a free slot, by its own row or the forced one. -/
theorem exec_maquetteAtSlot (s : State) (n : NetId) (g : BitVec 4) (i : Instr) (hw : s.dev.maqWants n = true)
    (hfree : s.dev.freeSlot n g = true) (hi : i = .maquetteInject n g ∨ i = .maquetteForceSlot n g) :
    ∃ t x, exec i s = .next t ∧ (t.dev.net n).maq.counter = (s.dev.net n).maq.counter + 1#32 ∧
      (t.dev.net n).maq.inFlight = (s.dev.net n).maq.inFlight ++ [(s.dev.net n).maq.counter] ∧
      t.dev.group n g = some x ∧ x.last = some ((s.dev.net n).maq.counter, true) := by
  obtain ⟨x, hx, hframes⟩ := Dev.group_of_freeSlot hfree
  have hrun : exec i s = .next { s with dev := s.dev.maqInject n g } := by
    obtain rfl | rfl := hi
    · rw [show exec (.maquetteInject n g) s = .next { s with dev := maqInjectRow n g s.dev } from rfl, maqInjectRow, hw, hfree,
        Bool.and_self, if_pos rfl]
    · rw [show exec (.maquetteForceSlot n g) s = .next { s with dev := maqForce n g s.dev } from rfl]
      simp only [maqForce, hx, hw, hfree, Bool.not_true, Bool.false_or, List.isEmpty_iff, hframes, if_false, if_true]
  have hmaq := Dev.maq_maqInject hx
  obtain ⟨b, hb⟩ := Dev.group_maqInject hx
  exact ⟨_, _, hrun, congrArg Maq.counter hmaq, congrArg Maq.inFlight hmaq, hb, rfl⟩

section
variable {s : State} {n : NetId} {g : BitVec 4} {x : Group} (hw : s.dev.maqWants n = true) (hx : s.dev.group n g = some x)
  (hframes : x.img.maqFrames ≠ []) (hfree : s.dev.freeSlot n g = false)
include hw hx hframes hfree

/-- With no free slot and no frame that waits, the next frame is displaced. -/
theorem exec_maquetteForceSlot_next (hlive : ∀ e ∈ x.live, e.2 ≠ .pending) :
    ∃ t, exec (.maquetteForceSlot n g) s = .next t ∧ onlyNet n s t ∧ t.dev.group n g = some { x with displace := true } := by
  have hnone : x.live.find? (fun e => e.2 == .pending) = none := by simpa using hlive
  have hrun : exec (.maquetteForceSlot n g) s =
      .next { s with dev := s.dev.modGroup n g (fun x => { x with displace := true }) } := by
    rw [show exec (.maquetteForceSlot n g) s = .next { s with dev := maqForce n g s.dev } from rfl]
    simp only [maqForce, hx, hw, hfree, hnone, Bool.not_true, Bool.false_or, List.isEmpty_iff, hframes, if_false, Bool.false_eq_true]
  exact ⟨_, hrun, onlyNet_mod s n _, by rw [Dev.group_modGroup_same, hx]; rfl⟩

/-- With no free slot, the slot of the frame that waits is taken. -/
theorem exec_maquetteForceSlot_pending {f : W32} {a : Adm} (hlive : x.live.find? (fun e => e.2 == .pending) = some (f, a)) :
    ∃ t y, exec (.maquetteForceSlot n g) s = .next t ∧ t.dev.group n g = some y ∧ (f, .refused) ∈ y.live ∧
      ((∃ e ∈ y.live, e.2 ≠ .refused) → y.taken = true ∧ (t.dev.net n).maq = (s.dev.net n).maq) ∧
      ((∀ e ∈ y.live, e.2 = .refused) →
        (t.dev.net n).maq.inFlight = (s.dev.net n).maq.inFlight ++ [(s.dev.net n).maq.counter]) := by
  have hrun : exec (.maquetteForceSlot n g) s = .next { s with dev := (s.dev.slotTaken n g f).maqTry n g } := by
    rw [show exec (.maquetteForceSlot n g) s = .next { s with dev := maqForce n g s.dev } from rfl]
    simp only [maqForce, hx, hw, hfree, hlive, Bool.not_true, Bool.false_or, List.isEmpty_iff, hframes, if_false, Bool.false_eq_true]
    rfl
  have hmem := Group.refused_mem_refuse hlive
  have hgroup := Dev.group_slotTaken hx f
  rw [Dev.maqTry_slotTaken hx f hw] at hrun
  by_cases hall : ∀ e ∈ (x.refuse f).live, e.2 = .refused
  · rw [if_pos (by simpa using hall)] at hrun
    obtain ⟨b, hb⟩ := Dev.group_maqInject hgroup
    have hmaq := Dev.maq_maqInject hgroup
    rw [Dev.maq_slotTaken] at hmaq
    exact ⟨_, _, hrun, hb, hmem, fun ⟨e, he, hne⟩ => absurd (hall e he) hne, fun _ => congrArg Maq.inFlight hmaq⟩
  · rw [if_neg (by simpa using hall)] at hrun
    exact ⟨_, _, hrun, hgroup, hmem, fun _ => ⟨rfl, Dev.maq_slotTaken f⟩, fun h => absurd h hall⟩
end

/-- A block report has arrived. -/
def Dev.reportTaken (d : Dev) (n : NetId) (r : BlockRep) : Dev := { d with blockReps := d.blockReps.erase (n, r) }
/-- A block report on its way reaches the checker while a maquette frame is in flight (R528). -/
theorem exec_blockReport (s : State) (n : NetId) (r : BlockRep) (h : (n, r) ∈ s.dev.blockReps) :
    ∃ t, exec (.blockReport n r) s = .next t ∧
      t = { s with dev := { s.dev with nets := t.dev.nets, blockReps := s.dev.blockReps.erase (n, r) } } ∧
      (∀ m, m ≠ n → t.dev.net m = s.dev.net m) ∧
      t.dev.net n = if (s.dev.net n).maq.inFlight = [] then s.dev.net n
        else { s.dev.net n with maq := { (s.dev.net n).maq with reports := (s.dev.net n).maq.reports ++ [r] } } := by
  have hnet (m : NetId) : (s.dev.reportTaken n r).net m = s.dev.net m := rfl
  have hrun : exec (.blockReport n r) s = .next { s with
      dev := if (s.dev.net n).maq.inFlight.isEmpty then s.dev.reportTaken n r
        else (s.dev.reportTaken n r).modNet n (fun x => { x with maq := { x.maq with reports := x.maq.reports ++ [r] } }) } := by
    rw [show exec (.blockReport n r) s = .next { s with dev := blockReport n r s.dev } from rfl, blockReport, if_neg (by simpa using h)]
    rfl
  by_cases hin : (s.dev.net n).maq.inFlight = []
  · rw [if_pos (by simpa using hin)] at hrun
    rw [if_pos hin]
    exact ⟨_, hrun, rfl, fun m _ => hnet m, hnet n⟩
  · rw [if_neg (by simpa using hin)] at hrun
    rw [if_neg hin]
    refine ⟨_, hrun, rfl, fun m hm => ?_, ?_⟩
    · rw [Dev.net_modNet, if_neg (Ne.symm hm), hnet]
    · rw [Dev.net_modNet_same, hnet]

end Sys2Proof.Machine
end

section
/-! SUPPORT. What the fence of a core leaves of the maquette checks, and the state in which it leaves the core (R82, R510 to R521). -/
namespace Sys2Proof.Machine

open Sys2Proof

/-! ## The checks as a fence finds them -/

/-- The maquette checks and their counts, apart from the frames that a recovery action voids (R82). -/
structure Verdicts where
  maq : NetId → Maq
  probation : NetId → Bool
  run : W32
  mis : W16
  trans : W16
  fenced : W16

/-- A network's maquette frames apart from those voided. -/
def Maq.unvoided (m : Maq) : Maq := { m with voided := [] }

def Dev.verdicts (d : Dev) : Verdicts :=
  ⟨fun n => (d.net n).maq.unvoided, fun n => (d.net n).probation, d.health.mqRun, d.health.mqMis, d.health.mqTrans, d.health.mqFenced⟩

section
variable {d e : Dev} (h : e.verdicts = d.verdicts) (n : NetId)
include h
theorem inFlight_of_verdicts : (e.net n).maq.inFlight = (d.net n).maq.inFlight := congrArg (fun v : Verdicts => (v.maq n).inFlight) h
theorem probation_of_verdicts : (e.net n).probation = (d.net n).probation := congrArg (fun v : Verdicts => v.probation n) h
end
theorem verdicts_of_plinth {d e : Dev} (h : e.plinth = d.plinth) : e.verdicts = d.verdicts := by
  simp only [Dev.verdicts, net_of_plinth h, health_of_plinth h]

section
variable (d : Dev)
@[simp] theorem Dev.verdicts_foldl {α : Type} (f : Dev → α → Dev) (h : ∀ d a, (f d a).verdicts = d.verdicts) (l : List α) (d : Dev) :
    (l.foldl f d).verdicts = d.verdicts := foldl_keeps Dev.verdicts f h l d
@[simp] theorem Dev.verdicts_ite (b : Prop) [Decidable b] (d e : Dev) :
    (if b then d else e).verdicts = if b then d.verdicts else e.verdicts := apply_ite Dev.verdicts b d e
theorem Dev.verdicts_modNet (n : NetId) (f : Network → Network) (hm : ∀ x, (f x).maq.unvoided = x.maq.unvoided)
    (hp : ∀ x, (f x).probation = x.probation) : (d.modNet n f).verdicts = d.verdicts := by
  have hmaq (x : NetId) : ((d.modNet n f).net x).maq.unvoided = (d.net x).maq.unvoided := by
    rw [Dev.net_modNet]
    split
    · next hx => rw [hm, hx]
    · rfl
  have hprob (x : NetId) : ((d.modNet n f).net x).probation = (d.net x).probation := by
    rw [Dev.net_modNet]
    split
    · next hx => rw [hp, hx]
    · rfl
  simp only [Dev.verdicts, hmaq, hprob]
  rfl
@[simp] theorem Dev.verdicts_modPart (p : PartId) (f : Partition → Partition) : (d.modPart p f).verdicts = d.verdicts :=
  verdicts_of_plinth (d.plinth_modPart p f)
@[simp] theorem Dev.verdicts_modParts (ps : List PartId) (f : Partition → Partition) : (d.modParts ps f).verdicts = d.verdicts :=
  verdicts_of_plinth (d.plinth_modParts ps f)
@[simp] theorem Dev.verdicts_modCore (c : CoreId) (f : Core → Core) : (d.modCore c f).verdicts = d.verdicts :=
  verdicts_of_plinth (d.plinth_modCore c f)
@[simp] theorem Dev.verdicts_raise (code : W16) (p : PartId) (args : List W32) : (d.raise code p args).verdicts = d.verdicts :=
  verdicts_of_plinth (d.plinth_raise code p args)
@[simp] theorem Dev.verdicts_raise0 (code : W16) (args : List W32) : (d.raise0 code args).verdicts = d.verdicts :=
  verdicts_of_plinth (d.plinth_raise0 code args)
@[simp] theorem Dev.verdicts_notice (p : PartId) (dst : Endpoint) (opc : Byte) : (d.notice p dst opc).verdicts = d.verdicts :=
  verdicts_of_plinth (d.plinth_notice p dst opc)
@[simp] theorem Dev.verdicts_leavePorts (c : CoreId) (spare : Bool) : (d.leavePorts c spare).verdicts = d.verdicts :=
  verdicts_of_plinth (d.plinth_leavePorts c spare)
@[simp] theorem Dev.verdicts_dropRcvs (c : CoreId) : (d.dropRcvs c).verdicts = d.verdicts := verdicts_of_plinth (d.plinth_dropRcvs c)
@[simp] theorem Dev.verdicts_passRcvs (c : CoreId) (f : W32) : (d.passRcvs c f).verdicts = d.verdicts :=
  verdicts_of_plinth (d.plinth_passRcvs c f)
@[simp] theorem Dev.verdicts_voidVacant (c : CoreId) : (d.voidVacant c).verdicts = d.verdicts := verdicts_of_plinth (d.plinth_voidVacant c)
@[simp] theorem Dev.verdicts_isolate (c : CoreId) : (d.isolate c).verdicts = d.verdicts := verdicts_of_plinth (d.plinth_isolate c)
@[simp] theorem Dev.verdicts_enableAlt (n : NetId) (st : StageId) (a b : ClusterId) : (d.enableAlt n st a b).verdicts = d.verdicts :=
  verdicts_of_plinth (d.plinth_enableAlt n st a b)
@[simp] theorem Dev.verdicts_boundaryDown (p : PartId) : (d.boundaryDown p).verdicts = d.verdicts :=
  verdicts_of_plinth (d.plinth_boundaryDown p)
@[simp] theorem Dev.verdicts_copyMap (l : LogicalId) (p : PartId) (c : Option CoreId) : (d.copyMap l p c).verdicts = d.verdicts :=
  verdicts_of_plinth (d.plinth_copyMap l p c)

@[simp] theorem Dev.verdicts_voidMaq (n : NetId) : (d.voidMaq n).verdicts = d.verdicts :=
  d.verdicts_modNet n _ (fun _ => rfl) (fun _ => rfl)
@[simp] theorem Dev.verdicts_logFence (c : CoreId) (cause : BitVec 3) : (d.logFence c cause).verdicts = d.verdicts := by
  simp only [Dev.logFence, Dev.modHealth, Dev.verdicts]
  split <;> rfl
@[simp] theorem Dev.verdicts_fenceReport (c : CoreId) (cause : BitVec 3) : (d.fenceReport c cause).verdicts = d.verdicts := by
  simp [Dev.fenceReport]
@[simp] theorem Dev.verdicts_fenceIdle (c : CoreId) (cause : BitVec 3) : (d.fenceIdle c cause).verdicts = d.verdicts := by
  simp [Dev.fenceIdle]
@[simp] theorem Dev.verdicts_resetTensor (n : NetId) (t : BitVec 12) : (d.resetTensor n t).verdicts = d.verdicts := by
  have hsend (e : Dev) (was : W32) : (e.sendS2 n t was).verdicts = e.verdicts := by
    dsimp only [Dev.sendS2]
    split
    · rfl
    · split <;> rfl
  have hcal (e : Dev) (f : Cal → Cal) : (e.modCal f).verdicts = e.verdicts := rfl
  dsimp only [Dev.resetTensor]
  split
  · rfl
  · rw [hcal, hsend]
    exact d.verdicts_modNet n _ (fun _ => rfl) (fun _ => rfl)
@[simp] theorem Dev.verdicts_resetCalipers (c : CoreId) : (d.resetCalipers c).verdicts = d.verdicts := by
  simp [Dev.resetCalipers]
@[simp] theorem Dev.verdicts_mapTo (l : LogicalId) (c : Option CoreId) : (d.mapTo l c).verdicts = d.verdicts := by
  have hmap (e : Dev) (t : Tbl (Option CoreId)) : (({ e with map := t } : Dev).bumpMap).verdicts = e.verdicts := rfl
  dsimp only [Dev.mapTo]
  rw [hmap]
  cases c <;> cases tblGet none d.map l.toNat <;> simp
@[simp] theorem Dev.verdicts_stopNet (n : NetId) (p : PartId) (why : Nat) : (d.stopNet n p why).verdicts = d.verdicts := by
  dsimp only [Dev.stopNet]
  rw [Dev.verdicts_raise, Dev.verdicts_modPart]
  split
  · exact (d.batchLost n).verdicts_modNet n _ (fun _ => rfl) (fun _ => rfl)
  · exact d.verdicts_modNet n _ (fun _ => rfl) (fun _ => rfl)
@[simp] theorem Dev.verdicts_castAbort (n : NetId) (code : Nat) (res : W32) : (d.castAbort n code res).verdicts = d.verdicts := by
  have hresult (e : Dev) (tag : Option Byte) (r : W16) : (e.longResult tag r).verdicts = e.verdicts := by cases tag <;> rfl
  have hnet (e : Dev) : (e.modNet n (fun x => { x with casting := none, held := true })).verdicts = e.verdicts :=
    e.verdicts_modNet n _ (fun _ => rfl) (fun _ => rfl)
  dsimp only [Dev.castAbort]
  split
  · rfl
  · split <;> simp [hresult, hnet]
@[simp] theorem Dev.verdicts_degrade (n : NetId) (st : StageId) (c : CoreId) : (d.degrade n st c).verdicts = d.verdicts := by
  have hnet (e : Dev) (f : W32) : (e.modNet n (fun x => { x with switchAt := x.switchAt ++ [(st, f)] })).verdicts = e.verdicts :=
    e.verdicts_modNet n _ (fun _ => rfl) (fun _ => rfl)
  dsimp only [Dev.degrade]
  rw [hnet]
  simp
@[simp] theorem Dev.verdicts_secondFault (c : CoreId) : (d.secondFault c).verdicts = d.verdicts := by
  simp [Dev.secondFault]
/-- A fence leaves the maquette checks: it only voids the frames in flight. -/
theorem Dev.verdicts_fence (c : CoreId) (cause : BitVec 3) : (d.fence c cause).verdicts = d.verdicts := by
  dsimp only [Dev.fence]
  cases d.chooseSpare c <;> simp
end

/-! ## The fenced core -/

section
variable (d : Dev) (c : CoreId)
theorem Dev.state_isolate : ((d.isolate c).core c).state = .fenced := by
  have h : (d.isolate c).core c = (d.modCore c (fun k => { k with state := .fenced, assigned := false, spare := false, wait := .none })).core c :=
    rfl
  rw [h, Dev.core_modCore_same]
theorem state_of_cores {d e : Dev} (h : e.cores = d.cores) (c : CoreId) : (e.core c).state = (d.core c).state := by
  rw [Dev.core, Dev.core, h]
@[simp] theorem Dev.cores_copyMap (l : LogicalId) (p : PartId) (x : Option CoreId) : (d.copyMap l p x).cores = d.cores := by
  refine Dev.cores_foldl _ (fun _ _ => ?_) _ d
  rfl
@[simp] theorem Dev.cores_mapTo (l : LogicalId) (x : Option CoreId) : (d.mapTo l x).cores = d.cores := by
  have hmap (e : Dev) (t : Tbl (Option CoreId)) : (({ e with map := t } : Dev).bumpMap).cores = e.cores := rfl
  dsimp only [Dev.mapTo]
  rw [hmap]
  cases x <;> cases tblGet none d.map l.toNat <;> simp
@[simp] theorem Dev.cores_stopNet (n : NetId) (p : PartId) (why : Nat) : (d.stopNet n p why).cores = d.cores := by
  dsimp only [Dev.stopNet]
  rw [Dev.cores_raise, Dev.modPart_cores]
  split <;> rfl
@[simp] theorem Dev.cores_castAbort (n : NetId) (code : Nat) (res : W32) : (d.castAbort n code res).cores = d.cores := by
  cases hk : (d.net n).casting with
  | none => simp only [Dev.castAbort, hk]
  | some k =>
    obtain ⟨-, -, -, hcores, -⟩ := Dev.castAbort_effect hk code res
    exact hcores
@[simp] theorem Dev.cores_enableAlt (n : NetId) (st : StageId) (a b : ClusterId) : (d.enableAlt n st a b).cores = d.cores := by
  dsimp only [Dev.enableAlt]
  split
  · rfl
  · refine Dev.cores_foldl _ (fun e g => ?_) _ d
    split <;> rfl
@[simp] theorem Dev.cores_passRcvs (f : W32) : (d.passRcvs c f).cores = d.cores := by
  refine Dev.cores_foldl _ (fun e o => ?_) _ d
  cases o <;> simp
@[simp] theorem Dev.cores_voidVacant : (d.voidVacant c).cores = d.cores := by
  refine Dev.cores_foldl _ (fun e o => ?_) _ d
  cases o <;> rfl
@[simp] theorem Dev.cores_degrade (n : NetId) (st : StageId) : (d.degrade n st c).cores = d.cores := by
  simp [Dev.degrade]
@[simp] theorem Dev.cores_secondFault : (d.secondFault c).cores = d.cores := by
  simp [Dev.secondFault]
/-- A fence leaves its core fenced, whatever becomes of the network. -/
theorem Dev.state_fence (cause : BitVec 3) : ((d.fence c cause).core c).state = .fenced := by
  obtain ⟨e, he⟩ : ∃ e : Dev, (d.fence c cause).cores = (e.isolate c).cores := by
    dsimp only [Dev.fence]
    split
    · exact ⟨_, rfl⟩
    · split
      · exact ⟨_, by simp; rfl⟩
      · split
        · exact ⟨_, by simp; rfl⟩
        · split
          · exact ⟨_, by simp; rfl⟩
          · split
            · exact ⟨_, by simp; rfl⟩
            · exact ⟨_, by simp; rfl⟩
  rw [state_of_cores he, Dev.state_isolate]
end

end Sys2Proof.Machine
end

section
/-! SUPPORT. The check of a maquette frame (R82, R529 to R531) and of a trial's frame (R379). -/
namespace Sys2Proof.Machine

open Sys2Proof

/-! ## What no check touches -/

/-- The cores, the queues and the memory. -/
structure Silicon where
  cores : Tbl Core
  queues : Tbl Queue
  psram : Tbl Byte

def Dev.silicon (d : Dev) : Silicon := ⟨d.cores, d.queues, d.psram⟩

section
variable (d : Dev)
@[simp] theorem Dev.silicon_modNet (n : NetId) (f : Network → Network) : (d.modNet n f).silicon = d.silicon := by rfl
@[simp] theorem Dev.silicon_modHealth (f : Health → Health) : (d.modHealth f).silicon = d.silicon := by rfl
@[simp] theorem Dev.silicon_modAdapt (u : BitVec 2) (f : Adapt → Adapt) : (d.modAdapt u f).silicon = d.silicon := by rfl
@[simp] theorem Dev.silicon_raise (code : W16) (p : PartId) (args : List W32) : (d.raise code p args).silicon = d.silicon := by rfl
@[simp] theorem Dev.silicon_raise0 (code : W16) (args : List W32) : (d.raise0 code args).silicon = d.silicon := by rfl
@[simp] theorem Dev.silicon_modParts (ps : List PartId) (f : Partition → Partition) : (d.modParts ps f).silicon = d.silicon := by
  rw [Dev.modParts_frame]
  rfl
@[simp] theorem Dev.silicon_ite (b : Prop) [Decidable b] (d e : Dev) :
    (if b then d else e).silicon = if b then d.silicon else e.silicon := apply_ite Dev.silicon b d e
end
theorem coresQueuesKept_of_silicon {s : State} {d : Dev} (h : d.silicon = s.dev.silicon) : coresQueuesKept s { s with dev := d } :=
  ⟨congrArg Silicon.cores h, congrArg Silicon.queues h, congrArg Silicon.psram h⟩

/-! ## A frame that is checked -/

/-- The oldest frame in flight leaves the checker. -/
def Dev.frameChecked (d : Dev) (n : NetId) : Dev := d.modNet n (fun x => { x with maq := x.maq.checked })
/-- Its check counts a run. -/
def Dev.frameRun (d : Dev) (n : NetId) : Dev := (d.frameChecked n).modHealth (fun h => { h with mqRun := satInc h.mqRun })

section
variable (d : Dev) (n : NetId)
theorem Dev.net_frameChecked : (d.frameChecked n).net n = { d.net n with maq := (d.net n).maq.checked } := Dev.net_modNet_same ..
theorem Dev.net_frameRun : (d.frameRun n).net n = { d.net n with maq := (d.net n).maq.checked } := d.net_frameChecked n
theorem Dev.health_frameRun : (d.frameRun n).health = { d.health with mqRun := satInc d.health.mqRun } := rfl
theorem Dev.silicon_frameRun : (d.frameRun n).silicon = d.silicon := rfl
theorem Dev.partsOfNet_frameRun : (d.frameRun n).partsOfNet n = d.partsOfNet n := rfl
theorem Dev.trialUnit_frameRun : (d.frameRun n).trialUnit n = d.trialUnit n := rfl
theorem Dev.adaptU_frameRun (u : BitVec 2) : (d.frameRun n).adaptU u = d.adaptU u := rfl
end

section
variable {d : Dev} {n : NetId} {f : W32} {l : List W32} (ok : Bool) (tn : BitVec 12) (hin : (d.net n).maq.inFlight = f :: l)
include hin
theorem Dev.inFlight_checked : (d.net n).maq.checked.inFlight = l := by
  rw [Maq.checked, hin]
  rfl
theorem maqCheck_voided (hv : f ∈ (d.net n).maq.voided) (ht : (d.net n).maq.trial = false) :
    maqCheck n ok tn d = (d.frameChecked n).modNet n (fun x => { x with maq := { x.maq with due := true } }) := by
  simp only [maqCheck, hin, List.contains_iff_mem.2 hv, ht, if_true, Bool.false_eq_true, if_false]
  rfl
theorem maqCheck_regular (hv : f ∉ (d.net n).maq.voided) (ht : (d.net n).maq.trial = false) :
    maqCheck n ok tn d = (d.frameRun n).maqRegular n f (d.maqBad n f ok tn).2 (d.maqBad n f ok tn).1.isNone
      ((d.maqBad n f ok tn).1.getD 0#12) := by
  have hc : (d.net n).maq.voided.contains f = false := by simpa using hv
  simp only [maqCheck, hin, hc, ht, Bool.false_eq_true, if_false]
  rfl
theorem maqCheck_trial (hv : f ∉ (d.net n).maq.voided) (ht : (d.net n).maq.trial = true) {u : BitVec 2} (hu : d.trialUnit n = some u) :
    maqCheck n ok tn d = (d.frameRun n).trialCheck n u f (d.maqBad n f ok tn).1.isNone ((d.maqBad n f ok tn).1.getD 0#12) := by
  have hc : (d.net n).maq.voided.contains f = false := by simpa using hv
  have hu' : (d.frameRun n).trialUnit n = some u := (d.trialUnit_frameRun n).trans hu
  unfold Dev.frameRun Dev.frameChecked at hu'
  simp only [maqCheck, hin, hc, ht, Bool.false_eq_true, if_false, hu']
  rfl
end

/-! ## A regular frame: a pass, and a mismatch (R529, R530) -/

/-- A network that is not on probation is as its checks leave it. -/
theorem Dev.probationCheck_off {d : Dev} {n : NetId} (h : (d.net n).probation = false) (pass : Bool) : d.probationCheck n pass = d := by
  simp only [Dev.probationCheck, h, Bool.not_false, if_true]

section
variable (d : Dev) (n : NetId)
/-- Outputs and block reports within their bounds: a confirmation frame that passes makes its mismatch a transient one. -/
def Dev.maqPassed : Dev :=
  (if (d.net n).maq.confirm then d.modHealth (fun h => { h with mqTrans := satInc h.mqTrans }) else d).modNet n
    (fun x => { x with maq := { x.maq with confirm := false, suspect := none } })
theorem Dev.net_maqPassed : (d.maqPassed n).net n = { d.net n with maq := { (d.net n).maq with confirm := false, suspect := none } } := by
  rw [Dev.maqPassed, Dev.net_modNet_same]
  split <;> rfl
theorem Dev.health_maqPassed : (d.maqPassed n).health =
    { d.health with mqTrans := if (d.net n).maq.confirm then satInc d.health.mqTrans else d.health.mqTrans } := by
  unfold Dev.maqPassed
  split <;> rfl
theorem Dev.silicon_maqPassed : (d.maqPassed n).silicon = d.silicon := by
  simp [Dev.maqPassed]
theorem Dev.maqRegular_pass (f : W32) (tn : BitVec 12) : d.maqRegular n f [] true tn = (d.maqPassed n).probationCheck n true := rfl

/-- The suspect of the mismatch that a frame was to confirm, where the frame shows it again. -/
def Maq.confirmed (m : Maq) (bad : List BlockRep) : Option (StageId × BitVec 10) :=
  match m.confirm, m.suspect with
  | true, some (s, c) => if bad.any (fun r => r.stage == s && r.cidx == c) then some (s, c) else none
  | _, _ => none
theorem Maq.confirmed_first {m : Maq} (h : m.confirm = false) (bad : List BlockRep) : m.confirmed bad = none := by
  simp only [Maq.confirmed, h]
theorem Maq.confirmed_again {m : Maq} (h : m.confirm = true) {st : StageId} {ci : BitVec 10} (hs : m.suspect = some (st, ci))
    {bad : List BlockRep} {r : BlockRep} (hr : r ∈ bad) (hst : r.stage = st) (hci : r.cidx = ci) : m.confirmed bad = some (st, ci) := by
  have hany : bad.any (fun r => r.stage == st && r.cidx == ci) = true := List.any_eq_true.2 ⟨r, hr, by simp [hst, hci]⟩
  simp only [Maq.confirmed, h, hs, hany, if_true]

/-- Where the mismatch of a frame lies, by the stages of the network in graph order. -/
def Dev.maqWhere (bad : List BlockRep) (tn : BitVec 12) : MaqWhere :=
  localise ((((d.net n).img).map (fun im => im.stages.map (fun s => s.num))).getD []) bad tn
/-- A mismatch reported, and a confirmed one fenced. -/
def Dev.maqFailed (f : W32) (bad : List BlockRep) (tn : BitVec 12) : Dev :=
  match (d.net n).maq.confirmed bad with
  | some (s, c) => (d.maqMismatch n f (d.maqWhere n bad tn)).maqFence n s c
  | none => d.maqMismatch n f (d.maqWhere n bad tn)
theorem Dev.maqRegular_fail (f : W32) (bad : List BlockRep) (ok : Bool) (tn : BitVec 12) (h : (ok && bad.isEmpty) = false) :
    d.maqRegular n f bad ok tn = (d.maqFailed n f bad tn).probationCheck n false := by
  unfold Dev.maqRegular
  rw [h]
  rfl

theorem Dev.net_maqMismatch (f : W32) (w : MaqWhere) : ∃ x, (d.maqMismatch n f w).net n =
    { d.net n with maq := { (d.net n).maq with due := true, confirm := true, suspect := x } } := by
  have hraise (e : Dev) (code : W16) (p : PartId) (args : List W32) : (e.raise code p args).net n = e.net n := rfl
  refine ⟨match w.stage, w.cidx with | some s, some c => some (s, c) | _, _ => none, ?_⟩
  dsimp only [Dev.maqMismatch]
  rw [hraise, Dev.net_modNet_same]
  rfl
theorem Dev.health_maqMismatch (f : W32) (w : MaqWhere) : ∃ k, (d.maqMismatch n f w).health =
    { d.health with mqMis := satInc d.health.mqMis, mqUnloc := k } := ⟨_, rfl⟩
theorem Dev.silicon_maqMismatch (f : W32) (w : MaqWhere) : (d.maqMismatch n f w).silicon = d.silicon := rfl
theorem Dev.partsOfNet_maqMismatch (f : W32) (w : MaqWhere) : (d.maqMismatch n f w).partsOfNet n = d.partsOfNet n := rfl
theorem coreAt_of_silicon {d e : Dev} (h : e.silicon = d.silicon) (st : StageId) (ci : BitVec 10) :
    e.coreAt n st ci = d.coreAt n st ci := by
  have hcores : e.cores = d.cores := congrArg Silicon.cores h
  simp only [Dev.coreAt, Dev.coresOfStage, Dev.coresOfNet, Dev.coreIds, Dev.core, hcores]

/-- The confirmation is over. -/
def Dev.confirmOver : Dev := d.modNet n (fun x => { x with maq := { x.maq with confirm := false, suspect := none, due := false } })
theorem Dev.net_confirmOver : (d.confirmOver n).net n =
    { d.net n with maq := { (d.net n).maq with confirm := false, suspect := none, due := false } } := Dev.net_modNet_same ..
theorem Dev.coreAt_confirmOver (st : StageId) (ci : BitVec 10) : (d.confirmOver n).coreAt n st ci = d.coreAt n st ci :=
  coreAt_of_silicon n (Dev.silicon_modNet ..) st ci
/-- The suspect's fence is counted. -/
def Dev.maqConfirmed : Dev := ((d.confirmOver n).modNet n (fun x => { x with maq := { x.maq with fenced := x.maq.fenced + 1 } })).modHealth
  (fun h => { h with mqFenced := satInc h.mqFenced })
theorem Dev.net_maqConfirmed : (d.maqConfirmed n).net n = { d.net n with maq := { (d.net n).maq with
    confirm := false, suspect := none, due := false, fenced := (d.net n).maq.fenced + 1 } } := by
  have h : (d.maqConfirmed n).net n =
      ((d.confirmOver n).modNet n (fun x => { x with maq := { x.maq with fenced := x.maq.fenced + 1 } })).net n := rfl
  rw [h, Dev.net_modNet_same, Dev.net_confirmOver]
theorem Dev.maqFence_eq (st : StageId) (ci : BitVec 10) : d.maqFence n st ci =
    match d.coreAt n st ci with | none => d.confirmOver n | some c => (d.maqConfirmed n).fence c 6#3 := by
  rw [← d.coreAt_confirmOver n st ci]
  rfl
/-- What a fence by the checker leaves of the checks. -/
theorem Dev.maqFence_effect (st : StageId) (ci : BitVec 10) : ((d.maqFence n st ci).net n).maq.inFlight = (d.net n).maq.inFlight ∧
    ((d.maqFence n st ci).net n).probation = (d.net n).probation ∧ (d.maqFence n st ci).health.mqRun = d.health.mqRun ∧
    (d.maqFence n st ci).health.mqMis = d.health.mqMis ∧ ∀ c, d.coreAt n st ci = some c →
      (d.maqFence n st ci).health.mqFenced = satInc d.health.mqFenced ∧ ((d.maqFence n st ci).core c).state = .fenced := by
  rw [Dev.maqFence_eq]
  cases hc : d.coreAt n st ci with
  | none =>
    rw [show (d.confirmOver n).health = d.health from rfl, Dev.net_confirmOver]
    exact ⟨rfl, rfl, rfl, rfl, fun c h => absurd h (by simp)⟩
  | some c =>
    have h := (d.maqConfirmed n).verdicts_fence c 6#3
    refine ⟨?_, ?_, ?_, ?_, fun c' hc' => ?_⟩
    · rw [inFlight_of_verdicts h, Dev.net_maqConfirmed]
    · rw [probation_of_verdicts h, Dev.net_maqConfirmed]
    · exact (congrArg Verdicts.run h).trans rfl
    · exact (congrArg Verdicts.mis h).trans rfl
    · obtain rfl := Option.some.inj hc'
      exact ⟨(congrArg Verdicts.fenced h).trans rfl, Dev.state_fence _ c _⟩
end

end Sys2Proof.Machine
end

section
/-! SUPPORT. The rows of the maquette checker (R82, R379, R529 to R531). -/
namespace Sys2Proof.Machine

open Sys2Proof

/-! ## Networks on probation (R531) -/

section
variable {d : Dev} {n : NetId} (h : (d.net n).probation = true)
include h
theorem Dev.probationCheck_pass : ((d.probationCheck n true).net n).maq.passed = true := by
  simp only [Dev.probationCheck, h, Bool.not_true, Bool.false_eq_true, if_false, if_true, Dev.net_modNet_same]
/-- The third frame without a pass leaves the network held. -/
theorem Dev.probationCheck_third (ht : 2 ≤ (d.net n).maq.tries) : ((d.probationCheck n false).net n).held = true ∧
    ∀ p ∈ d.partsOfNet n, ((d.probationCheck n false).part p).cast = .heldAbort := by
  have ht' : 3 ≤ (d.net n).maq.tries + 1 := by omega
  obtain ⟨e, he, hparts⟩ : ∃ e : Dev, d.probationCheck n false = e.holdNet n ∧ e.partsOfNet n = d.partsOfNet n := by
    simp only [Dev.probationCheck, h, Bool.not_true, Bool.false_eq_true, if_false, ht', if_true]
    exact ⟨_, rfl, rfl⟩
  rw [he]
  refine ⟨?_, fun p hp => ?_⟩
  · rw [Dev.holdNet, net_of_plinth (Dev.plinth_modParts _ _ _) n, Dev.net_modNet_same]
  · rw [← hparts] at hp
    refine Dev.cast_modParts _ _ _ (fun _ => ?_) hp
    rfl
end
theorem Dev.silicon_probationCheck (d : Dev) (n : NetId) (pass : Bool) : (d.probationCheck n pass).silicon = d.silicon := by
  simp [Dev.probationCheck, Dev.holdNet]
theorem Dev.health_probationCheck (d : Dev) (n : NetId) (pass : Bool) : (d.probationCheck n pass).health = d.health := by
  dsimp only [Dev.probationCheck, Dev.holdNet]
  split
  · rfl
  · split
    · rfl
    · split
      · rw [Dev.modParts_frame]
        rfl
      · rfl

/-! ## A regular frame -/

section
variable {s : State} {n : NetId} {f : W32} {l : List W32} (ok : Bool) (tn : BitVec 12)
  (hin : (s.dev.net n).maq.inFlight = f :: l)
include hin

/-- A frame that was voided counts nothing, and another falls due (R82). -/
theorem exec_maquetteCheck_voided (hv : f ∈ (s.dev.net n).maq.voided) (ht : (s.dev.net n).maq.trial = false) :
    ∃ t, exec (.maquetteCheck n ok tn) s = .next t ∧ onlyNet n s t ∧ (t.dev.net n).maq.inFlight = l ∧ (t.dev.net n).maq.due = true := by
  have hrun : exec (.maquetteCheck n ok tn) s = .next { s with dev := maqCheck n ok tn s.dev } := rfl
  rw [maqCheck_voided ok tn hin hv ht] at hrun
  have hnet := Dev.net_modNet_same (s.dev.frameChecked n) n (fun x => { x with maq := { x.maq with due := true } })
  rw [Dev.net_frameChecked] at hnet
  exact ⟨_, hrun, onlyNet_trans (onlyNet_mod s n _) (onlyNet_mod _ n _), by rw [hnet]; exact Dev.inFlight_checked hin, by rw [hnet]⟩

variable (hv : f ∉ (s.dev.net n).maq.voided) (ht : (s.dev.net n).maq.trial = false)
include hv ht

theorem exec_maquetteCheck_pass (hout : (s.dev.maqBad n f ok tn).1 = none) (hblocks : (s.dev.maqBad n f ok tn).2 = []) :
    exec (.maquetteCheck n ok tn) s = .next { s with dev := ((s.dev.frameRun n).maqPassed n).probationCheck n true } := by
  rw [show exec (.maquetteCheck n ok tn) s = .next { s with dev := maqCheck n ok tn s.dev } from rfl, maqCheck_regular ok tn hin hv ht,
    hout, hblocks, Option.isNone_none, Dev.maqRegular_pass]
theorem exec_maquetteCheck_fail (hbad : (s.dev.maqBad n f ok tn).1 ≠ none ∨ (s.dev.maqBad n f ok tn).2 ≠ []) :
    exec (.maquetteCheck n ok tn) s = .next { s with
      dev := ((s.dev.frameRun n).maqFailed n f (s.dev.maqBad n f ok tn).2 ((s.dev.maqBad n f ok tn).1.getD 0#12)).probationCheck n false } := by
  have h : ((s.dev.maqBad n f ok tn).1.isNone && (s.dev.maqBad n f ok tn).2.isEmpty) = false := by
    obtain h | h := hbad
    · rw [Option.isNone_eq_false_iff.2 (Option.isSome_iff_ne_none.2 h), Bool.false_and]
    · rw [List.isEmpty_eq_false_iff.2 h, Bool.and_false]
  rw [show exec (.maquetteCheck n ok tn) s = .next { s with dev := maqCheck n ok tn s.dev } from rfl, maqCheck_regular ok tn hin hv ht,
    Dev.maqRegular_fail _ _ _ _ _ _ h]
end

/-- A regular frame that passes. -/
theorem Dev.maqPassed_frameRun {d : Dev} {n : NetId} {f : W32} {l : List W32} (hin : (d.net n).maq.inFlight = f :: l) :
    (((d.frameRun n).maqPassed n).net n).maq.inFlight = l ∧ (((d.frameRun n).maqPassed n).net n).maq.due = (d.net n).maq.due ∧
    (((d.frameRun n).maqPassed n).net n).maq.confirm = false ∧
    (((d.frameRun n).maqPassed n).net n).probation = (d.net n).probation ∧
    ((d.frameRun n).maqPassed n).health.mqRun = satInc d.health.mqRun ∧ ((d.frameRun n).maqPassed n).health.mqMis = d.health.mqMis ∧
    ((d.frameRun n).maqPassed n).health.mqTrans =
      (if (d.net n).maq.confirm then satInc d.health.mqTrans else d.health.mqTrans) ∧
    ((d.frameRun n).maqPassed n).silicon = d.silicon := by
  rw [Dev.net_maqPassed, Dev.health_maqPassed, Dev.silicon_maqPassed, Dev.net_frameRun, Dev.health_frameRun, Dev.silicon_frameRun]
  exact ⟨Dev.inFlight_checked hin, rfl, rfl, rfl, rfl, rfl, rfl, rfl⟩

/-- A regular frame with a mismatch: a first one asks for a confirmation, a confirmed one fences its core. -/
theorem Dev.maqFailed_frameRun {d : Dev} {n : NetId} {f : W32} {l : List W32} (hin : (d.net n).maq.inFlight = f :: l)
    (bad : List BlockRep) (tn : BitVec 12) {e : Dev} (he : (d.frameRun n).maqFailed n f bad tn = e) :
    (e.net n).maq.inFlight = l ∧ (e.net n).probation = (d.net n).probation ∧ e.health.mqRun = satInc d.health.mqRun ∧
    e.health.mqMis = satInc d.health.mqMis ∧
    ((d.net n).maq.confirm = false → (e.net n).maq.due = true ∧ (e.net n).maq.confirm = true ∧
      (e.net n).maq.tries = (d.net n).maq.tries ∧ e.silicon = d.silicon ∧ e.partsOfNet n = d.partsOfNet n) ∧
    (∀ st ci c r, (d.net n).maq.confirm = true → (d.net n).maq.suspect = some (st, ci) → r ∈ bad → r.stage = st → r.cidx = ci →
      d.coreAt n st ci = some c → e.health.mqFenced = satInc d.health.mqFenced ∧ (e.core c).state = .fenced) := by
  have hconfirm : ((d.frameRun n).net n).maq.confirm = (d.net n).maq.confirm := by rw [Dev.net_frameRun]; rfl
  have hsuspect : ((d.frameRun n).net n).maq.suspect = (d.net n).maq.suspect := by rw [Dev.net_frameRun]; rfl
  obtain ⟨x, hnet⟩ := (d.frameRun n).net_maqMismatch n f ((d.frameRun n).maqWhere n bad tn)
  obtain ⟨k, hhealth⟩ := (d.frameRun n).health_maqMismatch n f ((d.frameRun n).maqWhere n bad tn)
  rw [Dev.net_frameRun] at hnet
  rw [Dev.health_frameRun] at hhealth
  have hlist := Dev.inFlight_checked hin
  cases hagain : ((d.frameRun n).net n).maq.confirmed bad with
  | none =>
    simp only [Dev.maqFailed, hagain] at he
    rw [he] at hnet hhealth
    have hsil : e.silicon = d.silicon := by rw [← he, Dev.silicon_maqMismatch, Dev.silicon_frameRun]
    have hparts : e.partsOfNet n = d.partsOfNet n := by rw [← he, Dev.partsOfNet_maqMismatch, Dev.partsOfNet_frameRun]
    rw [hnet, hhealth]
    refine ⟨hlist, rfl, rfl, rfl, fun _ => ⟨rfl, rfl, rfl, hsil, hparts⟩, fun st ci c r hc hs hr hst hci _ => ?_⟩
    rw [Maq.confirmed_again (hconfirm.trans hc) (hsuspect.trans hs) hr hst hci] at hagain
    exact absurd hagain (by simp)
  | some q =>
    obtain ⟨st, ci⟩ := q
    simp only [Dev.maqFailed, hagain] at he
    obtain ⟨hin', hprob, hrun, hmis, hfence⟩ :=
      ((d.frameRun n).maqMismatch n f ((d.frameRun n).maqWhere n bad tn)).maqFence_effect n st ci
    rw [hnet] at hin' hprob
    rw [hhealth] at hrun hmis hfence
    rw [← he]
    refine ⟨hin'.trans hlist, hprob, hrun, hmis, fun hc => ?_, fun st' ci' c r hc hs hr hst hci hat => ?_⟩
    · rw [Maq.confirmed_first (hconfirm.trans hc)] at hagain
      exact absurd hagain (by simp)
    · rw [Maq.confirmed_again (hconfirm.trans hc) (hsuspect.trans hs) hr hst hci] at hagain
      cases hagain
      exact hfence c ((coreAt_of_silicon n (Dev.silicon_maqMismatch _ n f _) st ci).trans hat)

/-! ## A trial's frame (R379) -/

section
variable (d : Dev) (n : NetId) (u : BitVec 2) (f : W32) (tn : BitVec 12)
/-- The candidate of a unit is discarded, and the frames of its trial with it. -/
def Dev.trialDropped : Dev :=
  (d.modAdapt u (fun a => { a.discard with discTrial := satInc a.discTrial })).modNet n
    (fun x => { x with maq := { x.maq with inFlight := [], voided := [], outs := [], trial := false } })
theorem Dev.trialCheck_fail :
    (d.trialCheck n u f false tn).adaptU u = { (d.adaptU u).discard with discTrial := satInc (d.adaptU u).discTrial } ∧
    ((d.trialCheck n u f false tn).net n).maq.trial = false ∧ (d.trialCheck n u f false tn).health = d.health ∧
    (d.trialCheck n u f false tn).silicon = d.silicon := by
  obtain ⟨args, h⟩ : ∃ args, d.trialCheck n u f false tn = (d.trialDropped n u).raise0 0xA002#16 args := ⟨_, rfl⟩
  have hunit (e : Dev) : (e.raise0 0xA002#16 args).adaptU u = e.adaptU u := rfl
  have hnet (e : Dev) : (e.raise0 0xA002#16 args).net n = e.net n := rfl
  have hhealth (e : Dev) : (e.raise0 0xA002#16 args).health = e.health := rfl
  rw [h, hunit, hnet, hhealth, Dev.silicon_raise0]
  refine ⟨?_, ?_, rfl, rfl⟩
  · exact Dev.adaptU_modAdapt_same d u (fun a => { a.discard with discTrial := satInc a.discTrial })
  · rw [Dev.trialDropped, Dev.net_modNet_same]
theorem Dev.trialCheck_pass : d.trialCheck n u f true tn =
    if (d.adaptU u).trialLeft = 0 ∧ (d.net n).maq.inFlight = [] then d.modAdapt u (fun a => { a with state := .marked }) else d := by
  simp [Dev.trialCheck]
end

/-! ## The rows -/

section
variable (s : State) (n : NetId) (f : W32) (l : List W32) (ok : Bool) (tn : BitVec 12)

/-- A regular frame of a network in service: counted as a run, with what it finds. -/
theorem exec_maquetteCheck_regular (m : Maq) (hm : (s.dev.net n).maq = m) (hin : m.inFlight = f :: l) (hv : f ∉ m.voided)
    (ht : m.trial = false) (hp : (s.dev.net n).probation = false) :
    ∃ t, exec (.maquetteCheck n ok tn) s = .next t ∧ (t.dev.net n).maq.inFlight = l ∧ t.dev.health.mqRun = satInc s.dev.health.mqRun ∧
      ((s.dev.maqBad n f ok tn).1 = none → (s.dev.maqBad n f ok tn).2 = [] →
        t.dev.health.mqMis = s.dev.health.mqMis ∧ (t.dev.net n).maq.due = m.due ∧ (t.dev.net n).maq.confirm = false ∧
        t.dev.health.mqTrans = (if m.confirm then satInc s.dev.health.mqTrans else s.dev.health.mqTrans) ∧ coresQueuesKept s t) ∧
      (((s.dev.maqBad n f ok tn).1 ≠ none ∨ (s.dev.maqBad n f ok tn).2 ≠ []) →
        t.dev.health.mqMis = satInc s.dev.health.mqMis ∧
        (m.confirm = false → (t.dev.net n).maq.due = true ∧ (t.dev.net n).maq.confirm = true ∧ coresQueuesKept s t) ∧
        (∀ st ci c r, m.confirm = true → m.suspect = some (st, ci) → r ∈ (s.dev.maqBad n f ok tn).2 → r.stage = st → r.cidx = ci →
          s.dev.coreAt n st ci = some c →
          t.dev.health.mqFenced = satInc s.dev.health.mqFenced ∧ (t.dev.core c).state = .fenced)) := by
  subst hm
  by_cases hpass : (s.dev.maqBad n f ok tn).1 = none ∧ (s.dev.maqBad n f ok tn).2 = []
  · obtain ⟨hout, hblocks⟩ := hpass
    obtain ⟨hlist, hdue, hconf, hprob, hruns, hmis, htrans, hsil⟩ := Dev.maqPassed_frameRun hin
    have hrun := exec_maquetteCheck_pass ok tn hin hv ht hout hblocks
    rw [Dev.probationCheck_off (hprob.trans hp)] at hrun
    exact ⟨_, hrun, hlist, hruns, fun _ _ => ⟨hmis, hdue, hconf, htrans, coresQueuesKept_of_silicon hsil⟩,
      fun h => absurd h (by simp [hout, hblocks])⟩
  · have hbad : (s.dev.maqBad n f ok tn).1 ≠ none ∨ (s.dev.maqBad n f ok tn).2 ≠ [] := not_and_or.1 hpass
    obtain ⟨hlist, hprob, hruns, hmis, hfirst, hfence⟩ := Dev.maqFailed_frameRun hin (s.dev.maqBad n f ok tn).2 _ rfl
    have hrun := exec_maquetteCheck_fail ok tn hin hv ht hbad
    rw [Dev.probationCheck_off (hprob.trans hp)] at hrun
    refine ⟨_, hrun, hlist, hruns, fun h1 h2 => absurd ⟨h1, h2⟩ hpass, fun _ => ⟨hmis, fun hc => ?_, hfence⟩⟩
    obtain ⟨hdue, hconf, -, hsil, -⟩ := hfirst hc
    exact ⟨hdue, hconf, coresQueuesKept_of_silicon hsil⟩

/-- A frame of a network on probation (R531). -/
theorem exec_maquetteCheck_probation (m : Maq) (hm : (s.dev.net n).maq = m) (hin : m.inFlight = f :: l) (hv : f ∉ m.voided)
    (ht : m.trial = false) (hc : m.confirm = false) (hp : (s.dev.net n).probation = true) :
    ∃ t, exec (.maquetteCheck n ok tn) s = .next t ∧ t.dev.health.mqRun = satInc s.dev.health.mqRun ∧ coresQueuesKept s t ∧
      ((s.dev.maqBad n f ok tn).1 = none → (s.dev.maqBad n f ok tn).2 = [] → (t.dev.net n).maq.passed = true) ∧
      (((s.dev.maqBad n f ok tn).1 ≠ none ∨ (s.dev.maqBad n f ok tn).2 ≠ []) → 2 ≤ m.tries →
        (t.dev.net n).held = true ∧ ∀ p ∈ s.dev.partsOfNet n, (t.dev.part p).cast = .heldAbort) := by
  subst hm
  by_cases hpass : (s.dev.maqBad n f ok tn).1 = none ∧ (s.dev.maqBad n f ok tn).2 = []
  · obtain ⟨hout, hblocks⟩ := hpass
    obtain ⟨-, -, -, hprob, hruns, -, -, hsil⟩ := Dev.maqPassed_frameRun hin
    exact ⟨_, exec_maquetteCheck_pass ok tn hin hv ht hout hblocks, (congrArg Health.mqRun (Dev.health_probationCheck ..)).trans hruns,
      coresQueuesKept_of_silicon ((Dev.silicon_probationCheck ..).trans hsil),
      fun _ _ => Dev.probationCheck_pass (hprob.trans hp), fun h => absurd h (by simp [hout, hblocks])⟩
  · have hbad : (s.dev.maqBad n f ok tn).1 ≠ none ∨ (s.dev.maqBad n f ok tn).2 ≠ [] := not_and_or.1 hpass
    obtain ⟨-, hprob, hruns, -, hfirst, -⟩ := Dev.maqFailed_frameRun hin (s.dev.maqBad n f ok tn).2 _ rfl
    obtain ⟨-, -, htries, hsil, hparts⟩ := hfirst hc
    refine ⟨_, exec_maquetteCheck_fail ok tn hin hv ht hbad, (congrArg Health.mqRun (Dev.health_probationCheck ..)).trans hruns,
      coresQueuesKept_of_silicon ((Dev.silicon_probationCheck ..).trans hsil), fun h1 h2 => absurd ⟨h1, h2⟩ hpass, fun _ h2 => ?_⟩
    rw [← hparts]
    exact Dev.probationCheck_third (hprob.trans hp) (by rw [htries]; exact h2)

/-- A trial's frame: the last pass marks the candidate's commit, a failure discards it (R379). -/
theorem exec_maquetteCheck_trial (u : BitVec 2) (hin : (s.dev.net n).maq.inFlight = f :: l) (hv : f ∉ (s.dev.net n).maq.voided)
    (ht : (s.dev.net n).maq.trial = true) (hu : s.dev.trialUnit n = some u) :
    ∃ t, exec (.maquetteCheck n ok tn) s = .next t ∧ t.dev.health.mqRun = satInc s.dev.health.mqRun ∧ coresQueuesKept s t ∧
      ((s.dev.maqBad n f ok tn).1 = none → l = [] → (s.dev.adaptU u).trialLeft = 0 → (t.dev.adaptU u).state = .marked) ∧
      ((s.dev.maqBad n f ok tn).1 ≠ none → (t.dev.adaptU u).pending = false ∧ (t.dev.net n).maq.trial = false ∧
        (t.dev.adaptU u).discTrial = satInc (s.dev.adaptU u).discTrial) := by
  have hrun : exec (.maquetteCheck n ok tn) s = .next { s with dev := maqCheck n ok tn s.dev } := rfl
  rw [maqCheck_trial ok tn hin hv ht hu] at hrun
  have hruns : (s.dev.frameRun n).health.mqRun = satInc s.dev.health.mqRun := congrArg Health.mqRun (s.dev.health_frameRun n)
  have hlist : ((s.dev.frameRun n).net n).maq.inFlight = l := by rw [Dev.net_frameRun]; exact Dev.inFlight_checked hin
  cases hout : (s.dev.maqBad n f ok tn).1 with
  | none =>
    rw [hout, Option.isNone_none, Option.getD_none, Dev.trialCheck_pass, hlist, Dev.adaptU_frameRun] at hrun
    have hkept : ((s.dev.frameRun n).modAdapt u (fun a => { a with state := .marked })).silicon = s.dev.silicon := by
      rw [Dev.silicon_modAdapt, Dev.silicon_frameRun]
    by_cases hlast : (s.dev.adaptU u).trialLeft = 0 ∧ l = []
    · rw [if_pos hlast] at hrun
      exact ⟨_, hrun, hruns, coresQueuesKept_of_silicon hkept, fun _ _ _ => by rw [Dev.adaptU_modAdapt_same], fun h => absurd rfl h⟩
    · rw [if_neg hlast] at hrun
      exact ⟨_, hrun, hruns, coresQueuesKept_of_silicon (s.dev.silicon_frameRun n), fun _ hl hleft => absurd ⟨hleft, hl⟩ hlast,
        fun h => absurd rfl h⟩
  | some o =>
    rw [hout, Option.isNone_some, Option.getD_some] at hrun
    obtain ⟨hunit, hnet, hhealth, hsil⟩ := (s.dev.frameRun n).trialCheck_fail n u f o
    rw [Dev.adaptU_frameRun] at hunit
    refine ⟨_, hrun, (congrArg Health.mqRun hhealth).trans hruns, coresQueuesKept_of_silicon (hsil.trans (s.dev.silicon_frameRun n)),
      fun h => absurd h (by simp), fun _ => ?_⟩
    rw [hunit]
    exact ⟨rfl, hnet, rfl⟩
end

/-- Settles O34: each row by what the maquette engine and its checker find. -/
theorem maquetteFrames : Obligations.MaquetteFrames := by
  unfold Obligations.MaquetteFrames
  exact ⟨exec_maquetteDue, exec_maquetteAtSlot,
    fun s n g x hw hx hframes hfree hlive => exec_maquetteForceSlot_next hw hx hframes hfree hlive,
    fun s n g x f a hw hx hframes hfree hlive => exec_maquetteForceSlot_pending hw hx hframes hfree hlive,
    exec_blockReport,
    fun s n f l ok tn hin hv ht => exec_maquetteCheck_voided ok tn hin hv ht,
    exec_maquetteCheck_regular, exec_maquetteCheck_probation, exec_maquetteCheck_trial⟩

end Sys2Proof.Machine
end

section
/-! SUPPORT. What the host writes in registers (R462, R465, R475), the record writer (R79, R473) and the stream's age (R460). -/
namespace Sys2Proof.Machine

open Sys2Proof

section
variable (d : Dev)
@[simp] theorem Dev.silicon_hostHere : d.hostHere.silicon = d.silicon := by rfl
@[simp] theorem Dev.silicon_hostWrote : d.hostWrote.silicon = d.silicon := by rfl
@[simp] theorem Dev.silicon_modCard (f : Card → Card) : (d.modCard f).silicon = d.silicon := by rfl
@[simp] theorem Dev.silicon_modEvt (f : Evt → Evt) : (d.modEvt f).silicon = d.silicon := by rfl
@[simp] theorem Dev.silicon_modPart (p : PartId) (f : Partition → Partition) : (d.modPart p f).silicon = d.silicon := by rfl
end

/-! ## Bytes of a register (R462) -/

/-- The byte that was put in is what the register holds there. -/
theorem byteOf_setByte (v : W32) {i : Nat} (hi : i < 4) (b : Byte) : byteOf (setByte v i b) i = b := by
  refine BitVec.eq_of_getLsbD_eq (fun j hj => ?_)
  have h1 : 8 * i + j < 32 := by omega
  have h2 : ¬ 8 * i + j < 8 * i := by omega
  have h3 : 8 * i + j - 8 * i = j := by omega
  have h4 : (0xFF#32).getLsbD j = true := by
    interval_cases j <;> rfl
  simp [byteOf, setByte, hj, h1, h2, h3, h4]
/-- The bits below a byte do not change with it. -/
theorem getLsbD_setByte_low (v : W32) (i : Nat) (b : Byte) {j : Nat} (hj : j < 8 * i) (hj' : j < 32) :
    (setByte v i b).getLsbD j = v.getLsbD j := by
  simp [setByte, hj, hj']

section
variable (d : Dev) (reg : BitVec 18) (i : Nat) (b : Byte)
/-- A byte below byte 3 is staged. -/
theorem Dev.stageByte_staged (hi : i ≠ 3) : d.stageByte reg i b = (none, d.modCard (fun c =>
    { c with stageAddr := some reg, staged := setByte (if d.card.stageAddr == some reg then d.card.staged else 0#32) i b })) := by
  simp only [Dev.stageByte, beq_iff_eq, if_neg hi]
/-- Byte 3 gives the value that applies. -/
theorem Dev.stageByte_applies (h : d.card.stageAddr = some reg) : d.stageByte reg 3 b =
    (some (setByte d.card.staged 3 b), d.modCard (fun c => { c with stageAddr := none, staged := 0#32 })) := by
  simp only [Dev.stageByte, h, beq_self_eq_true, if_true]
end

theorem exec_registerWrite_staged (s : State) (a : BitVec 17) (b : Byte) (hb : s.bus = true) (ha : a.toNat % 4 ≠ 3) :
    ∃ t, exec (.registerWrite a b) s = .next t ∧ t = { s with dev := { s.dev.hostHere with card := t.dev.card } } ∧
      t.dev.card.stageAddr = some (reg1 a) ∧ byteOf t.dev.card.staged (a.toNat % 4) = b := by
  obtain ⟨v, hrun⟩ : ∃ v, exec (.registerWrite a b) s = .next { s with
      dev := s.dev.hostHere.modCard (fun c => { c with stageAddr := some (reg1 a), staged := setByte v (a.toNat % 4) b }) } := by
    rw [show exec (.registerWrite a b) s = .next (hostWriteByte a b s) from rfl, hostWriteByte, if_pos hb, byteWrite,
      Dev.stageByte_staged _ _ _ _ ha]
    exact ⟨_, rfl⟩
  exact ⟨_, hrun, rfl, rfl, byteOf_setByte v (Nat.mod_lt _ (by decide)) b⟩

/-- Byte 3 of the register of HOST_TO and FALLBACK applies it. -/
theorem exec_registerWrite_hostTo (s : State) (b : Byte) (hb : s.bus = true) (hr : s.dev.regAnswers 0x101C = true)
    (hstage : s.dev.card.stageAddr = some (reg1 0x101F#17)) :
    ∃ t, exec (.registerWrite 0x101F#17 b) s = .next t ∧ t.dev.evt.hostTo = s.dev.card.staged.extractLsb' 0 16 ∧
      t.dev.evt.fallback = s.dev.card.staged.getLsbD 16 ∧ coresQueuesKept s t := by
  have hbyte : byteWrite 0x101F#17 b s.dev.hostHere =
      regApply 0x101C (setByte s.dev.card.staged 3 b) (s.dev.hostHere.modCard (fun c => { c with stageAddr := none, staged := 0#32 })) := by
    rw [byteWrite, show ((0x101F#17 : BitVec 17).toNat % 4) = 3 from rfl, Dev.stageByte_applies s.dev.hostHere _ _ hstage]
    rfl
  have happly (d : Dev) (v : W32) (h : d.regAnswers 0x101C = true) :
      regApply 0x101C v d = d.modEvt (fun e => { e with hostTo := bitsOf v 0 16, fallback := v.getLsbD 16 }) := by
    have hpresent : d.regPresent 0x101C = true := by simp [Dev.regPresent]
    simp only [regApply, h, hpresent, Bool.not_true, Bool.or_self]
    rfl
  have hrun : exec (.registerWrite 0x101F#17 b) s = .next { s with dev := byteWrite 0x101F#17 b s.dev.hostHere } := by
    rw [show exec (.registerWrite 0x101F#17 b) s = .next (hostWriteByte 0x101F#17 b s) from rfl, hostWriteByte, if_pos hb]
  have hanswers : (s.dev.hostHere.modCard (fun c => { c with stageAddr := none, staged := 0#32 })).regAnswers 0x101C = true := hr
  rw [hbyte, happly _ _ hanswers] at hrun
  have hkept : ((s.dev.hostHere.modCard (fun c => { c with stageAddr := none, staged := 0#32 })).modEvt (fun e => { e with
      hostTo := bitsOf (setByte s.dev.card.staged 3 b) 0 16, fallback := (setByte s.dev.card.staged 3 b).getLsbD 16 })).silicon =
      s.dev.silicon := by simp
  refine ⟨_, hrun, ?_, getLsbD_setByte_low _ 3 b (by decide) (by decide), coresQueuesKept_of_silicon hkept⟩
  refine BitVec.eq_of_getLsbD_eq (fun j hj => ?_)
  show (bitsOf (setByte s.dev.card.staged 3 b) 0 16).getLsbD j = _
  simp only [bitsOf, BitVec.getLsbD_extractLsb', Nat.zero_add, hj, decide_true, Bool.true_and]
  exact getLsbD_setByte_low _ 3 b (by omega) (by omega)

/-! ## P_MODE, REPEAT and the age of pending data (R460, R465, R475) -/

theorem exec_pModeWrite (s : State) (p : PartId) (v : W32) (hr : hostRuns s) (hp : s.dev.diePresent (dieOfPart p) = true) :
    ∃ t, exec (.pModeWrite p v) s = .next t ∧ t.dev.part p = { s.dev.part p with mode := v.extractLsb' 0 10 } ∧
      (∀ x, x ≠ p → t.dev.part x = s.dev.part x) ∧ coresQueuesKept s t := by
  have hrun : exec (.pModeWrite p v) s = .next { s with dev := pMode p v s.dev.hostWrote } := by
    rw [show exec (.pModeWrite p v) s = .next (hostWritePart p (pMode p v) s) from rfl, hostWritePart_runs hr hp]
  have hkept : (pMode p v s.dev.hostWrote).silicon = s.dev.silicon := by simp [pMode]
  refine ⟨_, hrun, ?_, fun x hx => ?_, coresQueuesKept_of_silicon hkept⟩
  · rw [pMode, Dev.part_modPart_same, Dev.hostWrote_part_at]
    rfl
  · rw [pMode, Dev.part_modPart, if_neg (Ne.symm hx), Dev.hostWrote_part_at]

/-- REPEAT changes what is sent again and nothing else of the stream. -/
theorem Evt.repeatLast_repeat (e : Evt) (k : Nat) : (e.repeatLast k).repeat_ =
    if 1 ≤ k ∧ k ≤ 8 ∧ k ≤ e.kept.length then e.kept.drop (e.kept.length - k) else e.repeat_ := by
  unfold Evt.repeatLast
  split <;> rfl

theorem exec_streamRepeat (s : State) (k : BitVec 4) (hr : hostRuns s) :
    ∃ t, exec (.streamRepeat k) s = .next t ∧ coresQueuesKept s t ∧
      (1 ≤ k.toNat → k.toNat ≤ 8 → k.toNat ≤ s.dev.evt.kept.length →
        t.dev.evt.repeat_ = s.dev.evt.kept.drop (s.dev.evt.kept.length - k.toNat)) ∧
      (k = 0#4 ∨ 8 < k.toNat ∨ s.dev.evt.kept.length < k.toNat → t.dev.evt.repeat_ = s.dev.evt.repeat_) := by
  have hrun : exec (.streamRepeat k) s = .next { s with dev := s.dev.hostWrote.modEvt (fun e => e.repeatLast k.toNat) } := by
    rw [show exec (.streamRepeat k) s = .next (hostWrite (streamRepeat k) s) from rfl, hostWrite_runs hr]
    rfl
  have hrepeat : (s.dev.hostWrote.evt.repeatLast k.toNat).repeat_ =
      if 1 ≤ k.toNat ∧ k.toNat ≤ 8 ∧ k.toNat ≤ s.dev.evt.kept.length then s.dev.evt.kept.drop (s.dev.evt.kept.length - k.toNat)
      else s.dev.evt.repeat_ := Evt.repeatLast_repeat ..
  have hkept : (s.dev.hostWrote.modEvt (fun e => e.repeatLast k.toNat)).silicon = s.dev.silicon := by simp
  refine ⟨_, hrun, coresQueuesKept_of_silicon hkept, fun h1 h2 h3 => hrepeat.trans (if_pos ⟨h1, h2, h3⟩),
    fun h => hrepeat.trans (if_neg ?_)⟩
  rintro ⟨h1, h2, h3⟩
  obtain rfl | h | h := h
  · exact absurd h1 (by decide)
  · omega
  · omega

theorem exec_strAgeElapsed (s : State) (ha : s.dev.evt.strAge ≠ 0#16) (hp : s.dev.blocksPending ≠ 0) :
    ∃ t, exec .strAgeElapsed s = .next t ∧ t = { s with dev := { s.dev with evt := { s.dev.evt with aged := true } } } := by
  refine ⟨_, ?_, rfl⟩
  rw [show exec .strAgeElapsed s = .next { s with dev := strAge s.dev } from rfl, strAge, if_pos (by simp [ha, hp])]
  rfl

/-! ## The record writer (R473) -/

theorem exec_recordItemWrite_invalid (s : State) (n : BitVec 6) (h : (s.dev.rout n).valid = false) :
    exec (.recordItemWrite n) s = .next s := by
  rw [show exec (.recordItemWrite n) s = .next { s with dev := recordItem n s.dev } from rfl]
  simp only [recordItem, h, Bool.not_false, if_true]

section
variable (d : Dev) (q : QueueId) (r : BitVec 10)
theorem Dev.standing_seqRead : (d.seqRead q r).standing = d.standing := by
  dsimp only [Dev.seqRead]
  split
  · rfl
  · split <;> simp
theorem Dev.chans_seqRead : (d.seqRead q r).chans = d.chans := by
  have hput (e : Dev) (x : Queue) : (e.putQueue q x).chans = e.chans := by
    dsimp only [Dev.putQueue, Dev.moved]
    split <;> rfl
  dsimp only [Dev.seqRead]
  split
  · rfl
  · split
    · exact hput _ _
    · rfl
theorem Dev.rings_seqRead : (d.seqRead q r).rings = d.rings := by
  have hput (e : Dev) (x : Queue) : (e.putQueue q x).rings = e.rings := by
    dsimp only [Dev.putQueue, Dev.moved]
    split <;> rfl
  dsimp only [Dev.seqRead]
  split
  · rfl
  · split
    · exact hput _ _
    · rfl
/-- A read of a queue changes no region, channel or ring: what may reach storage stays. -/
theorem Dev.directOk_seqRead (p : PartId) (a : Nat) (w m : Bool) : (d.seqRead q r).directOk p a w m = d.directOk p a w m := by
  have hs := d.standing_seqRead q r
  have hdie : (d.seqRead q r).die1 = d.die1 := die1_of_base (base_of_standing hs)
  have hregions : ((d.seqRead q r).part p).regions = (d.part p).regions := regions_of_ground (ground_of_standing hs) p
  have hregion : (d.seqRead q r).regionOk p a w m = d.regionOk p a w m := by
    unfold Dev.regionOk
    rw [hdie, hregions]
  have hcause : (d.seqRead q r).burstCause p a w m = d.burstCause p a w m := by
    unfold Dev.burstCause Dev.chan Dev.ring
    rw [hdie, hregion, d.chans_seqRead q r, d.rings_seqRead q r]
  rw [Dev.directOk, hcause, Dev.directOk]
theorem Dev.psram_seqRead : (d.seqRead q r).psram = d.psram := psram_of_base (base_of_standing (d.standing_seqRead q r))
theorem Dev.itemOf_seqRead (n : BitVec 6) (ws : List QWord) : (d.seqRead q r).itemOf n ws = d.itemOf n ws := by
  have h := d.plinth_seqRead q r
  simp only [Dev.itemOf, Dev.recordTime, rout_of_plinth h, net_of_plinth h]
end

/-- The last word of a packet: the packet is read whole. -/
theorem recordItem_last {d : Dev} {n : BitVec 6} {x : Rcv} {w : QWord} (hv : (d.rout n).valid = true) (hleft : (d.rout n).left = 1)
    (hx : (d.queue (d.rout n).q).rcv (d.rout n).rcv = some x) (hskip : x.skip = 0)
    (hpeek : d.peek (d.rout n).q (d.rout n).rcv = .word w) :
    recordItem n d = (d.seqRead (d.rout n).q (d.rout n).rcv).recordTake n ((d.rout n).held ++ [w]) := by
  have hstart : recordItem n d = d.recordRun n (2 * (d.queue (d.rout n).q).total + 2) := by
    simp only [recordItem, hv, hleft, Bool.not_true, Bool.false_eq_true, if_false]
    split <;> rfl
  rw [hstart, Dev.recordRun]
  simp only [hx, hskip, hpeek, hleft]
  rfl

section
variable (d : Dev) (n : BitVec 6) (ws : List QWord)
/-- The packet is done with: its sequence number is used. -/
def Dev.packetDone : Dev := d.modRout n (fun r => { r with rseq := r.rseq + 1#32, left := 0, held := [] })
/-- A packet is that of a maquette frame (R79). -/
def maquettePacket (ws : List QWord) : Bool := (ws.headD {}).kind == .header && (ws.headD {}).payload.getLsbD 54
theorem Dev.recordTake_maquette (h : maquettePacket ws = true) : d.recordTake n ws = d.toChecker n ws := by
  simp only [maquettePacket] at h
  simp only [Dev.recordTake, h, if_true]
theorem Dev.recordTake_item (h : maquettePacket ws = false) : d.recordTake n ws =
    (if (d.rout n).ringBytes < (d.rout n).occ + itemRoom (d.itemOf n ws).length then d.recordLost n
      else d.recordPut n (d.itemOf n ws)).packetDone n := by
  simp only [maquettePacket] at h
  simp only [Dev.recordTake, h, Bool.false_eq_true, if_false]
  rfl
theorem Dev.rout_toChecker : (d.toChecker n ws).rout n = { d.rout n with left := 0, held := [] } := by
  rw [Dev.toChecker, Dev.rout_modRout_same]
  rfl
theorem Dev.net_toChecker : ((d.toChecker n ws).net (d.rout n).net).maq.outs = (d.net (d.rout n).net).maq.outs ++ [(n, ws)] := by
  have h : (d.toChecker n ws).net (d.rout n).net = (d.modNet (d.rout n).net
    (fun x => { x with maq := { x.maq with outs := x.maq.outs ++ [(n, ws)] } })).net (d.rout n).net := rfl
  rw [h, Dev.net_modNet_same]
theorem Dev.psram_toChecker : (d.toChecker n ws).psram = d.psram := rfl
theorem Dev.recordLost_effect : ((d.recordLost n).rout n).items = (d.rout n).items ∧ ((d.recordLost n).rout n).rseq = (d.rout n).rseq ∧
    ((d.recordLost n).rout n).lost = satInc (d.rout n).lost ∧ (d.recordLost n).psram = d.psram := by
  obtain ⟨due, k, t, args, hlost⟩ : ∃ (due : Bool) (k : W32) (t : Option (BitVec 48)) (args : List W32), d.recordLost n =
      if due then (d.modRout n (fun r => { r with lost := satInc r.lost, lostRep := k, lostEvt := t })).raise 0xB002#16 (d.rout n).part args
      else d.modRout n (fun r => { r with lost := satInc r.lost, lostRep := k, lostEvt := t }) := ⟨_, _, _, _, rfl⟩
  have hrout : (d.recordLost n).rout n = { d.rout n with lost := satInc (d.rout n).lost, lostRep := k, lostEvt := t } := by
    rw [hlost, ← Dev.rout_modRout_same d n (fun r => { r with lost := satInc r.lost, lostRep := k, lostEvt := t })]
    split <;> rfl
  have hpsram : (d.recordLost n).psram = d.psram := by
    rw [hlost]
    split <;> rfl
  rw [hrout]
  exact ⟨rfl, rfl, rfl, hpsram⟩
/-- An item whose units may all be written joins the ring. -/
theorem Dev.recordPut_effect (item : List Byte) (h : ∀ a ∈ (d.rout n).units item.length, d.directOk (d.rout n).part a true false = true) :
    ((d.recordPut n item).rout n).items = (d.rout n).items ++ [item] ∧ ((d.recordPut n item).rout n).rseq = (d.rout n).rseq ∧
    ((d.recordPut n item).rout n).lost = (d.rout n).lost := by
  have hnone : ((d.rout n).units item.length).find? (fun a => !d.directOk (d.rout n).part a true false) = none := by
    simpa using h
  have hwrite (l : List (Nat × Nat)) (b : List Byte) (e : Dev) :
      (l.foldl (fun d x => d.writeBytes x.1 ((b.drop (32 * x.2)).take 32)) e).routs = e.routs := by
    refine foldl_keeps Dev.routs _ (fun e x => ?_) l e
    rw [Dev.writeBytes_frame]
  have hburst (e : Dev) (p : PartId) (us : List Nat) : (e.recordBursts p us).routs = e.routs := by
    refine foldl_keeps Dev.routs _ (fun e g => ?_) _ e
    dsimp only
    split
    · rfl
    · split <;> rfl
  have hrout (e : Dev) (he : e.routs = d.routs) : e.rout n = d.rout n := by rw [Dev.rout, Dev.rout, he]
  simp only [Dev.recordPut, hnone, Dev.rout_modRout_same]
  rw [hrout _ ((hburst _ _ _).trans (hwrite _ _ _))]
  exact ⟨rfl, rfl, rfl⟩
theorem Dev.rout_packetDone : (d.packetDone n).rout n = { d.rout n with rseq := (d.rout n).rseq + 1#32, left := 0, held := [] } :=
  Dev.rout_modRout_same ..
end

section
variable (s : State) (n : BitVec 6) (x : Rcv) (w : QWord) (r : Rout) (hr : r = s.dev.rout n) (hv : r.valid = true) (hleft : r.left = 1)
  (hx : (s.dev.queue r.q).rcv r.rcv = some x) (hskip : x.skip = 0) (hpeek : s.dev.peek r.q r.rcv = .word w)
include hr hv hleft hx hskip hpeek
theorem exec_recordItemWrite_last : exec (.recordItemWrite n) s =
    .next { s with dev := (s.dev.seqRead r.q r.rcv).recordTake n (r.held ++ [w]) } := by
  subst hr
  rw [← recordItem_last hv hleft hx hskip hpeek]
  rfl

/-- A whole item that fits goes into the ring. -/
theorem exec_recordItemWrite_fits
    (hk : (((r.held ++ [w]).headD {}).kind == .header && ((r.held ++ [w]).headD {}).payload.getLsbD 54) = false)
    (hroom : r.occ + itemRoom (s.dev.itemOf n (r.held ++ [w])).length ≤ r.ringBytes)
    (hok : ∀ a ∈ r.units (s.dev.itemOf n (r.held ++ [w])).length, s.dev.directOk r.part a true false = true) :
    ∃ t, exec (.recordItemWrite n) s = .next t ∧ (t.dev.rout n).items = r.items ++ [s.dev.itemOf n (r.held ++ [w])] ∧
      (t.dev.rout n).rseq = r.rseq + 1#32 ∧ (t.dev.rout n).left = 0 ∧ (t.dev.rout n).lost = r.lost := by
  have hrun := exec_recordItemWrite_last s n x w r hr hv hleft hx hskip hpeek
  have hrout : (s.dev.seqRead r.q r.rcv).rout n = r := by rw [rout_of_plinth (s.dev.plinth_seqRead _ _), hr]
  rw [Dev.recordTake_item _ _ _ hk, hrout, Dev.itemOf_seqRead, if_neg (Nat.not_lt.2 hroom)] at hrun
  obtain ⟨hitems, hrseq, hlost⟩ := (s.dev.seqRead r.q r.rcv).recordPut_effect n (s.dev.itemOf n (r.held ++ [w]))
    (by rw [hrout]; exact fun a ha => (s.dev.directOk_seqRead _ _ _ a _ _).trans (hok a ha))
  rw [hrout] at hitems hrseq hlost
  refine ⟨_, hrun, ?_⟩
  rw [Dev.rout_packetDone]
  exact ⟨hitems, by rw [hrseq], rfl, hlost⟩

/-- A whole item that does not fit is lost, and its sequence number used. -/
theorem exec_recordItemWrite_lost
    (hk : (((r.held ++ [w]).headD {}).kind == .header && ((r.held ++ [w]).headD {}).payload.getLsbD 54) = false)
    (hroom : r.ringBytes < r.occ + itemRoom (s.dev.itemOf n (r.held ++ [w])).length) :
    ∃ t, exec (.recordItemWrite n) s = .next t ∧ (t.dev.rout n).items = r.items ∧ (t.dev.rout n).rseq = r.rseq + 1#32 ∧
      (t.dev.rout n).left = 0 ∧ (t.dev.rout n).lost = satInc r.lost ∧ t.dev.psram = s.dev.psram := by
  have hrun := exec_recordItemWrite_last s n x w r hr hv hleft hx hskip hpeek
  have hrout : (s.dev.seqRead r.q r.rcv).rout n = r := by rw [rout_of_plinth (s.dev.plinth_seqRead _ _), hr]
  rw [Dev.recordTake_item _ _ _ hk, hrout, Dev.itemOf_seqRead, if_pos hroom] at hrun
  obtain ⟨hitems, hrseq, hlost, hpsram⟩ := (s.dev.seqRead r.q r.rcv).recordLost_effect n
  rw [hrout] at hitems hrseq hlost
  refine ⟨_, hrun, ?_⟩
  rw [Dev.rout_packetDone]
  exact ⟨hitems, by rw [hrseq], rfl, hlost, hpsram.trans (s.dev.psram_seqRead _ _)⟩

/-- The record of a maquette frame goes to the checker alone (R79). -/
theorem exec_recordItemWrite_maquette
    (hk : (((r.held ++ [w]).headD {}).kind == .header && ((r.held ++ [w]).headD {}).payload.getLsbD 54) = true) :
    ∃ t, exec (.recordItemWrite n) s = .next t ∧ (t.dev.rout n).items = r.items ∧ (t.dev.rout n).rseq = r.rseq ∧
      (t.dev.net r.net).maq.outs = (s.dev.net r.net).maq.outs ++ [(n, r.held ++ [w])] ∧ t.dev.psram = s.dev.psram := by
  have hrun := exec_recordItemWrite_last s n x w r hr hv hleft hx hskip hpeek
  have hrout : (s.dev.seqRead r.q r.rcv).rout n = r := by rw [rout_of_plinth (s.dev.plinth_seqRead _ _), hr]
  rw [Dev.recordTake_maquette _ _ _ hk] at hrun
  have houts := (s.dev.seqRead r.q r.rcv).net_toChecker n (r.held ++ [w])
  rw [hrout, net_of_plinth (s.dev.plinth_seqRead _ _)] at houts
  refine ⟨_, hrun, ?_⟩
  rw [Dev.rout_toChecker, hrout, Dev.psram_toChecker, Dev.psram_seqRead]
  exact ⟨rfl, rfl, houts, rfl⟩
end

end Sys2Proof.Machine
end

section
/-! SUPPORT. What waits for the host, and how little of it the hardware's own resolutions reach: the host's presence, the reference
candidates that it decides and the DMA channels that it resumes (R479, Table 13-18). -/
namespace Sys2Proof.Machine

open Sys2Proof

/-- The presence of the host, the reference candidates that wait for it and the DMA channels. -/
structure Waits where
  host : Presence
  pend : List Cand
  dma : Tbl DmaChan

def Dev.waits (d : Dev) : Waits := ⟨d.evt.presence, d.route.pend, d.dma⟩

theorem waits_of_plinth {d e : Dev} (h : e.plinth = d.plinth) : e.waits = d.waits := by
  simp only [Dev.waits, presence_of_plinth h, route_of_plinth h, dma_of_plinth h]

/-! ## Updates of one unit, and events -/

section
variable (d : Dev)
@[simp] theorem Dev.waits_modNet (n : NetId) (f : Network → Network) : (d.modNet n f).waits = d.waits := by rfl
@[simp] theorem Dev.waits_modPart (p : PartId) (f : Partition → Partition) : (d.modPart p f).waits = d.waits := by rfl
@[simp] theorem Dev.waits_modCore (c : CoreId) (f : Core → Core) : (d.modCore c f).waits = d.waits := by rfl
@[simp] theorem Dev.waits_modQueue (q : QueueId) (f : Queue → Queue) : (d.modQueue q f).waits = d.waits := by rfl
@[simp] theorem Dev.waits_modDie (i : Nat) (f : Die → Die) : (d.modDie i f).waits = d.waits := by rfl
@[simp] theorem Dev.waits_modHealth (f : Health → Health) : (d.modHealth f).waits = d.waits := by rfl
@[simp] theorem Dev.waits_modCal (f : Cal → Cal) : (d.modCal f).waits = d.waits := by rfl
@[simp] theorem Dev.waits_modCtx (c : BitVec 10) (f : Context → Context) : (d.modCtx c f).waits = d.waits := by rfl
@[simp] theorem Dev.waits_modGroup (n : NetId) (g : BitVec 4) (f : Group → Group) : (d.modGroup n g f).waits = d.waits := by rfl
@[simp] theorem Dev.waits_modTensor (n : NetId) (t : BitVec 12) (f : Tensor → Tensor) : (d.modTensor n t f).waits = d.waits := by rfl
@[simp] theorem Dev.waits_modCasting (n : NetId) (f : Casting → Casting) : (d.modCasting n f).waits = d.waits := by rfl
@[simp] theorem Dev.waits_free (n : Nat) : (d.free n).2.waits = d.waits := by rfl
theorem Dev.waits_modRoute (f : Route → Route) (h : (f d.route).pend = d.route.pend) : (d.modRoute f).waits = d.waits :=
  congrArg (fun l => (⟨d.evt.presence, l, d.dma⟩ : Waits)) h
@[simp] theorem Dev.waits_raise (code : W16) (p : PartId) (args : List W32) : (d.raise code p args).waits = d.waits :=
  waits_of_plinth (d.plinth_raise code p args)
@[simp] theorem Dev.waits_raise0 (code : W16) (args : List W32) : (d.raise0 code args).waits = d.waits :=
  waits_of_plinth (d.plinth_raise0 code args)
@[simp] theorem Dev.waits_foldl {α : Type} (f : Dev → α → Dev) (h : ∀ d a, (f d a).waits = d.waits) (l : List α) (d : Dev) :
    (l.foldl f d).waits = d.waits := foldl_keeps Dev.waits f h l d
@[simp] theorem Dev.waits_ite (b : Prop) [Decidable b] (d e : Dev) :
    (if b then d else e).waits = if b then d.waits else e.waits := apply_ite Dev.waits b d e
@[simp] theorem Dev.waits_modParts (ps : List PartId) (f : Partition → Partition) : (d.modParts ps f).waits = d.waits :=
  waits_of_plinth (d.plinth_modParts ps f)
@[simp] theorem Dev.waits_giveUpOuts (c : CoreId) (r : Option Nat) (f : QueueId → Bool) : (d.giveUpOuts c r f).waits = d.waits :=
  waits_of_plinth (d.plinth_giveUpOuts c r f)
@[simp] theorem Dev.waits_passRcvs (c : CoreId) (f : W32) : (d.passRcvs c f).waits = d.waits := waits_of_plinth (d.plinth_passRcvs c f)
@[simp] theorem Dev.waits_voidVacant (c : CoreId) : (d.voidVacant c).waits = d.waits := waits_of_plinth (d.plinth_voidVacant c)
@[simp] theorem Dev.waits_censusBack (p : PartId) : (d.censusBack p).waits = d.waits := waits_of_plinth (d.plinth_censusBack p)
@[simp] theorem Dev.waits_censusBackNet (n : NetId) : (d.censusBackNet n).waits = d.waits := waits_of_plinth (d.plinth_censusBackNet n)
@[simp] theorem Dev.waits_boundaryDown (p : PartId) : (d.boundaryDown p).waits = d.waits := waits_of_plinth (d.plinth_boundaryDown p)
@[simp] theorem Dev.waits_takeOver (p : PartId) : (d.takeOver p).waits = d.waits := waits_of_plinth (d.plinth_takeOver p)
@[simp] theorem Dev.waits_emptyQueue (q : QueueId) : (d.emptyQueue q).waits = d.waits := waits_of_plinth (d.plinth_emptyQueue q)
@[simp] theorem Dev.waits_copyMap (l : LogicalId) (p : PartId) (c : Option CoreId) : (d.copyMap l p c).waits = d.waits :=
  waits_of_plinth (d.plinth_copyMap l p c)
@[simp] theorem Dev.waits_mapTo (l : LogicalId) (c : Option CoreId) : (d.mapTo l c).waits = d.waits := by
  have hmap (e : Dev) (t : Tbl (Option CoreId)) : (({ e with map := t } : Dev).bumpMap).waits = e.waits := rfl
  dsimp only [Dev.mapTo]
  rw [hmap]
  cases c <;> cases tblGet none d.map l.toNat <;> simp
end

/-! ## Calipers -/

section
variable (d : Dev) (n : NetId) (t : BitVec 12)
@[simp] theorem Dev.waits_sendS2 (was : W32) : (d.sendS2 n t was).waits = d.waits := by
  dsimp only [Dev.sendS2]
  split
  · rfl
  · split <;> rfl
@[simp] theorem Dev.waits_resetTensor : (d.resetTensor n t).waits = d.waits := by
  dsimp only [Dev.resetTensor]
  split <;> simp
@[simp] theorem Dev.waits_resetCalipers (c : CoreId) : (d.resetCalipers c).waits = d.waits := by
  simp [Dev.resetCalipers]
@[simp] theorem Dev.waits_closeFrame (o : OpenFrame) (complete dropped : Bool) : (d.closeFrame n t o complete dropped).waits = d.waits := by
  dsimp only [Dev.closeFrame]
  split
  · rfl
  · split
    · split <;> simp
    · simp
@[simp] theorem Dev.waits_closeOpen (dropped : Bool) (f : OpenFrame → Bool) : (d.closeOpen n t dropped f).waits = d.waits := by
  dsimp only [Dev.closeOpen]
  split <;> simp
@[simp] theorem Dev.waits_dropCalipers (comp : Bool) : (d.dropCalipers n comp).waits = d.waits := by
  simp [Dev.dropCalipers]
end

/-! ## Repair pauses and deadlock freezes -/

section
variable (d : Dev) (n : NetId)
@[simp] theorem Dev.waits_nextRound (inc : List CoreId) : (d.nextRound n inc).waits = d.waits := by
  dsimp only [Dev.nextRound]
  split <;> simp
@[simp] theorem Dev.waits_fallRepair : d.fallRepair.waits = d.waits := by
  refine Dev.waits_foldl _ (fun e n => ?_) _ d
  split <;> simp
@[simp] theorem Dev.waits_cancelBursts (f : BurstReq → Bool) : (d.cancelBursts f).waits = d.waits := by rfl
@[simp] theorem Dev.waits_cancelFor (qs : List QueueId) : (d.cancelFor qs).waits = d.waits := by rfl
@[simp] theorem Dev.waits_trimFlights : (d.trimFlights n).waits = d.waits := by rfl
@[simp] theorem Dev.waits_trialAgain (k : Nat) : (d.trialAgain n k).waits = d.waits := by rfl
@[simp] theorem Dev.waits_dropPart (p : PartId) : (d.dropPart p).waits = d.waits := by
  simp [Dev.dropPart]
@[simp] theorem Dev.waits_nextEpoch : (d.nextEpoch n).waits = d.waits := by
  simp [Dev.nextEpoch]
@[simp] theorem Dev.waits_nextAepoch : (d.nextAepoch n).waits = d.waits := by
  simp [Dev.nextAepoch]
@[simp] theorem Dev.waits_dropEpoch (p : PartId) : (d.dropEpoch n p).waits = d.waits := by
  simp [Dev.dropEpoch]
@[simp] theorem Dev.waits_dropEndCompanion : (d.dropEndCompanion n).waits = d.waits := by
  simp [Dev.dropEndCompanion]
@[simp] theorem Dev.waits_dropEnd (p : PartId) : (d.dropEnd n p).waits = d.waits := by
  dsimp only [Dev.dropEnd]
  split
  · exact d.waits_dropEndCompanion n
  · rw [Dev.waits_modRoute _ _ rfl]
    simp
@[simp] theorem Dev.waits_dropResume (p : PartId) : (d.dropResume p).waits = d.waits := by
  simp [Dev.dropResume]
@[simp] theorem Dev.waits_fallFreeze : d.fallFreeze.waits = d.waits := by
  simp [Dev.fallFreeze]
end

/-! ## Uncasting -/

section
variable (d : Dev) (n : NetId)
@[simp] theorem Dev.waits_bindCtx (c : BitVec 10) : (d.bindCtx c).waits = d.waits := by
  dsimp only [Dev.bindCtx]
  split <;> simp
@[simp] theorem Dev.waits_bindNet : (d.bindNet n).waits = d.waits := by
  simp [Dev.bindNet]
@[simp] theorem Dev.waits_cancelPart (p : PartId) : (d.cancelPart p).waits = d.waits := by rfl
@[simp] theorem Dev.waits_unload (p : PartId) : (d.unload p).waits = d.waits := by
  have htables (e : Dev) (k : Tbl Core) (q : Tbl Queue) (c : Tbl Cluster) :
      ({ e with cores := k, queues := q, clusters := c } : Dev).waits = e.waits := rfl
  dsimp only [Dev.unload]
  rw [Dev.waits_modPart, htables]
  simp
@[simp] theorem Dev.waits_netGone : (d.netGone n).waits = d.waits := by
  have htables (e : Dev) (r : List CalReport) (b : List (NetId × BlockRep)) (o : Tbl Rout) (a : Tbl Adapt) (i : Ingest) :
      ({ e with reports := r, blockReps := b, routs := o, adapt := a, ing := i } : Dev).waits = e.waits := rfl
  have hsegs (e : Dev) : (e.dropSegs n).waits = e.waits := rfl
  dsimp only [Dev.netGone]
  rw [Dev.waits_bindNet, htables, Dev.waits_modRoute _ _ rfl, hsegs, Dev.waits_modNet]
@[simp] theorem Dev.waits_uncastPart (p : PartId) : (d.uncastPart p).waits = d.waits := by
  have hadapt (e : Dev) (t : Tbl Adapt) : ({ e with adapt := t } : Dev).waits = e.waits := rfl
  dsimp only [Dev.uncastPart]
  split
  · simp
  · split
    · rw [hadapt]
      simp
    · simp
@[simp] theorem Dev.waits_uncastNet : (d.uncastNet n).waits = d.waits := by
  simp [Dev.uncastNet]
end

/-! ## Castings without the host, and the waits for BOACK -/

section
variable (d : Dev) (st : Store) (n : NetId)
@[simp] theorem Dev.waits_freed (c : CoreId) : (d.freed c).waits = d.waits := by rfl
@[simp] theorem Dev.waits_freePassed (ps : List PartId) : (d.freePassed ps).waits = d.waits := by
  simp [Dev.freePassed]
@[simp] theorem Dev.waits_stepOne (t : SetImg) (ns : List NetId) : (d.stepOne st t ns).2.waits = d.waits := by
  dsimp only [Dev.stepOne]
  split
  · rfl
  · split
    · rfl
    · split
      · split <;> rfl
      · rfl
@[simp] theorem Dev.waits_castBegin (slot : BitVec 3) (im : NetImg) (tag : Option Byte) (noChase recast : Bool) :
    (d.castBegin n slot im tag noChase recast).waits = d.waits := by rfl
theorem Dev.waits_castNets (slot : BitVec 3) (t : SetImg) (ims : List NetImg) (tag : Option Byte) (noChase : Bool) :
    (d.castNets st slot t ims tag noChase).2.waits = d.waits := by
  obtain ⟨r, hr⟩ : ∃ r, (d.freePassed (ims.flatMap (fun im => im.parts))).stepOne st t (ims.map (fun im => im.num)) = r := ⟨_, rfl⟩
  have hstep : r.2.waits = d.waits := by rw [← hr]; simp
  simp only [Dev.castNets, hr]
  split
  · simpa using hstep
  · exact hstep
theorem Dev.waits_autoRefused (p : PartId) : (d.autoRefused n p).waits = d.waits := by
  simp [Dev.autoRefused]
theorem Dev.waits_autoAbsent : (d.autoAbsent n).waits = d.waits := by
  simp [Dev.autoAbsent]
@[simp] theorem Dev.waits_autoCast (slot : BitVec 3) (noChase : Bool) : (d.autoCast st n slot noChase).waits = d.waits := by
  dsimp only [Dev.autoCast]
  split
  · exact d.waits_autoAbsent n
  · split
    · exact d.waits_autoAbsent n
    · next t _ _ im _ =>
      obtain ⟨r, hr⟩ : ∃ r, d.castNets st slot t [im] none noChase = r := ⟨_, rfl⟩
      have hcast : r.2.waits = d.waits := by rw [← hr]; exact d.waits_castNets st slot t [im] none noChase
      rw [hr]
      split
      · exact hcast
      · exact (Dev.waits_autoRefused _ _ _).trans hcast
@[simp] theorem Dev.waits_recastReady (i : Nat) : (d.recastReady st i).waits = d.waits := by
  simp [Dev.recastReady]
@[simp] theorem Dev.waits_brownAck (p : PartId) : (d.brownAck st p).waits = d.waits := by
  simp [Dev.brownAck]
@[simp] theorem Dev.waits_fallBrown : (d.fallBrown st).waits = d.waits := by
  have hdies (e : Dev) (t : Tbl Die) : ({ e with dies := t } : Dev).waits = e.waits := rfl
  dsimp only [Dev.fallBrown]
  rw [Dev.waits_foldl _ (fun e p => e.waits_brownAck st p), hdies]
end

/-! ## Second faults and planned margins -/

section
variable (d : Dev) (n : NetId) (p : PartId)
@[simp] theorem Dev.waits_resumeRefs : (d.resumeRefs p).waits = d.waits := by rfl
@[simp] theorem Dev.waits_reopen : (d.reopen p).waits = d.waits := by
  simp [Dev.reopen]
@[simp] theorem Dev.waits_resumeNet : (d.resumeNet n p).waits = d.waits := by
  simp [Dev.resumeNet]
@[simp] theorem Dev.waits_degrade (st : StageId) (c : CoreId) : (d.degrade n st c).waits = d.waits := by
  simp [Dev.degrade]
@[simp] theorem Dev.waits_degradeWaiting (st : StageId) (c : CoreId) : (d.degradeWaiting p st c).waits = d.waits := by
  simp [Dev.degradeWaiting]
@[simp] theorem Dev.waits_faultWaitHw : (d.faultWaitHw p).waits = d.waits := by
  dsimp only [Dev.faultWaitHw]
  split <;> simp
@[simp] theorem Dev.waits_applyPlan : (d.applyPlan p).waits = d.waits := by
  simp [Dev.applyPlan, Dev.applyMargin, Dev.derate]
@[simp] theorem Dev.waits_fallHealth : d.fallHealth.waits = d.waits := by
  simp [Dev.fallHealth]
end

/-! ## The fallback (R479) -/

/-- A frozen DMA channel goes on. -/
def DmaChan.unfrozen (c : DmaChan) : DmaChan := if c.state == 1#2 then { c with state := 0#2, resume := 0#32 } else c

section
variable (d : Dev)
@[simp] theorem Dev.waits_fallDma : d.fallDma.waits = { d.waits with dma := tblMap {} d.dma (fun _ c => c.unfrozen) } := by rfl
@[simp] theorem Dev.waits_fallAdapt : d.fallAdapt.waits = d.waits := by rfl
/-- Every candidate that waits is decided, and none waits any more. -/
@[simp] theorem Dev.waits_fallRoute : d.fallRoute.waits = { d.waits with pend := [] } := by
  have hcommit (e : Dev) (c : Cand) : (e.commitCand c).waits = e.waits := by
    dsimp only [Dev.commitCand]
    rw [Dev.waits_raise0]
    split <;> exact Dev.waits_modRoute _ _ rfl
  have hdiscard (e : Dev) (c : Cand) : (e.discardCand c).waits = e.waits := e.waits_raise0 _ _
  refine (Dev.waits_foldl _ (fun e c => ?_) _ _).trans rfl
  simp [hcommit, hdiscard]
/-- The fallback notes itself, decides every reference candidate and resumes every DMA channel; nothing that it starts asks the host
again. -/
theorem Dev.waits_fallBack (st : Store) : (d.fallBack st).waits =
    ⟨{ d.evt.presence with fallen := true }, [], tblMap {} d.dma (fun _ c => c.unfrozen)⟩ := by
  have hdma (e : Dev) : e.dma = e.waits.dma := rfl
  have hfallen : (d.modEvt (fun e => { e with fallen := true })).waits = ⟨{ d.evt.presence with fallen := true }, d.route.pend, d.dma⟩ := rfl
  simp only [Dev.fallBack, Dev.waits_fallHealth, Dev.waits_fallBrown, Dev.waits_fallRoute, Dev.waits_fallAdapt, Dev.waits_fallDma, hdma,
    Dev.waits_fallFreeze, Dev.waits_fallRepair, hfallen]
end

theorem DmaChan.unfrozen_state (c : DmaChan) : c.unfrozen.state ≠ 1#2 := by
  unfold DmaChan.unfrozen
  split
  · exact (show (0#2 : BitVec 2) ≠ 1#2 by decide)
  · next h => simpa using h

/-- The host is silent: counted, and with FALLBACK what waits for it goes on (R479). -/
theorem exec_hostSilent (s : State) (hto : s.dev.evt.hostTo ≠ 0#16) (hsil : s.dev.evt.silent = false)
    (hheld : s.dev.pwr.resetHeld = false) (hsup : s.dev.pwr.supplyFail = false) :
    ∃ t, exec .hostSilent s = .next t ∧ t.dev.evt.silent = true ∧ t.dev.evt.hostSil = satInc s.dev.evt.hostSil ∧
      (s.dev.evt.fallback = false → t.dev.evt.fallen = s.dev.evt.fallen ∧ coresQueuesKept s t) ∧
      (s.dev.evt.fallback = true → t.dev.evt.fallen = true ∧ t.dev.route.pend = [] ∧ ∀ n, (t.dev.dmaCh n).state ≠ 1#2) := by
  obtain ⟨d, hd, hrun⟩ : ∃ d : Dev,
      d = (s.dev.modEvt (fun e => { e with silent := true, hostSil := satInc e.hostSil })).raise0 0x1007#16 [arg32 s.dev.evt.hostTo] ∧
      exec .hostSilent s = .next { s with dev := if s.dev.evt.fallback then d.fallBack s.store else d } := by
    refine ⟨_, rfl, ?_⟩
    rw [show exec .hostSilent s = .next (hostSilent s) from rfl, hostSilent]
    simp only [beq_eq_false_iff_ne.2 hto, hsil, hheld, hsup, Bool.or_self, Bool.false_eq_true, if_false]
  have hwaits : d.waits = ⟨⟨true, s.dev.evt.fallen, satInc s.dev.evt.hostSil⟩, s.dev.route.pend, s.dev.dma⟩ := by
    rw [hd, Dev.waits_raise0]
    rfl
  have hpresence : d.evt.presence = ⟨true, s.dev.evt.fallen, satInc s.dev.evt.hostSil⟩ := congrArg Waits.host hwaits
  cases hf : s.dev.evt.fallback with
  | false =>
    rw [hf, if_neg Bool.false_ne_true] at hrun
    refine ⟨_, hrun, congrArg Presence.silent hpresence, congrArg Presence.hostSil hpresence,
      fun _ => ⟨congrArg Presence.fallen hpresence, coresQueuesKept_of_silicon ?_⟩, fun h => absurd h Bool.false_ne_true⟩
    rw [hd, Dev.silicon_raise0]
    rfl
  | true =>
    rw [hf, if_pos rfl] at hrun
    have hback := d.waits_fallBack s.store
    rw [hpresence] at hback
    generalize d.fallBack s.store = e at hrun hback
    have hend : e.evt.presence = ⟨true, true, satInc s.dev.evt.hostSil⟩ := congrArg Waits.host hback
    have hdma : e.dma = tblMap {} d.dma (fun _ c => c.unfrozen) := congrArg Waits.dma hback
    refine ⟨_, hrun, congrArg Presence.silent hend, congrArg Presence.hostSil hend, fun h => absurd h.symm Bool.false_ne_true,
      fun _ => ⟨congrArg Presence.fallen hend, congrArg Waits.pend hback, fun n => ?_⟩⟩
    show (tblGet {} e.dma n.toNat).state ≠ 1#2
    rw [hdma, tblGet_map _ _ _ rfl]
    exact DmaChan.unfrozen_state _

/-- Settles O43: each row by what the host wrote, what the record writer finds and what waits for a silent host. -/
theorem hostRegisters : Obligations.HostRegisters := by
  unfold Obligations.HostRegisters
  exact ⟨exec_registerWrite_staged, exec_registerWrite_hostTo, exec_pModeWrite, exec_streamRepeat, exec_recordItemWrite_fits,
    exec_recordItemWrite_lost, exec_recordItemWrite_maquette, exec_recordItemWrite_invalid, exec_strAgeElapsed, exec_hostSilent⟩

end Sys2Proof.Machine
end

section
/-! SUPPORT. What a change of one queue leaves as it is: the other queues, the cores and the PSRAM, and a receiver that only its own
reads and releases move (R207, R209, R213). -/
namespace Sys2Proof.Machine

open Sys2Proof

/-! ## A change beside which nothing of `queueFrame` differs -/

/-- No queue but `id`, no core and no byte of memory differs. -/
structure Dev.besideQueue (id : QueueId) (d e : Dev) : Prop where
  others : ∀ x, x ≠ id → e.queue x = d.queue x
  cores : e.cores = d.cores
  bytes : ∀ a, e.readByte a = d.readByte a

theorem Dev.besideQueue.frame {id : QueueId} {s : State} {e : Dev} (h : s.dev.besideQueue id e) : queueFrame id s { s with dev := e } :=
  ⟨h.others, fun c => congrArg (fun t : Tbl Core => tblGet ({} : Core) t c.toNat) h.cores, h.bytes⟩
theorem Dev.besideQueue.trans {id : QueueId} {d e f : Dev} (h1 : d.besideQueue id e) (h2 : e.besideQueue id f) : d.besideQueue id f :=
  ⟨fun x hx => (h2.others x hx).trans (h1.others x hx), h2.cores.trans h1.cores, fun a => (h2.bytes a).trans (h1.bytes a)⟩

section
variable (d : Dev) (id : QueueId)
theorem Dev.besideQueue_setQueue (q : Queue) : d.besideQueue id (d.setQueue id q) :=
  ⟨fun _ hx => Dev.queue_setQueue_other d id hx q, rfl, fun _ => rfl⟩
theorem Dev.besideQueue_putQueue (q : Queue) : d.besideQueue id (d.putQueue id q) :=
  ⟨fun _ hx => Dev.putQueue_other d id hx q, d.cores_putQueue id q, readByte_of_base (base_of_standing (d.standing_putQueue id q))⟩
theorem Dev.besideQueue_toChannel (b : BurstReq) (ch : Nat) : d.besideQueue id (d.toChannel b ch) := by
  have hcores : (d.toChannel b ch).cores = d.cores := by
    dsimp only [Dev.toChannel]
    split <;> rfl
  exact ⟨fun x _ => d.queue_toChannel b ch x, hcores, readByte_of_base (base_of_standing (d.standing_toChannel b ch))⟩
theorem Dev.besideQueue_seqRead (r : BitVec 10) : d.besideQueue id (d.seqRead id r) := by
  dsimp only [Dev.seqRead]
  split
  · exact ⟨fun _ _ => rfl, rfl, fun _ => rfl⟩
  · split
    · exact d.besideQueue_putQueue id _
    · exact d.besideQueue_setQueue id _

/-- What is put back differs from the queue in its receivers, their counts of gaps, and the words that have left its front. -/
theorem Dev.queue_putQueue (q : Queue) : ∃ rs g gw k f o, (d.putQueue id q).queue id =
    { q with rcvs := rs, gaps := g, gapw := gw, store := q.store.drop k, old := q.old + BitVec.ofNat 32 k, slotF := f, slotO := o } := by
  obtain ⟨k, f, o, -, hsettle⟩ := (d.received q).settle_frame
  rw [Dev.putQueue_same, hsettle, show d.received q = _ from d.onlyRcvs_received q]
  exact ⟨_, _, _, k, f, o, rfl⟩
end

/-! ## A receiver that nothing else moves -/

section
variable {q p : Queue} {r : BitVec 10} {x : Rcv}
theorem Queue.rcv_modRcv (h : q.rcv r = some x) (f : Rcv → Rcv) : (q.modRcv r f).rcv r = some (f x) := by
  have hget : q.rcvs[r.toNat]? = some x := h
  rw [Queue.rcv, Queue.modRcv, List.getElem?_modify_eq, hget]
  rfl
/-- A change of every receiver that keeps the value of one leaves it in its place. -/
theorem Queue.rcv_of_map (h : q.rcv r = some x) (f : Rcv → Rcv) (hp : p.rcvs = q.rcvs.map f) (hf : f x = x) : p.rcv r = some x := by
  have hget : q.rcvs[r.toNat]? = some x := h
  rw [Queue.rcv, hp, List.getElem?_map, hget, Option.map_some, hf]
theorem Queue.rcv_settle : q.settle.rcv r = q.rcv r := by
  obtain ⟨k, f, o, -, hsettle⟩ := q.settle_frame
  rw [hsettle]
  rfl

/-- No step of what follows a change moves a steady receiver. -/
theorem Dev.rcv_received (d : Dev) (h : q.rcv r = some x) (hx : steadyRcv x) : (d.received q).rcv r = some x := by
  obtain ⟨hpart, hdetach, hawait, howed, hupTo⟩ := hx
  have hreset : (d.resetRcvs q).rcv r = some x := Queue.rcv_of_map h _ rfl (by simp only [hpart])
  have hrun : ((d.resetRcvs q).awaitAll).rcv r = some x := Queue.rcv_of_map hreset _ List.map_map (by simp [hawait])
  have hpass : ((d.resetRcvs q).awaitAll.passVacant).rcv r = some x := Queue.rcv_of_map hrun _ rfl (by simp only [hupTo])
  have hpaid : ((d.resetRcvs q).awaitAll.passVacant.payOwed).rcv r = some x := Queue.rcv_of_map hpass _ rfl (by simp only [howed])
  exact Queue.rcv_of_map hpaid _ List.map_map (by simp [hdetach])
theorem Dev.rcv_putQueue (d : Dev) (id : QueueId) (h : q.rcv r = some x) (hx : steadyRcv x) :
    ((d.putQueue id q).queue id).rcv r = some x := by
  rw [Dev.putQueue_same, Queue.rcv_settle]
  exact d.rcv_received h hx
end

/-! ## A sequential read of a steady receiver -/

section
variable {x : Rcv} (l : Look)
theorem Rcv.steady_take (hx : steadyRcv x) : steadyRcv (x.take l) := by
  obtain ⟨hpart, hdetach, hawait, howed, hupTo⟩ := hx
  cases l with
  | word w =>
    simp only [Rcv.take]
    cases x.m <;> cases w.isStart <;> simp [steadyRcv, hpart, hdetach, hawait, howed, hupTo]
  | _ => exact ⟨hpart, hdetach, hawait, howed, hupTo⟩
/-- A read leaves R, or moves it past the word that it delivers (R209). -/
theorem Rcv.take_r : (x.take l).r = x.r ∨ ((x.take l).r = x.r + 1#32 ∧ (x.take l).last ≠ none) := by
  cases l with
  | word w =>
    right
    simp only [Rcv.take]
    cases x.m <;> cases w.isStart <;> exact ⟨rfl, Option.some_ne_none w⟩
  | _ => exact .inl rfl
/-- Without a mark H follows R (R209). -/
theorem Rcv.take_h (hm : x.m = none) (hh : x.h = x.r) : (x.take l).h = (x.take l).r := by
  cases l with
  | word w =>
    simp only [Rcv.take, hm]
    cases w.isStart <;> rfl
  | _ => exact hh
end

theorem Queue.rcv_beginFlags {q : Queue} {r : BitVec 10} {x : Rcv} (h : q.rcv r = some x) (w : QWord) :
    ∃ b, (q.beginFlags r w).rcv r = some { x with began := b } := by
  unfold Queue.beginFlags
  split
  · exact ⟨x.began, h⟩
  · exact ⟨some w.frameKey, Queue.rcv_modRcv h (fun x => { x with began := some w.frameKey })⟩
/-- A steady receiver after its sequential read is what its read made of it, but for the frame that it has begun. -/
theorem Dev.rcv_seqRead {d : Dev} {id : QueueId} {r : BitVec 10} {x : Rcv} (h : (d.queue id).rcv r = some x) (hx : steadyRcv x) :
    ∃ b, ((d.seqRead id r).queue id).rcv r = some { x.take (d.peek id r) with began := b } := by
  have htaken := Queue.rcv_modRcv h (fun x => x.take (d.peek id r))
  simp only [Dev.seqRead, h]
  split
  · next w _ =>
    obtain ⟨b, hb⟩ := Queue.rcv_beginFlags htaken w
    exact ⟨b, d.rcv_putQueue id hb (Rcv.steady_take _ hx)⟩
  · rw [Dev.queue_setQueue_same]
    exact ⟨_, htaken⟩

end Sys2Proof.Machine
end

section
/-! SUPPORT. Words and packets that a receiver passes, the return of a queue from spilling, and the void words of a reset producer
(R163, R223, R236, R251, R490). -/
namespace Sys2Proof.Machine

open Sys2Proof

/-! ## Passing words (R223, R251) -/

/-- A receiver past the stale word at R: H follows while no mark is set. -/
def Rcv.discard (x : Rcv) : Rcv :=
  let x1 := { x with r := x.r + 1#32 }
  match x.m with | none => { x1 with h := x1.r } | some _ => x1
/-- A receiver past the `n` words of a bad packet: H follows while no mark is set. -/
def Rcv.pass (n : Nat) (x : Rcv) : Rcv :=
  { x with r := x.r + BitVec.ofNat 32 n, skip := 0, h := match x.m with | none => x.r + BitVec.ofNat 32 n | some _ => x.h }

section
variable {x : Rcv}
theorem Rcv.discard_frame : ∃ h, x.discard = { x with r := x.r + 1#32, h := h } := by
  unfold Rcv.discard
  cases x.m <;> exact ⟨_, rfl⟩
theorem Rcv.pass_h (n : Nat) (hm : x.m = none) : (x.pass n).h = (x.pass n).r := by
  simp only [Rcv.pass, hm]
end

section
variable {d : Dev} {id : QueueId} {r : BitVec 10} {x : Rcv}
theorem Dev.epochDrop_stale (h : d.peek id r = .stale) : d.epochDrop id r =
    d.putQueue id { (d.queue id).modRcv r Rcv.discard with epdisc := satInc (d.queue id).epdisc } := by
  unfold Dev.epochDrop
  rw [h]
  rfl
/-- A stale word at R is counted, and R is past it (R251). -/
theorem Dev.epochDrop_effect (hx : (d.queue id).rcv r = some x) (hsteady : steadyRcv x) (h : d.peek id r = .stale) :
    ((d.epochDrop id r).queue id).rcv r = some x.discard ∧ ((d.epochDrop id r).queue id).epdisc = satInc (d.queue id).epdisc ∧
      d.besideQueue id (d.epochDrop id r) := by
  have hdiscard : steadyRcv x.discard := by
    obtain ⟨p, hp⟩ := x.discard_frame
    rw [hp]
    exact hsteady
  rw [Dev.epochDrop_stale h]
  refine ⟨d.rcv_putQueue id (Queue.rcv_modRcv hx Rcv.discard) hdiscard, ?_, d.besideQueue_putQueue id _⟩
  obtain ⟨_, _, _, _, _, _, hput⟩ :=
    d.queue_putQueue id { (d.queue id).modRcv r Rcv.discard with epdisc := satInc (d.queue id).epdisc }
  rw [hput]

theorem Dev.endSkip_eq (hx : (d.queue id).rcv r = some x) :
    d.endSkip id r = (d.putQueue id ((d.queue id).modRcv r (Rcv.pass x.skip))).countBad id r := by
  simp only [Dev.endSkip, hx]
  rfl
/-- The words of a bad packet are released for its receiver (R223). -/
theorem Dev.endSkip_effect (hx : (d.queue id).rcv r = some x) (hsteady : steadyRcv x) :
    ((d.endSkip id r).queue id).rcv r = some (x.pass x.skip) ∧ d.besideQueue id (d.endSkip id r) := by
  have hcount (e : Dev) : e.besideQueue id (e.countBad id r) := ⟨fun _ _ => rfl, rfl, fun _ => rfl⟩
  have hqueue (e : Dev) : (e.countBad id r).queue id = e.queue id := rfl
  have hpass : steadyRcv (x.pass x.skip) := hsteady
  rw [Dev.endSkip_eq hx, hqueue]
  exact ⟨d.rcv_putQueue id (Queue.rcv_modRcv hx (Rcv.pass x.skip)) hpass, (d.besideQueue_putQueue id _).trans (hcount _)⟩
/-- At the end of a skip the receiver reads on behind the bad packet (R223). -/
theorem badPacketSkip_effect (hx : (d.queue id).rcv r = some x) (hsteady : steadyRcv x) (hskip : x.skip ≠ 0)
    (hf : d.queueFrozen id = false) :
    (∃ b, ((badPacketSkip id r d).queue id).rcv r = some { (x.pass x.skip).take ((d.endSkip id r).peek id r) with began := b }) ∧
      d.besideQueue id (badPacketSkip id r d) := by
  have hrun : badPacketSkip id r d = (d.endSkip id r).seqRead id r := by
    simp [badPacketSkip, hx, hskip, hf]
  obtain ⟨hpass, hbeside⟩ := Dev.endSkip_effect hx hsteady
  rw [hrun]
  exact ⟨Dev.rcv_seqRead hpass hsteady, hbeside.trans (Dev.besideQueue_seqRead _ id r)⟩
end

/-! ## The return from spilling (R236) -/

section
variable (d : Dev) (id : QueueId)
/-- What a spilling queue moves towards its on-chip part: a burst of its ring, or the words of its stager. -/
def Dev.returnWords : Dev :=
  if (d.queue id).spillBusy then d
  else if (d.queue id).ring.isEmpty then d.drainStager id (d.queue id).stager.length
  else if d.canTake id 56 then d.returnBurst id
  else d
variable {d id}
theorem spillReturn_spilling (hl : d.queueLive id = true) (hf : d.queueFrozen id = false) (hs : (d.queue id).spilling = true) :
    spillReturn id d = ((d.returnWords id).spillOut id).normal id := by
  unfold spillReturn
  dsimp only
  rw [if_neg (by simp [hl, hf, hs])]
  rfl
/-- A queue that spills, with a stager that fills no burst after the words have moved. -/
theorem spillReturn_short (hl : d.queueLive id = true) (hf : d.queueFrozen id = false) (hs : (d.queue id).spilling = true)
    (h : ((d.returnWords id).queue id).stager.length < 56) : spillReturn id d = (d.returnWords id).normal id := by
  rw [spillReturn_spilling hl hf hs, Dev.spillOut_short _ id h]

theorem Dev.returnWords_empty (hring : (d.queue id).ring = []) (hstager : (d.queue id).stager = []) : d.returnWords id = d := by
  simp [Dev.returnWords, hring, hstager, Dev.drainStager]
theorem Dev.returnWords_stager {w : Option QWord} (hbusy : (d.queue id).spillBusy = false) (hring : (d.queue id).ring = [])
    (hstager : (d.queue id).stager = [w]) (hc : d.canTake id 1 = true) :
    d.returnWords id = d.putQueue id (({ d.queue id with stager := [] } : Queue).append false [w]) := by
  simp [Dev.returnWords, hbusy, hring, hstager, Dev.drainStager, hc]
theorem Dev.returnWords_ring {b : Burst} {l : List Burst} (hbusy : (d.queue id).spillBusy = false) (hring : (d.queue id).ring = b :: l)
    (hc : d.canTake id 56 = true) : d.returnWords id = d.returnBurst id := by
  simp [Dev.returnWords, hbusy, hring, hc]
/-- The request of the oldest burst goes to its channel. -/
theorem Dev.returnBurst_asked {b : Burst} {l : List Burst} {pl : Nat × Nat} (hring : (d.queue id).ring = b :: l)
    (hret : (d.queue id).retBusy = false) (hloc : locate d.die1 ((d.queue id).burstAddr b.slot) = some pl) :
    ∃ req, d.returnBurst id = (d.setQueue id { d.queue id with retBusy := true }).toChannel req pl.1 := by
  unfold Dev.returnBurst
  simp only [hring, hret, Bool.false_eq_true, if_false, hloc]
  exact ⟨_, rfl⟩

/-- With nothing in the ring and the stager a queue is in Normal state. -/
theorem Dev.normal_empty (hring : (d.queue id).ring = []) (hstager : (d.queue id).stager = []) :
    ∃ ps, d.normal id = d.setQueue id { d.queue id with spilling := false, prods := ps } := by
  unfold Dev.normal
  dsimp only
  rw [if_neg (by simp [hring, hstager])]
  split <;> exact ⟨_, rfl⟩
theorem Dev.normal_ring {b : Burst} {l : List Burst} (hring : (d.queue id).ring = b :: l) : d.normal id = d := by
  simp [Dev.normal, hring]
end

section
variable {s : State} {id : QueueId} (hl : s.dev.queueLive id = true) (hf : s.dev.queueFrozen id = false)
  (hs : (s.dev.queue id).spilling = true)
include hl hf hs
/-- An empty ring and stager: Normal state, the words unchanged. -/
theorem exec_spillReturn_empty (hring : (s.dev.queue id).ring = []) (hstager : (s.dev.queue id).stager = []) :
    ∃ t, exec (.spillReturn id) s = .next t ∧ onlyQueue id s t ∧ (t.dev.queue id).spilling = false ∧
      (t.dev.queue id).store = (s.dev.queue id).store ∧ (t.dev.queue id).rcvs = (s.dev.queue id).rcvs := by
  have hwords := Dev.returnWords_empty hring hstager
  obtain ⟨ps, hnormal⟩ := Dev.normal_empty hring hstager
  have hrun : spillReturn id s.dev = s.dev.setQueue id { s.dev.queue id with spilling := false, prods := ps } := by
    rw [spillReturn_short hl hf hs (by rw [hwords, hstager]; decide), hwords, hnormal]
  refine ⟨{ s with dev := s.dev.setQueue id { s.dev.queue id with spilling := false, prods := ps } }, ?_, onlyQueue_set s id _, ?_⟩
  · rw [← hrun]
    rfl
  · rw [Dev.queue_setQueue_same]
    exact ⟨rfl, rfl, rfl⟩
/-- The last word of the stager moves on chip, and the queue is in Normal state. -/
theorem exec_spillReturn_stager {w : Option QWord} (hbusy : (s.dev.queue id).spillBusy = false) (hring : (s.dev.queue id).ring = [])
    (hstager : (s.dev.queue id).stager = [w]) (hc : s.dev.canTake id 1 = true) :
    ∃ t, exec (.spillReturn id) s = .next t ∧ (t.dev.queue id).spilling = false ∧ (t.dev.queue id).stager = [] ∧
      queueFrame id s t := by
  have hwords := Dev.returnWords_stager hbusy hring hstager hc
  obtain ⟨_, _, _, _, _, _, hput⟩ := s.dev.queue_putQueue id (({ s.dev.queue id with stager := [] } : Queue).append false [w])
  have hnone : ((s.dev.returnWords id).queue id).stager = [] := by
    rw [hwords, hput]
    rfl
  have hnoRing : ((s.dev.returnWords id).queue id).ring = [] := by
    rw [hwords, hput]
    exact hring
  obtain ⟨ps, hnormal⟩ := Dev.normal_empty hnoRing hnone
  have hrun := (spillReturn_short hl hf hs (by rw [hnone]; decide)).trans hnormal
  have hbeside : s.dev.besideQueue id (spillReturn id s.dev) := by
    rw [hrun]
    refine .trans ?_ (Dev.besideQueue_setQueue _ id _)
    rw [hwords]
    exact s.dev.besideQueue_putQueue id _
  have hqueue := (congrArg (fun e : Dev => e.queue id) hrun).trans (Dev.queue_setQueue_same _ id _)
  exact ⟨_, rfl, congrArg Queue.spilling hqueue, (congrArg Queue.stager hqueue).trans hnone, hbeside.frame⟩
/-- The oldest burst is asked for; ring, words and receivers wait for it. -/
theorem exec_spillReturn_ring {b : Burst} {l : List Burst} {pl : Nat × Nat} (hbusy : (s.dev.queue id).spillBusy = false)
    (hret : (s.dev.queue id).retBusy = false) (hstager : (s.dev.queue id).stager.length < 56) (hring : (s.dev.queue id).ring = b :: l)
    (hc : s.dev.canTake id 56 = true) (hloc : locate s.dev.die1 ((s.dev.queue id).burstAddr b.slot) = some pl) :
    ∃ t, exec (.spillReturn id) s = .next t ∧ (t.dev.queue id).retBusy = true ∧ (t.dev.queue id).ring = b :: l ∧
      (t.dev.queue id).store = (s.dev.queue id).store ∧ (t.dev.queue id).rcvs = (s.dev.queue id).rcvs ∧ queueFrame id s t := by
  obtain ⟨req, hask⟩ := Dev.returnBurst_asked hring hret hloc
  have hwords := (Dev.returnWords_ring hbusy hring hc).trans hask
  have hqueue : (s.dev.returnWords id).queue id = { s.dev.queue id with retBusy := true } := by
    rw [hwords, Dev.queue_toChannel, Dev.queue_setQueue_same]
  have hkept : ((s.dev.returnWords id).queue id).ring = b :: l := by
    rw [hqueue]
    exact hring
  have hrun : spillReturn id s.dev = s.dev.returnWords id := by
    rw [spillReturn_short hl hf hs (by rw [hqueue]; exact hstager), Dev.normal_ring hkept]
  have hbeside : s.dev.besideQueue id (s.dev.returnWords id) := by
    rw [hwords]
    exact (s.dev.besideQueue_setQueue id _).trans (Dev.besideQueue_toChannel _ id req pl.1)
  refine ⟨{ s with dev := s.dev.returnWords id }, ?_, ?_⟩
  · rw [← hrun]
    rfl
  · rw [hqueue]
    exact ⟨rfl, hring, rfl, rfl, hbeside.frame⟩
end

/-! ## The void words of a reset producer (R163, R490) -/

section
variable {d : Dev} {id : QueueId}
/-- A queue without a spill ring sends no burst. -/
theorem Dev.spillOut_noRing (h : (d.queue id).elastic = 0) : d.spillOut id = d := by
  dsimp only [Dev.spillOut]
  rw [if_pos]
  simp [h]

/-- A producer whose frame has had the `n` void words that it owed. -/
def Prod.voidsDone (n : Nat) (y : Prod) : Prod := { y with voidLeft := 0, slotWord := y.slotWord + n }
/-- Void words that a queue without slots owes, all of which it can take, are put behind its words. -/
theorem voidTail_fits {p : Nat} {x : Prod} (he : (d.queue id).elastic = 0) (hp : (d.queue id).prods = [(p, x)])
    (hx : 0 < x.voidLeft) (hroom : x.voidLeft ≤ d.roomOf id) :
    ∃ ws, voidTail id d = d.putQueue id (((d.queue id).append false ws).modProd p (Prod.voidsDone x.voidLeft)) := by
  have hfind : (d.queue id).prods.find? (fun e => e.2.voidLeft != 0) = some (p, x) := by
    rw [hp, List.find?_cons_of_pos (by simp; omega)]
  have hchip : ((d.queue id).elastic != 0 && ((d.queue id).spilling || (d.queue id).cap ≤ (d.queue id).occ)) = false := by simp [he]
  have hput (q : Queue) (h : q.elastic = 0) : (d.putQueue id q).spillOut id = d.putQueue id q := by
    obtain ⟨_, _, _, _, _, _, hq⟩ := d.queue_putQueue id q
    exact Dev.spillOut_noRing (by rw [hq]; exact h)
  unfold voidTail
  dsimp only
  rw [hfind]
  dsimp only
  rw [hchip, if_neg Bool.false_ne_true, Nat.min_eq_left hroom, Nat.sub_self]
  exact ⟨_, hput _ he⟩

theorem Queue.voids_fillVoid (q : Queue) (s : SlotImg) (v : VoidRun) (space : Nat) : (q.fillVoid s v space).1.voids = q.voids := by
  refine foldl_keeps Queue.voids _ (fun a c => ?_) _ q
  dsimp only
  split <;> rfl
/-- A slotted queue with the slots of a voided run filled as far as its store and `room` more cells reach; the run leaves when they
all fit. -/
def Queue.voidFilled (q : Queue) (s : SlotImg) (v : VoidRun) (room : Nat) : Queue :=
  let f := q.fillVoid s v (q.store.length + room)
  { f.1 with voids := if f.2 then f.1.voids.erase v else f.1.voids }
theorem Queue.voids_voidFilled {q : Queue} {s : SlotImg} {v : VoidRun} {room : Nat} (hv : q.voids = [v]) :
    (q.voidFilled s v room).voids = if (q.fillVoid s v (q.store.length + room)).2 then [] else [v] := by
  simp only [Queue.voidFilled, Queue.voids_fillVoid, hv, List.erase_cons_head]
end

/-- A queue without slots whose one producer owes void words that all fit. -/
theorem exec_voidSlotFill_tail {s : State} {id : QueueId} {p : Nat} {x : Prod} (hf : s.dev.queueFrozen id = false)
    (hslot : (s.dev.queue id).slot = none) (he : (s.dev.queue id).elastic = 0) (hp : (s.dev.queue id).prods = [(p, x)])
    (hx : 0 < x.voidLeft) (hroom : x.voidLeft ≤ s.dev.roomOf id) :
    ∃ t, exec (.voidSlotFill id) s = .next t ∧ ((t.dev.queue id).prod p).voidLeft = 0 ∧ queueFrame id s t := by
  obtain ⟨ws, htail⟩ := voidTail_fits he hp hx hroom
  have hrun : voidSlotFill id s.dev = voidTail id s.dev := by simp [voidSlotFill, hf, hslot]
  refine ⟨{ s with dev := voidTail id s.dev }, ?_, ?_⟩
  · rw [← hrun]
    rfl
  · rw [htail]
    refine ⟨?_, (s.dev.besideQueue_putQueue id _).frame⟩
    rw [Queue.prod, (s.dev.prods_putQueue id _).1]
    exact congrArg Prod.voidLeft (Queue.prod_modProd_same ((s.dev.queue id).append false ws) p (Prod.voidsDone x.voidLeft))

/-- A slotted queue fills the slots of the one voided run, whose turn it is; the run leaves when all its slots fit. -/
theorem exec_voidSlotFill_slots {s : State} {id : QueueId} {sl : SlotImg} {v : VoidRun} (hf : s.dev.queueFrozen id = false)
    (hslot : (s.dev.queue id).slot = some sl) (hv : (s.dev.queue id).voids = [v]) (hturn : (s.dev.queue id).voidTurn sl v = true) :
    ∃ t, exec (.voidSlotFill id) s = .next t ∧ queueFrame id s t ∧
      (t.dev.queue id).voids =
        (if ((s.dev.queue id).fillVoid sl v ((s.dev.queue id).store.length + s.dev.roomOf id)).2 then [] else [v]) := by
  have hfind : (s.dev.queue id).voids.find? (fun v => (s.dev.queue id).voidTurn sl v) = some v := by
    rw [hv, List.find?_cons_of_pos hturn]
  have hrun : voidSlotFill id s.dev = s.dev.putQueue id ((s.dev.queue id).voidFilled sl v (s.dev.roomOf id)) := by
    simp only [voidSlotFill, hf, hslot, hfind, Bool.false_eq_true, if_false]
    rfl
  refine ⟨{ s with dev := s.dev.putQueue id ((s.dev.queue id).voidFilled sl v (s.dev.roomOf id)) }, ?_,
    (s.dev.besideQueue_putQueue id _).frame, ?_⟩
  · rw [← hrun]
    rfl
  · obtain ⟨_, _, _, _, _, _, hput⟩ := s.dev.queue_putQueue id ((s.dev.queue id).voidFilled sl v (s.dev.roomOf id))
    rw [hput]
    exact Queue.voids_voidFilled hv

/-- Settles O11: a receiver passes what it discards, a spilling queue takes its words back, and void words fill what a reset
producer owes. -/
theorem skipsSpillsAndVoids : Obligations.SkipsSpillsAndVoids := by
  unfold Obligations.SkipsSpillsAndVoids
  refine ⟨fun s q r x hx hsteady hstale => ?_, fun s q r x hx hsteady hskip hf => ?_,
    fun s q hl hf hs hring hstager => exec_spillReturn_empty hl hf hs hring hstager,
    fun s q w hl hf hs hbusy hring hstager hc => exec_spillReturn_stager hl hf hs hbusy hring hstager hc,
    fun s q b l pl hl hf hs hbusy hret hstager hring hc hloc =>
      exec_spillReturn_ring hl hf hs hbusy hret hstager hring hc hloc,
    fun s q p x hf hslot he hp hx hroom => exec_voidSlotFill_tail hf hslot he hp hx hroom,
    fun s q sl v hf hslot hv hturn => exec_voidSlotFill_slots hf hslot hv hturn⟩
  · obtain ⟨hrcv, hcount, hbeside⟩ := Dev.epochDrop_effect hx hsteady hstale
    obtain ⟨h, hdiscard⟩ := x.discard_frame
    rw [hdiscard] at hrcv
    exact ⟨_, _, rfl, hrcv, rfl, rfl, hcount, hbeside.frame⟩
  · obtain ⟨⟨b, hrcv⟩, hbeside⟩ := badPacketSkip_effect hx hsteady hskip hf
    exact ⟨_, _, rfl, hrcv, Rcv.take_r _, fun hm => Rcv.take_h _ hm (Rcv.pass_h _ hm), hbeside.frame⟩

end Sys2Proof.Machine
end

section
/-! SUPPORT. NaNs of the float formats (R165, R166, Table 5-2): the codes that are NaNs, and that no rounding of another value to FP32
and no narrowing of one reaches them. -/
namespace Sys2Proof.Machine

open Sys2Proof

/-! ## Significant bits -/

theorem bitLen_le_iff {m n : Nat} : bitLen m ≤ n ↔ m < 2 ^ n := by
  unfold bitLen
  split
  · next h => simp [h]
  · next h => rw [← Nat.log2_lt h, Nat.succ_le_iff]
theorem bitLen_pos {m : Nat} (hm : m ≠ 0) : 0 < bitLen m := by simp [bitLen, hm]

/-- A magnitude has as many bits as its significand, counted from its exponent. -/
theorem shiftInt_lt_two_pow {m t : Nat} {k : Int} (hm : m ≠ 0) : shiftInt m k < 2 ^ t ↔ (bitLen m : Int) + k ≤ t := by
  have hpos := bitLen_pos hm
  unfold shiftInt
  split
  · next hk =>
    by_cases ht : k.toNat ≤ t
    · have hadd : (bitLen m : Int) + k ≤ t ↔ bitLen m ≤ t - k.toNat := by omega
      rw [hadd, bitLen_le_iff, ← Nat.mul_lt_mul_right (b := m) (Nat.two_pow_pos k.toNat), ← Nat.pow_add, Nat.sub_add_cancel ht]
    · have hbig : 2 ^ t ≤ m * 2 ^ k.toNat :=
        (Nat.pow_le_pow_right (by decide) (by omega)).trans (Nat.le_mul_of_pos_left _ (Nat.pos_of_ne_zero hm))
      omega
  · next hk =>
    have hadd : (bitLen m : Int) + k ≤ t ↔ bitLen m ≤ t + (-k).toNat := by omega
    rw [hadd, bitLen_le_iff, Nat.pow_add, Nat.div_lt_iff_lt_mul (Nat.two_pow_pos _)]
/-- A magnitude below a bound, counted in the bound's exponent. -/
theorem shiftInt_lt_of_dyLt {m a : Nat} {e b : Int} (h : dyLt ⟨false, m, e⟩ ⟨false, a, b⟩ = true) : shiftInt m (e - b) < a := by
  simp only [dyLt, Dy.at, Bool.false_eq_true, if_false, decide_eq_true_eq, Int.ofNat_lt] at h
  unfold shiftInt
  split
  · next hk =>
    have hmin : min e b = b := by omega
    simpa [hmin] using h
  · next hk =>
    have hmin : min e b = e := by omega
    rw [Nat.div_lt_iff_lt_mul (Nat.two_pow_pos _)]
    simpa [hmin] using h

/-! ## Codes of a sign and a magnitude -/

section
variable {eb fb c : Nat}
/-- In a format with infinities a NaN's magnitude lies above the infinities' (R165). -/
theorem magnitude_of_readFloat_nan (h : readFloat eb fb true c = .nan) : (2 ^ eb - 1) * 2 ^ fb < c % 2 ^ (eb + fb) := by
  unfold readFloat at h
  simp only [Bool.true_and, Bool.not_true, Bool.false_and, Bool.false_eq_true, if_false] at h
  split at h
  · next hex =>
    split at h
    · exact absurd h (by simp)
    · next hf =>
      rw [beq_iff_eq] at hex
      have hfrac : c % 2 ^ fb ≠ 0 := by simpa using hf
      rw [Nat.add_comm eb, Nat.pow_add, Nat.mod_mul, hex, Nat.mul_comm]
      omega
  · split at h <;> exact absurd h (by simp)
/-- In E4M3 only the largest magnitude is a NaN (R165). -/
theorem magnitude_of_readFloat_e4m3_nan (h : readFloat 4 3 false c = .nan) : c % 128 = 127 := by
  unfold readFloat at h
  simp only [Bool.false_and, Bool.not_false, Bool.true_and, Bool.false_eq_true, if_false] at h
  split at h
  · next hmax =>
    simp only [Bool.and_eq_true, beq_iff_eq] at hmax
    omega
  · split at h <;> exact absurd h (by simp)
end

/-! ## Rounding to FP32 -/

theorem roundEven_le (p m : Nat) : (roundEven p m).1 ≤ 2 ^ p := by
  have hlen : m < 2 ^ bitLen m := bitLen_le_iff.1 le_rfl
  unfold roundEven
  dsimp only
  split
  · next hp =>
    have := Nat.mul_le_mul_right (2 ^ (p - bitLen m)) hlen.le
    rwa [← Nat.pow_add, Nat.add_sub_cancel' hp] at this
  · next hp =>
    have hq : m / 2 ^ (bitLen m - p) < 2 ^ p := by
      rwa [Nat.div_lt_iff_lt_mul (Nat.two_pow_pos _), ← Nat.pow_add, Nat.add_sub_cancel' (by omega)]
    split
    · exact hq
    · exact hq.le

/-- A rounded value is a sign and a magnitude that the infinities bound. -/
theorem packEven_magnitude (fb : Nat) (neg : Bool) (m : Nat) (e : Int) :
    ∃ mag ≤ 255 * 2 ^ fb, packEven fb neg m e = (if neg then 2 ^ (fb + 8) else 0) + mag := by
  have hround := roundEven_le (fb + 1) m
  unfold packEven
  dsimp only
  generalize hq : (if (roundEven (fb + 1) m).1 = 2 ^ (fb + 1) then (roundEven (fb + 1) m).1 / 2 else (roundEven (fb + 1) m).1) = q
  generalize e + (bitLen m : Int) - 1 + (if (roundEven (fb + 1) m).1 = 2 ^ (fb + 1) then 1 else 0) = ex
  have hq' : q ≤ 2 * 2 ^ fb := by
    rw [Nat.pow_succ] at hround
    split at hq <;> omega
  split
  · exact ⟨0, Nat.zero_le _, rfl⟩
  · split
    · exact ⟨_, le_rfl, rfl⟩
    · split
      · exact ⟨0, Nat.zero_le _, rfl⟩
      · next hover hunder =>
        have hexp := Nat.mul_le_mul_right (2 ^ fb) (show (ex + 127).toNat ≤ 254 by omega)
        exact ⟨_, by omega, Nat.add_assoc ..⟩

/-- FP32 results are NaN only as the canonical NaN. -/
theorem of32_to32_ne_nan {v : Num} (h : v ≠ .nan) : of32 (to32 v) ≠ .nan := by
  intro hnan
  have hmag := magnitude_of_readFloat_nan hnan
  cases v with
  | nan => exact h rfl
  | inf neg => cases neg <;> simp [to32] at hmag
  | fin d =>
    obtain ⟨mag, hle, hpack⟩ := packEven_magnitude 23 d.neg d.m d.e
    simp only [to32, hpack, BitVec.toNat_ofNat] at hmag
    split at hmag <;> omega
theorem to32_eq_nan32 {v : Num} (h : of32 (to32 v) = .nan) : to32 v = nan32 := by
  by_cases hv : v = .nan
  · rw [hv]; rfl
  · exact absurd h (of32_to32_ne_nan hv)

/-! ## Truncation to a narrow format -/

/-- A truncated magnitude below 2^(2^(eb−1)) is below the infinities. -/
theorem truncFloat_lt {eb fb : Nat} {d : Dy} {b : Int} (heb : 2 ≤ eb) (hb : b = 2 ^ (eb - 1)) (h : shiftInt d.m (d.e - b) < 1) :
    truncFloat eb fb d < (2 ^ eb - 1) * 2 ^ fb := by
  have hP := Nat.two_pow_pos fb
  have hB : 2 ≤ 2 ^ (eb - 1) := Nat.pow_le_pow_right (n := 2) (by decide) (show 1 ≤ eb - 1 by omega)
  have hE : 2 ^ eb = 2 * 2 ^ (eb - 1) := by rw [← Nat.pow_succ', Nat.succ_eq_add_one, Nat.sub_add_cancel (by omega)]
  have hcast : (2 : Int) ^ (eb - 1) = (2 ^ (eb - 1) : Nat) := by push_cast; rfl
  rw [hcast] at hb
  have hsplit : (2 ^ eb - 1) * 2 ^ fb = (2 ^ eb - 2) * 2 ^ fb + 2 ^ fb := by
    rw [← Nat.succ_mul]; congr 1; omega
  unfold truncFloat
  dsimp only
  rw [hcast]
  split
  · omega
  · next hm =>
    have hbits := (shiftInt_lt_two_pow (t := 0) hm).1 h
    split
    · next hsub =>
      have hs := (shiftInt_lt_two_pow (t := fb) (k := d.e - (1 - (((2 ^ (eb - 1) : Nat) : Int) - 1) - fb)) hm).2 (by omega)
      omega
    · next hnorm =>
      have hs := (shiftInt_lt_two_pow (t := fb + 1) (k := d.e - (d.e + (bitLen d.m : Int) - 1 - fb)) hm).2 (by omega)
      have hexp := Nat.mul_le_mul_right (2 ^ fb) (show (d.e + (bitLen d.m : Int) - 1 -
        (1 - (((2 ^ (eb - 1) : Nat) : Int) - 1)) + 1).toNat ≤ 2 ^ eb - 2 by omega)
      rw [Nat.pow_succ] at hs
      omega
/-- A truncated magnitude below 480 is below the NaN of E4M3. -/
theorem truncFloat_e4m3_lt {d : Dy} (h : shiftInt d.m (d.e - 5) < 15) : truncFloat 4 3 d < 127 := by
  unfold truncFloat
  dsimp only
  split
  · omega
  · next hm =>
    have hbits := (shiftInt_lt_two_pow (t := 4) hm).1 (h.trans (by decide))
    split
    · next hsub =>
      have hs := (shiftInt_lt_two_pow (t := 3) (k := d.e - (1 - (2 ^ (4 - 1) - 1) - (3 : Nat))) hm).2 (by omega)
      omega
    · next hnorm =>
      have hs := (shiftInt_lt_two_pow (t := 4) (k := d.e - (d.e + (bitLen d.m : Int) - 1 - (3 : Nat))) hm).2 (by omega)
      obtain hex | hex : d.e + (bitLen d.m : Int) - 1 = 8 ∨ d.e + (bitLen d.m : Int) - 1 ≤ 7 := by omega
      · rw [hex] at hs ⊢
        have h5 : d.e - (8 - (3 : Nat)) = d.e - 5 := by omega
        rw [h5]
        omega
      · omega

/-! ## Narrowing to a float format (R169) -/

/-- The largest magnitude that is no NaN, in a float format of 8 or 16 bits. -/
def fmtTop (f : Fmt) : Nat :=
  match f with
  | .e4m3 => 0x7E | .e5m2 => 0x7C | .bf16 => 0x7F80 | _ => 0x7C00

/-- A code of a sign and a magnitude, in a format of 8 or 16 bits. -/
def signed (f : Fmt) (neg : Bool) (c : Nat) : Nat := if neg then c + 2 ^ (fmtBits f - 1) else c

/-- The float formats of 8 and 16 bits. -/
def isNarrowFloat (f : Fmt) : Bool := match f with | .e4m3 | .e5m2 | .bf16 | .fp16 => true | _ => false

theorem signed_mod {f : Fmt} {c : Nat} (h : c < 2 ^ (fmtBits f - 1)) (neg : Bool) : signed f neg c % 2 ^ (fmtBits f - 1) = c := by
  cases neg
  · exact Nat.mod_eq_of_lt h
  · exact (Nat.add_mod_right _ _).trans (Nat.mod_eq_of_lt h)

theorem ofCode_signed_ne_nan {f : Fmt} (hf : isNarrowFloat f = true) {c : Nat} (h : c ≤ fmtTop f) (neg : Bool) :
    ofCode f (signed f neg c) ≠ .nan := by
  intro hnan
  have hlt : c < 2 ^ (fmtBits f - 1) := h.trans_lt (by revert hf; cases f <;> decide)
  have hmod := signed_mod hlt neg
  cases f with
  | a4 | a8 | fp32 | u16 => exact absurd hf (by decide)
  | e4m3 =>
    have hmag : signed .e4m3 neg c % 2 ^ 7 = 127 := magnitude_of_readFloat_e4m3_nan hnan
    have : c ≤ 126 := h
    simp only [fmtBits] at hmod
    omega
  | e5m2 | bf16 | fp16 =>
    simp only [ofCode] at hnan
    have hmag := magnitude_of_readFloat_nan hnan
    simp only [fmtBits] at hmod
    simp only [fmtTop] at h
    omega

/-- What does not saturate truncates to a finite magnitude. -/
theorem truncFloat_le_fmtTop {f : Fmt} (hf : isNarrowFloat f = true) {d : Dy} (h : atBound f d = false) :
    truncFloat (fmtEF f).1 (fmtEF f).2 d ≤ fmtTop f := by
  cases f with
  | a4 | a8 | fp32 | u16 => exact absurd hf (by decide)
  | e4m3 =>
    have hlt : dyLt ⟨false, d.m, d.e⟩ ⟨false, 15, 5⟩ = true := by simpa [atBound, dyLe] using h
    exact Nat.le_of_lt_succ (truncFloat_e4m3_lt (shiftInt_lt_of_dyLt hlt))
  | e5m2 | fp16 =>
    have hlt : dyLt ⟨false, d.m, d.e⟩ ⟨false, 1, 16⟩ = true := by simpa [atBound, dyLe] using h
    exact (truncFloat_lt (by decide) (by norm_num [fmtEF]) (shiftInt_lt_of_dyLt hlt)).le
  | bf16 =>
    have hlt : dyLt ⟨false, d.m, d.e⟩ ⟨false, 1, 128⟩ = true := by simpa [atBound, dyLe] using h
    exact (truncFloat_lt (by decide) (by norm_num [fmtEF]) (shiftInt_lt_of_dyLt hlt)).le

/-- The code that a magnitude beyond a format's range takes. -/
def fmtSat (f : Fmt) (infsel : Bool) : Nat :=
  if infsel && (f == .e5m2 || f == .bf16 || f == .fp16) then fmtInf f else fmtMax f
theorem fmtSat_le_fmtTop {f : Fmt} (hf : isNarrowFloat f = true) (infsel : Bool) : fmtSat f infsel ≤ fmtTop f := by
  revert infsel hf
  cases f <;> decide

theorem flush_eq_nan_iff {v : Num} : flush v = .nan ↔ v = .nan := by
  cases v with
  | nan | inf => exact Iff.rfl
  | fin d =>
    unfold flush
    dsimp only
    split <;> simp

theorem narrowFloat_of_nan {f : Fmt} (hf : isFloatFmt f = true) (infsel : Bool) {w : W32} (h : of32 w = .nan) :
    narrowFloat f infsel w = (fmtNan f, .nan) := by
  have hflush : flush (of32 w) = .nan := flush_eq_nan_iff.2 h
  cases f with
  | a4 | a8 | u16 => exact absurd hf (by decide)
  | e4m3 | e5m2 | bf16 | fp16 | fp32 => simp only [narrowFloat, hflush, fmtNan]

theorem narrowFloat_fp32 (infsel : Bool) {w : W32} (h : of32 w ≠ .nan) :
    (narrowFloat .fp32 infsel w).1 = (to32 (flush (of32 w))).toNat := by
  simp only [narrowFloat]
  split
  · next hnan => exact absurd (flush_eq_nan_iff.1 hnan) h
  · rfl

/-- A value that is no NaN narrows to a sign and a magnitude below the NaNs. -/
theorem narrowFloat_signed {f : Fmt} (hf : isNarrowFloat f = true) (infsel : Bool) {w : W32} (h : of32 w ≠ .nan) :
    ∃ neg, ∃ c ≤ fmtTop f, (narrowFloat f infsel w).1 = signed f neg c := by
  have hne : f ≠ .fp32 := by rintro rfl; exact absurd hf (by decide)
  unfold narrowFloat
  dsimp only
  split
  · exact absurd rfl hne
  · split
    · next hnan => exact absurd (flush_eq_nan_iff.1 hnan) h
    · next s _ => exact ⟨s, fmtSat f infsel, fmtSat_le_fmtTop hf infsel, rfl⟩
    · next d _ =>
      split
      · exact ⟨d.neg, fmtSat f infsel, fmtSat_le_fmtTop hf infsel, rfl⟩
      · next hb => exact ⟨d.neg, _, truncFloat_le_fmtTop hf (by simpa using hb), rfl⟩

theorem ofCode_narrowFloat_ne_nan {f : Fmt} (hf : isFloatFmt f = true) (infsel : Bool) {w : W32} (h : of32 w ≠ .nan) :
    ofCode f (narrowFloat f infsel w).1 ≠ .nan := by
  obtain rfl | hn : f = .fp32 ∨ isNarrowFloat f = true := by revert hf; cases f <;> decide
  · rw [narrowFloat_fp32 infsel h]
    exact of32_to32_ne_nan (mt flush_eq_nan_iff.1 h)
  · obtain ⟨neg, c, hc, hcode⟩ := narrowFloat_signed hn infsel h
    rw [hcode]
    exact ofCode_signed_ne_nan hn hc neg

/-- Settles O51: a NaN comes out of a narrowing or of a rounding to FP32 only where a NaN goes in, as the canonical one. -/
theorem naNsAreCanonical : Obligations.NaNsAreCanonical := by
  unfold Obligations.NaNsAreCanonical
  refine ⟨by decide, fun f inf w hf h => narrowFloat_of_nan hf inf h, fun f inf w hf hnan => ?_,
    fun a b => ⟨to32_eq_nan32, to32_eq_nan32⟩, fun a b => to32_eq_nan32⟩
  have hw : of32 w = .nan := by
    by_contra h
    exact ofCode_narrowFloat_ne_nan hf inf h hnan
  rw [narrowFloat_of_nan hf inf hw]

end Sys2Proof.Machine
end

section
/-! SUPPORT. Tensors at their collectors, and the host's watch slots (R195 to R198). -/
namespace Sys2Proof.Machine

open Sys2Proof

/-! ## Tensors -/

theorem lookup_map_key {α : Type} (f : α → α) (k : Nat) (l : List (Nat × α)) :
    (l.map (fun e => if e.1 == k then (e.1, f e.2) else e)).lookup k = (l.lookup k).map f := by
  induction l with
  | nil => rfl
  | cons e l ih =>
    obtain ⟨i, a⟩ := e
    by_cases h : i = k
    · simp [h]
    · have hne : (k == i) = false := by simp [Ne.symm h]
      simpa [h, List.lookup_cons, hne] using ih
theorem Dev.tensor_modTensor_same (d : Dev) (n : NetId) (t : BitVec 12) (f : Tensor → Tensor) :
    (d.modTensor n t f).tensor n t = (d.tensor n t).map f := by
  simp only [Dev.tensor, Dev.modTensor, Dev.net_modNet_same]
  exact lookup_map_key f t.toNat (d.net n).tensors

theorem Dev.tensor_modTensor_some {d : Dev} {n : NetId} {t : BitVec 12} {x : Tensor} (h : d.tensor n t = some x) (f : Tensor → Tensor) :
    (d.modTensor n t f).tensor n t = some (f x) := by
  rw [Dev.tensor_modTensor_same, h, Option.map_some]

/-! ## Watch slots (R195 to R198) -/

section
variable (d : Dev) (n : BitVec 6) (f : Watch → Watch)
theorem Dev.watchAt_modWatch_same : (d.modWatch n f).watchAt n = f (d.watchAt n) := by
  simp [Dev.watchAt, Dev.modWatch, Dev.modCal]
theorem Dev.watchAt_modWatch_other {m : BitVec 6} (h : m ≠ n) : (d.modWatch n f).watchAt m = d.watchAt m := by
  have hne : n.toNat ≠ m.toNat := fun e => h (BitVec.eq_of_toNat_eq e).symm
  exact tblGet_mod_other _ _ _ hne
theorem Dev.watchAt_modTensor (m : NetId) (t : BitVec 12) (g : Tensor → Tensor) : (d.modTensor m t g).watchAt n = d.watchAt n := rfl
theorem Dev.tensor_modWatch (m : NetId) (t : BitVec 12) : (d.modWatch n f).tensor m t = d.tensor m t := rfl
end

/-- The slot that WSEL leaves (R196). -/
def Watch.selected (w : Watch) (v : W32) (x : Option (NetId × Tensor)) : Watch :=
  let w1 : Watch := { part := v.setWidth 5, tensor := v.extractLsb' 16 12, arm := v.getLsbD 31, kt := w.kt, s2 := w.s2,
                      driftTh := w.driftTh, drift := w.drift, notensor := x.isNone }
  match x with
  | some (_, y) => if v.getLsbD 31 then { w1 with kt := y.kt, s2 := y.s2, driftTh := y.driftTh } else w1
  | none => w1
theorem wsel_eq (n : BitVec 6) (v : W32) (d : Dev) :
    wsel n v d = d.modWatch n (fun w => w.selected v (d.named (v.setWidth 5) (v.extractLsb' 16 12))) := rfl
theorem Watch.selected_frame (w : Watch) (v : W32) (x : Option (NetId × Tensor)) :
    ∃ kt s2 th, w.selected v x = { part := v.setWidth 5, tensor := v.extractLsb' 16 12, arm := v.getLsbD 31, kt := kt, s2 := s2,
                                   driftTh := th, drift := w.drift, notensor := x.isNone } := by
  unfold Watch.selected
  cases x with
  | none => exact ⟨_, _, _, rfl⟩
  | some y =>
    dsimp only
    split <;> exact ⟨_, _, _, rfl⟩

theorem wsel_effect (n : BitVec 6) (v : W32) (d : Dev) :
    (∃ kt s2 th, (wsel n v d).watchAt n =
      { part := v.setWidth 5, tensor := v.extractLsb' 16 12, arm := v.getLsbD 31, kt := kt, s2 := s2, driftTh := th,
        drift := (d.watchAt n).drift, notensor := (d.named (v.setWidth 5) (v.extractLsb' 16 12)).isNone }) ∧
    (∀ m, m ≠ n → (wsel n v d).watchAt m = d.watchAt m) ∧
    (wsel n v d).cores = d.cores ∧ (wsel n v d).queues = d.queues ∧ (wsel n v d).psram = d.psram := by
  obtain ⟨kt, s2, th, hw⟩ := (d.watchAt n).selected_frame v (d.named (v.setWidth 5) (v.extractLsb' 16 12))
  rw [wsel_eq]
  exact ⟨⟨kt, s2, th, (Dev.watchAt_modWatch_same d n _).trans hw⟩, fun m hm => Dev.watchAt_modWatch_other d n _ hm, rfl, rfl, rfl⟩

section
variable {d : Dev} {n : BitVec 6} {v : W32}
theorem slotWrite_unarmed (h : d.armedTensor n = none) :
    wcfg n v d = d.calReject ∧ s2Write n v d = d.calReject ∧ driftThWrite n v d = d.calReject := by
  simp only [wcfg, s2Write, driftThWrite, h, and_self]
theorem s2Write_notPositive (hv : posFinite v = false) : s2Write n v d = d.calReject := by
  unfold s2Write
  split
  · rfl
  · rw [hv, if_neg Bool.false_ne_true]

/-! ## Writes that reach the tensor of an armed slot -/

variable {m : NetId} {y : Tensor} (h : d.armedTensor n = some m) (hy : d.tensor m (d.watchAt n).tensor = some y)
include h hy
theorem wcfg_armed : ((wcfg n v d).watchAt n).kt = v.setWidth 8 ∧
    (wcfg n v d).tensor m (d.watchAt n).tensor = some { y with ktNew := some (v.setWidth 8) } ∧
    (∀ k, k ≠ n → (wcfg n v d).watchAt k = d.watchAt k) ∧
    (wcfg n v d).cores = d.cores ∧ (wcfg n v d).queues = d.queues ∧ (wcfg n v d).psram = d.psram := by
  simp only [wcfg, h]
  refine ⟨?_, ?_, fun k hk => Dev.watchAt_modWatch_other _ n _ hk, rfl, rfl, rfl⟩
  · rw [Dev.watchAt_modWatch_same]
  · rw [Dev.tensor_modWatch, Dev.tensor_modTensor_some hy]
theorem s2Write_armed (hv : posFinite v = true) :
    (s2Write n v d).tensor m (d.watchAt n).tensor = some { y with s2New := some (clampS2 v) } ∧
    (∀ k, (s2Write n v d).watchAt k = d.watchAt k) ∧
    (s2Write n v d).cores = d.cores ∧ (s2Write n v d).queues = d.queues ∧ (s2Write n v d).psram = d.psram := by
  simp only [s2Write, h, hv, if_true]
  exact ⟨by rw [Dev.tensor_modTensor_some hy], fun k => by rw [Dev.watchAt_modTensor], rfl, rfl, rfl⟩
theorem driftThWrite_armed : ((driftThWrite n v d).watchAt n).driftTh = v ∧
    (driftThWrite n v d).tensor m (d.watchAt n).tensor = some { y with thNew := some v } ∧
    (∀ k, k ≠ n → (driftThWrite n v d).watchAt k = d.watchAt k) ∧
    (driftThWrite n v d).cores = d.cores ∧ (driftThWrite n v d).queues = d.queues ∧ (driftThWrite n v d).psram = d.psram := by
  simp only [driftThWrite, h]
  refine ⟨?_, ?_, fun k hk => Dev.watchAt_modWatch_other _ n _ hk, rfl, rfl, rfl⟩
  · rw [Dev.watchAt_modWatch_same]
  · rw [Dev.tensor_modWatch, Dev.tensor_modTensor_some hy]
end

/-! ## The host's writes -/

section
variable (d : Dev) (n : BitVec 6)
theorem Dev.watchAt_hostWrote : d.hostWrote.watchAt n = d.watchAt n := rfl
theorem Dev.tensor_hostWrote (m : NetId) (t : BitVec 12) : d.hostWrote.tensor m t = d.tensor m t := rfl
theorem Dev.named_hostWrote (p : PartId) (t : BitVec 12) : d.hostWrote.named p t = d.named p t := rfl
theorem Dev.armedTensor_hostWrote : d.hostWrote.armedTensor n = d.armedTensor n := rfl
end

section
variable {s : State} (hs : hostRuns s)
include hs
/-- A host's write of a watch slot acts on the device that the write leaves (R459). -/
theorem hostWrite_slot (f : Dev → Dev) : (Host.Outcome.next (hostWrite f s) : Ans) = .next { s with dev := f s.dev.hostWrote } := by
  rw [hostWrite_runs hs]

theorem exec_wselWrite (n : BitVec 6) (v : W32) :
    ∃ t, exec (.wselWrite n v) s = .next t ∧ (t.dev.watchAt n).part = v.setWidth 5 ∧ (t.dev.watchAt n).tensor = v.extractLsb' 16 12 ∧
      (t.dev.watchAt n).arm = v.getLsbD 31 ∧ (t.dev.watchAt n).valid = false ∧ (t.dev.watchAt n).count = 0#32 ∧
      ((t.dev.watchAt n).notensor = true ↔ s.dev.named (v.setWidth 5) (v.extractLsb' 16 12) = none) ∧
      (∀ m, m ≠ n → t.dev.watchAt m = s.dev.watchAt m) ∧ coresQueuesKept s t := by
  obtain ⟨⟨kt, s2, th, hslot⟩, hothers, hkept⟩ := wsel_effect n v s.dev.hostWrote
  simp only [Dev.named_hostWrote, Dev.watchAt_hostWrote, Dev.hostWrote_cores, Dev.hostWrote_queues, Dev.hostWrote_psram] at hslot hothers hkept
  refine ⟨_, hostWrite_slot hs (wsel n v), ?_⟩
  dsimp only
  rw [hslot]
  exact ⟨rfl, rfl, rfl, rfl, rfl, Option.isNone_iff_eq_none, hothers, hkept⟩

/-- A write that its slot ignores is counted, whatever it would set (R196, R198). -/
theorem exec_slotWrite_ignored {n : BitVec 6} {v : W32} {i : Instr}
    (h : (s.dev.armedTensor n = none ∧ (i = .wcfgWrite n v ∨ i = .s2Write n v ∨ i = .driftThWrite n v)) ∨
      (posFinite v = false ∧ i = .s2Write n v)) :
    ∃ t, exec i s = .next t ∧ t.dev.cal = { s.dev.cal with rej := satInc s.dev.cal.rej } ∧ t.dev.nets = s.dev.nets ∧
      coresQueuesKept s t := by
  refine ⟨{ s with dev := s.dev.hostWrote.calReject }, ?_, by simp [Dev.calReject, Dev.modCal], by simp [Dev.calReject],
    by simp [Dev.calReject], by simp [Dev.calReject], by simp [Dev.calReject]⟩
  obtain ⟨ha, hi⟩ | ⟨hv, rfl⟩ := h
  · obtain ⟨hkt, hs2, hth⟩ := slotWrite_unarmed (v := v) ((s.dev.armedTensor_hostWrote n).trans ha)
    obtain rfl | rfl | rfl := hi
    · rw [← hkt]; exact hostWrite_slot hs (wcfg n v)
    · rw [← hs2]; exact hostWrite_slot hs (s2Write n v)
    · rw [← hth]; exact hostWrite_slot hs (driftThWrite n v)
  · rw [← s2Write_notPositive (n := n) hv]; exact hostWrite_slot hs (s2Write n v)
end

section
variable {s : State} {n : BitVec 6} {m : NetId} {y : Tensor} (hs : hostRuns s) (ha : s.dev.armedTensor n = some m)
  (hy : s.dev.tensor m (s.dev.watchAt n).tensor = some y) (v : W32)
include hs ha hy
theorem exec_wcfgWrite_armed :
    ∃ t, exec (.wcfgWrite n v) s = .next t ∧ (t.dev.watchAt n).kt = v.setWidth 8 ∧
      t.dev.tensor m (s.dev.watchAt n).tensor = some { y with ktNew := some (v.setWidth 8) } ∧
      (∀ k, k ≠ n → t.dev.watchAt k = s.dev.watchAt k) ∧ coresQueuesKept s t := by
  have h := wcfg_armed (d := s.dev.hostWrote) (v := v) ((s.dev.armedTensor_hostWrote n).trans ha)
    (by rw [Dev.watchAt_hostWrote, Dev.tensor_hostWrote, hy])
  simp only [Dev.watchAt_hostWrote] at h
  exact ⟨_, hostWrite_slot hs (wcfg n v), h⟩
theorem exec_s2Write_armed (hv : posFinite v = true) :
    ∃ t, exec (.s2Write n v) s = .next t ∧
      t.dev.tensor m (s.dev.watchAt n).tensor = some { y with s2New := some (clampS2 v) } ∧
      (∀ k, t.dev.watchAt k = s.dev.watchAt k) ∧ coresQueuesKept s t := by
  have h := s2Write_armed (d := s.dev.hostWrote) (v := v) ((s.dev.armedTensor_hostWrote n).trans ha)
    (by rw [Dev.watchAt_hostWrote, Dev.tensor_hostWrote, hy]) hv
  simp only [Dev.watchAt_hostWrote] at h
  exact ⟨_, hostWrite_slot hs (s2Write n v), h⟩
theorem exec_driftThWrite_armed :
    ∃ t, exec (.driftThWrite n v) s = .next t ∧ (t.dev.watchAt n).driftTh = v ∧
      t.dev.tensor m (s.dev.watchAt n).tensor = some { y with thNew := some v } ∧
      (∀ k, k ≠ n → t.dev.watchAt k = s.dev.watchAt k) ∧ coresQueuesKept s t := by
  have h := driftThWrite_armed (d := s.dev.hostWrote) (v := v) ((s.dev.armedTensor_hostWrote n).trans ha)
    (by rw [Dev.watchAt_hostWrote, Dev.tensor_hostWrote, hy])
  simp only [Dev.watchAt_hostWrote] at h
  exact ⟨_, hostWrite_slot hs (driftThWrite n v), h⟩
end

/-- Settles O20: each write of a slot changes the slot, its tensor, or the count of the ignored writes. -/
theorem watchSlots : Obligations.WatchSlots := by
  unfold Obligations.WatchSlots
  exact ⟨fun s n v hs => exec_wselWrite hs n v,
    fun s n v m y hs ha hy => exec_wcfgWrite_armed hs ha hy v,
    fun s n v m y hs ha hy hv => exec_s2Write_armed hs ha hy v hv,
    fun s n v m y hs ha hy => exec_driftThWrite_armed hs ha hy v,
    fun s n v i hs h => exec_slotWrite_ignored hs h⟩

end Sys2Proof.Machine
end

section
/-! SUPPORT. Caliper reports at their collectors (R181 to R193): what calipers change, how a frame closes, and what becomes of a report
that arrives. -/
namespace Sys2Proof.Machine

open Sys2Proof

/-! ## What calipers change -/

/-- Nothing differs but the tensors of networks, the calipers' counters and slots, the scales on their way and the events. -/
structure CalipersOnly (d e : Dev) : Prop where
  frame : e = { d with nets := e.nets, cal := e.cal, scales := e.scales, evt := e.evt }
  nets : ∀ m, e.net m = { d.net m with tensors := (e.net m).tensors }

theorem CalipersOnly.refl (d : Dev) : CalipersOnly d d := ⟨rfl, fun _ => rfl⟩
theorem CalipersOnly.trans {a b c : Dev} (h1 : CalipersOnly a b) (h2 : CalipersOnly b c) : CalipersOnly a c := by
  refine ⟨?_, fun m => ?_⟩
  · have h := h2.frame
    rw [h1.frame] at h
    exact h
  · have h := h2.nets m
    rw [h1.nets m] at h
    exact h
theorem calipersOnly_units (d : Dev) (cal : Cal) (scales : List (CoreId × BitVec 12 × W32)) (evt : Evt) :
    CalipersOnly d { d with cal := cal, scales := scales, evt := evt } := ⟨rfl, fun _ => rfl⟩
theorem CalipersOnly.foldl {α : Type} (f : Dev → α → Dev) (h : ∀ d a, CalipersOnly d (f d a)) (l : List α) (d : Dev) :
    CalipersOnly d (l.foldl f d) :=
  foldl_preserves (CalipersOnly d) f (fun e a he => he.trans (h e a)) l d (.refl d)

section
variable (d : Dev) (n : NetId) (tn : BitVec 12)
theorem calipersOnly_modTensor (f : Tensor → Tensor) : CalipersOnly d (d.modTensor n tn f) := by
  refine ⟨rfl, fun m => ?_⟩
  rw [Dev.modTensor, Dev.net_modNet]
  split
  · next h => rw [h]
  · rfl
/-- A new S2 on its way is the one change of its sending. -/
theorem Dev.sendS2_frame (was : W32) : d.sendS2 n tn was = { d with scales := (d.sendS2 n tn was).scales } := by
  unfold Dev.sendS2
  split
  · rfl
  · split <;> rfl
/-- A tensor's S2 goes to the cores of its stage when it is another than before (R183). -/
theorem Dev.mem_scales_sendS2 {t : Tensor} (ht : d.tensor n tn = some t) {was : W32} (hs : t.s2 ≠ was) {c : CoreId}
    (hc : c ∈ d.coresOfStage n t.stage) (hspare : (d.core c).spare = false) : (c, tn, t.s2) ∈ (d.sendS2 n tn was).scales := by
  simp only [Dev.sendS2, ht, beq_iff_eq, hs, if_false]
  refine List.mem_append_right _ (List.mem_map.2 ⟨c, List.mem_filter.2 ⟨hc, ?_⟩, rfl⟩)
  rw [hspare]
  rfl
end

/-! ## A frame that closes (R184, R193) -/

/-- S2 after the close of a frame: the host's value, or the step of R184 where nothing stands against it. -/
def Dev.closedS2 (d : Dev) (n : NetId) (t : Tensor) (o : OpenFrame) (complete dropped : Bool) : W32 :=
  let host := match d.collectorOf n t with | some c => d.hostMode (partOfCore c) 2 | none => true
  match t.s2New with
  | some v => v
  | none =>
    if t.s2New.isNone && !host && !dropped && t.integer then
      stepS2 t.s2 (statsOf o.frame complete o.reports).kmaxn (t.ktNew.getD t.kt)
    else t.s2
/-- A tensor after the close of a frame; its settings as the tensor `t` held them. -/
def Tensor.close (t : Tensor) (o : OpenFrame) (s2 : W32) (u : Tensor) : Tensor :=
  { u with kt := t.ktNew.getD t.kt, driftTh := t.thNew.getD t.driftTh, s2 := s2, ktNew := none, thNew := none, s2New := none,
           frames := u.frames.filter (fun x => x.frame != o.frame), closed := some o.frame, shut := (o.frame :: u.shut).take 8 }

section
variable {d : Dev} {n : NetId} {tn : BitVec 12} {t : Tensor} (o : OpenFrame) (complete dropped : Bool)
theorem Dev.closeFrame_some (ht : d.tensor n tn = some t) : ∃ cal evt, d.closeFrame n tn o complete dropped =
    { (d.modTensor n tn (t.close o (d.closedS2 n t o complete dropped))).sendS2 n tn t.s2 with cal := cal, evt := evt } := by
  unfold Dev.closeFrame
  simp only [ht, Dev.modCal, Dev.raise, Dev.raiseAux, Dev.modEvt]
  generalize hs : (Dev.modTensor _ _ _ _).sendS2 n tn t.s2 = e
  have he : (d.modTensor n tn (t.close o (d.closedS2 n t o complete dropped))).sendS2 n tn t.s2 = e := hs
  rw [he]
  split
  · split <;> exact ⟨_, _, rfl⟩
  · exact ⟨_, _, rfl⟩
theorem Dev.tensor_closeFrame (ht : d.tensor n tn = some t) :
    (d.closeFrame n tn o complete dropped).tensor n tn = some (t.close o (d.closedS2 n t o complete dropped) t) := by
  obtain ⟨cal, evt, h⟩ := Dev.closeFrame_some o complete dropped ht
  rw [h, Dev.sendS2_frame]
  exact Dev.tensor_modTensor_some ht _
theorem Dev.mem_scales_closeFrame (ht : d.tensor n tn = some t) (hs : d.closedS2 n t o complete dropped ≠ t.s2) {c : CoreId}
    (hc : c ∈ d.coresOfStage n t.stage) (hspare : (d.core c).spare = false) :
    (c, tn, d.closedS2 n t o complete dropped) ∈ (d.closeFrame n tn o complete dropped).scales := by
  obtain ⟨cal, evt, h⟩ := Dev.closeFrame_some o complete dropped ht
  rw [h]
  exact Dev.mem_scales_sendS2 _ n tn (Dev.tensor_modTensor_some ht _) hs hc hspare
theorem calipersOnly_closeFrame (d : Dev) (n : NetId) (tn : BitVec 12) : CalipersOnly d (d.closeFrame n tn o complete dropped) := by
  cases ht : d.tensor n tn with
  | none =>
    simp only [Dev.closeFrame, ht]
    exact .refl d
  | some t =>
    obtain ⟨cal, evt, h⟩ := Dev.closeFrame_some o complete dropped ht
    rw [h, Dev.sendS2_frame]
    exact (calipersOnly_modTensor d n tn _).trans (calipersOnly_units _ cal _ evt)
end

section
variable (d : Dev) (n : NetId) (tn : BitVec 12)
theorem calipersOnly_closeWhole (f : W32) : CalipersOnly d (d.closeWhole n tn f) := by
  unfold Dev.closeWhole
  split
  · exact .refl d
  · split
    · split
      · exact calipersOnly_closeFrame _ _ _ d n tn
      · exact .refl d
    · exact .refl d
end

/-! ## Frames whose reports have all come (R192) -/

section
variable {d : Dev} {n : NetId} {tn : BitVec 12} {t : Tensor} {f : W32}
theorem Dev.closeWhole_waits (ht : d.tensor n tn = some t) (he : d.expected n tn t f = none) : d.closeWhole n tn f = d := by
  simp only [Dev.closeWhole, ht]
  split
  · next h => exact absurd (he.symm.trans h) (by simp)
  · rfl
/-- The report of the one position that a frame waits for closes it. -/
theorem Dev.closeWhole_closes {o : OpenFrame} {r : CalReport} (ht : d.tensor n tn = some t) (ho : t.frames = [o]) (hf : o.frame = f)
    (hr : o.reports = [r]) (he : d.expected n tn t f = some [r.pos.toNat]) :
    d.closeWhole n tn f = d.closeFrame n tn o true false := by
  simp [Dev.closeWhole, ht, ho, hf, hr, he]
/-- What a frame waits for is not in the tensors but in the cores of the tensor's stage. -/
theorem Dev.expected_modTensor (d : Dev) (n : NetId) (tn : BitVec 12) (g : Tensor → Tensor) {x y : Tensor} (h : y.stage = x.stage)
    (f : W32) : (d.modTensor n tn g).expected n tn y f = d.expected n tn x f := by
  have himg : ((d.modTensor n tn g).net n).img = (d.net n).img := by rw [Dev.modTensor, Dev.net_modNet_same]
  have hcol : (d.modTensor n tn g).collectorOf n y = d.collectorOf n x := by
    unfold Dev.collectorOf
    rw [h]
    rfl
  unfold Dev.expected
  rw [himg, hcol, h]
  rfl
end

/-! ## A report arrives (R191, R192) -/

/-- The device without the report that arrives. -/
def Dev.arrived (d : Dev) (r : CalReport) : Dev := { d with reports := d.reports.erase r }
/-- A tensor with a report in the frame that it is of. -/
def Tensor.join (r : CalReport) (t : Tensor) : Tensor :=
  { t with frames := if t.frames.any (fun o => o.frame == r.frame) then
                       t.frames.map (fun o => if o.frame == r.frame then { o with reports := o.reports ++ [r] } else o)
                     else t.frames ++ [⟨r.frame, false, [r]⟩] }
theorem Tensor.join_first {r : CalReport} {t : Tensor} (h : t.frames = []) : t.join r = { t with frames := [⟨r.frame, false, [r]⟩] } := by
  simp [Tensor.join, h]

/-- What the tensor of a report makes of it while the calipers are on: it is late, or it joins its frame and every frame whose reports
are complete closes. -/
def Dev.collect (d : Dev) (r : CalReport) : Dev :=
  match d.tensor r.net r.tensor with
  | none => d
  | some t =>
    if t.shut.contains r.frame || d.passed r.net t r.frame then d.modCal (fun c => { c with late := satInc c.late })
    else
      let d1 := d.modTensor r.net r.tensor (Tensor.join r)
      match d1.tensor r.net r.tensor with
      | none => d1
      | some t2 => (t2.frames.map (fun o => o.frame)).foldl (fun d f => d.closeWhole r.net r.tensor f) d1

/-- A report that its partition takes. -/
structure Arrives (d : Dev) (p : PartId) (r : CalReport) : Prop where
  cast : (d.part p).cast ≠ .uncast
  net : r.net = (d.part p).net
  mem : r ∈ d.reports

section
variable {d : Dev} {p : PartId} {r : CalReport} (h : Arrives d p r)
include h
theorem caliperReport_maquette (hm : r.maquette = true) : caliperReport p r d =
    (d.arrived r).modNet r.net (fun x => { x with maq := { x.maq with calReps := x.maq.calReps ++ [r] } }) := by
  simp [caliperReport, h.cast, ← h.net, h.mem, hm, Dev.arrived]
theorem caliperReport_off (hm : r.maquette = false) (hen : d.cal.en = false) : caliperReport p r d = d.arrived r := by
  simp [caliperReport, h.cast, ← h.net, h.mem, hm, Dev.arrived, hen]
theorem caliperReport_on (hm : r.maquette = false) (hen : d.cal.en = true) : caliperReport p r d = (d.arrived r).collect r := by
  simp only [caliperReport, ← h.net, hm, Bool.false_eq_true, if_false]
  rw [if_neg (by simp [h.cast, h.mem]), if_neg (by simp [hen])]
  rfl
end

section
variable (d : Dev) (r : CalReport)
theorem calipersOnly_collect : CalipersOnly d (d.collect r) := by
  unfold Dev.collect
  split
  · exact .refl d
  · split
    · exact ⟨rfl, fun _ => rfl⟩
    · refine (calipersOnly_modTensor d r.net r.tensor (Tensor.join r)).trans ?_
      dsimp only
      split
      · exact .refl _
      · exact .foldl _ (fun e f => calipersOnly_closeWhole e r.net r.tensor f) _ _
variable {d r} {x : Tensor} (hx : d.tensor r.net r.tensor = some x)
include hx
theorem Dev.collect_late (h : r.frame ∈ x.shut) : d.collect r = d.modCal (fun c => { c with late := satInc c.late }) := by
  simp [Dev.collect, hx, h]
/-- A report that opens its frame, the only one that the tensor has open. -/
theorem Dev.collect_opens (hshut : r.frame ∉ x.shut) (hpass : d.passed r.net x r.frame = false) (hf : x.frames = []) :
    d.collect r = (d.modTensor r.net r.tensor (Tensor.join r)).closeWhole r.net r.tensor r.frame := by
  have hjoin : (d.modTensor r.net r.tensor (Tensor.join r)).tensor r.net r.tensor = some (x.join r) := Dev.tensor_modTensor_some hx _
  simp only [Dev.collect, hx]
  rw [if_neg (by simp [hshut, hpass]), hjoin]
  dsimp only
  rw [Tensor.join_first hf]
  rfl
end

section
variable {d : Dev} {p : PartId} {r : CalReport} (h : Arrives d p r)
include h
/-- Whatever becomes of a report, it has arrived, and no core, no queue and no byte of the PSRAM has changed. -/
theorem caliperReport_keeps : (caliperReport p r d).reports = d.reports.erase r ∧ (caliperReport p r d).cores = d.cores ∧
    (caliperReport p r d).queues = d.queues ∧ (caliperReport p r d).psram = d.psram := by
  cases hm : r.maquette with
  | true =>
    rw [caliperReport_maquette h hm]
    exact ⟨rfl, rfl, rfl, rfl⟩
  | false =>
    cases hen : d.cal.en with
    | false =>
      rw [caliperReport_off h hm hen]
      exact ⟨rfl, rfl, rfl, rfl⟩
    | true =>
      rw [caliperReport_on h hm hen, (calipersOnly_collect (d.arrived r) r).frame]
      exact ⟨rfl, rfl, rfl, rfl⟩

variable {x : Tensor} (hm : r.maquette = false) (hen : d.cal.en = true) (hx : d.tensor r.net r.tensor = some x)
include hm hen hx
theorem caliperReport_late (hshut : r.frame ∈ x.shut) :
    caliperReport p r d = (d.arrived r).modCal (fun c => { c with late := satInc c.late }) := by
  rw [caliperReport_on h hm hen, Dev.collect_late (d := d.arrived r) hx hshut]

variable (hshut : r.frame ∉ x.shut) (hpass : d.passed r.net x r.frame = false) (hf : x.frames = [])
include hshut hpass hf
/-- A report that opens its frame, whose other reports the collector cannot name yet. -/
theorem caliperReport_first (he : d.expected r.net r.tensor x r.frame = none) :
    caliperReport p r d = (d.arrived r).modTensor r.net r.tensor (Tensor.join r) := by
  have hjoin : ((d.arrived r).modTensor r.net r.tensor (Tensor.join r)).tensor r.net r.tensor = some (x.join r) :=
    Dev.tensor_modTensor_some (d := d.arrived r) hx _
  have hwait : ((d.arrived r).modTensor r.net r.tensor (Tensor.join r)).expected r.net r.tensor (x.join r) r.frame = none :=
    ((d.arrived r).expected_modTensor r.net r.tensor _ rfl r.frame).trans he
  rw [caliperReport_on h hm hen, Dev.collect_opens (d := d.arrived r) hx hshut hpass hf, Dev.closeWhole_waits hjoin hwait]
/-- A report that opens its frame and is the only one that it needs closes it. -/
theorem caliperReport_only (he : d.expected r.net r.tensor x r.frame = some [r.pos.toNat]) : caliperReport p r d =
    ((d.arrived r).modTensor r.net r.tensor (Tensor.join r)).closeFrame r.net r.tensor ⟨r.frame, false, [r]⟩ true false := by
  have hjoin : ((d.arrived r).modTensor r.net r.tensor (Tensor.join r)).tensor r.net r.tensor = some (x.join r) :=
    Dev.tensor_modTensor_some (d := d.arrived r) hx _
  have hpos : ((d.arrived r).modTensor r.net r.tensor (Tensor.join r)).expected r.net r.tensor (x.join r) r.frame = some [r.pos.toNat] :=
    ((d.arrived r).expected_modTensor r.net r.tensor _ rfl r.frame).trans he
  have hopen : (x.join r).frames = [⟨r.frame, false, [r]⟩] := by rw [Tensor.join_first hf]
  rw [caliperReport_on h hm hen, Dev.collect_opens (d := d.arrived r) hx hshut hpass hf, Dev.closeWhole_closes hjoin hopen rfl rfl hpos]
end

/-- A tracked integer tensor takes the step of R184 from the one report of its frame. -/
theorem Dev.closedS2_tracked {d : Dev} {n : NetId} {x : Tensor} {c : CoreId} {r : CalReport} (hi : x.integer = true)
    (hs2 : x.s2New = none) (hkt : x.ktNew = none) (hc : d.collectorOf n x = some c) (hmode : d.hostMode (partOfCore c) 2 = false) :
    d.closedS2 n x ⟨r.frame, false, [r]⟩ true false = stepS2 x.s2 (max (-32768) r.kmaxn) x.kt := by
  simp [Dev.closedS2, hi, hs2, hkt, hc, hmode, statsOf]

/-- The report that completes its frame alone closes it, and S2 takes the step of R184 and goes out where it changes. -/
theorem caliperReport_steps {d : Dev} {p : PartId} {r : CalReport} {x : Tensor} {c : CoreId} (h : Arrives d p r)
    (hm : r.maquette = false) (hen : d.cal.en = true) (hx : d.tensor r.net r.tensor = some x) (hshut : r.frame ∉ x.shut)
    (hpass : d.passed r.net x r.frame = false) (hf : x.frames = []) (he : d.expected r.net r.tensor x r.frame = some [r.pos.toNat])
    (hi : x.integer = true) (hs2 : x.s2New = none) (hkt : x.ktNew = none) (hcol : d.collectorOf r.net x = some c)
    (hmode : d.hostMode (partOfCore c) 2 = false) :
    (caliperReport p r d).tensor r.net r.tensor =
      some ((x.join r).close ⟨r.frame, false, [r]⟩ (stepS2 x.s2 (max (-32768) r.kmaxn) x.kt) (x.join r)) ∧
    (stepS2 x.s2 (max (-32768) r.kmaxn) x.kt ≠ x.s2 → ∀ k ∈ d.coresOfStage r.net x.stage, (d.core k).spare = false →
      (k, r.tensor, stepS2 x.s2 (max (-32768) r.kmaxn) x.kt) ∈ (caliperReport p r d).scales) := by
  have hjoin : ((d.arrived r).modTensor r.net r.tensor (Tensor.join r)).tensor r.net r.tensor = some (x.join r) :=
    Dev.tensor_modTensor_some (d := d.arrived r) hx _
  have hstep : ((d.arrived r).modTensor r.net r.tensor (Tensor.join r)).closedS2 r.net (x.join r) ⟨r.frame, false, [r]⟩ true false =
      stepS2 x.s2 (max (-32768) r.kmaxn) x.kt :=
    Dev.closedS2_tracked (x := x.join r) hi hs2 hkt hcol hmode
  rw [caliperReport_only h hm hen hx hshut hpass hf he, ← hstep]
  exact ⟨Dev.tensor_closeFrame _ true false hjoin,
    fun hne k hk hspare => Dev.mem_scales_closeFrame _ true false hjoin hne hk hspare⟩

/-! ## A new S2 arrives at a core (R181) -/

theorem s2Receive_assigned {d : Dev} {c : CoreId} {tn : BitVec 12} {v : W32} (ha : (d.core c).assigned = true)
    (hm : (c, tn, v) ∈ d.scales) : s2Receive c tn v d =
      ({ d with scales := d.scales.erase (c, tn, v) } : Dev).modCore c (fun k => { k with s2next := tblSet 0#32 k.s2next tn.toNat v }) := by
  have hin : (!d.scales.contains (c, tn, v)) = false := by simp [hm]
  have hassigned : (({ d with scales := d.scales.erase (c, tn, v) } : Dev).core c).assigned = true := ha
  simp only [s2Receive, hin, hassigned, Bool.false_eq_true, if_false, if_true]

/-- Settles O19: what becomes of a report is told by its kind, by CALEN and by the frames of its tensor; a core holds a new S2
apart from those in use. -/
theorem reportsCloseFrames : Obligations.ReportsCloseFrames := by
  unfold Obligations.ReportsCloseFrames
  refine ⟨fun s p r hc hn hr => ?_, fun s p r x c hc hn hr hm hen hx hf hshut hpass hi hs2 hkt hcol hmode he => ?_,
    fun s c tn v ha hv => ?_⟩
  · have h : Arrives s.dev p r := ⟨hc, hn, hr⟩
    obtain ⟨hreports, hkept⟩ := caliperReport_keeps h
    refine ⟨_, rfl, hreports, hkept, fun hm => ?_, fun hm hen => ?_, fun x hm hen hx hshut => ?_,
      fun x hm hen hx hshut hpass hf he => ?_⟩
    · rw [caliperReport_maquette h hm]
      refine ⟨?_, rfl, fun y hy => ?_⟩
      · rw [Dev.net_modNet_same]; rfl
      · rw [Dev.net_modNet, if_neg (Ne.symm hy)]; rfl
    · rw [caliperReport_off h hm hen]; rfl
    · rw [caliperReport_late h hm hen hx hshut]; rfl
    · rw [caliperReport_first h hm hen hx hshut hpass hf he]
      refine ⟨?_, rfl⟩
      rw [Dev.tensor_modTensor_some (d := s.dev.arrived r) hx, Tensor.join_first hf]
  · have h : Arrives s.dev p r := ⟨hc, hn.symm, hr⟩
    obtain ⟨-, hkept⟩ := caliperReport_keeps h
    obtain ⟨hy, hscales⟩ := caliperReport_steps h hm hen hx hshut hpass hf he hi hs2 hkt hcol hmode
    refine ⟨_, _, rfl, hy, rfl, List.mem_cons_self, ?_, rfl, hkept, hscales⟩
    simp [Tensor.close, Tensor.join_first hf]
  · refine ⟨_, rfl, ?_⟩
    dsimp only
    rw [s2Receive_assigned ha hv]
    refine ⟨rfl, fun x hx => ?_, ?_, ?_, fun x hx => ?_⟩
    · rw [Dev.core_modCore, if_neg (Ne.symm hx)]; rfl
    · rw [Dev.core_modCore_same]; rfl
    · rw [Dev.core_modCore_same]; exact tblGet_set_same ..
    · rw [Dev.core_modCore_same]; exact tblGet_set_other _ _ _ (Ne.symm hx)

end Sys2Proof.Machine
end

section
/-! SUPPORT. A RECAST whose drain ends while a DMA channel of the network has a copy in progress (R326, R406, Table 11-8). -/
namespace Sys2Proof.Machine

open Sys2Proof

/-- The image of network 1, on partition 0. -/
def recastImg : NetImg := { num := 1#5, parts := [0#5], interval := 4096 }
/-- Network 1 has drained for a RECAST from slot 0. DMA channel 0, of its partition, has fetched the first of the two descriptors of its
ring at address 0: a fill of 16 bytes at address 64, in a region that grants it. -/
def recastState : State :=
  { dev := { nets := [(1, { img := some recastImg, drain := some (.recast 0#3), everCast := true })],
             parts := [(0, { cast := .draining, net := 1#5, regions := [(0, { v := true, rd := true, wr := true, dma := true })] })],
             dma := [(0, { en := true, rsizeM1 := 1#12, tail := 1#12, desc := some { dst := 64#40, len := 16#32, fill := true } })] },
    store := { slots := [(0, some { noSet with nets := [recastImg] })] } }

/-- The drain of `recastState` is over. -/
theorem drained_recastState : (recastState.dev.net 1#5).drain = some (.recast 0#3) ∧ recastState.dev.drained 1#5 = true := by
  decide +kernel
/-- Its casting goes on with step 2, in which the channel completes its descriptor: STATUS 3 and CAUSE 3 in the first byte of the
descriptor's last word, and the 16 bytes that were not transferred in its fifth. -/
theorem psram_drainComplete_recastState :
    recastState.dev.psram = [] ∧ (drainComplete 1#5 recastState).dev.psram = [(24, 0x0F#8), (28, 16#8)] := by
  decide +kernel

/-- Refutes O24: the end of a drain for RECAST does not keep the PSRAM, as its second clause has it for every drain. Where a DMA channel
of the network has a descriptor in progress, step 2 writes its status word (Table 11-8, R406). -/
theorem not_releaseAndDrain : ¬ Obligations.ReleaseAndDrain := by
  unfold Obligations.ReleaseAndDrain
  rintro ⟨-, hdrains, -⟩
  obtain ⟨hdrain, hdrained⟩ := drained_recastState
  obtain ⟨hbefore, hafter⟩ := psram_drainComplete_recastState
  obtain ⟨t, hexec, hkept, -⟩ := hdrains recastState 1#5 (.recast 0#3) hdrain hdrained
  have ht : drainComplete 1#5 recastState = t := Host.Outcome.next.inj hexec
  rw [← ht, hafter, hbefore] at hkept
  exact absurd hkept (by simp)

end Sys2Proof.Machine
end

section
/-! SUPPORT. Reads of a queue, and the marks and releases of a receiver (R209 to R212, R231, R247, R250). -/
namespace Sys2Proof.Machine

open Sys2Proof

/-- The answer of a command that changes the device alone. -/
theorem exec_ofDev {s : State} {i : Instr} {d e : Dev} (hi : exec i s = .next { s with dev := d }) (h : d = e) :
    exec i s = .next { s with dev := e } := h ▸ hi

/-! ## Sequential reads (R209, R231, R250) -/

/-- A read that delivers a word: R passes it, H follows while no mark is set, and a frame-start marker sets B and the accepted
epoch (R209, R250). -/
theorem Rcv.take_word (x : Rcv) (w : QWord) : x.take (.word w) =
    { x with r := x.r + 1#32, last := some w, h := if x.m = none then x.r + 1#32 else x.h,
             b := if w.isStart then x.r + 1#32 else x.b, e := if w.isStart then w.epoch else x.e,
             owed := if w.isStart then none else x.owed } := by
  simp only [Rcv.take]
  cases x.m <;> cases w.isStart <;> rfl

section
variable (d : Dev) (q : QueueId) (r : BitVec 10)
/-- A chain channel sends what it reads, and changes nothing but the ingest block (R447). -/
theorem Dev.chainSend_frame : d.chainSend q r = { d with ing := (d.chainSend q r).ing } := by
  unfold Dev.chainSend
  split
  · split <;> rfl
  · rfl
theorem Dev.besideQueue_chainSend : d.besideQueue q (d.chainSend q r) := by
  rw [d.chainSend_frame q r]
  exact ⟨fun _ _ => rfl, rfl, fun _ => rfl⟩
theorem Dev.peek_chainSend : (d.chainSend q r).peek q r = d.peek q r := by
  rw [d.chainSend_frame q r]
  rfl
theorem Dev.queue_chainSend : (d.chainSend q r).queue q = d.queue q := by
  rw [d.chainSend_frame q r]
  rfl
variable {d q r}
theorem Dev.chainSend_noWord (h : ∀ w, d.peek q r ≠ .word w) : d.chainSend q r = d := by
  unfold Dev.chainSend
  split
  · next w _ hw => exact absurd hw (h w)
  · rfl
/-- A read that delivers no word of the queue moves its receiver alone. -/
theorem Dev.seqRead_noWord {x : Rcv} (hx : (d.queue q).rcv r = some x) (h : ∀ w, d.peek q r ≠ .word w) :
    d.seqRead q r = d.setQueue q ((d.queue q).modRcv r (fun y => y.take (d.peek q r))) := by
  simp only [Dev.seqRead, hx]
end

section
variable {s : State} {q : QueueId} {r : BitVec 10} {x : Rcv} (hx : (s.dev.queue q).rcv r = some x)
include hx
/-- A sequential read that finds a word. -/
theorem exec_sequentialRead_word {w : QWord} (hsteady : steadyRcv x) (h : s.dev.peek q r = .word w) :
    ∃ t b, exec (.sequentialRead q r) s = .next t ∧
      (t.dev.queue q).rcv r = some { x.take (.word w) with began := b } ∧ queueFrame q s t := by
  rw [← s.dev.queue_chainSend q r] at hx
  obtain ⟨b, hrcv⟩ := Dev.rcv_seqRead hx hsteady
  rw [s.dev.peek_chainSend, h] at hrcv
  exact ⟨_, b, rfl, hrcv, ((s.dev.besideQueue_chainSend q r).trans (Dev.besideQueue_seqRead _ q r)).frame⟩
/-- A sequential read that finds none of the queue's words. -/
theorem exec_sequentialRead_noWord (h : ∀ w, s.dev.peek q r ≠ .word w) :
    ∃ t, exec (.sequentialRead q r) s = .next t ∧ onlyQueue q s t ∧
      (t.dev.queue q).rcv r = some (x.take (s.dev.peek q r)) := by
  have hrun : (s.dev.chainSend q r).seqRead q r = s.dev.setQueue q ((s.dev.queue q).modRcv r (fun y => y.take (s.dev.peek q r))) := by
    rw [Dev.chainSend_noWord h, Dev.seqRead_noWord hx h]
  refine ⟨_, exec_ofDev rfl hrun, onlyQueue_set s q _, ?_⟩
  rw [Dev.queue_setQueue_same]
  exact Queue.rcv_modRcv hx _
end

/-! ## Windowed reads (R210) -/

section
variable {d : Dev} {q : QueueId} {r : BitVec 10} {a : W32} {x : Rcv}
/-- What position B + a of a receiver's window holds: the word there before T, nothing from T on (R210). -/
def Dev.windowWord (d : Dev) (q : QueueId) (x : Rcv) (a : W32) : Option QWord :=
  if pdist (d.queue q).old (x.b + a) < (d.queue q).vis then (d.queue q).cell (x.b + a) else none
/-- A windowed read at or after H, of a position whose word is of the receiver's epoch. -/
theorem Dev.winRead_inWindow (hl : d.readsDead q r = false) (hx : (d.queue q).rcv r = some x) (hg : x.gap = none)
    (hh : earlier (x.b + a) x.h = false) (he : ∀ w, (d.queue q).cell (x.b + a) = some w → stale x.e w = false) :
    d.winRead q r a = (d.windowWord q x a, d) := by
  unfold Dev.winRead Dev.windowWord
  simp only [hl, hx, hg, hh, Bool.false_eq_true, if_false]
  rw [if_neg]
  · split <;> rfl
  · split
    · next w hw => simp [he w hw]
    · exact Bool.false_ne_true
end

/-- Settles O9: a read that delivers a word moves R past it, every other read leaves the pointers. -/
theorem readsOfQueues : Obligations.ReadsOfQueues := by
  unfold Obligations.ReadsOfQueues
  refine ⟨fun s q r x w hx hsteady hw => ?_, fun s q r x hx hempty => ?_, fun s q r x w hx hgap => ?_,
    fun s q r a x hl hx hg hh he => ?_⟩
  · obtain ⟨t, b, hexec, hrcv, hframe⟩ := exec_sequentialRead_word hx hsteady hw
    rw [Rcv.take_word] at hrcv
    refine ⟨t, _, hexec, hrcv, rfl, rfl, rfl, fun hm => if_pos hm, fun hm => if_neg hm, fun hw => ?_, fun hw => ?_, hframe⟩
    · exact ⟨if_pos hw, if_pos hw⟩
    · exact ⟨if_neg (by simp [hw]), if_neg (by simp [hw])⟩
  · have h := exec_sequentialRead_noWord hx (fun w => by rw [hempty]; exact Look.noConfusion)
    rw [hempty] at h
    exact h
  · have h := exec_sequentialRead_noWord hx (fun v => by rw [hgap]; exact Look.noConfusion)
    rw [hgap] at h
    exact h
  · have hread := Dev.winRead_inWindow hl hx hg hh he
    have hrun : windowedRead q r a s.dev =
        s.dev.modQueue q (fun y => y.modRcv r (fun z => { z with last := s.dev.windowWord q x a })) := by
      rw [windowedRead, hread]
    refine ⟨_, exec_ofDev rfl hrun, onlyQueue_mod s q _, fun hin => ?_, fun hout => ?_⟩
    · rw [Dev.queue_modQueue_same, Queue.rcv_modRcv hx, Dev.windowWord, if_pos hin]
    · rw [Dev.queue_modQueue_same, Queue.rcv_modRcv hx, Dev.windowWord, if_neg (Nat.not_lt.2 hout)]

/-! ## Marks and releases (R212, R247) -/

/-- A receiver released up to a position: its mark is cleared, and R is not earlier (R212). -/
def Rcv.releasedTo (x : Rcv) (p : W32) : Rcv :=
  { x with h := p, m := none, r := if earlier x.r p then p else x.r, stale := x.stale.filter (fun s => !earlier s p) }

section
variable {q : Queue} {r : BitVec 10} {x : Rcv} {p : W32} (hx : q.rcv r = some x)
include hx
theorem Queue.rewind_marked {m : W32} (hm : x.m = some m) : q.rewind r = q.modRcv r (fun y => { y with r := m }) := by
  simp only [Queue.rewind, hx, hm]
theorem Queue.rewind_unmarked (hm : x.m = none) : q.rewind r = { q with markerr := satInc q.markerr } := by
  simp only [Queue.rewind, hx, hm]
theorem Queue.release_within (h : pdist x.h p ≤ pdist x.h q.tail) : q.release r p = q.modRcv r (fun y => y.releasedTo p) := by
  simp only [Queue.release, hx, if_pos h]
  rfl
theorem Queue.release_earlier (h : pdist x.h q.tail < pdist x.h p) (he : earlier p x.h = true) :
    q.release r p = { q with markerr := satInc q.markerr } := by
  simp only [Queue.release, hx, if_neg (Nat.not_le.2 h), if_pos he]
theorem Queue.release_beyond (h : pdist x.h q.tail < pdist x.h p) (he : earlier p x.h = false) :
    q.release r p = { q.modRcv r (fun y => y.releasedTo q.tail) with markerr := satInc q.markerr } := by
  simp only [Queue.release, hx, if_neg (Nat.not_le.2 h), he, Bool.false_eq_true, if_false]
  rfl
end

theorem Dev.markerr_putQueue (d : Dev) (id : QueueId) (q : Queue) : ((d.putQueue id q).queue id).markerr = q.markerr := by
  obtain ⟨_, _, _, _, _, _, hput⟩ := d.queue_putQueue id q
  rw [hput]

section
variable {s : State} {q : QueueId} {r : BitVec 10}
/-- A release of a queue that is not frozen, with the receiver and the count of marker errors that it makes. -/
theorem exec_release {p : W32} {v : Queue} {y : Rcv} (hf : s.dev.queueFrozen q = false)
    (hv : (s.dev.queue q).release r p = v) (hy : v.rcv r = some y) (hsteady : steadyRcv y) :
    ∃ t, exec (.release q r p) s = .next t ∧ (t.dev.queue q).rcv r = some y ∧ (t.dev.queue q).markerr = v.markerr ∧
      queueFrame q s t := by
  have hrun : release q r p s.dev = s.dev.putQueue q v := by
    simp [release, hf, hv]
  exact ⟨_, exec_ofDev rfl hrun, s.dev.rcv_putQueue q hy hsteady,
    s.dev.markerr_putQueue q v, (s.dev.besideQueue_putQueue q v).frame⟩
/-- A frozen partition's queues take no mark, rewind or release (R247). -/
theorem exec_markFamily_frozen {p : W32} {i : Instr} (hf : s.dev.queueFrozen q = true)
    (hi : i = .mark q r ∨ i = .rewind q r ∨ i = .release q r p) : exec i s = .next s := by
  have hkeep {e : Dev} : (Host.Outcome.next { s with dev := if s.dev.queueFrozen q then s.dev else e } : Ans) = .next s := by
    rw [if_pos hf]
  obtain rfl | rfl | rfl := hi
  · exact hkeep
  · exact hkeep
  · exact hkeep
end

/-- Settles O10: MARK and REWIND move the mark and R of their receiver, RELEASE its H, and what they cannot do counts a marker error. -/
theorem marksAndReleases : Obligations.MarksAndReleases := by
  unfold Obligations.MarksAndReleases
  refine ⟨fun s q r x hx hf => ?_, fun s q r x hx hf => ?_, fun s q r x p hx hsteady hf => ?_,
    fun s q r p i hf hi => exec_markFamily_frozen hf hi⟩
  · have hrun : mark q r s.dev = s.dev.setQueue q ((s.dev.queue q).mark r) := by simp [mark, hf]
    refine ⟨_, exec_ofDev rfl hrun, onlyQueue_set s q _, ?_⟩
    rw [Dev.queue_setQueue_same]
    exact Queue.rcv_modRcv hx _
  · have hrun : rewind q r s.dev = s.dev.setQueue q ((s.dev.queue q).rewind r) := by simp [rewind, hf]
    refine ⟨_, exec_ofDev rfl hrun, onlyQueue_set s q _, ?_⟩
    rw [Dev.queue_setQueue_same]
    refine ⟨fun m hm => ?_, fun hm => ?_⟩
    · rw [Queue.rewind_marked hx hm]
      exact ⟨Queue.rcv_modRcv hx _, rfl⟩
    · rw [Queue.rewind_unmarked hx hm]
      exact ⟨hx, rfl⟩
  · by_cases hin : pdist x.h p ≤ pdist x.h (s.dev.queue q).tail
    · obtain ⟨t, hexec, hy, herr, hframe⟩ := exec_release (p := p) hf (Queue.release_within hx hin) (Queue.rcv_modRcv hx _) hsteady
      exact ⟨t, _, hexec, hy, fun _ => ⟨rfl, rfl, herr⟩, fun h => absurd hin (Nat.not_le.2 h),
        fun h => absurd hin (Nat.not_le.2 h), hframe⟩
    · have hout := Nat.not_le.1 hin
      cases he : earlier p x.h with
      | true =>
        obtain ⟨t, hexec, hy, herr, hframe⟩ := exec_release (p := p) hf (Queue.release_earlier hx hout he) hx hsteady
        exact ⟨t, _, hexec, hy, fun h => absurd h hin, fun _ _ => ⟨rfl, rfl, herr⟩, fun _ h => absurd h (by simp), hframe⟩
      | false =>
        obtain ⟨t, hexec, hy, herr, hframe⟩ :=
          exec_release (p := p) hf (Queue.release_beyond hx hout he) (Queue.rcv_modRcv hx _) hsteady
        exact ⟨t, _, hexec, hy, fun h => absurd h hin, fun _ h => absurd h (by simp), fun _ _ => ⟨rfl, rfl, herr⟩, hframe⟩

end Sys2Proof.Machine
end

section
/-! SUPPORT. The drop of a deadlock (R246, Table 6-8): which queues it empties, and what its steps leave of the partitions and
networks. -/
namespace Sys2Proof.Machine

open Sys2Proof

/-- What one operation of a run establishes, the run establishes, where each operation keeps it and what it needs. -/
theorem foldl_establishes {α β : Type} (I P : β → Prop) (f : β → α → β) (hI : ∀ b a, I b → I (f b a)) (hP : ∀ b a, P b → P (f b a))
    {a : α} (ha : ∀ b, I b → P (f b a)) {l : List α} (hl : a ∈ l) {b : β} (hb : I b) : P (l.foldl f b) := by
  obtain ⟨before, after, rfl⟩ := List.append_of_mem hl
  rw [List.foldl_append, List.foldl_cons]
  exact foldl_preserves P f hP after _ (ha _ (foldl_preserves I f hI before b hb))

/-! ## Queues without words -/

/-- A queue holds no word: on chip, in its ring or in its stager. -/
def Queue.bare (q : Queue) : Prop := q.store = [] ∧ q.ring = [] ∧ q.stager = []
/-- A queue of the same size, without words where the first has none. -/
def Queue.leavesBare (a b : Queue) : Prop := b.cap = a.cap ∧ (a.bare → b.bare)

theorem Queue.leavesBare.refl (q : Queue) : q.leavesBare q := ⟨rfl, id⟩
theorem Queue.leavesBare.trans {a b c : Queue} (h1 : a.leavesBare b) (h2 : b.leavesBare c) : a.leavesBare c :=
  ⟨h2.1.trans h1.1, fun h => h2.2 (h1.2 h)⟩
theorem Queue.leavesBare_of_eq {a b : Queue} (h : b = a) : a.leavesBare b := h ▸ .refl a

/-- A queue that has a size is listed, among the queues of its partition. -/
theorem Dev.mem_queuesOfPart {d : Dev} {q : QueueId} (h : (d.queue q).cap ≠ 0) : q ∈ d.queuesOfPart (partOfQueue q) := by
  have hne : d.queue q ≠ {} := fun e => h (by rw [e])
  have hids : q ∈ d.queueIds :=
    List.mem_map.2 ⟨_, mem_of_tblGet_ne ({} : Queue) q.toNat d.queues hne, by simp⟩
  exact List.mem_filter.2 ⟨hids, beq_self_eq_true _⟩

/-! ## What every step of a drop leaves -/

/-- No word in a queue that had none, every queue's size and partition's freeze, and the partitions that still await the drop. -/
structure Dev.dropStep (d e : Dev) : Prop where
  queues : ∀ x, (d.queue x).leavesBare (e.queue x)
  frozen : ∀ p, (e.part p).frozen = (d.part p).frozen
  pend : ∀ m, (e.net m).dropPend = (d.net m).dropPend

theorem Dev.dropStep.refl (d : Dev) : d.dropStep d := ⟨fun _ => .refl _, fun _ => rfl, fun _ => rfl⟩
theorem Dev.dropStep.trans {d e f : Dev} (h1 : d.dropStep e) (h2 : e.dropStep f) : d.dropStep f :=
  ⟨fun x => (h1.queues x).trans (h2.queues x), fun p => (h2.frozen p).trans (h1.frozen p), fun m => (h2.pend m).trans (h1.pend m)⟩
theorem Dev.dropStep_foldl {α : Type} (f : Dev → α → Dev) (h : ∀ d a, Dev.dropStep d (f d a)) (l : List α) (d : Dev) :
    d.dropStep (l.foldl f d) :=
  foldl_preserves d.dropStep f (fun e a he => he.trans (h e a)) l d (.refl d)
theorem Dev.dropStep_ite {d e f : Dev} (b : Prop) [Decidable b] (he : d.dropStep e) (hf : d.dropStep f) :
    d.dropStep (if b then e else f) := by
  split
  · exact he
  · exact hf

/-- A change that leaves the queues, the networks and the service of every partition. -/
theorem Dev.dropStep_of_units {d e : Dev} (hq : e.queues = d.queues) (hs : e.standing = d.standing) (hn : e.nets = d.nets) :
    d.dropStep e :=
  ⟨fun x => Queue.leavesBare_of_eq (Dev.queue_of_queues hq x), fun p => congrArg Service.frozen (service_of_standing hs p),
    fun m => congrArg (fun t : Tbl Network => (tblGet ({} : Network) t m.toNat).dropPend) hn⟩

section
variable (d : Dev)
theorem Dev.dropStep_modNet (n : NetId) (f : Network → Network) (h : ∀ x, (f x).dropPend = x.dropPend) :
    d.dropStep (d.modNet n f) := by
  refine ⟨fun _ => .refl _, fun _ => rfl, fun m => ?_⟩
  rw [Dev.net_modNet]
  split
  · next hm => rw [h, hm]
  · rfl
theorem Dev.dropStep_modPart (p : PartId) (f : Partition → Partition) (h : ∀ x, (f x).frozen = x.frozen) :
    d.dropStep (d.modPart p f) := by
  refine ⟨fun _ => .refl _, fun o => ?_, fun _ => rfl⟩
  rw [Dev.part_modPart]
  split
  · next ho => rw [h, ho]
  · rfl
theorem Dev.dropStep_modQueue (q : QueueId) (f : Queue → Queue) (h : ∀ x : Queue, x.leavesBare (f x)) :
    d.dropStep (d.modQueue q f) := by
  refine ⟨fun x => ?_, fun _ => rfl, fun _ => rfl⟩
  rw [Dev.queue_modQueue]
  split
  · next hx => rw [← hx]; exact h _
  · exact .refl _
theorem Dev.dropStep_modCore (c : CoreId) (f : Core → Core) : d.dropStep (d.modCore c f) :=
  ⟨fun _ => .refl _, fun _ => rfl, fun _ => rfl⟩
theorem Dev.dropStep_moved (q : QueueId) : d.dropStep (d.moved q) :=
  Dev.dropStep_of_units (d.queues_moved q) (d.standing_moved q) (nets_of_plinth (d.plinth_moved q))
end

/-! ## The drop in one partition -/

section
variable (d : Dev) (q : QueueId)
/-- A queue that is emptied holds no word (Table 6-8). -/
theorem Dev.bare_emptyQueue : ((d.emptyQueue q).queue q).bare := by
  unfold Dev.emptyQueue
  dsimp only
  rw [Dev.moveQueue, Dev.queue_moved, Dev.queue_modQueue_same]
  split <;> exact ⟨rfl, rfl, rfl⟩
theorem Dev.dropStep_emptyQueue : d.dropStep (d.emptyQueue q) := by
  refine .trans (d.dropStep_modQueue q _ (fun x => ?_)) (Dev.dropStep_moved _ q)
  split <;> exact ⟨rfl, fun _ => ⟨rfl, rfl, rfl⟩⟩
end

section
variable (d : Dev) (p : PartId)
/-- The queues of a partition that a drop empties. -/
def Dev.sizedQueues : List QueueId := (d.queuesOfPart p).filter (fun q => (d.queue q).cap != 0)
/-- A partition's queues emptied, its cores not yet restarted. -/
def Dev.dropQueues : Dev :=
  (d.sizedQueues p).foldl (fun e q => e.emptyQueue q) ((d.cancelFor (d.sizedQueues p)).modPart p (fun x => { x with dlkCnt := 0#17 }))
theorem Dev.dropStep_dropQueues : d.dropStep (d.dropQueues p) := by
  have hcancel : d.dropStep (d.cancelFor (d.sizedQueues p)) := ⟨fun _ => .refl _, fun _ => rfl, fun _ => rfl⟩
  unfold Dev.dropQueues
  refine .trans ?_ (Dev.dropStep_foldl _ Dev.dropStep_emptyQueue _ _)
  exact .trans hcancel (Dev.dropStep_modPart _ p _ (fun _ => rfl))
/-- A drop restarts cores once the queues are empty. -/
theorem Dev.dropPart_restarts : ∃ cs : List CoreId,
    d.dropPart p = cs.foldl (fun e c => e.modCore c (fun k => { k.restart with cal := [], sent := [] })) (d.dropQueues p) := ⟨_, rfl⟩
theorem Dev.dropStep_restarts (cs : List CoreId) (f : Core → Core) : d.dropStep (cs.foldl (fun e c => e.modCore c f) d) :=
  Dev.dropStep_foldl _ (fun e c => e.dropStep_modCore c f) cs d
theorem Dev.dropStep_dropPart : d.dropStep (d.dropPart p) := by
  obtain ⟨cs, hrestarts⟩ := d.dropPart_restarts p
  rw [hrestarts]
  exact (d.dropStep_dropQueues p).trans (Dev.dropStep_restarts _ cs _)
/-- A drop empties every queue of its partition (R246). -/
theorem Dev.bare_dropPart {q : QueueId} (h : (d.queue q).cap ≠ 0) : ((d.dropPart (partOfQueue q)).queue q).bare := by
  have hmem : q ∈ d.sizedQueues (partOfQueue q) := List.mem_filter.2 ⟨Dev.mem_queuesOfPart h, by simpa using h⟩
  have hqueues : ((d.dropQueues (partOfQueue q)).queue q).bare :=
    foldl_establishes (fun _ => True) (fun e : Dev => (e.queue q).bare) _ (fun _ _ _ => trivial)
      (fun e x he => ((e.dropStep_emptyQueue x).queues q).2 he) (fun e _ => e.bare_emptyQueue q) hmem trivial
  obtain ⟨cs, hrestarts⟩ := d.dropPart_restarts (partOfQueue q)
  rw [hrestarts]
  exact ((Dev.dropStep_restarts _ cs _).queues q).2 hqueues
end

/-! ## The epoch and the end of a drop -/

theorem calipersOnly_closeOpen (d : Dev) (n : NetId) (t : BitVec 12) (dropped : Bool) (f : OpenFrame → Bool) :
    CalipersOnly d (d.closeOpen n t dropped f) := by
  unfold Dev.closeOpen
  split
  · exact .refl d
  · exact CalipersOnly.foldl _ (fun e o => calipersOnly_closeFrame o false dropped e n t) _ d
theorem calipersOnly_dropCalipers (d : Dev) (n : NetId) (comp : Bool) : CalipersOnly d (d.dropCalipers n comp) := by
  unfold Dev.dropCalipers
  split
  · exact .refl d
  · exact CalipersOnly.foldl _ (fun e t => calipersOnly_closeOpen e n _ true _) _ d
theorem CalipersOnly.dropStep {d e : Dev} (h : CalipersOnly d e) : d.dropStep e := by
  refine ⟨fun x => ?_, fun p => ?_, fun m => by rw [h.nets m]⟩
  · rw [h.frame]
    exact .refl _
  · rw [h.frame]
    rfl

section
variable (d : Dev) (n : NetId) (p : PartId)
/-- The receivers of some queues follow the epoch. -/
theorem Dev.dropStep_setEpochs (qs : List QueueId) (e : BitVec 3) :
    d.dropStep (qs.foldl (fun d q => d.modQueue q (fun x => x.setEpoch e)) d) :=
  Dev.dropStep_foldl _ (fun a q => a.dropStep_modQueue q (fun x => x.setEpoch e) (fun _ => ⟨rfl, id⟩)) qs d
theorem Dev.dropStep_dropEpoch : d.dropStep (d.dropEpoch n p) := by
  unfold Dev.dropEpoch Dev.nextAepoch Dev.nextEpoch
  refine Dev.dropStep_ite _ ?_ ?_
  · refine .trans ?_ (Dev.dropStep_setEpochs _ _ _)
    exact d.dropStep_modNet n _ (fun _ => rfl)
  · refine .trans ?_ (Dev.dropStep_setEpochs _ _ _)
    exact d.dropStep_modNet n _ (fun _ => rfl)
theorem Dev.dropStep_trimFlights : d.dropStep (d.trimFlights n) := d.dropStep_modNet n _ (fun _ => rfl)
theorem Dev.dropStep_dropEndCompanion : d.dropStep (d.dropEndCompanion n) :=
  .trans (calipersOnly_dropCalipers d n true).dropStep (Dev.dropStep_modNet _ n _ (fun _ => rfl))
theorem Dev.dropStep_dropEnd : d.dropStep (d.dropEnd n p) := by
  have hroute (e : Dev) (f : Route → Route) : e.dropStep (e.modRoute f) := ⟨fun _ => .refl _, fun _ => rfl, fun _ => rfl⟩
  have htrial (e : Dev) (k : Nat) : e.dropStep (e.trialAgain n k) := ⟨fun _ => .refl _, fun _ => rfl, fun _ => rfl⟩
  unfold Dev.dropEnd
  refine Dev.dropStep_ite _ (d.dropStep_dropEndCompanion n) ?_
  refine .trans ?_ (hroute _ _)
  refine .trans ?_ (Dev.dropStep_modNet _ n _ (fun _ => rfl))
  refine .trans ?_ (Dev.dropStep_modPart _ p _ (fun _ => rfl))
  exact .trans (htrial d _) (calipersOnly_dropCalipers _ n false).dropStep
/-- A hold of the census that ends restarts counts alone (R244). -/
theorem Dev.censusBackNet_frame : d.censusBackNet n = { d with parts := (d.censusBackNet n).parts } := by
  refine foldl_preserves (fun e : Dev => e = { d with parts := e.parts }) _ (fun e o he => ?_) _ d rfl
  unfold Dev.censusBack
  split
  · exact he
  · rw [he]
    rfl
theorem Dev.queue_censusBackNet (x : QueueId) : (d.censusBackNet n).queue x = d.queue x := by
  rw [d.censusBackNet_frame n]
  rfl
theorem Dev.core_censusBackNet (c : CoreId) : (d.censusBackNet n).core c = d.core c := by
  rw [d.censusBackNet_frame n]
  rfl
theorem Dev.dlkCnt_censusBackNet (h : (d.part p).dlkCnt = 0#17) : ((d.censusBackNet n).part p).dlkCnt = 0#17 := by
  refine foldl_preserves (fun e : Dev => (e.part p).dlkCnt = 0#17) _ (fun e o he => ?_) _ d h
  unfold Dev.censusBack
  split
  · exact he
  · rw [Dev.part_modPart]
    split
    · rfl
    · exact he
theorem Dev.dropStep_censusBackNet : d.dropStep (d.censusBackNet n) :=
  Dev.dropStep_of_units (by rw [d.censusBackNet_frame n]) (d.standing_censusBackNet n) (nets_of_plinth (d.plinth_censusBackNet n))
end

/-! ## The drops as a whole (R246, R248) -/

/-- A partition as the host's write unfreezes it (R248). -/
def Partition.unfrozen (x : Partition) : Partition := { x with frozen := false, dlkCnt := 0#17, scrubbing := true, scrubPos := 0 }

section
variable (d : Dev) (p : PartId)
/-- The device as its drop begins: frames that are out trimmed, the partition unfrozen, the epoch changed. -/
def Dev.dropBegun : Dev := ((d.trimFlights (d.part p).net).modPart p Partition.unfrozen).dropEpoch (d.part p).net p
/-- The drop in every partition that it reaches. -/
def Dev.dropParts : Dev := (d.domain (d.part p).net p).foldl (fun e o => e.dropPart o) (d.dropBegun p)
theorem Dev.frozen_dropBegun : ((d.dropBegun p).part p).frozen = false := by
  rw [Dev.dropBegun, (Dev.dropStep_dropEpoch _ _ p).frozen, Dev.part_modPart_same]
  rfl
theorem Dev.cap_dropBegun (q : QueueId) : ((d.dropBegun p).queue q).cap = (d.queue q).cap :=
  ((Dev.dropStep_dropEpoch _ _ p).queues q).1
theorem Dev.dropStep_dropParts : (d.dropBegun p).dropStep (d.dropParts p) := Dev.dropStep_foldl _ Dev.dropStep_dropPart _ _
/-- What the drop of the host's write does once the queues are empty. -/
theorem Dev.dropStep_dropResume : (d.dropParts p).dropStep (d.dropResume p) := by
  have hclose (e : Dev) (n : NetId) : e.dropStep (if d.companion n p then e else e.modNet n Network.close) :=
    Dev.dropStep_ite _ (.refl e) (e.dropStep_modNet n _ (fun _ => rfl))
  exact .trans (hclose _ _) (.trans (Dev.dropStep_dropEnd _ _ p) (Dev.dropStep_censusBackNet _ _))
theorem Dev.frozen_dropResume : ((d.dropResume p).part p).frozen = false := by
  rw [(d.dropStep_dropResume p).frozen, (d.dropStep_dropParts p).frozen, Dev.frozen_dropBegun]
/-- The host's drop empties the queues of each partition that it reaches (R246, R248). -/
theorem Dev.bare_dropResume {q : QueueId} (hmem : partOfQueue q ∈ d.domain (d.part p).net p) (hcap : (d.queue q).cap ≠ 0) :
    ((d.dropResume p).queue q).bare := by
  have hparts : ((d.dropParts p).queue q).bare := by
    refine foldl_establishes (fun e : Dev => (e.queue q).cap ≠ 0) (fun e : Dev => (e.queue q).bare) _ (fun e o he => ?_)
      (fun e o he => ((e.dropStep_dropPart o).queues q).2 he) (fun e he => e.bare_dropPart he) hmem ?_
    · rw [((e.dropStep_dropPart o).queues q).1]
      exact he
    · rw [Dev.cap_dropBegun]
      exact hcap
  exact ((d.dropStep_dropResume p).queues q).2 hparts
end

/-- A partition that the drop has reached awaits it no longer. -/
def Network.reached (p : PartId) (x : Network) : Network := { x with dropPend := x.dropPend.erase p }
/-- The device as a drop comes to a partition: the epoch changes with the first, and frames that are out are trimmed. -/
def Dev.dropComes (d : Dev) (p : PartId) : Dev :=
  (if (d.domain (d.part p).net p).all (fun q => (d.net (d.part p).net).dropPend.contains q) then d.dropEpoch (d.part p).net p
    else d).trimFlights (d.part p).net
/-- The drop in the partition that it reaches. -/
def Dev.dropReaches (d : Dev) (p : PartId) : Dev := ((d.dropComes p).dropPart p).modNet (d.part p).net (Network.reached p)

section
variable {d : Dev} {p : PartId}
theorem Dev.dropStep_dropComes : d.dropStep (d.dropComes p) :=
  .trans (Dev.dropStep_ite _ (d.dropStep_dropEpoch _ p) (.refl d)) (Dev.dropStep_trimFlights _ _)
/-- After the last partition the drop ends (Table 6-8). -/
theorem deadlockDrop_eq (hp : p ∈ (d.net (d.part p).net).dropPend) : deadlockDrop p d =
    if ((d.dropReaches p).domain (d.part p).net p).any (fun q => ((d.dropReaches p).net (d.part p).net).dropPend.contains q)
    then d.dropReaches p
    else (d.dropReaches p).dropEnd (d.part p).net
      (if (d.dropReaches p).companion (d.part p).net p then p else (d.net (d.part p).net).dropBy) := by
  have hawaits : (!(d.net (d.part p).net).dropPend.contains p) = false := by simp [hp]
  unfold deadlockDrop
  dsimp only
  rw [hawaits, if_neg Bool.false_ne_true]
  rfl
theorem dropStep_deadlockDrop (hp : p ∈ (d.net (d.part p).net).dropPend) : (d.dropReaches p).dropStep (deadlockDrop p d) := by
  rw [deadlockDrop_eq hp]
  exact Dev.dropStep_ite _ (.refl _) (Dev.dropStep_dropEnd _ _ _)
theorem dropPend_deadlockDrop (hp : p ∈ (d.net (d.part p).net).dropPend) :
    ((deadlockDrop p d).net (d.part p).net).dropPend = (d.net (d.part p).net).dropPend.erase p := by
  rw [(dropStep_deadlockDrop hp).pend, Dev.dropReaches, Dev.net_modNet_same, Network.reached, (Dev.dropStep_dropPart _ p).pend,
    Dev.dropStep_dropComes.pend]
/-- The drop of hardware mode empties the queues of the partition that it reaches (R246). -/
theorem bare_deadlockDrop {q : QueueId} (hp : partOfQueue q ∈ (d.net (d.part (partOfQueue q)).net).dropPend)
    (hcap : (d.queue q).cap ≠ 0) : ((deadlockDrop (partOfQueue q) d).queue q).bare := by
  refine ((dropStep_deadlockDrop hp).queues q).2 ?_
  rw [Dev.dropReaches, Dev.modNet_queue_other]
  refine Dev.bare_dropPart _ ?_
  rw [(Dev.dropStep_dropComes.queues q).1]
  exact hcap
end

end Sys2Proof.Machine
end

section
/-! SUPPORT. The census that fires, and how the host ends the freeze (R243 to R248). -/
namespace Sys2Proof.Machine

open Sys2Proof

/-! ## A census at its end (R243, R245, R246) -/

/-- Packets change nothing but the packet layer. -/
theorem Dev.sendPacket_frame (d : Dev) (k : Packet) : d.sendPacket k = { d with packets := (d.sendPacket k).packets } := by
  have hinject (e : Dev) (k : Packet) : e.inject k = { e with packets := (e.inject k).packets } := by
    unfold Dev.inject
    split <;> rfl
  unfold Dev.sendPacket
  dsimp only
  rw [hinject]
  split <;> rfl
theorem Dev.dropNotices_frame (d : Dev) (p : PartId) (ps : List PartId) :
    d.dropNotices p ps = { d with packets := (d.dropNotices p ps).packets } := by
  refine foldl_preserves (fun e : Dev => e = { d with packets := e.packets }) _ (fun e q he => ?_) ps d rfl
  have hsent := e.sendPacket_frame { cls := 0#2, src := epPart p, dst := epPart q, opc := opcDrop, seq := 0#20, crc := 0#32 }
  rw [Dev.notice, hsent, he]

/-- A partition whose census has fired, with the full and the non-empty queue that it found (R245, R247). -/
def Partition.fired (fq nq : QueueId) (host : Bool) (x : Partition) : Partition :=
  { x with dlkCnt := 65536#17, fullq := fq, neq := nq, dlkFires := satInc x.dlkFires, frozen := host, scrubbing := x.scrubbing && !host }
/-- A network that is yet to be dropped in the partitions `ps`, for the census of `p`. -/
def Network.awaiting (p : PartId) (ps : List PartId) (x : Network) : Network := { x with dropPend := x.dropPend ++ ps, dropBy := p }

/-- The device with the census of a partition fired: the event raised and admission to its network stopped. -/
def Dev.censusFired (d : Dev) (p : PartId) (fq nq : QueueId) : Dev :=
  ((d.modPart p (Partition.fired fq nq (d.hostMode p 4))).raise 0x4001#16 p
    [arg32 fq, arg32 nq, (d.net (d.part p).net).frameNow, (if d.hostMode p 4 then 1#32 else 0#32)]).modNet (d.part p).net Network.close
/-- The device with the drop of hardware mode on its way to the partitions of the network (Table 6-8). -/
def Dev.dropSent (d : Dev) (p : PartId) (n : NetId) (ps : List PartId) : Dev :=
  (d.modNet n (Network.awaiting p ps)).dropNotices p (ps.erase p)

section
variable (d : Dev) (p : PartId)
theorem Dev.part_censusFired (fq nq : QueueId) : (d.censusFired p fq nq).part p = (d.part p).fired fq nq (d.hostMode p 4) :=
  Dev.part_modPart_same d p (Partition.fired fq nq (d.hostMode p 4))
theorem Dev.net_censusFired (fq nq : QueueId) : (d.censusFired p fq nq).net (d.part p).net = (d.net (d.part p).net).close :=
  Dev.net_modNet_same (Dev.raise _ _ p _) (d.part p).net Network.close
theorem Dev.censusFired_frame (fq nq : QueueId) : d.censusFired p fq nq =
    { d with parts := (d.censusFired p fq nq).parts, nets := (d.censusFired p fq nq).nets, evt := (d.censusFired p fq nq).evt } := rfl
theorem Dev.dropSent_frame (n : NetId) (ps : List PartId) :
    d.dropSent p n ps = { d with nets := (d.dropSent p n ps).nets, packets := (d.dropSent p n ps).packets } := by
  unfold Dev.dropSent
  rw [Dev.dropNotices_frame]
  rfl
theorem Dev.part_dropSent (n : NetId) (ps : List PartId) (o : PartId) : (d.dropSent p n ps).part o = d.part o := by
  rw [Dev.dropSent_frame]
  rfl
theorem Dev.net_dropSent (n : NetId) (ps : List PartId) : (d.dropSent p n ps).net n = (d.net n).awaiting p ps := by
  rw [Dev.dropSent, Dev.dropNotices_frame]
  exact d.net_modNet_same n (Network.awaiting p ps)
end

section
variable {d : Dev} {p : PartId}
section
variable {fq nq : QueueId} (hfull : (d.watchedOf p).find? (fun q => (d.queue q).full) = some fq)
  (hne : (d.watchedOf p).find? (fun q => (d.queue q).nonEmpty) = some nq) (hheld : d.censusHeld p = false)
  (hcomp : d.companion (d.part p).net p = false)
include hfull hne hheld hcomp
/-- A census with a full and a non-empty queue, of a partition that is no companion: the drop of hardware mode begins unless one is
under way. -/
theorem censusFire_fires : censusFire p d =
    if d.hostMode p 4 || (d.domain (d.part p).net p).any (fun q => (d.net (d.part p).net).dropPend.contains q) then d.censusFired p fq nq
    else (d.censusFired p fq nq).dropSent p (d.part p).net (d.domain (d.part p).net p) := by
  unfold censusFire
  simp only [hheld, hfull, hne, hcomp, Bool.false_eq_true, if_false]
  rfl
theorem censusFire_host (hhost : d.hostMode p 4 = true) : censusFire p d = d.censusFired p fq nq := by
  rw [censusFire_fires hfull hne hheld hcomp, if_pos (by rw [hhost, Bool.true_or])]
theorem censusFire_hardware (hhost : d.hostMode p 4 = false)
    (hpend : ∀ o ∈ d.domain (d.part p).net p, o ∉ (d.net (d.part p).net).dropPend) :
    censusFire p d = (d.censusFired p fq nq).dropSent p (d.part p).net (d.domain (d.part p).net p) := by
  rw [censusFire_fires hfull hne hheld hcomp, if_neg (by simpa [hhost] using hpend)]
end
theorem censusFire_none (hheld : d.censusHeld p = false)
    (h : (d.watchedOf p).find? (fun q => (d.queue q).full) = none ∨ (d.watchedOf p).find? (fun q => (d.queue q).nonEmpty) = none) :
    censusFire p d = d.modPart p (fun x => { x with dlkCnt := 65536#17 }) := by
  unfold censusFire
  rw [if_neg (by simp [hheld])]
  dsimp only
  split
  · next hfull hne =>
    obtain h | h := h
    · rw [h] at hfull
      cases hfull
    · rw [h] at hne
      cases hne
  · rfl
end

/-! ## The host's answer to a freeze (R248) -/

/-- A network whose partition the host unfreezes with CONTINUE: admission goes on. -/
def Dev.admitsAgain (d : Dev) (n : NetId) (p : PartId) (x : Network) : Network :=
  if d.companion n p then { x with aclosed := false } else { x with openAt := x.stoppedBy.isNone && !x.held }
/-- The device as CONTINUE unfreezes a partition, before the censuses of its network go on. -/
def Dev.continued (d : Dev) (p : PartId) : Dev :=
  (d.modPart p Partition.unfrozen).modNet (d.part p).net (d.admitsAgain (d.part p).net p)

section
variable (d : Dev) (p : PartId)
theorem Dev.part_continued : (d.continued p).part p = (d.part p).unfrozen := d.part_modPart_same p Partition.unfrozen
theorem Dev.queue_continued (q : QueueId) : (d.continued p).queue q = d.queue q := by simp [Dev.continued]
theorem Dev.core_continued (c : CoreId) : (d.continued p).core c = d.core c := by simp [Dev.continued]
theorem Dev.readByte_continued (a : Nat) : (d.continued p).readByte a = d.readByte a := by simp [Dev.continued, Dev.readByte]
end

section
variable {s : State} {p : PartId}
theorem dlkContinue_frozen {d : Dev} (hw : d.xptWen = true) (hf : (d.part p).frozen = true) :
    dlkContinue p d = (d.continued p).censusBackNet (d.part p).net := by
  unfold dlkContinue
  simp only [hw, hf, Bool.not_true, Bool.or_self, Bool.false_eq_true, if_false]
  rfl
theorem dlkDropResume_frozen {d : Dev} (hw : d.xptWen = true) (hf : (d.part p).frozen = true) : dlkDropResume p d = d.dropResume p := by
  simp [dlkDropResume, hw, hf]
/-- The host's answer without WEN, or to no freeze, is a rejected expert write. -/
theorem dlk_rejected {d : Dev} (h : d.xptWen = false ∨ (d.part p).frozen = false) :
    dlkContinue p d = d.xptReject ∧ dlkDropResume p d = d.xptReject := by
  have hreject : (!d.xptWen || !(d.part p).frozen) = true := by simpa using h
  exact ⟨if_pos hreject, if_pos hreject⟩

section
variable (hhost : hostRuns s) (hlive : s.dev.expertLive (dieOfPart p) = true)
include hhost hlive
theorem exec_dlkContinue_frozen (hw : s.dev.xptWen = true) (hf : (s.dev.part p).frozen = true) :
    ∃ t, exec (.dlkContinue p) s = .next t ∧ (t.dev.part p).frozen = false ∧ (t.dev.part p).dlkCnt = 0#17 ∧
      (∀ q, t.dev.queue q = s.dev.queue q) ∧ (∀ c, t.dev.core c = s.dev.core c) ∧ (∀ a, t.byteAt a = s.byteAt a) := by
  have hrun := hostWriteDie_runs hhost hlive (dlkContinue p)
  rw [dlkContinue_frozen (d := s.dev.hostWrote) hw hf] at hrun
  refine ⟨_, congrArg Host.Outcome.next hrun, ?_, Dev.dlkCnt_censusBackNet _ _ p ?_, ?_⟩
  · rw [(Dev.dropStep_censusBackNet _ _).frozen, Dev.part_continued]
    rfl
  · rw [Dev.part_continued]
    rfl
  · refine ⟨fun q => ?_, fun c => ?_, fun a => ?_⟩
    · rw [Dev.queue_censusBackNet, Dev.queue_continued, Dev.hostWrote_queue_at]
    · rw [Dev.core_censusBackNet, Dev.core_continued, Dev.hostWrote_core_at]
    · rw [State.byteAt, readByte_of_base (base_of_standing (Dev.standing_censusBackNet _ _)), Dev.readByte_continued,
        readByte_of_base (base_of_standing s.dev.standing_hostWrote), State.byteAt]
theorem exec_dlkDropAndResume_frozen (hw : s.dev.xptWen = true) (hf : (s.dev.part p).frozen = true) :
    exec (.dlkDropAndResume p) s = .next { s with dev := s.dev.hostWrote.dropResume p } := by
  have hrun := hostWriteDie_runs hhost hlive (dlkDropResume p)
  rw [dlkDropResume_frozen (d := s.dev.hostWrote) hw hf] at hrun
  exact congrArg Host.Outcome.next hrun
theorem exec_dlk_rejected {i : Instr} (h : s.dev.xptWen = false ∨ (s.dev.part p).frozen = false)
    (hi : i = .dlkContinue p ∨ i = .dlkDropAndResume p) : exec i s = .next { s with dev := s.dev.hostWrote.xptReject } := by
  obtain ⟨hcontinue, hdrop⟩ := dlk_rejected (d := s.dev.hostWrote) (p := p) h
  obtain rfl | rfl := hi
  · exact congrArg Host.Outcome.next ((hostWriteDie_runs hhost hlive _).trans (by rw [hcontinue]))
  · exact congrArg Host.Outcome.next ((hostWriteDie_runs hhost hlive _).trans (by rw [hdrop]))
end
end

/-- Settles O12: the census that fires, the host's CONTINUE and DROP_AND_RESUME, and the drop of hardware mode. -/
theorem censusAndDrop : Obligations.CensusAndDrop := by
  unfold Obligations.CensusAndDrop
  refine ⟨fun s p fq nq hfull hne hheld hcomp hpend => ?_, fun s p hheld hnone => ?_,
    fun s p hhost hlive hw hf => exec_dlkContinue_frozen hhost hlive hw hf, fun s p q hhost hlive hw hf hmem hq hcap => ?_,
    fun s p i hhost hlive hrej hi => ⟨_, exec_dlk_rejected hhost hlive hrej hi, congrArg satInc s.dev.hostWrote_xptRej,
      s.dev.hostWrote_parts, s.dev.hostWrote_cores, s.dev.hostWrote_queues, s.dev.hostWrote_psram⟩, fun s p hp => ?_⟩
  · cases hhost : s.dev.hostMode p 4 with
    | true =>
      refine ⟨_, exec_ofDev rfl (censusFire_host hfull hne hheld hcomp hhost), ?_⟩
      rw [Dev.part_censusFired, Dev.net_censusFired, hhost]
      refine ⟨rfl, rfl, rfl, rfl, rfl, fun h => absurd h (by simp), fun _ => rfl, ?_⟩
      rw [Dev.censusFired_frame]
      exact ⟨rfl, rfl, rfl⟩
    | false =>
      refine ⟨_, exec_ofDev rfl (censusFire_hardware hfull hne hheld hcomp hhost hpend), ?_⟩
      rw [Dev.part_dropSent, Dev.part_censusFired, Dev.net_dropSent, Dev.net_censusFired, hhost]
      refine ⟨rfl, rfl, rfl, rfl, rfl, fun _ => rfl, fun h => absurd h (by simp), ?_⟩
      rw [Dev.dropSent_frame, Dev.censusFired_frame]
      exact ⟨rfl, rfl, rfl⟩
  · exact ⟨_, exec_ofDev rfl (censusFire_none hheld hnone), onlyPart_mod s p _, Dev.part_modPart_same s.dev p _⟩
  · subst hq
    exact ⟨_, exec_dlkDropAndResume_frozen hhost hlive hw hf, Dev.frozen_dropResume _ _, Dev.bare_dropResume _ _ hmem hcap⟩
  · refine ⟨_, rfl, dropPend_deadlockDrop hp, fun q hq hcap => ?_⟩
    subst hq
    exact bare_deadlockDrop hp hcap

end Sys2Proof.Machine
end

section
/-! SUPPORT. A step on the empty queue: one cycle of the logic-cell clock (R283, R285, R287). -/
namespace Sys2Proof.Machine

open Sys2Proof

/-- An entry of a mapped table is the image of an entry. -/
theorem mem_tblMap {α : Type} [DecidableEq α] {d : α} {f : Nat → α → α} {e : Nat × α} :
    ∀ {t : Tbl α}, e ∈ tblMap d t f → ∃ v, (e.1, v) ∈ t ∧ e.2 = f e.1 v
  | (k, v) :: t, he => by
    have hin : e = (k, f k v) ∨ e ∈ tblMap d t f := by
      change e ∈ tblSet d (tblMap d t f) k (f k v) at he
      unfold tblSet at he
      split at he
      · exact .inr (List.mem_filter.1 he).1
      · exact tblPut_keys he
    obtain rfl | he := hin
    · exact ⟨v, List.mem_cons_self, rfl⟩
    · obtain ⟨w, hw, hv⟩ := mem_tblMap he
      exact ⟨w, List.mem_cons_of_mem _ hw, hv⟩

/-- A cycle of the logic block moves its flip-flops and its value, and nothing where there are no tables (R283, R287). -/
theorem Core.logicCycle_frame (k : Core) (time : BitVec 48) :
    k.logicCycle time = { k with ff := (k.logicCycle time).ff, patch := (k.logicCycle time).patch } := by
  unfold Core.logicCycle
  split <;> rfl
theorem Core.logicCycle_of_luts_nil {k : Core} (h : k.luts = []) (time : BitVec 48) : k.logicCycle time = k :=
  if_pos (by rw [h]; rfl)

/-- A core after a tick is a core before it, with at most one cycle of its logic block (R285, R287). -/
theorem Dev.mem_cores_tick {d : Dev} {e : Nat × Core} (he : e ∈ d.tick.cores) :
    ∃ k, (e.1, k) ∈ d.cores ∧ (e.2 = k.logicCycle d.time ∨ e.2 = k) := by
  dsimp only [Dev.tick] at he
  obtain ⟨k, hk, hcycle⟩ := mem_tblMap he
  refine ⟨k, hk, ?_⟩
  rw [hcycle]
  split
  · exact .inl rfl
  · exact .inr rfl

/-- Settles O55: every core of the table after the tick is a core of the table before, with at most one cycle of its logic block. -/
theorem emptyQueueTicks : Obligations.EmptyQueueTicks := by
  unfold Obligations.EmptyQueueTicks
  intro s hs
  refine ⟨tick s, by rw [step, hs], rfl, fun e he => ?_⟩
  obtain ⟨k, hk, hcycle | hsame⟩ := Dev.mem_cores_tick he
  · refine ⟨k, hk, ?_⟩
    rw [hcycle]
    exact ⟨k.logicCycle_frame _, fun hl => Core.logicCycle_of_luts_nil hl _⟩
  · refine ⟨k, hk, ?_⟩
    rw [hsame]
    exact ⟨rfl, fun _ => rfl⟩

end Sys2Proof.Machine
end

section
/-! SUPPORT. The packet layer: what its operations leave of the device, and the routers that they change (R272 to R278). -/
namespace Sys2Proof.Machine

open Sys2Proof

/-! ## Routers -/

section
variable (d : Dev)
/-- `modRouter` changes the router that it names and no other. -/
theorem Dev.router_modRouter (r x : Nat) (f : Router → Router) :
    (d.modRouter r f).router x = if r = x then f (d.router r) else d.router x := by
  split
  · next h => rw [← h]; exact tblGet_mod_same ({} : Router) d.packets.routers r f
  · next h => exact tblGet_mod_other ({} : Router) d.packets.routers f h
@[simp] theorem Dev.router_modRouter_same (r : Nat) (f : Router → Router) : (d.modRouter r f).router r = f (d.router r) := by
  rw [Dev.router_modRouter, if_pos rfl]
theorem Dev.router_modRouter_other {r x : Nat} (h : x ≠ r) (f : Router → Router) : (d.modRouter r f).router x = d.router x := by
  rw [Dev.router_modRouter, if_neg (Ne.symm h)]

/-! ## Sending -/

/-- A packet that is sent changes the routers and nothing else. -/
theorem Dev.inject_frame (p : Packet) :
    d.inject p = { d with packets := { d.packets with routers := (d.inject p).packets.routers } } := by
  unfold Dev.inject
  split <;> rfl
theorem Dev.inject_part {p : Packet} {k : PartId} (h : siteOf p.src = some (.part k)) :
    d.inject p = d.modRouter k.toNat (fun r => { r with waiting := r.waiting ++ [(4#3, p)] }) := by
  unfold Dev.inject
  rw [h]
  rfl
theorem Dev.combines_sendPacket (p : Packet) : (d.sendPacket p).packets.combines = d.packets.combines := by
  dsimp only [Dev.sendPacket]
  rw [Dev.inject_frame]
  split <;> rfl

/-! ## Forwarding -/

/-- PKT_BLK0 (R289) is counted beside the packets: no waiting packet, and nothing that tells whether a unit runs, changes. -/
theorem Dev.countBlk_frame (r out : Nat) (p : Packet) : d.countBlk r out p =
    { d with parts := (d.countBlk r out p).parts, fresh := (d.countBlk r out p).fresh,
             packets := { d.packets with routers := (d.countBlk r out p).packets.routers } } := by
  dsimp only [Dev.countBlk]
  split
  · rfl
  · split
    · rfl
    · split <;> rfl
theorem Dev.router_countBlk_other (r out : Nat) (p : Packet) {x : Nat} (h : x ≠ r) :
    (d.countBlk r out p).router x = d.router x := by
  dsimp only [Dev.countBlk]
  split
  · rfl
  · split
    · exact d.router_modRouter_other h _
    · split
      · rfl
      · exact Dev.router_modRouter_other _ h _
theorem Dev.waiting_countBlk (r out : Nat) (p : Packet) : ((d.countBlk r out p).router r).waiting = (d.router r).waiting := by
  dsimp only [Dev.countBlk]
  split
  · rfl
  · split
    · rw [Dev.router_modRouter_same]
    · split
      · rfl
      · rw [Dev.router_modRouter_same]
        rfl
@[simp] theorem Dev.standing_countBlk (r out : Nat) (p : Packet) : (d.countBlk r out p).standing = d.standing := by
  have hrouter (e : Dev) (f : Router → Router) : (e.modRouter r f).standing = e.standing := rfl
  dsimp only [Dev.countBlk]
  split
  · rfl
  · split
    · exact hrouter d _
    · split
      · rfl
      · exact (hrouter _ _).trans (Dev.standing_modPart _ _ _ (fun _ => rfl) (fun _ => rfl))
end

/-- Whether a router or an endpoint's unit runs is told by what stands (R24, R279, R308). -/
theorem Dev.routerUp_of_standing {d e : Dev} (h : e.standing = d.standing) (r : Nat) : e.routerUp r = d.routerUp r := by
  have hb := base_of_standing h
  simp only [Dev.routerUp, Dev.diePresent, die1_of_base hb, die_of_base hb]
theorem Dev.inReset_of_standing {d e : Dev} (h : e.standing = d.standing) (p : PartId) : (e.part p).inReset = (d.part p).inReset :=
  congrArg Service.inReset (service_of_standing h p)
theorem Dev.live_of_standing {d e : Dev} (h : e.standing = d.standing) (p : PartId) : (e.part p).live = (d.part p).live := by
  have hshut : (e.part p).shut = (d.part p).shut := congrArg Service.shut (service_of_standing h p)
  simp only [Partition.live, cast_of_standing h, power_of_ground (ground_of_standing h), Dev.inReset_of_standing h, hshut]
theorem Dev.epRuns_of_standing {d e : Dev} (h : e.standing = d.standing) (ep : Endpoint) (cls : BitVec 2) :
    e.epRuns ep cls = d.epRuns ep cls := by
  have hb := base_of_standing h
  unfold Dev.epRuns
  split
  · simp only [Dev.diePresent, die1_of_base hb, die_of_base hb, power_of_ground (ground_of_standing h), Dev.live_of_standing h,
      Dev.inReset_of_standing h]
  · rfl
  · rfl

/-- What waits of a packet, which came by input `i`, when the copy `c` has left (R276). -/
def Packet.left (p c : Packet) (i : BitVec 3) : List (BitVec 3 × Packet) :=
  match p.rest c with | some l => [(i, l)] | none => []
/-- The router after the copy `c` of the packet `e` has left by an output (R275, R276). -/
def Dev.forwarded (d : Dev) (r out : Nat) (e : BitVec 3 × Packet) (c : Packet) : Dev :=
  (d.countBlk r out c).modRouter r (fun y =>
    { y with waiting := y.waiting.flatMap (fun w => if w == e then e.2.left c e.1 else [w]), rr := tblSet 0#3 y.rr out (e.1 + 1#3) })

section
variable (d : Dev) (r out : Nat) (e : BitVec 3 × Packet) (c : Packet)
theorem Dev.forwarded_frame : d.forwarded r out e c =
    { d with parts := (d.forwarded r out e c).parts, fresh := (d.forwarded r out e c).fresh,
             packets := { d.packets with routers := (d.forwarded r out e c).packets.routers } } := by
  unfold Dev.forwarded
  rw [Dev.countBlk_frame]
  rfl
theorem Dev.standing_forwarded : (d.forwarded r out e c).standing = d.standing := d.standing_countBlk r out c
theorem Dev.router_forwarded_other {x : Nat} (h : x ≠ r) : (d.forwarded r out e c).router x = d.router x :=
  (Dev.router_modRouter_other _ h _).trans (d.router_countBlk_other r out c h)
theorem Dev.waiting_forwarded {d : Dev} (hw : (d.router r).waiting = [e]) :
    ((d.forwarded r out e c).router r).waiting = e.2.left c e.1 := by
  rw [Dev.forwarded, Dev.router_modRouter_same, Dev.waiting_countBlk, hw]
  simp
end

/-- A copy that has left router `r` waits at the router behind the output, or reaches its endpoints; a router that does not run
discards it, which ends the wait for its acknowledgement (R279). -/
def Dev.passedOn (d : Dev) (r : Nat) (c : Packet) : Option (Nat × Nat) → Dev
  | some (n, j) =>
    if d.routerUp n then d.modRouter n (fun y => { y with waiting := y.waiting ++ [(BitVec.ofNat 3 j, c)] })
    else if c.cls.toNat < 2 then d.modNetw (fun m => { m with unacked := m.unacked.filter (fun u => u.1 != c) })
    else d
  | none => d.deliver r c

/-- The one packet that waits at a router is the one that an output of its route sends. -/
theorem packetForward_alone {d : Dev} {r : BitVec 6} {out i : BitVec 3} {p c : Packet} (hw : (d.router r.toNat).waiting = [(i, p)])
    (hsite : (p.dmode = 0#2 ∨ p.dmode = 3#2) → (siteOf p.dst).isSome = true) (hwants : p.wants r.toNat out.toNat = some c)
    (hup : d.routerUp r.toNat = true) (hroom : d.bufferRoom (nextRouter r.toNat out.toNat) c = true) :
    packetForward r out d = (d.forwarded r.toNat out.toNat (i, p) c).passedOn r.toNat c (nextRouter r.toNat out.toNat) := by
  have hlost : [(i, p)].filter (fun e => (e.2.dmode == 0#2 || e.2.dmode == 3#2) && (siteOf e.2.dst).isNone) = [] := by
    refine List.filter_eq_nil_iff.2 (fun e he hcond => ?_)
    obtain rfl := List.mem_singleton.1 he
    simp only [Bool.and_eq_true, Bool.or_eq_true, beq_iff_eq] at hcond
    obtain ⟨hmode, hnone⟩ := hcond
    rw [Option.isNone_iff_eq_none] at hnone
    simpa [hnone] using hsite hmode
  unfold packetForward
  rw [if_neg (by simp [hup])]
  simp only [hw, hlost]
  simp only [List.filter, hwants, hroom, pickPacket, List.foldl]
  cases nextRouter r.toNat out.toNat <;> rfl
/-- At its endpoint's router a unicast packet comes to the endpoint's inbox. -/
theorem Dev.deliver_unicast (d : Dev) (r : Nat) {p : Packet} (hmode : p.dmode = 0#2) (hruns : d.epRuns p.dst p.cls = true) :
    d.deliver r p = d.modNetw (fun n => { n with inbox := tblMod [] n.inbox p.dst.toNat (fun l => l ++ [p]) }) := by
  simp [Dev.deliver, hmode, hruns]

/-! ## The rows of forwarding (R272 to R276) -/

section
variable {s : State} {r : BitVec 6} {out i : BitVec 3} {p c : Packet} (hw : (s.dev.router r.toNat).waiting = [(i, p)])
  (hup : s.dev.routerUp r.toNat = true)
include hw hup
theorem exec_packetForward_next {n j : Nat} (hsite : (p.dmode = 0#2 ∨ p.dmode = 3#2) → (siteOf p.dst).isSome = true)
    (hwants : p.wants r.toNat out.toNat = some c) (hnext : nextRouter r.toNat out.toNat = some (n, j)) (hne : n ≠ r.toNat)
    (hn : s.dev.routerUp n = true) (hroom : s.dev.bufferRoom (some (n, j)) c = true) :
    ∃ t, exec (.packetForward r out) s = .next t ∧ (t.dev.router r.toNat).waiting = p.left c i ∧
      (t.dev.router n).waiting = (s.dev.router n).waiting ++ [(BitVec.ofNat 3 j, c)] ∧
      (∀ x, x ≠ r.toNat → x ≠ n → t.dev.router x = s.dev.router x) ∧ coresQueuesKept s t := by
  have hrun := packetForward_alone hw hsite hwants hup (by rw [hnext]; exact hroom)
  rw [hnext, Dev.passedOn, if_pos (by rw [Dev.routerUp_of_standing (Dev.standing_forwarded ..), hn])] at hrun
  refine ⟨_, exec_ofDev rfl hrun, ?_, ?_, fun x hxr hxn => ?_, ?_⟩
  · rw [Dev.router_modRouter_other _ hne.symm, Dev.waiting_forwarded _ _ _ _ hw]
  · rw [Dev.router_modRouter_same, Dev.router_forwarded_other _ _ _ _ _ hne]
  · rw [Dev.router_modRouter_other _ hxn, Dev.router_forwarded_other _ _ _ _ _ hxr]
  · rw [Dev.forwarded_frame]
    exact ⟨rfl, rfl, rfl⟩
theorem exec_packetForward_endpoint {site : Site} (hmode : p.dmode = 0#2) (hsite : siteOf p.dst = some site)
    (hroute : routeOut r.toNat site = out.toNat) (hnext : nextRouter r.toNat out.toNat = none)
    (hruns : s.dev.epRuns p.dst p.cls = true) :
    ∃ t, exec (.packetForward r out) s = .next t ∧ (t.dev.router r.toNat).waiting = [] ∧
      tblGet [] t.dev.packets.inbox p.dst.toNat = tblGet [] s.dev.packets.inbox p.dst.toNat ++ [p] ∧ coresQueuesKept s t := by
  have hwants : p.wants r.toNat out.toNat = some p := by simp [Packet.wants, hmode, hsite, hroute]
  have hrun := packetForward_alone hw (fun _ => by rw [hsite]; rfl) hwants hup (by rw [hnext]; rfl)
  rw [hnext, Dev.passedOn,
    Dev.deliver_unicast _ _ hmode (by rw [Dev.epRuns_of_standing (Dev.standing_forwarded ..), hruns])] at hrun
  refine ⟨_, exec_ofDev rfl hrun, ?_, ?_, ?_⟩
  · refine (Dev.waiting_forwarded _ _ _ _ hw).trans ?_
    simp [Packet.left, Packet.rest, hmode]
  · rw [Dev.forwarded_frame]
    exact tblGet_mod_same ([] : List Packet) s.dev.packets.inbox p.dst.toNat (fun l => l ++ [p])
  · rw [Dev.forwarded_frame]
    exact ⟨rfl, rfl, rfl⟩
end

end Sys2Proof.Machine
end

section
/-! SUPPORT. Packets at their endpoints (R273, R278) and at the combining points (R274). -/
namespace Sys2Proof.Machine

open Sys2Proof

/-! ## Receiving and acknowledging (R273, R278) -/

section
variable (d : Dev) (e : Endpoint)
/-- A discarded packet is counted and nothing else changes. -/
theorem Dev.countCrc_frame : d.countCrc e =
    { d with parts := (d.countCrc e).parts, packets := { d.packets with crcDrops := (d.countCrc e).packets.crcDrops } } := by
  unfold Dev.countCrc
  split <;> rfl
theorem Dev.part_countCrc {k : PartId} (h : siteOf e = some (.part k)) :
    (d.countCrc e).part k = { d.part k with pktCrc := satInc (d.part k).pktCrc } := by
  simp [Dev.countCrc, h]
end

/-- The next packet of an endpoint is taken, and `l` wait behind it. -/
def Dev.inboxTaken (d : Dev) (e : Endpoint) (l : List Packet) : Dev :=
  d.modNetw (fun n => { n with inbox := tblSet [] n.inbox e.toNat l })
/-- The acknowledgement of a packet that endpoint `e` received (R278). -/
def Packet.ackFrom (p : Packet) (e : Endpoint) : Packet :=
  Packet.seal { cls := p.cls, src := e, dst := p.src, opc := opcAck, seq := p.seq, crc := 0#32 }
/-- The CRC of a packet checks, its header and CRC upset by `u` (R273). -/
abbrev Packet.checks (p : Packet) (u : BitVec 128) : Prop :=
  Packet.crcOf (p.header ^^^ u.extractLsb' 0 96) p.payload = (p.crc ^^^ u.extractLsb' 96 32)

section
variable {d : Dev} {e : Endpoint} {u : BitVec 128} {p : Packet} {l : List Packet}
  (hin : tblGet [] d.packets.inbox e.toNat = p :: l)
theorem Dev.inbox_inboxTaken (d : Dev) (e : Endpoint) (l : List Packet) :
    tblGet [] (d.inboxTaken e l).packets.inbox e.toNat = l := tblGet_set_same [] l d.packets.inbox e.toNat
include hin
theorem packetReceive_bad (h : ¬ p.checks u) : ∃ k, packetReceive e u d =
    ((d.inboxTaken e l).countCrc e).modNetw (fun n => { n with hostErrs := k }) := by
  simp only [packetReceive, hin]
  rw [if_pos (by simpa using h)]
  split <;> exact ⟨_, rfl⟩
theorem packetReceive_unanswered (h : p.checks u) (hc : 2 ≤ p.cls.toNat) : packetReceive e u d = d.inboxTaken e l := by
  simp only [packetReceive, hin]
  rw [if_neg (by simpa using h), if_pos hc]
  rfl
theorem packetReceive_ack (h : p.checks u) (hc : p.cls.toNat < 2) (ha : p.opc = opcAck) : packetReceive e u d =
    (d.inboxTaken e l).modNetw (fun n =>
      { n with unacked := n.unacked.filter (fun x => !(x.1.src == e && x.1.dst == p.src && x.1.seq == p.seq)) }) := by
  simp only [packetReceive, hin]
  rw [if_neg (by simpa using h), if_neg (by omega), if_pos (by simpa using ha)]
  rfl
theorem packetReceive_answered (h : p.checks u) (hc : p.cls.toNat < 2) (ha : p.opc ≠ opcAck) :
    packetReceive e u d = (d.inboxTaken e l).inject (p.ackFrom e) := by
  simp only [packetReceive, hin]
  rw [if_neg (by simpa using h), if_neg (by omega), if_neg (by simpa using ha)]
  rfl
end

section
variable {s : State} {e : Endpoint} {u : BitVec 128} {p : Packet} {l : List Packet}
  (hin : tblGet [] s.dev.packets.inbox e.toNat = p :: l)
include hin
theorem exec_packetReceive_bad (h : ¬ p.checks u) : ∃ t, exec (.packetReceive e u) s = .next t ∧
    tblGet [] t.dev.packets.inbox e.toNat = l ∧ coresQueuesKept s t ∧ t.dev.packets.unacked = s.dev.packets.unacked ∧
    ∀ k, siteOf e = some (.part k) → (t.dev.part k).pktCrc = satInc (s.dev.part k).pktCrc := by
  obtain ⟨n, hrun⟩ := packetReceive_bad hin h
  refine ⟨_, exec_ofDev rfl hrun, ?_, ?_, ?_, fun k hk => congrArg Partition.pktCrc (Dev.part_countCrc (s.dev.inboxTaken e l) e hk)⟩
  · rw [Dev.countCrc_frame]
    exact s.dev.inbox_inboxTaken e l
  · rw [Dev.countCrc_frame]
    exact ⟨rfl, rfl, rfl⟩
  · rw [Dev.countCrc_frame]
    rfl
theorem exec_packetReceive_checked (h : p.checks u) : ∃ t, exec (.packetReceive e u) s = .next t ∧
    tblGet [] t.dev.packets.inbox e.toNat = l ∧ coresQueuesKept s t ∧ (p.cls.toNat < 2 →
      (p.opc = opcAck → t.dev.packets.unacked =
        s.dev.packets.unacked.filter (fun x => !(x.1.src == e && x.1.dst == p.src && x.1.seq == p.seq))) ∧
      (p.opc ≠ opcAck → ∀ k, siteOf e = some (.part k) →
        (t.dev.router k.toNat).waiting = (s.dev.router k.toNat).waiting ++ [(4#3, p.ackFrom e)])) := by
  have hinbox := s.dev.inbox_inboxTaken e l
  by_cases hc : p.cls.toNat < 2
  · by_cases ha : p.opc = opcAck
    · exact ⟨_, exec_ofDev rfl (packetReceive_ack hin h hc ha), hinbox, ⟨rfl, rfl, rfl⟩,
        fun _ => ⟨fun _ => rfl, fun hn => absurd ha hn⟩⟩
    · refine ⟨_, exec_ofDev rfl (packetReceive_answered hin h hc ha), ?_, ?_, fun _ => ⟨fun hy => absurd hy ha, fun _ k hk => ?_⟩⟩
      · rw [Dev.inject_frame]
        exact hinbox
      · rw [Dev.inject_frame]
        exact ⟨rfl, rfl, rfl⟩
      · rw [Dev.inject_part (k := k) _ hk, Dev.router_modRouter_same]
        rfl
  · exact ⟨_, exec_ofDev rfl (packetReceive_unanswered hin h (by omega)), hinbox, ⟨rfl, rfl, rfl⟩, fun hy => absurd hy hc⟩
end

/-! ## Sending again (R278) -/

/-- The partition of a sender counts a packet that it sends again. -/
def Dev.countResend (d : Dev) (e : Endpoint) : Dev :=
  match siteOf e with
  | some (.part q) => d.modPart q (fun x => { x with pktResend := satInc x.pktResend })
  | _ => d

section
variable (d : Dev) (e : Endpoint)
theorem Dev.countResend_frame : d.countResend e = { d with parts := (d.countResend e).parts } := by
  unfold Dev.countResend
  split <;> rfl
theorem Dev.part_countResend {k : PartId} (h : siteOf e = some (.part k)) :
    (d.countResend e).part k = { d.part k with pktResend := satInc (d.part k).pktResend } := by
  simp [Dev.countResend, h]
end

section
variable {d : Dev} {e : Endpoint} {p : Packet} {n : Nat} (hfind : d.packets.unacked.find? (fun x => x.1.src == e) = some (p, n))
include hfind
theorem packetResend_again (hn : n < 3) : packetResend e d = ((d.modNetw (fun m =>
    { m with unacked := m.unacked.map (fun x => if x == (p, n) then (p, n + 1) else x) })).countResend e).inject p := by
  simp only [packetResend, hfind, hn, if_true]
  rfl
theorem packetResend_givenUp (hn : 3 ≤ n) : ∃ evt, packetResend e d =
    { d with packets := { d.packets with unacked := d.packets.unacked.erase (p, n) }, evt := evt } := by
  simp only [packetResend, hfind, if_neg (by omega : ¬ n < 3)]
  split <;> exact ⟨_, rfl⟩
end

section
variable {s : State} {e : Endpoint} {p : Packet} {n : Nat}
  (hfind : s.dev.packets.unacked.find? (fun x => x.1.src == e) = some (p, n))
include hfind
theorem exec_packetResend_again (hn : n < 3) : ∃ t, exec (.packetResend e) s = .next t ∧ coresQueuesKept s t ∧
    t.dev.packets.unacked = s.dev.packets.unacked.map (fun x => if x == (p, n) then (p, n + 1) else x) ∧
    ∀ k, siteOf e = some (.part k) →
      (t.dev.router k.toNat).waiting = (s.dev.router k.toNat).waiting ++ [(4#3, p)] ∧
      (t.dev.part k).pktResend = satInc (s.dev.part k).pktResend := by
  have hsrc : p.src = e := by simpa using List.find?_some hfind
  refine ⟨_, exec_ofDev rfl (packetResend_again hfind hn), ?_, ?_, fun k hk => ⟨?_, ?_⟩⟩
  · rw [Dev.inject_frame, Dev.countResend_frame]
    exact ⟨rfl, rfl, rfl⟩
  · rw [Dev.inject_frame, Dev.countResend_frame]
    rfl
  · rw [Dev.inject_part _ (hsrc ▸ hk), Dev.router_modRouter_same, Dev.countResend_frame]
    rfl
  · rw [Dev.inject_frame]
    exact congrArg Partition.pktResend (Dev.part_countResend _ e hk)
theorem exec_packetResend_givenUp (hn : 3 ≤ n) : ∃ t, exec (.packetResend e) s = .next t ∧ coresQueuesKept s t ∧
    t.dev.packets.unacked = s.dev.packets.unacked.erase (p, n) := by
  obtain ⟨evt, hrun⟩ := packetResend_givenUp hfind hn
  exact ⟨_, exec_ofDev rfl hrun, ⟨rfl, rfl, rfl⟩, rfl⟩
end

/-! ## Reductions that go on (R274) -/

section
variable (d : Dev) (n : Nat)
/-- A combination that goes on changes the packet layer and nothing else. -/
theorem Dev.reduceOut_frame (c : Combine) : d.reduceOut n c = { d with packets := (d.reduceOut n c).packets } := by
  dsimp only [Dev.reduceOut]
  split
  · rfl
  · rw [Dev.sendPacket_frame]
theorem Dev.reduceTry_frame (opc : Byte) (seq : BitVec 20) :
    d.reduceTry n opc seq = { d with packets := (d.reduceTry n opc seq).packets } := by
  unfold Dev.reduceTry
  split
  · rfl
  · split
    · rw [Dev.reduceOut_frame]
      rfl
    · rfl
/-- A combination goes on to no combining point but its cluster's partition router. -/
theorem Dev.combines_reduceOut (c : Combine) {m : Nat} (h : n < 128 → m ≠ 128 + n / 4) :
    tblGet [] (d.reduceOut n c).packets.combines m = tblGet [] d.packets.combines m := by
  dsimp only [Dev.reduceOut]
  split
  · next hn =>
    dsimp only [Dev.modNetw]
    exact tblGet_mod_other ([] : List Combine) d.packets.combines _ (Ne.symm (h hn))
  · rw [Dev.combines_sendPacket]
theorem Dev.combines_reduceTry (opc : Byte) (seq : BitVec 20) {m : Nat} (hn : 128 ≤ n) (hm : m ≠ n) :
    tblGet [] (d.reduceTry n opc seq).packets.combines m = tblGet [] d.packets.combines m := by
  unfold Dev.reduceTry
  split
  · rfl
  · split
    · rw [Dev.combines_reduceOut _ _ _ (fun h => absurd h (by omega))]
      dsimp only [Dev.modNetw]
      exact tblGet_mod_other ([] : List Combine) d.packets.combines _ (Ne.symm hm)
    · rfl
end

theorem exec_reductionTimeout {s : State} {n : Nat} {c : Combine} {l : List Combine}
    (h : tblGet [] s.dev.packets.combines n = c :: l) :
    ∃ t, exec (.reductionTimeout n) s = .next t ∧ tblGet [] t.dev.packets.combines n = l ∧ coresQueuesKept s t := by
  have hout := Dev.combines_reduceOut (s.dev.modNetw (fun m => { m with combines := tblSet [] m.combines n l })) n c (m := n) (by omega)
  have htaken : tblGet [] (tblSet [] s.dev.packets.combines n l) n = l := tblGet_set_same ..
  refine ⟨_, rfl, ?_⟩
  simp only [reductionTimeout, h]
  split
  · refine ⟨?_, ?_⟩
    · rw [Dev.combines_reduceTry _ _ _ _ (by omega) (by omega), hout]
      exact htaken
    · rw [Dev.reduceTry_frame, Dev.reduceOut_frame]
      exact ⟨rfl, rfl, rfl⟩
  · refine ⟨hout.trans htaken, ?_⟩
    rw [Dev.reduceOut_frame]
    exact ⟨rfl, rfl, rfl⟩

/-- Settles O14: the packet that waits leaves by its output; an endpoint checks, acknowledges and sends again; a combining point goes
on. -/
theorem packetsMove : Obligations.PacketsMove := by
  unfold Obligations.PacketsMove
  refine ⟨fun s r out i p c n j hw hsite hwants hnext hne hup hn hroom =>
      exec_packetForward_next hw hup hsite hwants hnext hne hn hroom,
    fun s r out i p site hw hmode hsite hroute hnext hup hruns => exec_packetForward_endpoint hw hup hmode hsite hroute hnext hruns,
    fun s e u p l hin => ?_, fun s e p n hfind => ?_, fun s n c l h => exec_reductionTimeout h⟩
  · by_cases h : p.checks u
    · obtain ⟨t, hexec, hinbox, hkept, hanswer⟩ := exec_packetReceive_checked hin h
      refine ⟨t, hexec, hinbox, hkept, fun hn => absurd h hn, fun _ hc => ?_⟩
      obtain ⟨hack, hother⟩ := hanswer hc
      exact ⟨hack, fun ha k hk => ⟨p.ackFrom e, rfl, rfl, rfl, rfl, hother ha k hk⟩⟩
    · obtain ⟨t, hexec, hinbox, hkept, hbad⟩ := exec_packetReceive_bad hin h
      exact ⟨t, hexec, hinbox, hkept, fun _ => hbad, fun hy => absurd hy h⟩
  · by_cases hn : n < 3
    · obtain ⟨t, hexec, hkept, hagain⟩ := exec_packetResend_again hfind hn
      exact ⟨t, hexec, hkept, fun _ => hagain, fun h => absurd h (by omega)⟩
    · obtain ⟨t, hexec, hkept, hgone⟩ := exec_packetResend_givenUp hfind (by omega)
      exact ⟨t, hexec, hkept, fun h => absurd h hn, fun _ => hgone⟩

end Sys2Proof.Machine
end

section
/-! SUPPORT. Circuit segments: what a force, its notices and its lifting change (R263 to R267, R270). -/
namespace Sys2Proof.Machine

open Sys2Proof

/-! ## Segments -/

theorem Dev.seg_of_parts {d e : Dev} (h : e.parts = d.parts) (g : SegId) : e.seg g = d.seg g := by
  simp only [Dev.seg, Dev.part, h]
theorem Dev.part_of_parts {d e : Dev} (h : e.parts = d.parts) (p : PartId) : e.part p = d.part p := by
  simp only [Dev.part, h]

section
variable (d : Dev) (g : SegId) (f : Seg → Seg)
theorem Dev.part_modSeg : (d.modSeg g f).part (partOfSeg g) =
    { d.part (partOfSeg g) with segs := tblMod {} (d.part (partOfSeg g)).segs g.toNat f } := d.part_modPart_same _ _
@[simp] theorem Dev.seg_modSeg_same : (d.modSeg g f).seg g = f (d.seg g) := by
  rw [Dev.seg, Dev.part_modSeg]
  exact tblGet_mod_same ({} : Seg) _ _ f
theorem Dev.seg_modSeg_other {x : SegId} (h : x ≠ g) : (d.modSeg g f).seg x = d.seg x := by
  have hkey : g.toNat ≠ x.toNat := fun e => h (BitVec.eq_of_toNat_eq e.symm)
  rw [Dev.seg, Dev.modSeg, Dev.part_modPart]
  split
  · next hp =>
    rw [hp]
    exact tblGet_mod_other ({} : Seg) _ f hkey
  · rfl
theorem Dev.part_modSeg_segs (p : PartId) : (d.modSeg g f).part p = { d.part p with segs := ((d.modSeg g f).part p).segs } := by
  rw [Dev.modSeg, Dev.part_modPart]
  split
  · next h => rw [h]
  · rfl
/-- An update of a partition that keeps its segments. -/
theorem Dev.seg_modPart (p : PartId) (f : Partition → Partition) (hf : ∀ x, (f x).segs = x.segs) :
    (d.modPart p f).seg g = d.seg g := by
  rw [Dev.seg, Dev.part_modPart]
  split
  · next h => rw [hf, h]; rfl
  · rfl
end

/-! ## A force (R263 to R265) -/

/-- A segment forced to zero, with the drive enables found. -/
def Seg.force (en : BitVec 4) (x : Seg) : Seg := { x with en := en, forced := true }
/-- A partition that has recorded a contention (R263). -/
def Partition.contends (g : SegId) (x : Partition) : Partition := { x with contSeg := g, contCnt := satInc x.contCnt }

section
variable (d : Dev)
theorem Dev.dropLane_frame (x : Seg) : d.dropLane x = { d with queues := (d.dropLane x).queues } := by
  unfold Dev.dropLane
  split
  · rfl
  · split <;> rfl
  · rfl
/-- Notices to cores change nothing but the packet layer. -/
theorem Dev.notices_frame (p : PartId) (cs : List CoreId) (opc : Byte) (d : Dev) :
    cs.foldl (fun d c => d.notice p (epCore c) opc) d =
      { d with packets := (cs.foldl (fun d c => d.notice p (epCore c) opc) d).packets } := by
  refine foldl_preserves (fun e : Dev => e = { d with packets := e.packets }) _ (fun e c he => ?_) cs d rfl
  rw [Dev.notice, Dev.sendPacket_frame, he]
theorem Dev.force_frame (g : SegId) (en : BitVec 4) : d.force g en =
    { d.modSeg g (Seg.force en) with queues := (d.force g en).queues, packets := (d.force g en).packets } := by
  dsimp only [Dev.force]
  split
  · rw [Dev.dropLane_frame]
    rfl
  · rw [Dev.notices_frame, Dev.dropLane_frame]
    rfl
theorem Dev.parts_force (g : SegId) (en : BitVec 4) : (d.force g en).parts = (d.modSeg g (Seg.force en)).parts := by
  rw [Dev.force_frame]
theorem Dev.seg_force (g : SegId) (en : BitVec 4) : (d.force g en).seg g = (d.seg g).force en :=
  (Dev.seg_of_parts (d.parts_force g en) g).trans (d.seg_modSeg_same g _)
theorem Dev.part_force (g : SegId) (en : BitVec 4) (p : PartId) :
    (d.force g en).part p = { d.part p with segs := ((d.force g en).part p).segs } := by
  rw [Dev.part_of_parts (d.parts_force g en)]
  exact d.part_modSeg_segs g _ p
end

/-- A segment contends for the first time (R263). -/
theorem contentionDetect_first {d : Dev} {g : SegId} {en : BitVec 4} (hfree : (d.seg g).forced = false)
    (hcont : contended (d.seg g).own en = true) (hlift : (d.seg g).liftedAt = none) : contentionDetect g en d =
      ((d.force g en).modPart (partOfSeg g) (Partition.contends g)).raise 0x3001#16 (partOfSeg g) [arg32 g] := by
  simp only [contentionDetect, hfree, hcont, hlift]
  rfl
theorem exec_contentionDetect {s : State} {g : SegId} {en : BitVec 4} (hfree : (s.dev.seg g).forced = false)
    (hcont : contended (s.dev.seg g).own en = true) (hlift : (s.dev.seg g).liftedAt = none) :
    ∃ t, exec (.contentionDetect g en) s = .next t ∧ (t.dev.seg g).forced = true ∧ (t.dev.seg g).en = en ∧
      (t.dev.part (partOfSeg g)).contSeg = g ∧
      (t.dev.part (partOfSeg g)).contCnt = satInc (s.dev.part (partOfSeg g)).contCnt ∧ (∀ a, t.byteAt a = s.byteAt a) := by
  have hrun := contentionDetect_first hfree hcont hlift
  have hseg : (contentionDetect g en s.dev).seg g = (s.dev.seg g).force en := by
    rw [hrun, Dev.seg_of_parts (Dev.raise_parts ..), Dev.seg_modPart _ g _ (Partition.contends g) (fun _ => rfl), Dev.seg_force]
  have hpart : (contentionDetect g en s.dev).part (partOfSeg g) = ((s.dev.force g en).part (partOfSeg g)).contends g := by
    rw [hrun, Dev.raise_part_other, Dev.part_modPart_same]
  have hforce := s.dev.part_force g en (partOfSeg g)
  refine ⟨_, rfl, congrArg Seg.forced hseg, congrArg Seg.en hseg, congrArg Partition.contSeg hpart, ?_, fun a => ?_⟩
  · rw [congrArg Partition.contCnt hpart, Partition.contends, hforce]
  · change (contentionDetect g en s.dev).readByte a = _
    rw [hrun, Dev.force_frame]
    rfl

/-- A core notified of contention voids the rest of its frame, and nothing else of the cores and queues changes (R265). -/
theorem exec_contentionNotice {s : State} {c : CoreId} (ha : (s.dev.core c).assigned = true) (hf : (s.dev.core c).inFrame = true) :
    ∃ t, exec (.contentionNotice c) s = .next t ∧
      t.dev.core c = { s.dev.core c with voiding := true, flags := (s.dev.core c).flags ||| 2#8,
                                         lost := (s.dev.core c).lost ||| s.dev.framePorts (s.dev.core c) } ∧
      (∀ x, x ≠ c → t.dev.core x = s.dev.core x) ∧ (∀ q, t.dev.queue q = s.dev.queue q) := by
  have hrun : contentionNotice c s.dev = (((s.dev.modCore c
      (fun k => if k.inFrame then { k with voiding := true, flags := k.flags ||| 2#8 } else k)).modCore c
      (fun k => { k with lost := k.lost ||| s.dev.framePorts (s.dev.core c) })).voidMaq (s.dev.core c).net) :=
    if_pos (by rw [ha, hf]; rfl)
  have hmaq (e : Dev) (n : NetId) (x : CoreId) : (e.voidMaq n).core x = e.core x := rfl
  have hqueue (e : Dev) (n : NetId) (f g : Core → Core) (q : QueueId) :
      (((e.modCore c f).modCore c g).voidMaq n).queue q = e.queue q := rfl
  refine ⟨_, exec_ofDev rfl hrun, ?_, fun x hx => ?_, fun q => hqueue s.dev _ _ _ q⟩
  · rw [hmaq, Dev.core_modCore_same, Dev.core_modCore_same, if_pos hf]
  · rw [hmaq, Dev.core_modCore, if_neg (Ne.symm hx), Dev.core_modCore, if_neg (Ne.symm hx)]

/-! ## A force that is lifted (R266, R270) -/

/-- A partition whose scrubber has counted a word that it corrected (R269). -/
def Partition.corrected (x : Partition) : Partition := { x with scrubCe := satInc x.scrubCe }
/-- A partition whose configuration frame is rewritten (R270). -/
def Partition.reloaded (x : Partition) : Partition := { x with reload := none }
theorem exec_forceLift {s : State} {g : SegId} (hf : (s.dev.seg g).forced = true) (hr : s.dev.reloadHolds g = false)
    (hb : g ∉ s.dev.health.badSegs) : ∃ t, exec (.forceLift g) s = .next t ∧ onlyPart (partOfSeg g) s t ∧
      t.dev.seg g = { s.dev.seg g with en := (s.dev.seg g).ownEn, forced := false, liftedAt := some s.dev.time } ∧
      (t.dev.part (partOfSeg g)).scrubCe = satInc (s.dev.part (partOfSeg g)).scrubCe := by
  have hrun : forceLift g s.dev = (s.dev.lift g).modPart (partOfSeg g) Partition.corrected :=
    if_neg (by simp [hf, hr, hb])
  refine ⟨_, exec_ofDev rfl hrun, onlyPart_trans (onlyPart_mod s _ _) (onlyPart_mod _ _ _), ?_, ?_⟩
  · exact (Dev.seg_modPart _ g _ Partition.corrected (fun _ => rfl)).trans (s.dev.seg_modSeg_same g _)
  · rw [Dev.part_modPart_same, Dev.lift, Dev.part_modSeg]
    rfl

/-- The reload of a configuration frame lifts the force of a segment of the frame. -/
def Dev.unforce (d : Dev) (g : SegId) : Dev := if (d.seg g).forced then d.lift g else d
/-- The segments of a partition whose configuration is in a frame. -/
def Partition.segsIn (x : Partition) (frame : Nat) : List SegId :=
  (x.segs.map (fun e => BitVec.ofNat 24 e.1)).filter (fun g => Config.segFrame g == frame)

section
variable (d : Dev) (g : SegId)
theorem Dev.unforce_frame : d.unforce g = { d with parts := (d.unforce g).parts } := by
  unfold Dev.unforce
  split <;> rfl
theorem Dev.forced_unforce_same : ((d.unforce g).seg g).forced = false := by
  unfold Dev.unforce
  split
  · rw [Dev.lift, Dev.seg_modSeg_same]
  · next h => simpa using h
theorem Dev.forced_unforce {x : SegId} (h : (d.seg x).forced = false) : ((d.unforce g).seg x).forced = false := by
  by_cases hx : x = g
  · rw [hx]
    exact d.forced_unforce_same g
  · unfold Dev.unforce
    split
    · rw [Dev.lift, Dev.seg_modSeg_other _ _ _ hx, h]
    · exact h
theorem Dev.unforceAll_frame (l : List SegId) : l.foldl Dev.unforce d = { d with parts := (l.foldl Dev.unforce d).parts } := by
  refine foldl_preserves (fun e : Dev => e = { d with parts := e.parts }) _ (fun e x he => ?_) l d rfl
  rw [Dev.unforce_frame, he]
/-- The force of every segment of a list is lifted. -/
theorem Dev.forced_unforceAll {l : List SegId} (hg : g ∈ l) : ((l.foldl Dev.unforce d).seg g).forced = false := by
  induction l generalizing d with
  | nil => exact absurd hg List.not_mem_nil
  | cons x l ih =>
    rw [List.foldl_cons]
    obtain rfl | hg := List.mem_cons.1 hg
    · exact foldl_preserves (fun e : Dev => (e.seg g).forced = false) _ (fun e y he => e.forced_unforce y he) l _ (d.forced_unforce_same g)
    · exact ih _ hg
end

section
variable {d : Dev} {p : PartId} {i : BitVec 18} (h : (d.part p).reload = some i)
include h
/-- A reload that is done lifts the forces of the segments of its frame (R270). -/
theorem reloadDone_some : reloadDone p d =
    (((d.part p).segsIn (i.toNat / 64)).foldl Dev.unforce d).modPart p Partition.reloaded := by
  unfold reloadDone
  rw [h]
  rfl
end

section
variable {s : State} {p : PartId} {i : BitVec 18} (h : (s.dev.part p).reload = some i)
include h
theorem exec_configFrameReloadDone_noSegs (hs : (s.dev.part p).segs = []) : ∃ t, exec (.configFrameReloadDone p) s = .next t ∧
    onlyPart p s t ∧ t.dev.part p = { s.dev.part p with reload := none } := by
  have hrun := reloadDone_some h
  rw [show (s.dev.part p).segsIn (i.toNat / 64) = [] by rw [Partition.segsIn, hs]; rfl] at hrun
  exact ⟨_, exec_ofDev rfl hrun, onlyPart_mod s p _, s.dev.part_modPart_same p _⟩
theorem exec_configFrameReloadDone : ∃ t, exec (.configFrameReloadDone p) s = .next t ∧ (t.dev.part p).reload = none ∧
    coresQueuesKept s t ∧ ∀ g : SegId, partOfSeg g = p → Config.segFrame g = i.toNat / 64 →
      (∃ e ∈ (s.dev.part p).segs, e.1 = g.toNat) → (t.dev.seg g).forced = false := by
  refine ⟨_, exec_ofDev rfl (reloadDone_some h), ?_, ?_, fun g hp hframe hlisted => ?_⟩
  · exact congrArg Partition.reload (Dev.part_modPart_same _ p _)
  · rw [Dev.unforceAll_frame]
    exact ⟨rfl, rfl, rfl⟩
  · obtain ⟨e, he, hkey⟩ := hlisted
    have hg : g ∈ (s.dev.part p).segsIn (i.toNat / 64) :=
      List.mem_filter.2 ⟨List.mem_map.2 ⟨e, he, by rw [hkey, BitVec.ofNat_toNat, BitVec.setWidth_eq]⟩, by simp [hframe]⟩
    exact (congrArg Seg.forced (Dev.seg_modPart _ g p Partition.reloaded (fun _ => rfl))).trans (Dev.forced_unforceAll s.dev g hg)
end

end Sys2Proof.Machine
end

section
/-! SUPPORT. The scrubber (R268 to R270): what its reads count, and that the recovery of a core leaves its counts. -/
namespace Sys2Proof.Machine

open Sys2Proof

/-! ## What has been found uncorrectable -/

/-- The uncorrectable words that the scrubber of a partition has counted, and the address of the last. -/
def Partition.upsets (x : Partition) : W32 × Option (BitVec 18) := (x.scrubUe, x.scrubUeAddr)
def Dev.upsets (d : Dev) (p : PartId) : W32 × Option (BitVec 18) := (d.part p).upsets

theorem Dev.upsets_of_parts {d e : Dev} (h : e.parts = d.parts) : e.upsets = d.upsets := by
  funext p
  rw [Dev.upsets, Dev.part_of_parts h]
  rfl

section
variable (d : Dev)
theorem Dev.upsets_modPart (p : PartId) (f : Partition → Partition) (hf : ∀ x, (f x).upsets = x.upsets) :
    (d.modPart p f).upsets = d.upsets := by
  funext x
  rw [Dev.upsets, Dev.part_modPart]
  split
  · next h => rw [hf, h]; rfl
  · rfl
theorem Dev.upsets_censusBack (p : PartId) : (d.censusBack p).upsets = d.upsets := by
  unfold Dev.censusBack
  split
  · rfl
  · exact d.upsets_modPart p _ (fun _ => rfl)
theorem Dev.upsets_putQueue (id : QueueId) (q : Queue) : (d.putQueue id q).upsets = d.upsets := by
  unfold Dev.putQueue Dev.moved
  split
  · exact Dev.upsets_modPart _ _ _ (fun _ => rfl)
  · rfl
theorem Dev.upsets_giveUpOuts (c : CoreId) (r : Option Nat) (f : QueueId → Bool) : (d.giveUpOuts c r f).upsets = d.upsets := by
  refine foldl_keeps Dev.upsets _ (fun e o => ?_) _ d
  split
  · rfl
  · split
    · exact e.upsets_putQueue _ _
    · rfl
theorem Dev.upsets_giveUpIns (c : CoreId) (f : QueueId → Bool) : (d.giveUpIns c f).upsets = d.upsets := by
  refine foldl_keeps Dev.upsets _ (fun e o => ?_) _ d
  split
  · rfl
  · split
    · exact e.upsets_putQueue _ _
    · rfl
theorem Dev.upsets_resetTensor (n : NetId) (t : BitVec 12) : (d.resetTensor n t).upsets = d.upsets := by
  refine Dev.upsets_of_parts ?_
  dsimp only [Dev.resetTensor]
  split
  · rfl
  · rw [Dev.sendS2_frame]
    rfl
theorem Dev.upsets_resetCalipers (c : CoreId) : (d.resetCalipers c).upsets = d.upsets := by
  dsimp only [Dev.resetCalipers]
  split
  · exact foldl_keeps Dev.upsets _ (fun e t => e.upsets_resetTensor _ t) _ _
  · rfl
theorem Dev.upsets_coreResetStart (c : CoreId) : (d.coreResetStart c).upsets = d.upsets := by
  have hmaq (e : Dev) (n : NetId) : (e.voidMaq n).upsets = e.upsets := rfl
  have hcore (e : Dev) (f : Core → Core) : (e.modCore c f).upsets = e.upsets := rfl
  dsimp only [Dev.coreResetStart]
  split
  · rfl
  · rw [Dev.upsets_censusBack, hcore, Dev.upsets_resetCalipers, hmaq, Dev.upsets_giveUpIns, Dev.upsets_giveUpOuts]
theorem Dev.upsets_faultCore (c : CoreId) (f : CFault) (ue : Option Nat) : (d.faultCore c f ue).upsets = d.upsets := by
  dsimp only [Dev.faultCore]
  split
  · exact Dev.upsets_censusBack _ _
  · rfl
theorem Dev.upsets_fenceIdle (c : CoreId) (cause : BitVec 3) : (d.fenceIdle c cause).upsets = d.upsets :=
  Dev.upsets_modPart _ _ _ (fun _ => rfl)
/-- Neither the reset nor the fault nor the fence of the core with the word changes what the scrubber has found (R270, R509). -/
theorem Dev.upsets_cfgError (p : PartId) (c : CoreId) : (d.cfgError p c).upsets = d.upsets := by
  have hlogged (l : List (CoreId × BitVec 48)) : (d.modPart p (fun x => { x with cfgUe := l })).upsets = d.upsets :=
    d.upsets_modPart p _ (fun _ => rfl)
  have hcounted (e : Dev) : (e.modPart p (fun x => { x with rstCore := satInc x.rstCore })).upsets = e.upsets :=
    e.upsets_modPart p _ (fun _ => rfl)
  dsimp only [Dev.cfgError]
  split
  · split
    · rfl
    · exact d.upsets_fenceIdle c _
  · split
    · rw [Dev.upsets_faultCore, hlogged]
    · rw [hcounted, Dev.upsets_coreResetStart, hlogged]
theorem Dev.upsets_force (g : SegId) (en : BitVec 4) : (d.force g en).upsets = d.upsets := by
  funext p
  rw [Dev.upsets, Dev.part_force]
  rfl
end

/-! ## The reads of a pass (R268 to R270) -/

/-- A partition whose scrubber has read the next word of its pass. -/
def Partition.scrubbed (i : Nat) (x : Partition) : Partition :=
  if i + 1 < cfgWords then { x with scrubPos := i + 1 } else { x with scrubPos := 0, scrubbing := false, scrubPass := satInc x.scrubPass }
/-- A partition whose scrubber has found word `i` uncorrectable. -/
def Partition.upset (i : Nat) (x : Partition) : Partition := { x with scrubUe := satInc x.scrubUe, scrubUeAddr := some (BitVec.ofNat 18 i) }
/-- The device with the next word of a pass read and found uncorrectable, and the event raised. -/
def Dev.upsetFound (d : Dev) (p : PartId) : Dev :=
  ((d.modPart p (Partition.scrubbed (d.part p).scrubPos)).modPart p (Partition.upset (d.part p).scrubPos)).raise 0x3002#16 p
    [BitVec.ofNat 32 (d.part p).scrubPos]

theorem Partition.upsets_scrubbed (i : Nat) (x : Partition) : (x.scrubbed i).upsets = x.upsets := by
  unfold Partition.scrubbed
  split <;> rfl
theorem Partition.scrubCe_scrubbed (i : Nat) (x : Partition) : (x.scrubbed i).scrubCe = x.scrubCe := by
  unfold Partition.scrubbed
  split <;> rfl
theorem Dev.upsets_upsetFound (d : Dev) (p : PartId) :
    (d.upsetFound p).upsets p = (satInc (d.part p).scrubUe, some (BitVec.ofNat 18 (d.part p).scrubPos)) := by
  have hread := Partition.upsets_scrubbed (d.part p).scrubPos (d.part p)
  rw [Dev.upsets, Dev.upsetFound, Dev.raise_part_other, Dev.part_modPart_same, Dev.part_modPart_same]
  exact congrArg (fun u : W32 × Option (BitVec 18) => (satInc u.1, some (BitVec.ofNat 18 (d.part p).scrubPos))) hread

section
variable {d : Dev} {p : PartId} (hs : (d.part p).scrubs = true) (hb : (d.part p).scrubbing = true)
include hs hb
theorem scrubRead_clean : scrubRead p .clean d = d.modPart p (Partition.scrubbed (d.part p).scrubPos) := by
  simp only [scrubRead, hs, hb]
  rfl
theorem scrubRead_single : scrubRead p .single d =
    (d.modPart p (Partition.scrubbed (d.part p).scrubPos)).modPart p Partition.corrected := by
  simp only [scrubRead, hs, hb]
  rfl
/-- An uncorrectable word of a core takes the core's recovery (R270, R509). -/
theorem scrubRead_double_core (hi : (d.part p).scrubPos < cfgCoreWords) : scrubRead p .double d =
    (d.upsetFound p).cfgError p (BitVec.ofNat 11 (p.toNat * 64 + (d.part p).scrubPos / 2569)) := by
  simp only [scrubRead, hs, hb, hi, if_true]
  rfl
/-- An uncorrectable word of a configuration frame forces the segments of the frame, which is in reload (R270). -/
theorem scrubRead_double_frame (hi : cfgCoreWords ≤ (d.part p).scrubPos) : scrubRead p .double d =
    (((d.part p).segsIn ((d.part p).scrubPos / 64)).foldl (fun d g => d.force g (d.seg g).en) (d.upsetFound p)).modPart p
      (fun x => { x with reload := some (BitVec.ofNat 18 (d.part p).scrubPos) }) := by
  simp only [scrubRead, hs, hb, if_neg (Nat.not_lt.2 hi)]
  rfl
end

section
variable {s : State} {p : PartId} (hs : (s.dev.part p).scrubs = true)
include hs
theorem exec_scrubPassStart (hb : (s.dev.part p).scrubbing = false) : ∃ t, exec (.scrubPassStart p) s = .next t ∧ onlyPart p s t ∧
    t.dev.part p = { s.dev.part p with scrubbing := true, scrubPos := 0 } := by
  have hrun : scrubStart p s.dev = s.dev.modPart p (fun x => { x with scrubbing := true, scrubPos := 0 }) :=
    if_pos (by rw [hs, hb]; rfl)
  exact ⟨_, exec_ofDev rfl hrun, onlyPart_mod s p _, s.dev.part_modPart_same p _⟩

variable (hb : (s.dev.part p).scrubbing = true)
include hb
theorem exec_scrubRead_clean : ∃ t, exec (.scrubRead p .clean) s = .next t ∧ onlyPart p s t ∧
    ((s.dev.part p).scrubPos + 1 < cfgWords → t.dev.part p = { s.dev.part p with scrubPos := (s.dev.part p).scrubPos + 1 }) ∧
    (cfgWords ≤ (s.dev.part p).scrubPos + 1 →
      t.dev.part p = { s.dev.part p with scrubPos := 0, scrubbing := false, scrubPass := satInc (s.dev.part p).scrubPass }) := by
  have hpart := s.dev.part_modPart_same p (Partition.scrubbed (s.dev.part p).scrubPos)
  exact ⟨_, exec_ofDev rfl (scrubRead_clean hs hb), onlyPart_mod s p _, fun hi => hpart.trans (if_pos hi),
    fun hi => hpart.trans (if_neg (Nat.not_lt.2 hi))⟩
theorem exec_scrubRead_single : ∃ t, exec (.scrubRead p .single) s = .next t ∧ onlyPart p s t ∧
    (t.dev.part p).scrubCe = satInc (s.dev.part p).scrubCe ∧ (t.dev.part p).scrubUe = (s.dev.part p).scrubUe := by
  refine ⟨_, exec_ofDev rfl (scrubRead_single hs hb), onlyPart_trans (onlyPart_mod s p _) (onlyPart_mod _ p _), ?_⟩
  rw [Dev.part_modPart_same, Dev.part_modPart_same]
  exact ⟨congrArg satInc (Partition.scrubCe_scrubbed _ _), congrArg Prod.fst (Partition.upsets_scrubbed _ _)⟩
theorem exec_scrubRead_double : ∃ t, exec (.scrubRead p .double) s = .next t ∧
    (t.dev.part p).scrubUe = satInc (s.dev.part p).scrubUe ∧
    (t.dev.part p).scrubUeAddr = some (BitVec.ofNat 18 (s.dev.part p).scrubPos) ∧
    (cfgCoreWords ≤ (s.dev.part p).scrubPos → (t.dev.part p).reload = some (BitVec.ofNat 18 (s.dev.part p).scrubPos)) := by
  have hfound := s.dev.upsets_upsetFound p
  by_cases hi : (s.dev.part p).scrubPos < cfgCoreWords
  · have hkept := (congrFun (Dev.upsets_cfgError (s.dev.upsetFound p) p
      (BitVec.ofNat 11 (p.toNat * 64 + (s.dev.part p).scrubPos / 2569))) p).trans hfound
    exact ⟨_, exec_ofDev rfl (scrubRead_double_core hs hb hi), congrArg Prod.fst hkept, congrArg Prod.snd hkept,
      fun h => absurd hi (Nat.not_lt.2 h)⟩
  · have hforced := foldl_keeps Dev.upsets (fun d g => d.force g (d.seg g).en) (fun e g => e.upsets_force g _)
      ((s.dev.part p).segsIn ((s.dev.part p).scrubPos / 64)) (s.dev.upsetFound p)
    refine ⟨_, exec_ofDev rfl (scrubRead_double_frame hs hb (Nat.not_lt.1 hi)), ?_⟩
    rw [Dev.part_modPart_same]
    have hkept := (congrFun hforced p).trans hfound
    exact ⟨congrArg Prod.fst hkept, congrArg Prod.snd hkept, fun _ => rfl⟩
end

/-- Settles O13: each row by what a force, a notice, a lifting or a read of the scrubber changes. -/
theorem contentionAndScrub : Obligations.ContentionAndScrub := by
  unfold Obligations.ContentionAndScrub
  exact ⟨fun s g en hfree hcont hlift => exec_contentionDetect hfree hcont hlift, fun s c ha hf => exec_contentionNotice ha hf,
    fun s g hf hr hb => exec_forceLift hf hr hb, fun s p hs hb => exec_scrubPassStart hs hb,
    fun s p hs hb => exec_scrubRead_clean hs hb, fun s p hs hb => exec_scrubRead_single hs hb,
    fun s p hs hb => exec_scrubRead_double hs hb, fun s p i h hsegs => exec_configFrameReloadDone_noSegs h hsegs,
    fun s p i h => exec_configFrameReloadDone h⟩

end Sys2Proof.Machine
end

section
/-! SUPPORT. The image store through every command (R292, R301, R306): what the host's writes, the mailbox, the card and firmware's
own writes leave of the images, and that a command answers a next state. -/
namespace Sys2Proof.Machine

open Sys2Proof

/-! ## Writes of the store that leave the images -/

theorem imagesKept_refl (a : Store) : imagesKept a a := ⟨rfl, rfl, rfl, rfl, rfl, rfl, rfl⟩
/-- A fact about a choice of states is one about each of the two. -/
theorem imagesKept_ite {a : Store} {b : Prop} [Decidable b] {s t : State} (hs : b → imagesKept a s.store) (ht : ¬b → imagesKept a t.store) :
    imagesKept a (if b then s else t).store := by
  split
  · next h => exact hs h
  · next h => exact ht h

/-- An answer whose state, if it has one, holds the images of `a`. -/
def keepsImages (a : Store) : Ans → Prop
  | .next t => imagesKept a t.store
  | _ => True

/-! ## Commands of the host -/

section
variable (s : State)
@[simp] theorem hostWritePwr_store (f : Dev → Dev) : (hostWritePwr f s).store = s.store := by
  unfold hostWritePwr
  split <;> rfl
@[simp] theorem hostWriteByte_store (a : BitVec 17) (b : Byte) : (hostWriteByte a b s).store = s.store := by
  unfold hostWriteByte
  split <;> rfl
@[simp] theorem cardDo_store (f : Dev → Dev) : (cardDo f s).store = s.store := by
  unfold cardDo
  split <;> rfl
/-- Firmware that works on a command of the mailbox writes no image: what a long command writes, its end does. -/
@[simp] theorem mbxCommand_store (tag opc : Byte) (args : List (Nat × W32)) (f : Store → Dev → Dev) :
    (mbxCommand tag opc args (onDev f) s).store = s.store := by
  have hargs := hostWrite_store (fun d => d.modMbx (fun m => m.putArgs args)) s
  simp only [mbxCommand]
  split
  · exact hargs
  · split
    · exact hargs
    · split <;> exact hargs
@[simp] theorem mbxUnknown_store (tag opc : Byte) : (mbxUnknown tag opc s).store = s.store := by
  unfold mbxUnknown
  split
  · rfl
  · exact mbxCommand_store s tag opc [] _
end

/-! ## Castings -/

section
variable (n : NetId) (s : State)
@[simp] theorem stepEnd_store (fault : Option CoreId) : (stepEnd n fault s).store = s.store := by
  dsimp only [stepEnd]
  split
  · split
    · split <;> rfl
    · split <;> rfl
  · rfl
@[simp] theorem sectionRead_store (entry : Nat) : (sectionRead n entry s).store = s.store := by
  dsimp only [sectionRead]
  split
  · split
    · rfl
    · split
      · rfl
      · split
        · rfl
        · split <;> rfl
  · rfl
@[simp] theorem drainEnd_store : (drainEnd n s).store = s.store := by
  dsimp only [drainEnd]
  split
  · rfl
  · rfl
  · rfl
  · rfl
  · split <;> rfl
@[simp] theorem drainComplete_store : (drainComplete n s).store = s.store := by
  unfold drainComplete
  split
  · exact drainEnd_store n s
  · rfl
@[simp] theorem forcedFlush_store : (forcedFlush n s).store = s.store := by
  unfold forcedFlush
  split
  · rfl
  · exact drainEnd_store n _
/-- The release of a network's last partition records the slot of its casting, and no image. -/
theorem imagesKept_networkRelease (p : PartId) : imagesKept s.store (networkRelease p s).store := by
  dsimp only [networkRelease]
  split
  · split
    · exact imagesKept_refl _
    · split
      · exact ⟨rfl, rfl, rfl, rfl, rfl, rfl, rfl⟩
      · exact imagesKept_refl _
  · exact imagesKept_refl _
end

/-! ## Firmware: the fence log, the watchdog and bring-up -/

section
variable (s : State)
theorem imagesKept_fenceCommit : imagesKept s.store (fenceCommit s).store := by
  unfold fenceCommit
  split
  · exact imagesKept_refl _
  · exact imagesKept_ite (fun _ => imagesKept_refl _) (fun _ => ⟨rfl, rfl, rfl, rfl, rfl, rfl, rfl⟩)
/-- The watchdog may change the bank that runs, and no bank (R301). -/
theorem imagesKept_wdExpire (sig : W32) : imagesKept s.store (wdExpire sig s).store := by
  unfold wdExpire
  refine imagesKept_ite (fun _ => imagesKept_refl _) (fun _ => ?_)
  dsimp only
  split
  · exact ⟨rfl, rfl, rfl, rfl, rfl, rfl, rfl⟩
  · exact imagesKept_refl _
theorem imagesKept_watchdogKick (sig : W32) (ms : Nat) : imagesKept s.store (watchdogKick sig ms s).store :=
  imagesKept_ite (fun _ => imagesKept_refl _) (fun _ => imagesKept_wdExpire s sig)
@[simp] theorem firmwareRestart_store : (firmwareRestart s).store = s.store := by
  dsimp only [firmwareRestart]
  split <;> rfl
@[simp] theorem hostSilent_store : (hostSilent s).store = s.store := by
  dsimp only [hostSilent]
  split <;> rfl
@[simp] theorem armatureTested_store (i : Fin 2) : (armatureTested i s).store = s.store := by
  dsimp only [armatureTested]
  split <;> rfl
/-- Stage 2 chooses the bank that runs and starts the health record anew where it must: the images stay (R292, R300, R301). -/
theorem imagesKept_stage2Pass (r : StageReport) (b : Bool) : imagesKept s.store (stage2Pass r b s).store := by
  simp only [stage2Pass, commitLog]
  split <;> exact ⟨rfl, rfl, rfl, rfl, rfl, rfl, rfl⟩
theorem imagesKept_stage2 (r : StageReport) : imagesKept s.store (stage2 r s).store := by
  unfold stage2
  refine imagesKept_ite (fun _ => imagesKept_refl _) (fun _ => ?_)
  split
  · exact imagesKept_refl _
  · exact imagesKept_ite (fun _ => imagesKept_stage2Pass s r _) (fun _ => ⟨rfl, rfl, rfl, rfl, rfl, rfl, rfl⟩)
theorem imagesKept_fenceBad (cause : BitVec 3) (cs : List CoreId) : imagesKept s.store (fenceBad cause cs s).2.store :=
  ⟨rfl, rfl, rfl, rfl, rfl, rfl, rfl⟩
theorem imagesKept_stage5 (r : StageReport) : imagesKept s.store (stage5 r s).store := by
  simp only [stage5]
  split
  · exact imagesKept_refl _
  · exact imagesKept_fenceBad s 0#3 r.coresFailed
theorem imagesKept_stage6 (r : StageReport) : imagesKept s.store (stage6 r s).store :=
  imagesKept_fenceBad { s with dev := (s.dev.free 3).2 } (s.dev.free 3).1 r.coresFailed
theorem imagesKept_bringupStage (r : StageReport) : imagesKept s.store (bringupStage r s).store := by
  unfold bringupStage
  refine imagesKept_ite (fun _ => imagesKept_refl _) (fun _ => ?_)
  split
  · exact imagesKept_refl _
  · exact imagesKept_stage2 s r
  · exact imagesKept_refl _
  · exact imagesKept_refl _
  · exact imagesKept_ite (fun _ => imagesKept_refl _) (fun _ => imagesKept_stage5 s r)
  · exact imagesKept_stage6 s r
  · exact imagesKept_refl _
  · exact imagesKept_refl _
  · exact imagesKept_refl _
  · exact imagesKept_refl _
end

/-! ## Every command -/

/-- What ends a long command of the mailbox writes an image or none, and never the factory region (R292). -/
theorem Store.finish_factory (st : Store) (j : Job) : (st.finish j).factory = st.factory := by
  cases j with
  | none => rfl
  | castingSet slot img => rfl
  | enrol img => rfl
  | floor w => rfl
  | firmware img =>
    dsimp only [Store.finish]
    split <;> rfl
  | defaults img =>
    dsimp only [Store.finish]
    split <;> rfl
theorem longEnd_factory (tag : Byte) (result : W16) (s : State) : (longEnd tag result s).store.factory = s.store.factory := by
  dsimp only [longEnd]
  split
  · rfl
  · split
    · rfl
    · exact (apply_ite Store.factory _ _ _).trans ((congrArg (fun x => ite _ x _) (s.store.finish_factory _)).trans (ite_self _))

/-- Beside the end of a long command no command writes an image: a host's write, a command of the mailbox and the card's answers
change no store, and firmware's own writes are of the health record and of the bank that runs. -/
theorem exec_keepsImages (i : Instr) (h : ∀ tag r, i ≠ .longCommandEnd tag r) (s : State) : keepsImages s.store (exec i s) := by
  have hkept {t : State} (h : t.store = s.store) : imagesKept s.store t.store := h ▸ imagesKept_refl _
  cases i with
  | longCommandEnd tag r => exact absurd rfl (h tag r)
  -- firmware's writes of the store
  | fenceLogCommit => exact imagesKept_fenceCommit s
  | watchdogKick sig ms => exact imagesKept_watchdogKick s sig ms
  | watchdogExpire sig => exact imagesKept_wdExpire s sig
  | bringupStageEnd r => exact imagesKept_bringupStage s r
  | networkRelease p => exact imagesKept_networkRelease s p
  -- commands that read the store
  | castingStepEnd n fault => exact hkept (stepEnd_store n s fault)
  | sectionReadDone n entry => exact hkept (sectionRead_store n s entry)
  | drainComplete n => exact hkept (drainComplete_store n s)
  | forcedFlush n => exact hkept (forcedFlush_store n s)
  | firmwareRestart => exact hkept (firmwareRestart_store s)
  | hostSilent => exact hkept (hostSilent_store s)
  | dieArmatureTestDone die => exact hkept (armatureTested_store s die)
  -- the host's writes, by the block that takes them
  | xcfgWrite | dlkDropAndResume | dlkContinue | wselWrite | wcfgWrite | s2Write | driftThWrite | rteDecideCommit | rteDecideDiscard
  | passOpen | passClose | passAbort | rteFreeWrite | rteRetireWrite | rteCtrlWrite | rtePredWrite | adpDecideCommit | adpDecideDiscard
  | adpCtrlWrite | adpBatchWrite | dmaResume | dmaAbort | dmaResetRing | dmaRbaseWrite | dmaRcfgWrite | dmaTailWrite | dmaSuspend
  | dmaUnsuspend | regionDescriptorWrite | ptpLatch | chnidWrite | ctxCfgWrite | ctxBindWrite | faultDegradeResume | faultKeepStopped
  | pMcmdApply | pMcmdReject | pModeWrite | streamRepeat | pPwrRetention | pPwrOff | pPwrOn => exact hkept (hostWrite_store _ s)
  | rstArmWrite | resetCore | resetCluster | resetPartition | resetComputeDie | resetPackageWarm | packageStandby | deepStandby
  | deepStandbyRetained | wake => exact hkept (hostWritePwr_store s _)
  | registerWrite | rtePosinSubmit => exact hkept (hostWriteByte_store s _ _)
  | cmd3 | cmd5 | cmd7 | cmd11 | cmd15 | cmd19 | cmd52 | cmd53 | sdioIllegalCommand => exact hkept (cardDo_store s _)
  -- the mailbox
  | installFirmware | installCastingSet | installUserDefaults | enrol | floor | attest | readlog | cast | recast | stop | resume | uncast
  | close | repairContinue | repairAbort | retest | boack => exact hkept (mbxCommand_store s _ _ _ _)
  | mbxUnknownOpcode tag opc => exact hkept (mbxUnknown_store s tag opc)
  -- chunks, which are refused or change the device
  | partitionConfigChunk p idx ws ok | programCacheChunk cl idx ws ok | coreImageChunk c idx ws ok =>
    dsimp only [exec, execPartitionConfigChunk, execProgramCacheChunk, execCoreImageChunk]
    split
    · trivial
    · exact imagesKept_refl _
  -- every other command changes the device alone
  | _ => exact imagesKept_refl _
/-- No command writes the factory region (R292). -/
theorem exec_factory {i : Instr} {s t : State} (h : exec i s = .next t) : t.store.factory = s.store.factory := by
  by_cases hend : ∃ tag r, i = .longCommandEnd tag r
  · obtain ⟨tag, r, rfl⟩ := hend
    obtain rfl : longEnd tag r s = t := Host.Outcome.next.inj h
    exact longEnd_factory tag r s
  · have hkept := exec_keepsImages i (fun tag r hi => hend ⟨tag, r, hi⟩) s
    rw [h] at hkept
    exact hkept.1

/-- Settles O58: a step is the front command, which writes no image unless it ends a long command, or a tick of the clock. -/
theorem imageStoreKept : Obligations.ImageStoreKept := by
  unfold Obligations.ImageStoreKept
  have htick (s : State) : (tick s).store = s.store := rfl
  refine ⟨fun s t h => ?_, fun s t h hfront => ?_⟩
  · unfold step at h
    split at h
    · obtain rfl := Host.Outcome.next.inj h
      exact congrArg Store.factory (htick s)
    · next c rest hp => exact exec_factory (i := c) (s := { s with pending := rest }) h
  · unfold step at h
    split at h
    · obtain rfl := Host.Outcome.next.inj h
      exact imagesKept_refl s.store
    · next c rest hp =>
      have hkept := exec_keepsImages c (fun tag r hc => hfront tag r (by rw [hp, hc]; rfl)) { s with pending := rest }
      rw [h] at hkept
      exact hkept

/-! ## A command answers a next state (R309, R310) -/

/-- A chunk is refused where it is none, and else taken. -/
theorem chunk_answers {good bad : Bool} (h : bad = !good) (t : State) :
    (good = true → ∃ u, (if bad then .refused .illFormed else .next t : Ans) = .next u) ∧
      (good = false → (if bad then .refused .illFormed else .next t : Ans) = .refused .illFormed) := by
  cases good <;> simp [h]
/-- The check of the words and of the index of a chunk is the opposite of what the command tests. -/
theorem chunkWf_not (ws : Words) (i m : Nat) : (ws.length != 32 || decide (m ≤ i)) = !(chunkWf ws && decide (i < m)) := by
  have hindex : decide (m ≤ i) = !decide (i < m) := decide_not.symm.trans (decide_eq_decide.2 Nat.not_lt) |>.symm
  rw [hindex, Bool.not_and]
  rfl

/-- Settles O57: a chunk of 32 words whose index its section has is taken, any other is refused; every other command answers. -/
theorem wellFormedCommandsAnswer : Obligations.WellFormedCommandsAnswer := by
  unfold Obligations.WellFormedCommandsAnswer
  intro i s
  cases i with
  | partitionConfigChunk p idx ws ok => exact chunk_answers (chunkWf_not ws idx.toNat 750) _
  | programCacheChunk cl idx ws ok => exact chunk_answers rfl _
  | coreImageChunk c idx ws ok => exact chunk_answers (chunkWf_not ws idx.toNat 81) _
  | _ => exact ⟨fun _ => ⟨_, rfl⟩, fun h => nomatch h⟩

end Sys2Proof.Machine
end

section
/-! SUPPORT. The long commands of the image store: how INSTALL, ENROL and FLOOR are taken, and what their end writes (R292, R296 to
R301, R306, R468). -/
namespace Sys2Proof.Machine

open Sys2Proof

/-! ## A long command is taken (R468) -/

/-- No long command in flight has a job of a kind. -/
theorem Dev.jobBusy_eq_false {d : Dev} {f : Job → Bool} (h : ∀ l ∈ d.mbx.longs, f l.job = false) : d.jobBusy f = false := by
  simpa [Dev.jobBusy] using h

section
variable (d : Dev) (tag opc : Byte) (args : List (Nat × W32)) (slot : BitVec 3)
@[simp] theorem Dev.longs_commandTaken : (d.commandTaken tag opc args).mbx.longs = d.mbx.longs := by
  dsimp only [Dev.commandTaken, Dev.modMbx, Mbx.taken, Mbx.putArgs, Dev.hostWrote_mbx]
theorem Dev.jobBusy_commandTaken (f : Job → Bool) : (d.commandTaken tag opc args).jobBusy f = d.jobBusy f := by simp [Dev.jobBusy]
theorem Dev.slotBusy_commandTaken : (d.commandTaken tag opc args).slotBusy slot = d.slotBusy slot := by simp [Dev.slotBusy]
theorem Dev.slotCast_commandTaken : (d.commandTaken tag opc args).slotCast slot = d.slotCast slot := by simp [Dev.slotCast]
end

/-- A long command that nothing stands against is answered and taken into flight with the result of its check; the mailbox alone
changes. -/
theorem takes_long {s : State} {tag opc : Byte} {args : List (Nat × W32)} {f : Store → Dev → Dev} {check r : W16} {j : Job}
    (hfree : mboxFree s) (hroom : s.dev.mbx.longs.length < 4) (hcheck : check = 0#16)
    (hf : f s.store (s.dev.commandTaken tag opc args) = longStart tag opc check j (fun d => (r, d)) (s.dev.commandTaken tag opc args)) :
    ∃ t, (.next (mbxCommand tag opc args (onDev f) s) : Ans) = .next t ∧ tookLong s t tag opc r j := by
  have hn : ¬ 4 ≤ (s.dev.commandTaken tag opc args).mbx.longs.length := by simpa using hroom
  refine ⟨_, rfl, ?_⟩
  rw [mbxCommand_onDev hfree, hf, hcheck]
  simp only [longStart, if_neg hn]
  refine ⟨⟨rfl, rfl, rfl⟩, rfl, ?_⟩
  by_cases hr : r = 0#16
  · subst hr; rfl
  · have hbeq : (r == 0#16) = false := beq_false_of_ne hr
    rw [if_neg hr, hbeq]
    rfl

/-! ## A long command ends -/

/-- The final result of a long command: that of its checks, else that of the write of the image store. -/
def LongCmd.final (l : LongCmd) (result : W16) : W16 :=
  if l.result != 0#16 then l.result else if l.job != .none && result == 9#16 then 9#16 else 0#16

theorem LongCmd.final_ne {l : LongCmd} {result : W16} (h : l.result ≠ 0#16 ∨ (l.job ≠ .none ∧ result = 9#16)) : l.final result ≠ 0#16 := by
  unfold LongCmd.final
  split
  · next hr => simpa using hr
  · next hr =>
    obtain h | ⟨hj, rfl⟩ := h
    · simp [h] at hr
    · simp [hj]
theorem LongCmd.final_eq {l : LongCmd} {result : W16} (h : l.result = 0#16) (hr : result ≠ 9#16) : l.final result = 0#16 := by
  simp [LongCmd.final, h, hr]

/-- The end of a long command takes it out of flight and raises events; the image store is written when nothing has failed. -/
theorem longEnd_eq {s : State} {tag : Byte} (result : W16) {l : LongCmd} (hfw : s.dev.fwAnswers = true)
    (hl : s.dev.mbx.longs.find? (fun x => x.tag == tag) = some l) (hruns : s.dev.longRuns l = false) :
    ∃ e : Evt, longEnd tag result s =
      { s with dev := { s.dev with evt := e, mbx := { s.dev.mbx with longs := s.dev.mbx.longs.erase l } },
               store := if l.final result = 0#16 then s.store.finish l.job else s.store } := by
  simp only [longEnd, hl, hfw, hruns, ← LongCmd.final.eq_1, beq_iff_eq, Bool.not_true, Bool.or_false, Bool.false_eq_true, if_false]
  split
  · exact ⟨_, rfl⟩
  · exact ⟨_, rfl⟩

/-! ## The commands -/

/-- Settles O15: each command is taken with the result of its check, and the end of a long command writes its job when neither the
check nor the write has failed. -/
theorem installsAreChecked : Obligations.InstallsAreChecked := by
  unfold Obligations.InstallsAreChecked
  refine ⟨fun s tag img hfree hroom hjobs => ?_, fun s tag slot img hfree hroom hslot hbusy hcast => ?_,
    fun s tag img hfree hroom hjobs => ?_, fun s tag img hfree hroom hjobs => ?_, fun s tag which hfree hroom => ?_,
    fun s tag result l hfw hl hruns => ?_⟩
  · refine takes_long hfree hroom ?_ rfl
    rw [Dev.jobBusy_commandTaken]
    refine if_neg (Bool.eq_false_iff.1 (Dev.jobBusy_eq_false fun l hl => ?_))
    cases hj : l.job with
    | firmware x => exact absurd hj (hjobs l hl x)
    | _ => rfl
  · refine takes_long hfree hroom ?_ rfl
    rw [Dev.slotBusy_commandTaken, Dev.slotCast_commandTaken]
    exact (if_neg (Nat.not_le.2 hslot)).trans ((if_neg (Bool.eq_false_iff.1 hbusy)).trans (if_neg (Bool.eq_false_iff.1 hcast)))
  · refine takes_long hfree hroom ?_ rfl
    rw [Dev.jobBusy_commandTaken]
    refine if_neg (Bool.eq_false_iff.1 (Dev.jobBusy_eq_false fun l hl => ?_))
    cases hj : l.job with
    | defaults x => exact absurd hj (hjobs l hl x)
    | _ => rfl
  · refine takes_long hfree hroom ?_ rfl
    rw [Dev.jobBusy_commandTaken]
    refine if_neg (Bool.eq_false_iff.1 (Dev.jobBusy_eq_false fun l hl => ?_))
    cases hj : l.job with
    | enrol x => exact absurd hj (hjobs l hl x)
    | _ => rfl
  · exact takes_long hfree hroom rfl rfl
  · obtain ⟨e, he⟩ := longEnd_eq result hfw hl hruns
    refine ⟨longEnd tag result s, rfl, ?_⟩
    rw [he]
    have hwritten (h0 : l.result = 0#16) (h9 : result ≠ 9#16) :
        (if l.final result = 0#16 then s.store.finish l.job else s.store) = s.store.finish l.job := if_pos (LongCmd.final_eq h0 h9)
    refine ⟨rfl, ?_, ⟨rfl, rfl, rfl⟩, fun h => if_neg (LongCmd.final_ne h), hwritten, fun img hj h0 h9 hrun => ?_,
      fun img hj h0 h9 hrun => ?_⟩
    · rw [← longEnd_factory tag result s, he]
    · simp [LongCmd.final_eq h0 h9, hj, Store.finish, hrun]
    · simp [LongCmd.final_eq h0 h9, hj, Store.finish, hrun]

end Sys2Proof.Machine
end

section
/-! SUPPORT. Reports that firmware writes into the PSRAM for the host (R328, R485), and the opcodes that it does not know (R468). -/
namespace Sys2Proof.Machine

open Sys2Proof

/-! ## Storage of a range of one view (R390, Table 11-2) -/

theorem spanEnd_le (die1 : Bool) : spanEnd die1 ≤ 0x300000000 := by cases die1 <;> decide
theorem dieViewEnd_le (die1 : Bool) : dieViewEnd die1 ≤ 0xB00000000 := by cases die1 <;> decide
theorem chanViewEnd_le (die1 : Bool) : chanViewEnd die1 ≤ 0xF00000000 := by cases die1 <;> decide

/-- Two addresses of the group view name two bytes of storage: die, group, stack and place give the address back. -/
theorem locate_inj_group {die1 : Bool} {a b : Nat} (ha : a < spanEnd die1) (hb : b < spanEnd die1) (h : locate die1 a = locate die1 b) :
    a = b := by
  have hs : dieSpan = 0x180000000 := rfl
  simp only [locate, hs, if_pos ha, if_pos hb] at h
  injection h with h
  injection h with hchan hoff
  have hgroup (x : Nat) : x % 6442450944 / 402653184 < 16 := by omega
  have hga := hgroup a
  have hgb := hgroup b
  have hg : a % 6442450944 / 402653184 = b % 6442450944 / 402653184 := by omega
  have hdie : a / 6442450944 = b / 6442450944 := by omega
  have hblock : a % 6442450944 % 402653184 / 512 = b % 6442450944 % 402653184 / 512 := by omega
  omega
/-- An address of the die view, located. -/
theorem locate_die {die1 : Bool} {a : Nat} (h1 : 0x800000000 ≤ a) (h2 : a < dieViewEnd die1) :
    locate die1 a = some (96 * (a % 0x800000000 / dieSpan) + 16 * (a % 0x800000000 % dieSpan / 512 % 6) +
      a % 0x800000000 % dieSpan / 512 / 6 % 16, a % 0x800000000 % dieSpan / 512 / 96 * 512 + a % 512) := by
  have hgroup : ¬ a < spanEnd die1 := by
    have := spanEnd_le die1
    omega
  simp only [locate, if_neg hgroup, h1, h2, decide_true, Bool.and_self, if_true]
theorem locate_inj_die {die1 : Bool} {a b : Nat} (ha : 0x800000000 ≤ a ∧ a < dieViewEnd die1)
    (hb : 0x800000000 ≤ b ∧ b < dieViewEnd die1) (h : locate die1 a = locate die1 b) : a = b := by
  have hs : dieSpan = 0x180000000 := rfl
  have he := dieViewEnd_le die1
  rw [locate_die ha.1 ha.2, locate_die hb.1 hb.2, hs] at h
  injection h with h
  injection h with hchan hoff
  omega
/-- An address of the channel view, located. -/
theorem locate_chan {die1 : Bool} {a : Nat} (h1 : 0xC00000000 ≤ a) (h2 : a < chanViewEnd die1) :
    locate die1 a = some (a % 0x400000000 / 0x4000000, a % 0x4000000) := by
  have hgroup : ¬ a < spanEnd die1 := by
    have := spanEnd_le die1
    omega
  have hdie : ¬ (decide (0x800000000 ≤ a) && decide (a < dieViewEnd die1)) = true := by
    have := dieViewEnd_le die1
    simp only [Bool.and_eq_true, decide_eq_true_eq]
    omega
  simp only [locate, if_neg hgroup, if_neg hdie, h1, h2, decide_true, Bool.and_self, if_true]
theorem locate_inj_chan {die1 : Bool} {a b : Nat} (ha : 0xC00000000 ≤ a ∧ a < chanViewEnd die1)
    (hb : 0xC00000000 ≤ b ∧ b < chanViewEnd die1) (h : locate die1 a = locate die1 b) : a = b := by
  have he := chanViewEnd_le die1
  rw [locate_chan ha.1 ha.2, locate_chan hb.1 hb.2] at h
  injection h with h
  injection h with hchan hoff
  omega

/-- A range of the views of the PSRAM lies in one of them. -/
theorem psramRange_view {d : Dev} {a n : Nat} (h : d.psramRange a n = true) :
    (a < spanEnd d.die1 ∧ a + n ≤ spanEnd d.die1) ∨ (0x800000000 ≤ a ∧ a + n ≤ dieViewEnd d.die1) ∨
      (0xC00000000 ≤ a ∧ a + n ≤ chanViewEnd d.die1) := by
  simp only [Dev.psramRange, rangeOk, viewEnd, Bool.and_eq_true, Bool.not_eq_true'] at h
  obtain ⟨hview, hindex⟩ := h
  split at hview
  · next e he =>
    have hend := of_decide_eq_true hview
    split at he
    · next ha => injection he with he; exact .inl ⟨ha, he ▸ hend⟩
    · rw [hindex, if_neg Bool.false_ne_true] at he
      split at he
      · next ha =>
        rw [decide_eq_true_eq, decide_eq_true_eq] at ha
        injection he with he
        exact .inr (.inl ⟨ha.1, he ▸ hend⟩)
      · split at he
        · next ha =>
          rw [decide_eq_true_eq, decide_eq_true_eq] at ha
          injection he with he
          exact .inr (.inr ⟨ha.1, he ▸ hend⟩)
        · cases he
  · cases hview
/-- Every address of such a range names storage. -/
theorem locate_of_psramRange {d : Dev} {a n i : Nat} (h : d.psramRange a n = true) (hi : i < n) : locate d.die1 (a + i) ≠ none := by
  obtain ⟨-, he⟩ | ⟨hs, he⟩ | ⟨hs, he⟩ := psramRange_view h
  · have hg : a + i < spanEnd d.die1 := by omega
    simp only [locate, if_pos hg]
    exact Option.some_ne_none _
  · rw [locate_die (by omega) (by omega)]
    exact Option.some_ne_none _
  · rw [locate_chan (by omega) (by omega)]
    exact Option.some_ne_none _
/-- No two addresses of such a range name one byte. -/
theorem locate_ne_of_psramRange {d : Dev} {a n i j : Nat} (h : d.psramRange a n = true) (hij : i < j) (hj : j < n) :
    locate d.die1 (a + i) ≠ locate d.die1 (a + j) := by
  intro heq
  obtain ⟨-, he⟩ | ⟨hs, he⟩ | ⟨hs, he⟩ := psramRange_view h
  · have := locate_inj_group (by omega) (by omega) heq
    omega
  · have := locate_inj_die ⟨by omega, by omega⟩ ⟨by omega, by omega⟩ heq
    omega
  · have := locate_inj_chan ⟨by omega, by omega⟩ ⟨by omega, by omega⟩ heq
    omega

/-! ## Bytes written into such a range -/

section
variable {d : Dev} {a : Nat} {l : List Byte} (h : d.psramRange a l.length = true)
include h
theorem Dev.memWrite_psramRange : d.memWrite a l = d.writeBytes a l := by
  simp only [Dev.psramRange, Bool.and_eq_true, Bool.not_eq_true'] at h
  rw [Dev.memWrite, h.2]
  rfl
theorem Dev.readBytes_memWrite : (d.memWrite a l).readBytes a l.length = l := by
  rw [Dev.memWrite_psramRange h]
  exact d.readBytes_writeBytes_same a l (fun i hi => locate_of_psramRange h hi) (fun i j hij hj => locate_ne_of_psramRange h hij hj)
theorem Dev.readByte_memWrite_other {x : Nat} (hx : ∀ i, i < l.length → locate d.die1 x ≠ locate d.die1 (a + i)) :
    (d.memWrite a l).readByte x = d.readByte x := by
  rw [Dev.memWrite_psramRange h]
  exact d.readByte_writeBytes_other a x l hx
end

theorem Dev.readBytes_getElem? (d : Dev) (a n i : Nat) (hi : i < n) : (d.readBytes a n)[i]? = some (d.readByte (a + i)) := by
  induction n generalizing a i with
  | zero => exact absurd hi (Nat.not_lt_zero i)
  | succ n ih =>
    cases i with
    | zero => rfl
    | succ i =>
      rw [Dev.readBytes, List.getElem?_cons_succ, ih (a + 1) i (Nat.lt_of_succ_lt_succ hi), Nat.add_right_comm, Nat.add_assoc]
/-- The first bytes of a read. -/
theorem Dev.readBytes_take (d : Dev) (a n m : Nat) (h : m ≤ n) : d.readBytes a m = (d.readBytes a n).take m := by
  induction m generalizing a n with
  | zero => rfl
  | succ m ih =>
    cases n with
    | zero => exact absurd h (Nat.not_succ_le_zero m)
    | succ n => rw [Dev.readBytes, Dev.readBytes, List.take_succ_cons, ih (a + 1) n (Nat.le_of_succ_le_succ h)]

/-! ## The reports -/

@[simp] theorem bytes32_length (w : W32) : (bytes32 w).length = 4 := by simp [bytes32]
@[simp] theorem bytes64_length (w : W64) : (bytes64 w).length = 8 := by simp [bytes64]
@[simp] theorem bytes128_length (w : BitVec 128) : (bytes128 w).length = 16 := by simp [bytes128]
@[simp] theorem bytes512_length (w : BitVec 512) : (bytes512 w).length = 64 := by simp [bytes512]
@[simp] theorem BootRec.bytes_length (r : BootRec) : r.bytes.length = 32 := by simp [BootRec.bytes]
@[simp] theorem Dev.freeBytes_length (d : Dev) (n : Nat) : (d.freeBytes n).1.length = n := by simp [Dev.freeBytes]
/-- The report without its signature (Table 8-14). -/
theorem reportBytes_length (st : Store) (d : Dev) (nonce : BitVec 256) : (reportBytes st d nonce).length = 512 := by
  dsimp only [reportBytes]
  simp only [List.length_append, bytes32_length, bytes64_length, bytes128_length, bytes512_length, List.length_map, List.length_range,
    List.length_replicate]
theorem bootlog_length (l : List BootRec) : (l.flatMap BootRec.bytes).length = 32 * l.length := by
  simp [List.length_flatMap, Nat.mul_comm]
/-- A report begins with its version and its length, and then gives the nonce back. -/
theorem reportBytes_head (st : Store) (d : Dev) (nonce : BitVec 256) : ∃ l, reportBytes st d nonce =
    bytes32 1#32 ++ (bytes32 5139#32 ++ ((List.range 32).map (fun i => nonce.extractLsb' (8 * i) 8) ++ l)) := by
  dsimp only [reportBytes]
  simp only [List.append_assoc]
  exact ⟨_, rfl⟩
/-- The bytes of a report that Table 8-14 gives a place before the digests. -/
theorem reportBytes_take (st : Store) (d : Dev) (nonce : BitVec 256) (sig : List Byte) :
    (reportBytes st d nonce ++ sig).take 8 = [1#8, 0#8, 0#8, 0#8, 0x13#8, 0x14#8, 0#8, 0#8] := by
  have hhead : bytes32 1#32 ++ bytes32 5139#32 = [1#8, 0#8, 0#8, 0#8, 0x13#8, 0x14#8, 0#8, 0#8] := by decide
  obtain ⟨l, hl⟩ := reportBytes_head st d nonce
  rw [hl, List.append_assoc, List.append_assoc, ← List.append_assoc (bytes32 1#32), hhead]
  rfl
theorem reportBytes_nonce (st : Store) (d : Dev) (nonce : BitVec 256) (sig : List Byte) {i : Nat} (hi : i < 32) :
    (reportBytes st d nonce ++ sig)[8 + i]? = some (nonce.extractLsb' (8 * i) 8) := by
  obtain ⟨l, hl⟩ := reportBytes_head st d nonce
  rw [hl, List.append_assoc, List.append_assoc, ← List.append_assoc (bytes32 1#32), List.getElem?_append_right (by simp), List.append_assoc,
    List.getElem?_append_left (by simpa using hi)]
  simp [hi]

/-! ## ATTEST and READLOG -/

@[simp] theorem Dev.readByte_shortEnd (res : W16) (ws : List W32) (d : Dev) (a : Nat) : (shortEnd res ws d).readByte a = d.readByte a := rfl
theorem Dev.readBytes_shortEnd (res : W16) (ws : List W32) (d : Dev) (a n : Nat) :
    (shortEnd res ws d).readBytes a n = d.readBytes a n := by
  induction n generalizing a with
  | zero => rfl
  | succ n ih => rw [Dev.readBytes, Dev.readBytes, ih, Dev.readByte_shortEnd]

/-- Firmware's answer once it has written a report: the bytes written, and nothing else but the mailbox, the count of free values and
the host's presence. -/
theorem report_written (s : State) (w : W32) {d : Dev} {a : Nat} {l : List Byte} (hr : d.psramRange a l.length = true)
    (hdie : d.die1 = s.dev.die1) (hpsram : d.psram = s.dev.psram) (hcores : d.cores = s.dev.cores) (hqueues : d.queues = s.dev.queues) :
    ∃ t, (.next { s with dev := shortEnd 0#16 [w] (d.memWrite a l) } : Ans) = .next t ∧ mbxAnswered t 0#16 ∧
      tblGet 0#32 t.dev.mbx.res 0 = w ∧ t.dev.readBytes a l.length = l ∧
      (∀ x, (∀ i, i < l.length → locate s.dev.die1 x ≠ locate s.dev.die1 (a + i)) → t.byteAt x = s.byteAt x) ∧
      t.store = s.store ∧ t.dev.cores = s.dev.cores ∧ t.dev.queues = s.dev.queues := by
  have hframe := d.memWrite_frame a l
  refine ⟨_, rfl, shortEnd_answered s 0#16 [w] _, ?_, ?_, fun x hx => ?_, rfl, ?_, ?_⟩
  · exact tblGet_set_same 0#32 w _ 0
  · rw [Dev.readBytes_shortEnd, Dev.readBytes_memWrite hr]
  · show (shortEnd 0#16 [w] (d.memWrite a l)).readByte x = _
    rw [Dev.readByte_shortEnd, Dev.readByte_memWrite_other hr (by rwa [hdie])]
    simp only [State.byteAt, Dev.readByte, hdie, hpsram]
  · rw [Dev.cores_shortEnd, hframe, ← hcores]
  · rw [Dev.queues_shortEnd, hframe, ← hqueues]

section
variable (d : Dev) (tag opc : Byte) (args : List (Nat × W32))
@[simp] theorem Dev.die1_commandTaken : (d.commandTaken tag opc args).die1 = d.die1 := by simp [Dev.commandTaken]
@[simp] theorem Dev.psramRange_commandTaken (a n : Nat) : (d.commandTaken tag opc args).psramRange a n = d.psramRange a n := by
  simp [Dev.psramRange]
end

/-- The arguments of ATTEST: the nonce, and the address of the report. -/
def attestArgs (nonce : BitVec 256) (dest : DevAddr) : List (Nat × W32) :=
  (List.range 8).map (fun i => (i, nonce.extractLsb' (32 * i) 32)) ++ [(8, dest.setWidth 32), (9, (dest >>> 32).setWidth 32)]
/-- The report with its signature. -/
def Dev.report5139 (d : Dev) (st : Store) (nonce : BitVec 256) : List Byte := reportBytes st d nonce ++ (d.freeBytes 4627).1
/-- The device once firmware has written the report. -/
def Dev.attested (d : Dev) (st : Store) (nonce : BitVec 256) (a : Nat) : Dev :=
  shortEnd 0#16 [5139#32] ((d.freeBytes 4627).2.memWrite a (d.report5139 st nonce))

theorem Dev.report5139_length (d : Dev) (st : Store) (nonce : BitVec 256) : (d.report5139 st nonce).length = 5139 := by
  rw [Dev.report5139, List.length_append, reportBytes_length, Dev.freeBytes_length]

section
variable {s : State} (hfree : mboxFree s) (tag : Byte) {dest : DevAddr}
include hfree
theorem exec_attest (nonce : BitVec 256) (hpuf : s.store.factory.pufOk = true) (hr : s.dev.psramRange dest.toNat 5139 = true) :
    ∃ t, exec (.attest tag nonce dest) s = .next t ∧ mbxAnswered t 0#16 ∧ tblGet 0#32 t.dev.mbx.res 0 = 5139#32 ∧
      t.dev.readBytes dest.toNat 8 = [1#8, 0#8, 0#8, 0#8, 0x13#8, 0x14#8, 0#8, 0#8] ∧
      (∀ i, i < 32 → t.byteAt (dest.toNat + 8 + i) = nonce.extractLsb' (8 * i) 8) ∧
      (∀ a, (∀ i, i < 5139 → locate s.dev.die1 a ≠ locate s.dev.die1 (dest.toNat + i)) → t.byteAt a = s.byteAt a) ∧
      t.store = s.store ∧ t.dev.cores = s.dev.cores ∧ t.dev.queues = s.dev.queues := by
  have hrun : exec (.attest tag nonce dest) s =
      .next { s with dev := (s.dev.commandTaken tag 0x04#8 (attestArgs nonce dest)).attested s.store nonce dest.toNat } := by
    rw [show exec (.attest tag nonce dest) s = .next (attest tag nonce dest s) from rfl, attest, mbxCommand_onDev hfree]
    simp only [hpuf, Dev.psramRange_commandTaken, hr]
    rfl
  have hdie := s.dev.die1_commandTaken tag 0x04#8 (attestArgs nonce dest)
  have hpsram := s.dev.psram_commandTaken tag 0x04#8 (attestArgs nonce dest)
  have hc := s.dev.cores_commandTaken tag 0x04#8 (attestArgs nonce dest)
  have hq := s.dev.queues_commandTaken tag 0x04#8 (attestArgs nonce dest)
  rw [← s.dev.psramRange_commandTaken tag 0x04#8 (attestArgs nonce dest)] at hr
  generalize s.dev.commandTaken tag 0x04#8 (attestArgs nonce dest) = d at hrun hr hdie hpsram hc hq
  have hlen := d.report5139_length s.store nonce
  have hrange : (d.freeBytes 4627).2.psramRange dest.toNat (d.report5139 s.store nonce).length = true := by
    rw [hlen]
    exact hr
  obtain ⟨t, ht, hans, hres, hbytes, hother, hstore, hcores, hqueues⟩ := report_written s 5139#32 hrange hdie hpsram hc hq
  rw [hlen] at hbytes hother
  refine ⟨t, hrun.trans ht, hans, hres, ?_, fun i hi => ?_, hother, hstore, hcores, hqueues⟩
  · rw [t.dev.readBytes_take dest.toNat 5139 8 (by omega), hbytes, Dev.report5139, reportBytes_take]
  · have hbyte := t.dev.readBytes_getElem? dest.toNat 5139 (8 + i) (by omega)
    rw [hbytes, Dev.report5139, reportBytes_nonce _ _ _ _ hi] at hbyte
    rw [Nat.add_assoc]
    exact (Option.some.inj hbyte).symm

/-- The device once firmware has written the boot records. -/
def Dev.logRead (d : Dev) (a : Nat) (l : List Byte) : Dev := shortEnd 0#16 [BitVec.ofNat 32 l.length] (d.memWrite a l)

theorem exec_readlog {n : Nat} (hn : n = 32 * s.dev.health.bootlog.flatten.length) (hr : s.dev.psramRange dest.toNat n = true) :
    ∃ t, exec (.readlog tag dest) s = .next t ∧ mbxAnswered t 0#16 ∧ tblGet 0#32 t.dev.mbx.res 0 = BitVec.ofNat 32 n ∧
      t.dev.readBytes dest.toNat n = s.dev.health.bootlog.flatten.flatMap BootRec.bytes ∧
      (∀ a, (∀ i, i < n → locate s.dev.die1 a ≠ locate s.dev.die1 (dest.toNat + i)) → t.byteAt a = s.byteAt a) ∧
      t.store = s.store ∧ t.dev.cores = s.dev.cores ∧ t.dev.queues = s.dev.queues := by
  obtain rfl : (s.dev.health.bootlog.flatten.flatMap BootRec.bytes).length = n := by rw [bootlog_length, hn]
  have hrun : exec (.readlog tag dest) s = .next { s with
      dev := (s.dev.commandTaken tag 0x05#8 [(8, dest.setWidth 32), (9, (dest >>> 32).setWidth 32)]).logRead dest.toNat
        (s.dev.health.bootlog.flatten.flatMap BootRec.bytes) } := by
    rw [show exec (.readlog tag dest) s = .next (readlog tag dest s) from rfl, readlog, mbxCommand_onDev hfree]
    simp only [Dev.psramRange_commandTaken, Dev.health_commandTaken, hr]
    rfl
  obtain ⟨t, ht, h⟩ := report_written s (BitVec.ofNat 32 _) ((s.dev.psramRange_commandTaken ..).trans hr)
    (s.dev.die1_commandTaken ..) (s.dev.psram_commandTaken ..) (s.dev.cores_commandTaken ..) (s.dev.queues_commandTaken ..)
  exact ⟨t, hrun.trans ht, h⟩
end

/-! ## Unknown opcodes (R468) -/

theorem exec_mbxUnknownOpcode {s : State} {opc : Byte} (hopc : opc ∉ mbxOpcodes) (tag : Byte) :
    exec (.mbxUnknownOpcode tag opc) s = .next (mbxCommand tag opc [] (onDev (fun _ d => shortEnd 1#16 [] d)) s) := by
  have h : mbxOpcodes.contains opc = false := by simpa using hopc
  rw [show exec (.mbxUnknownOpcode tag opc) s = .next (mbxUnknown tag opc s) from rfl, mbxUnknown, h]
  rfl
/-- A command sent while another is in hand is ignored and counted. -/
theorem mbxCommand_busy {s : State} (hruns : hostRuns s) {tag opc : Byte} (hbusy : s.dev.mbx.busy = true) (htag : s.dev.mbx.tag ≠ tag)
    (f : State → State) : mbxCommand tag opc [] f s = { s with dev := s.dev.hostWrote.modMbx (fun m => { m with rej := satInc m.rej }) } := by
  obtain ⟨hbus, hf1⟩ := hruns
  have hcard : (s.dev.hostWrote.modMbx (fun m => m.putArgs [])).f1 = true := hf1
  have hother : ((s.dev.hostWrote.modMbx (fun m => m.putArgs [])).mbx.tag != tag) = true := bne_iff_ne.2 htag
  simp only [mbxCommand, hostWrite_runs ⟨hbus, hf1⟩, hbus, hcard, hother]
  rw [show (s.dev.hostWrote.modMbx (fun m => m.putArgs [])).mbx.busy = true from hbusy]
  rfl

/-- Settles O16: a report is written into a range of one view, whose addresses name distinct bytes; a refused command is answered or
counted. -/
theorem reportsAndUnknownOpcodes : Obligations.ReportsAndUnknownOpcodes := by
  unfold Obligations.ReportsAndUnknownOpcodes
  refine ⟨fun s tag nonce dest hfree hpuf hr => exec_attest hfree tag nonce hpuf hr,
    fun s tag dest n hfree hn hr => exec_readlog hfree tag hn hr, fun s tag opc hfree hopc => ?_,
    fun s tag opc hruns hopc hbusy htag => ?_⟩
  · refine ⟨_, exec_mbxUnknownOpcode hopc tag, ?_⟩
    rw [mbxCommand_onDev hfree]
    exact ⟨shortEnd_answered s 1#16 [] _, shortEnd_onlyMailbox s tag opc [] 1#16 []⟩
  · refine ⟨_, exec_mbxUnknownOpcode hopc tag, ?_⟩
    rw [mbxCommand_busy hruns hbusy htag]
    exact ⟨rfl, hbusy, rfl⟩

end Sys2Proof.Machine
end

section
/-! SUPPORT. Chunks of a casting (R309 to R312): what the sender may send, and where the words of a core image go. -/
namespace Sys2Proof.Machine

open Sys2Proof

/-! ## A chunk that the casting sends (R312, R318) -/

@[simp] theorem Dev.casting_modCasting (d : Dev) (n : NetId) (f : Casting → Casting) :
    ((d.modCasting n f).net n).casting = (d.net n).casting.map f := by
  rw [Dev.modCasting, Dev.net_modNet_same]
section
variable (d : Dev) (src : Endpoint) (seq : BitVec 20)
theorem Dev.ackChunk_frame : d.ackChunk src seq = { d with packets := (d.ackChunk src seq).packets } := d.sendPacket_frame _
theorem Dev.part_ackChunk (p : PartId) : (d.ackChunk src seq).part p = d.part p := by rw [Dev.ackChunk_frame]; rfl
theorem Dev.cluster_ackChunk (cl : ClusterId) : (d.ackChunk src seq).cluster cl = d.cluster cl := by rw [Dev.ackChunk_frame]; rfl
theorem Dev.net_ackChunk (n : NetId) : (d.ackChunk src seq).net n = d.net n := by rw [Dev.ackChunk_frame]; rfl
/-- An acknowledgement leaves the cores, the queues and the PSRAM. -/
theorem Dev.ackChunk_keeps {s : State} (hc : d.cores = s.dev.cores) (hq : d.queues = s.dev.queues) (hp : d.psram = s.dev.psram) :
    coresQueuesKept s { s with dev := d.ackChunk src seq } := by
  rw [Dev.ackChunk_frame]
  exact ⟨hc, hq, hp⟩
end

/-- A casting that has sent a chunk for the first time. -/
def Casting.sent (k : Casting) (dst : Endpoint) (seq : BitVec 20) : Casting := { k with unacked := k.unacked ++ [((dst, seq), 0)] }
/-- A partition that holds a chunk of its configuration, and a cluster that holds one of its program cache. -/
def Partition.chunkStored (idx : Nat) (ws : Words) (x : Partition) : Partition := { x with cfgChunks := tblSet [] x.cfgChunks idx ws }
def Cluster.chunkStored (idx : Nat) (ws : Words) (x : Cluster) : Cluster := { x with cacheChunks := tblSet [] x.cacheChunks idx ws }

/-- A chunk that is not yet in flight, with room for it among the 64, is sent. -/
theorem Dev.sendChunk_some {d : Dev} {p : PartId} {k : Casting} {has : Casting → Bool} {dst : Endpoint} {seq : BitVec 20}
    (hk : (d.net (d.part p).net).casting = some k) (hstep : k.step = 3) (hcast : (d.part p).cast = .partly) (hhas : has k = true)
    (hroom : k.unacked.length < 64) (hnew : ∀ e ∈ k.unacked, e.1 ≠ (dst, seq)) :
    d.sendChunk p has dst seq = some (d.modCasting (d.part p).net (fun _ => k.sent dst seq)) := by
  have hany : k.unacked.any (fun e => e.1 == (dst, seq)) = false := by
    rw [List.any_eq_false]
    exact fun e he => by simpa using hnew e he
  have hsend : k.send dst seq = some (k.sent dst seq) := by
    rw [Casting.send, hany, if_neg Bool.false_ne_true, if_pos hroom]
    rfl
  simp only [Dev.sendChunk, hk, hstep, hcast, hhas, hsend]
  rfl

section
variable {s : State} {ws : Words} {k : Casting} (hlen : ws.length = 32)
include hlen
theorem exec_partitionConfigChunk (p : PartId) {idx : BitVec 10} (hidx : idx.toNat < 750) (ok : Bool) :
    exec (.partitionConfigChunk p idx ws ok) s = .next { s with dev := configChunk p idx ws ok s.dev } := by
  have h : ¬(ws.length != 32 || decide (750 ≤ idx.toNat)) = true := by simp [hlen, hidx]
  exact if_neg h
theorem exec_programCacheChunk (cl : ClusterId) (idx : BitVec 9) (ok : Bool) :
    exec (.programCacheChunk cl idx ws ok) s = .next { s with dev := cacheChunk cl idx ws ok s.store s.dev } := by
  have h : ¬(ws.length != 32) = true := by simp [hlen]
  exact if_neg h
theorem exec_coreImageChunk (c : CoreId) {idx : BitVec 7} (hidx : idx.toNat < 81) (ok : Bool) :
    exec (.coreImageChunk c idx ws ok) s = .next { s with dev := imageChunk c idx ws ok s.dev } := by
  have h : ¬(ws.length != 32 || decide (81 ≤ idx.toNat)) = true := by simp [hlen, hidx]
  exact if_neg h
end

section
variable {d : Dev} {k : Casting} (ws : Words) (hstep : k.step = 3) (hroom : k.unacked.length < 64)
include hstep hroom
/-- A chunk of a partition's configuration: stored and acknowledged with a good CRC, only counted with a bad one. -/
theorem configChunk_eq {p : PartId} {idx : BitVec 10} (hk : (d.net (d.part p).net).casting = some k) (hcast : (d.part p).cast = .partly)
    (hhas : k.has 2 (fun x => x.part == p) = true) (hnew : ∀ e ∈ k.unacked, e.1 ≠ (epPart p, idx.setWidth 20)) (ok : Bool) :
    configChunk p idx ws ok d =
      if ok then ((d.modCasting (d.part p).net (fun _ => k.sent (epPart p) (idx.setWidth 20))).modPart p
        (Partition.chunkStored idx.toNat ws)).ackChunk (epPart p) (idx.setWidth 20)
      else (d.modCasting (d.part p).net (fun _ => k.sent (epPart p) (idx.setWidth 20))).badChunk p := by
  have hsend := Dev.sendChunk_some (has := fun k => k.has 2 (fun x => x.part == p)) hk hstep hcast hhas hroom hnew
  simp only [configChunk, hsend]
  cases ok <;> rfl
/-- A chunk of a program cache, once the partition configurations have been written. -/
theorem cacheChunk_eq {cl : ClusterId} {idx : BitVec 9} (st : Store) (hk : (d.net (d.part (partOfCluster cl)).net).casting = some k)
    (hcast : (d.part (partOfCluster cl)).cast = .partly) (hhas : k.has 5 (fun x => x.stage == cl.setWidth 11) = true)
    (hdone : d.configsDone st (d.part (partOfCluster cl)).net k = true) (hnew : ∀ e ∈ k.unacked, e.1 ≠ (epCluster cl, idx.setWidth 20)) :
    cacheChunk cl idx ws true st d =
      ((d.modCasting (d.part (partOfCluster cl)).net (fun _ => k.sent (epCluster cl) (idx.setWidth 20))).modCluster cl
        (Cluster.chunkStored idx.toNat ws)).ackChunk (epCluster cl) (idx.setWidth 20) := by
  have hsend := Dev.sendChunk_some (has := fun k => k.has 5 (fun x => x.stage == cl.setWidth 11) && d.configsDone st
    (d.part (partOfCluster cl)).net k) hk hstep hcast (by rw [hhas, hdone]; rfl) hroom hnew
  simp only [cacheChunk, hsend]
  rfl
end

/-! ## Words put into a table -/

theorem tblPutAll_cons (t : Tbl W64) (base : Nat) (w : W64) (ws : List W64) :
    tblPutAll t base (w :: ws) = tblPutAll (tblSet 0#64 t base w) (base + 1) ws := rfl
/-- A key before or past the words keeps what it holds. -/
theorem tblGet_putAll_other (t : Tbl W64) (base : Nat) (ws : List W64) {a : Nat} (h : a < base ∨ base + ws.length ≤ a) :
    tblGet 0#64 (tblPutAll t base ws) a = tblGet 0#64 t a := by
  induction ws generalizing t base with
  | nil => rfl
  | cons w ws ih =>
    rw [List.length_cons] at h
    rw [tblPutAll_cons, ih _ _ (by omega), tblGet_set_other _ _ _ (by omega)]
theorem tblGet_putAll_at (t : Tbl W64) (base : Nat) {ws : List W64} {i : Nat} {w : W64} (h : ws[i]? = some w) :
    tblGet 0#64 (tblPutAll t base ws) (base + i) = w := by
  induction ws generalizing t base i with
  | nil => cases h
  | cons v ws ih =>
    rw [tblPutAll_cons]
    cases i with
    | zero =>
      rw [tblGet_putAll_other _ _ _ (.inl (by omega)), Nat.add_zero, tblGet_set_same]
      exact Option.some.inj h
    | succ i => rw [← Nat.add_assoc, Nat.add_right_comm]; exact ih _ _ h

/-! ## The words of descriptors (R311) -/

/-- A core writes its CIDX into the fourth word alone. -/
theorem patchCidx_getElem? (cidx : BitVec 10) (ws : List W64) {i : Nat} (h : i ≠ 3) : (patchCidx cidx ws)[i]? = ws[i]? := by
  dsimp only [patchCidx]
  split
  · exact List.getElem?_modify_ne _ _ (Ne.symm h)
  · rfl
theorem patchCidx_length (cidx : BitVec 10) (ws : List W64) : (patchCidx cidx ws).length = ws.length := by
  dsimp only [patchCidx]
  split
  · exact List.length_modify ..
  · rfl
/-- Of descriptors in a row the words but the fourth of each are as they came. -/
theorem patchDescs_getElem? (cidx : BitVec 10) {n : Nat} {ws : List W64} (hlen : ws.length = 4 * n) {i : Nat} (h : i % 4 ≠ 3) :
    (patchDescs cidx n ws)[i]? = ws[i]? := by
  induction n generalizing ws i with
  | zero => rfl
  | succ n ih =>
    have hfirst : (patchCidx cidx (ws.take 4)).length = 4 := by
      rw [patchCidx_length, List.length_take]
      omega
    rw [patchDescs]
    by_cases hi : i < 4
    · rw [List.getElem?_append_left (Nat.lt_of_lt_of_eq hi hfirst.symm), patchCidx_getElem? _ _ (by omega), List.getElem?_take_of_lt hi]
    · rw [List.getElem?_append_right (by omega), hfirst, ih (by rw [List.length_drop]; omega) (by omega), List.getElem?_drop]
      congr 1
      omega

/-! ## The places of a core image (Table 8-11) -/

section
variable (k : Core) {idx : Nat} (ws : List W64)
theorem Core.takeChunk_bitmap : (k.takeChunk idx ws).bitmap = k.bitmap ||| 1#81 <<< idx := by
  simp only [Core.takeChunk]
  split
  · rfl
  · split
    · rfl
    · split <;> rfl
/-- A chunk of the schedule memory. -/
theorem Core.takeChunk_sched (h : idx < 64) : k.takeChunk idx ws =
    { k with bitmap := k.bitmap ||| 1#81 <<< idx, sched := tblPutAll k.sched (32 * idx) ws } := by
  rw [Core.takeChunk, if_pos h]
/-- A chunk of the descriptors. -/
theorem Core.takeChunk_desc (h : 64 ≤ idx) (h' : idx < 72) : k.takeChunk idx ws =
    { k with bitmap := k.bitmap ||| 1#81 <<< idx, desc := tblPutAll k.desc (32 * (idx - 64)) (patchDescs k.cidx 8 ws) } := by
  rw [Core.takeChunk, if_neg (Nat.not_lt.2 h), if_pos h']
/-- The chunk of the finishing descriptors, which begins the activation table. -/
theorem Core.takeChunk_fin (h : idx = 72) : k.takeChunk idx ws =
    { k with bitmap := k.bitmap ||| 1#81 <<< idx, fin := tblPutAll k.fin 0 (ws.take 8), act := tblPutAll k.act 0 (ws.drop 8) } := by
  subst h
  rfl
/-- A chunk of the activation table, of which the last holds nine words. -/
theorem Core.takeChunk_act (h : 72 < idx) : k.takeChunk idx ws =
    { k with bitmap := k.bitmap ||| 1#81 <<< idx,
             act := tblPutAll k.act (32 * (idx - 72) - 8) (if idx = 80 then ws.take 9 else ws) } := by
  have h72 : (idx == 72) = false := beq_false_of_ne (by omega)
  simp only [Core.takeChunk, if_neg (Nat.not_lt.2 (Nat.le_of_lt (Nat.lt_trans (by decide : 64 < 72) h))), if_neg (Nat.not_lt.2 (Nat.le_of_lt h)),
    h72, beq_iff_eq]
  rfl
end

section
variable {d : Dev} {c : CoreId} {idx : BitVec 7} (hsent : d.imageSent c idx.toNat = true) (hcast : (d.part (partOfCore c)).cast = .partly)
  (hassigned : (d.core c).assigned = true) (hspare : (d.core c).spare = false ∨ idx.toNat < 8)
include hsent hcast hassigned hspare
/-- A chunk that the casting sends a core: taken with a good CRC, only counted with a bad one. -/
theorem imageChunk_eq (ws : Words) (ok : Bool) :
    imageChunk c idx ws ok d = if ok then d.modCore c (fun k => k.takeChunk idx.toNat ws) else d.badChunk (partOfCore c) := by
  have hmicro : ((d.core c).spare && decide (8 ≤ idx.toNat)) = false := by
    obtain h | h := hspare
    · rw [h]; rfl
    · rw [decide_eq_false (Nat.not_le.2 h), Bool.and_false]
  simp only [imageChunk, hsent, hcast, hassigned, hmicro]
  cases ok <;> rfl
end

/-- Settles O21: each word of a chunk by the place that its chunk's index gives it. -/
theorem chunksAreStored : Obligations.ChunksAreStored := by
  unfold Obligations.ChunksAreStored
  refine ⟨fun s p idx ws k hlen hidx hk hstep hcast hhas hroom hnew => ⟨⟨_, exec_partitionConfigChunk hlen p hidx true, ?_⟩,
      ⟨_, exec_partitionConfigChunk hlen p hidx false, ?_⟩⟩,
    fun s cl idx ws k hlen hk hstep hcast hhas hdone hroom hnew => ⟨_, exec_programCacheChunk hlen cl idx true, ?_⟩,
    fun s c idx ws hlen hidx hsent hcast hassigned hspare => ⟨_, exec_coreImageChunk hlen c hidx true, ?_⟩,
    fun s c idx ws hlen hidx hsent hcast hassigned hspare => ⟨_, exec_coreImageChunk hlen c hidx false, ?_⟩,
    fun s p cl c i10 i9 i7 ws ok => ⟨fun h => if_pos (by simpa using h), fun h => if_pos (by simpa using h), fun h => if_pos (by simpa using h)⟩⟩
  · rw [configChunk_eq ws hstep hroom hk hcast hhas hnew true, if_pos rfl]
    refine ⟨?_, ?_, Dev.ackChunk_keeps _ _ _ rfl rfl rfl⟩
    · rw [Dev.part_ackChunk, Dev.part_modPart_same]
      exact tblGet_set_same [] ws _ idx.toNat
    · rw [Dev.net_ackChunk, Dev.modPart_net_other, Dev.casting_modCasting, hk]
      rfl
  · rw [configChunk_eq ws hstep hroom hk hcast hhas hnew false]
    exact ⟨Dev.part_modPart_same _ p _, rfl, rfl, rfl⟩
  · rw [cacheChunk_eq ws hstep hroom s.store hk hcast hhas hdone hnew]
    refine ⟨?_, fun x hx => ?_, Dev.ackChunk_keeps _ _ _ rfl rfl rfl⟩
    · rw [Dev.cluster_ackChunk, Dev.cluster_modCluster_same]
      exact tblGet_set_same [] ws _ idx.toNat
    · rw [Dev.cluster_ackChunk, Dev.cluster_modCluster, if_neg (Ne.symm hx)]
      rfl
  · rw [imageChunk_eq hsent hcast hassigned hspare ws true, if_pos rfl]
    refine ⟨onlyCore_mod s c _, ?_⟩
    dsimp only
    rw [Dev.core_modCore_same]
    generalize s.dev.core c = k
    generalize idx.toNat = i
    refine ⟨k.takeChunk_bitmap ws, fun h => ?_, fun h => ?_, fun h h' => ?_, fun h => ?_, fun h => ?_⟩
    · rw [k.takeChunk_sched ws h]
      refine ⟨rfl, rfl, rfl, fun j w hw => tblGet_putAll_at _ _ hw, fun a ha => tblGet_putAll_other _ _ _ ?_⟩
      rwa [hlen]
    · by_cases h72 : i < 72
      · rw [k.takeChunk_desc ws h h72]
      · by_cases heq : i = 72
        · rw [k.takeChunk_fin ws heq]
        · rw [k.takeChunk_act ws (by omega)]
    · rw [k.takeChunk_desc ws h h']
      refine ⟨rfl, rfl, fun j w hw hj => tblGet_putAll_at _ _ ?_⟩
      rwa [patchDescs_getElem? _ (by omega) hj]
    · rw [k.takeChunk_fin ws h]
      refine ⟨rfl, fun j w hw hj => ?_, fun j w hw hj => ?_⟩
      · have hput := tblGet_putAll_at k.fin 0 ((List.getElem?_take_of_lt hj).trans hw)
        rwa [Nat.zero_add] at hput
      · have hdrop : (ws.drop 8)[j - 8]? = some w := by
          rw [List.getElem?_drop, Nat.add_sub_cancel' hj]
          exact hw
        have hput := tblGet_putAll_at k.act 0 hdrop
        rwa [Nat.zero_add] at hput
    · rw [k.takeChunk_act ws h]
      refine ⟨rfl, rfl, fun j w hw hj => tblGet_putAll_at _ _ ?_⟩
      split
      · next h80 => rw [List.getElem?_take_of_lt (hj h80)]; exact hw
      · exact hw
  · rw [imageChunk_eq hsent hcast hassigned hspare ws false]
    refine ⟨onlyPart_mod s (partOfCore c) _, ?_⟩
    exact congrArg Partition.pktCrc (Dev.part_modPart_same _ _ _)

end Sys2Proof.Machine
end


section
/-! SUPPORT. The spare for a core fenced after three repair rounds (R315): it comes from the cluster that the image gives the logical ID. -/
namespace Sys2Proof.Machine

open Sys2Proof

/-- Network 0, on partition 0; its one core, logical ID 0, belongs by the image to cluster 4, which is in partition 1. -/
def strayImg : NetImg :=
  { num := 0#5, parts := [0#5], interval := 4096, stages := [{ num := 0#11, cores := [{ logical := 0#11, cluster := 4#7 }] }] }
/-- Three repair rounds are over, and logical ID 0 is placed on core 0, of partition 0. -/
def strayCasting : Casting := { step := 7, slot := 0#3, round := 3, place := [(0#11, 0#11)] }
/-- Core 0 of partition 0 still expects chunks 0 and 1. -/
def strayState : State :=
  { dev := { nets := [(0, { img := some strayImg, casting := some strayCasting })], parts := [(0, { cast := .partly })],
             cores := [(0, { assigned := true, expect := 3#81 })] } }

/-- Core 0 alone is incomplete after the third round of `strayCasting`. -/
theorem incomplete_strayState :
    (strayState.dev.net 0#5).casting = some strayCasting ∧ strayState.dev.incompleteOf strayCasting [] = [0#11] := by
  decide +kernel
/-- The casting goes on with core 64, the first good core of cluster 4. -/
theorem casting_completion_strayState :
    (((completion 0#5 [] strayState.dev).net 0#5).casting.map (fun k => k.respared)) = some [64#11] := by
  decide +kernel
theorem respared_strayCasting : strayCasting.respared = [] := rfl
/-- Core 64 is of another partition than core 0. -/
theorem partOfCore_stray : partOfCore 64#11 ≠ partOfCore 0#11 := by decide

/-- Refutes O22: its sixth clause puts the spare for a fenced core in that core's partition, in every state. The loader takes it from the
cluster that the image gives the logical ID, and where the core placed is not of that cluster's partition, the spare is not either. -/
theorem not_acknowledgementsAndRepair : ¬ Obligations.AcknowledgementsAndRepair := by
  unfold Obligations.AcknowledgementsAndRepair
  rintro ⟨-, -, -, -, -, hthird, -, -⟩
  obtain ⟨hcasting, hinc⟩ := incomplete_strayState
  obtain ⟨t, hexec, -, -, -, -, -, hends⟩ :=
    hthird strayState 0#5 [] strayCasting 0#11 hcasting (by decide) (by decide) (by decide) hinc
  have ht : { strayState with dev := completion 0#5 [] strayState.dev } = t := Host.Outcome.next.inj hexec
  have hafter : ((t.dev.net 0#5).casting.map (fun k => k.respared)) = some [64#11] := by
    rw [← ht]; exact casting_completion_strayState
  obtain ⟨hnone, -⟩ | ⟨l, x, hsome, hpart⟩ := hends
  · simp [hnone] at hafter
  · have hx : x = 64#11 := by simpa [hsome, respared_strayCasting] using hafter
    exact partOfCore_stray (hx ▸ hpart)

end Sys2Proof.Machine
end

section
/-! SUPPORT. The section with a network's master weights (Table 8-7, kind 0x0A) in a partition without a region for them. -/
namespace Sys2Proof.Machine

open Sys2Proof

/-- An adaptation region with one master weight. -/
def oneWeight : AdaptImg :=
  { en := true, ncommit := 1#8, ntrial := 1#4, xmask := 0#8, batch := 1#16, replayM1 := 0#10, lr := 0#32, b1 := 0#32, b2 := 0#32,
    eps := 0#32, clip := 0#32, chains := [], stages := [], weights := [1#16] }
def weighedImg : NetImg := { num := 0#5, parts := [0#5], interval := 4096, adapt := some oneWeight }
/-- The section of kind 0x0A of network 0; its digest is right. -/
def weightSection : SectionImg := { kind := 10#16, net := 0#5, offset := 0, length := 8, digestOk := true }
def weighedSet : SetImg := { noSet with sections := [weightSection], nets := [weighedImg] }
/-- Network 0 casts from slot 0 and has come to step 8; its partition has no region that grants the master weights' address. -/
def weighedState : State :=
  { dev := { nets := [(0, { img := some weighedImg, casting := some { step := 8, slot := 0#3 } })], parts := [(0, { cast := .partly })] },
    store := { slots := [(0, some weighedSet)] } }

theorem weighedState_casts : (weighedState.dev.net 0#5).casting = some { step := 8, slot := 0#3 } ∧
    (weighedState.dev.net 0#5).img = some weighedImg ∧
    tblGet none weighedState.store.slots (0#3).toNat = some weighedSet := ⟨rfl, rfl, rfl⟩
/-- The section's step has come. -/
theorem sectionTime_weighedState : sectionTime weighedSet 0#5 { step := 8, slot := 0#3 } = true := by decide +kernel
/-- The write of the master weights meets a translation fault, which aborts the casting. -/
theorem casting_sectionRead_weighedState : ((sectionRead 0#5 0 weighedState).dev.net 0#5).casting = none := by decide +kernel

/-- Refutes O23: its first clause has the casting go on after every section of kind 8, 10 or above. The section of kind 10 writes the
master weights, and where no region grants their address the translation fault aborts the casting. -/
theorem not_sectionsAndSteps : ¬ Obligations.SectionsAndSteps := by
  unfold Obligations.SectionsAndSteps
  rintro ⟨hsection, -⟩
  obtain ⟨hcasting, himg, hset⟩ := weighedState_casts
  obtain ⟨t, hexec, -, hgoes, -⟩ :=
    hsection weighedState 0#5 0 _ _ _ weightSection hcasting himg hset rfl rfl (by decide)
  have ht : sectionRead 0#5 0 weighedState = t := Host.Outcome.next.inj hexec
  obtain ⟨hsome, -⟩ := hgoes rfl (.inr ⟨sectionTime_weighedState, .inr (by decide)⟩)
  rw [← ht, casting_sectionRead_weighedState] at hsome
  exact absurd hsome (by simp)

end Sys2Proof.Machine
end


section
/-! SUPPORT. The host's answers to a second fault, the degraded switch, the fence log and re-tests (R300, R511, R520, R521, R523). -/
namespace Sys2Proof.Machine

open Sys2Proof

/-! ## What a second fault's decision rests on -/

/-- The networks, the master map, the PSRAM, and of each partition the fault that waits and the count of degraded switches. -/
structure Decisions where
  nets : Tbl Network
  map : Tbl (Option CoreId)
  psram : Tbl Byte
  faultWait : PartId → Option (StageId × CoreId)
  degCnt : PartId → W16

def Dev.decisions (d : Dev) : Decisions :=
  ⟨d.nets, d.map, d.psram, fun p => (d.part p).faultWait, fun p => (d.part p).degCnt⟩

section
variable {d e : Dev} (h : e.decisions = d.decisions)
include h
theorem nets_of_decisions : e.nets = d.nets := congrArg Decisions.nets h
theorem net_of_decisions (n : NetId) : e.net n = d.net n := congrArg (fun t => tblGet ({} : Network) t n.toNat) (nets_of_decisions h)
theorem map_of_decisions : e.map = d.map := congrArg Decisions.map h
theorem psram_of_decisions : e.psram = d.psram := congrArg Decisions.psram h
theorem faultWait_of_decisions (p : PartId) : (e.part p).faultWait = (d.part p).faultWait :=
  congrArg (fun x : Decisions => x.faultWait p) h
theorem degCnt_of_decisions (p : PartId) : (e.part p).degCnt = (d.part p).degCnt := congrArg (fun x : Decisions => x.degCnt p) h
end

section
variable (d : Dev)
@[simp] theorem Dev.decisions_modQueue (q : QueueId) (f : Queue → Queue) : (d.modQueue q f).decisions = d.decisions := by rfl
@[simp] theorem Dev.decisions_modCore (c : CoreId) (f : Core → Core) : (d.modCore c f).decisions = d.decisions := by rfl
@[simp] theorem Dev.decisions_raise (code : W16) (p : PartId) (args : List W32) : (d.raise code p args).decisions = d.decisions := by rfl
theorem Dev.decisions_modPart (p : PartId) (f : Partition → Partition) (hwait : ∀ x, (f x).faultWait = x.faultWait)
    (hcnt : ∀ x, (f x).degCnt = x.degCnt) : (d.modPart p f).decisions = d.decisions := by
  have hw : (fun x => ((d.modPart p f).part x).faultWait) = fun x => (d.part x).faultWait := by
    funext x
    rw [Dev.part_modPart]
    split
    · next hx => rw [hwait, hx]
    · rfl
  have hc : (fun x => ((d.modPart p f).part x).degCnt) = fun x => (d.part x).degCnt := by
    funext x
    rw [Dev.part_modPart]
    split
    · next hx => rw [hcnt, hx]
    · rfl
  simp only [Dev.decisions, hw, hc]
  rfl
@[simp] theorem Dev.decisions_ite (b : Prop) [Decidable b] (d e : Dev) :
    (if b then d else e).decisions = if b then d.decisions else e.decisions := apply_ite Dev.decisions b d e
theorem Dev.decisions_foldl {α : Type} (f : Dev → α → Dev) (h : ∀ d a, (f d a).decisions = d.decisions) (l : List α) (d : Dev) :
    (l.foldl f d).decisions = d.decisions := foldl_keeps Dev.decisions f h l d
@[simp] theorem Dev.decisions_moved (q : QueueId) : (d.moved q).decisions = d.decisions := by
  have hmod := d.decisions_modPart (partOfQueue q) (fun p => { p with dlkCnt := 0#17 }) (fun _ => rfl) (fun _ => rfl)
  simp [Dev.moved, hmod]
@[simp] theorem Dev.decisions_putQueue (id : QueueId) (q : Queue) : (d.putQueue id q).decisions = d.decisions :=
  Dev.decisions_moved _ id
@[simp] theorem Dev.decisions_passRcvs (c : CoreId) (f : W32) : (d.passRcvs c f).decisions = d.decisions := by
  refine Dev.decisions_foldl _ (fun e o => ?_) _ d
  cases o <;> simp
@[simp] theorem Dev.decisions_endRcvs (c : CoreId) (f : W32) : (d.endRcvs c f).decisions = d.decisions := by
  refine Dev.decisions_foldl _ (fun e o => ?_) _ d
  cases o <;> simp
@[simp] theorem Dev.decisions_voidVacant (c : CoreId) : (d.voidVacant c).decisions = d.decisions := by
  refine Dev.decisions_foldl _ (fun e o => ?_) _ d
  cases o <;> simp
@[simp] theorem Dev.decisions_closeSlots (c : CoreId) : (d.closeSlots c).decisions = d.decisions := by
  have hreports (e : Dev) (r : List CalReport) : ({ e with reports := r } : Dev).decisions = e.decisions := rfl
  exact (hreports _ _).trans (d.decisions_modCore c _)
@[simp] theorem Dev.decisions_reslot (q : QueueId) (n rb : Nat) : (d.reslot q n rb).decisions = d.decisions := by rfl

/-! ## A network that resumes (R520) -/

@[simp] theorem Dev.decisions_censusBack (p : PartId) : (d.censusBack p).decisions = d.decisions := by
  have hmod := d.decisions_modPart p (fun x => { x with dlkCnt := 0#17 }) (fun _ => rfl) (fun _ => rfl)
  simp [Dev.censusBack, hmod]
@[simp] theorem Dev.decisions_takeOver (p : PartId) : (d.takeOver p).decisions = d.decisions := by
  refine Dev.decisions_foldl _ (fun e q => ?_) _ d
  split <;> rfl
@[simp] theorem Dev.decisions_resumeRefs (p : PartId) : (d.resumeRefs p).decisions = d.decisions := by rfl
@[simp] theorem Dev.decisions_reopen (p : PartId) : (d.reopen p).decisions = d.decisions := by
  have hopened := d.decisions_modPart p Partition.opened (fun _ => rfl) (fun _ => rfl)
  dsimp only [Dev.reopen]
  rw [Dev.decisions_resumeRefs, Dev.decisions_censusBack, Dev.decisions_ite, Dev.decisions_takeOver, ite_self]
  exact hopened

/-- The stopped partitions of a domain open again. -/
def Dev.domainOpened (d : Dev) (n : NetId) (p : PartId) : Dev :=
  (d.domain n p).foldl (fun d q => if (d.part q).cast == .stopped then d.reopen q else d) d
theorem Dev.decisions_domainOpened (n : NetId) (p : PartId) : (d.domainOpened n p).decisions = d.decisions := by
  refine Dev.decisions_foldl _ (fun e q => ?_) _ d
  simp
/-- Of a network outside its companions, admission opens at the next frame. -/
theorem Dev.net_resumeNet (n : NetId) (p : PartId) (h : d.companion n p = false) :
    (d.resumeNet n p).net n = { d.net n with stoppedBy := none, openAt := true } := by
  have hopened := net_of_decisions (d.decisions_domainOpened n p) n
  have hresume : d.resumeNet n p = (d.domainOpened n p).modNet n (fun x =>
    if d.companion n p then { x with aclosed := false } else { x with stoppedBy := none, openAt := true }) := rfl
  rw [hresume, Dev.net_modNet_same, hopened, h]
  rfl
/-- What it changes of its network is when admission opens, and of the master map and the waiting faults nothing. -/
theorem Dev.resumeNet_keeps (n : NetId) (p : PartId) : ((d.resumeNet n p).net n).switchAt = (d.net n).switchAt ∧
    (d.resumeNet n p).map = d.map ∧ ((d.resumeNet n p).part p).faultWait = (d.part p).faultWait := by
  have hopened := d.decisions_domainOpened n p
  have hresume : d.resumeNet n p = (d.domainOpened n p).modNet n (fun x =>
    if d.companion n p then { x with aclosed := false } else { x with stoppedBy := none, openAt := true }) := rfl
  rw [hresume, Dev.net_modNet_same, net_of_decisions hopened, Dev.modNet_map, map_of_decisions hopened]
  refine ⟨?_, rfl, faultWait_of_decisions hopened p⟩
  split <;> rfl

/-! ## The stage that is to switch (R521) -/

theorem Dev.nets_mapTo (l : LogicalId) (c : Option CoreId) : (d.mapTo l c).nets = d.nets := by
  have hmap (e : Dev) (t : Tbl (Option CoreId)) : (({ e with map := t } : Dev).bumpMap).nets = e.nets := rfl
  have hcopy (e : Dev) (p : PartId) (x : Option CoreId) : (e.copyMap l p x).nets = e.nets := nets_of_plinth (e.plinth_copyMap l p x)
  dsimp only [Dev.mapTo]
  rw [hmap]
  cases c <;> cases tblGet none d.map l.toNat <;> simp [hcopy]
theorem Dev.map_mapTo (l : LogicalId) (c : Option CoreId) : tblGet none (d.mapTo l c).map l.toNat = c := tblGet_set_same ..

/-- The vacant position of a degraded stage before its ID is taken out of the map. -/
def Dev.vacated (d : Dev) (c : CoreId) (f : W32) : Dev := (d.voidVacant c).passRcvs c f
theorem Dev.decisions_vacated (c : CoreId) (f : W32) : (d.vacated c f).decisions = d.decisions := by simp [Dev.vacated]
theorem Dev.degrade_eq (n : NetId) (st : StageId) (c : CoreId) : d.degrade n st c =
    ((d.vacated c (d.switchFrame n st c)).mapTo (d.core c).logical none).modNet n
      (fun x => { x with switchAt := x.switchAt ++ [(st, d.switchFrame n st c)] }) := rfl
theorem Dev.net_degrade (n : NetId) (st : StageId) (c : CoreId) : (d.degrade n st c).net n =
    { d.net n with switchAt := (d.net n).switchAt ++ [(st, d.switchFrame n st c)] } := by
  have hnet : ((d.vacated c (d.switchFrame n st c)).mapTo (d.core c).logical none).net n = d.net n := by
    rw [Dev.net, Dev.nets_mapTo, nets_of_decisions (d.decisions_vacated c _)]
    rfl
  rw [Dev.degrade_eq, Dev.net_modNet_same, hnet]
theorem Dev.map_degrade (n : NetId) (st : StageId) (c : CoreId) :
    tblGet none (d.degrade n st c).map (d.core c).logical.toNat = none := by
  rw [Dev.degrade_eq, Dev.modNet_map, Dev.map_mapTo]
theorem Dev.faultWait_degrade (n : NetId) (st : StageId) (c : CoreId) (p : PartId) :
    ((d.degrade n st c).part p).faultWait = (d.part p).faultWait := by
  have hparts : (d.degrade n st c).parts = (d.vacated c (d.switchFrame n st c)).parts := by
    rw [Dev.degrade_eq, Dev.modNet_parts, Dev.parts_mapTo]
  rw [Dev.part, hparts]
  exact faultWait_of_decisions (d.decisions_vacated c _) p

/-! ## The host's answers (R520) -/

/-- FAULT_DEGRADE_RESUME where the stage may degrade. -/
theorem Dev.degradeWaiting_effect (p : PartId) (st : StageId) (c : CoreId) :
    ((d.degradeWaiting p st c).part p).faultWait = none ∧
    (∃ f, ((d.degradeWaiting p st c).net (d.part p).net).switchAt = (d.net (d.part p).net).switchAt ++ [(st, f)]) ∧
    tblGet none (d.degradeWaiting p st c).map (d.core c).logical.toNat = none ∧
    (d.companion (d.part p).net p = false → ((d.degradeWaiting p st c).net (d.part p).net).openAt = true) := by
  obtain ⟨e, he⟩ : ∃ e, d.modPart p (fun x => { x with faultWait := none }) = e := ⟨_, rfl⟩
  obtain ⟨n, hn⟩ : ∃ n, (d.part p).net = n := ⟨_, rfl⟩
  have hnet : e.net n = d.net n := by rw [← he]; rfl
  have hlogical : (d.core c).logical = (e.core c).logical := by rw [← he]; rfl
  have hwait : (e.part p).faultWait = none := by rw [← he, Dev.part_modPart_same]
  have hresume : d.degradeWaiting p st c = (e.degrade n st c).resumeNet n p := by rw [← he, ← hn]; rfl
  obtain ⟨hswitch, hmap, hkept⟩ := (e.degrade n st c).resumeNet_keeps n p
  rw [hn, hresume]
  refine ⟨?_, ⟨e.switchFrame n st c, ?_⟩, ?_, fun hcomp => ?_⟩
  · rw [hkept, Dev.faultWait_degrade, hwait]
  · rw [hswitch, Dev.net_degrade, hnet]
  · rw [hmap, hlogical, Dev.map_degrade]
  · have hcompanion : (e.degrade n st c).companion n p = false := by
      rw [← hcomp, Dev.companion, Dev.companion, Dev.net_degrade, hnet]
    rw [Dev.net_resumeNet _ n p hcompanion]

theorem faultDegrade_degrades {p : PartId} {st : StageId} {c : CoreId} (hw : (d.part p).faultWait = some (st, c))
    (hd : d.canDegrade (d.part p).net st = true) : faultDegrade p d = d.degradeWaiting p st c := by
  simp [faultDegrade, hw, hd]
theorem faultDegrade_rejected {p : PartId}
    (h : ∀ st c, (d.part p).faultWait = some (st, c) → d.canDegrade (d.part p).net st = false) : faultDegrade p d = d.rstReject := by
  unfold faultDegrade
  split
  · next st c hw => rw [h st c hw]; rfl
  · rfl
theorem faultKeep_waiting {p : PartId} (h : (d.part p).faultWait ≠ none) :
    faultKeep p d = d.modPart p (fun x => { x with faultWait := none }) := by
  unfold faultKeep
  split
  · rfl
  · next hnone => exact absurd hnone h
theorem faultKeep_effect {p : PartId} (h : (d.part p).faultWait ≠ none) : (faultKeep p d).silicon = d.silicon ∧
    (faultKeep p d).part p = { d.part p with faultWait := none } ∧ (faultKeep p d).pwr = d.pwr := by
  rw [faultKeep_waiting d h, Dev.part_modPart_same]
  exact ⟨rfl, rfl, rfl⟩
theorem faultKeep_rejected {p : PartId} (h : (d.part p).faultWait = none) : faultKeep p d = d.rstReject := by
  simp [faultKeep, h]

/-! ## The switch (R521) -/

/-- The stage has switched in its network's record. -/
def Dev.switched (d : Dev) (n : NetId) (st : StageId) : Dev :=
  d.modNet n (fun x => { x with switchAt := x.switchAt.filter (fun e => e.1 != st), degraded := x.degraded ++ [st] })
/-- The switch of a stage with cores counts in the partition of its first; what else it does is to cores, queues, reports and events. -/
theorem degradedSwitch_decisions {n : NetId} {st : StageId} {f : W32} {im : StageImg} {c : CoreId} {cs : List CoreId}
    (hat : (d.net n).switchAt.find? (fun e => e.1 == st) = some (st, f)) (him : d.stageImg n st = some im)
    (hcs : d.byLogical (d.coresOfStage n st) = c :: cs) (hframe : ∀ x ∈ c :: cs, (d.core x).atFrame = true) :
    ∃ e : Dev, e.decisions = (d.switched n st).decisions ∧
      (degradedSwitch n st d).decisions = (e.modPart (partOfCore c) (fun x => { x with degCnt := satInc x.degCnt })).decisions := by
  have hall : (c :: cs).all (fun x => (d.core x).atFrame) = true := List.all_eq_true.2 hframe
  simp only [degradedSwitch, hat, him, hcs, hall, List.isEmpty_cons, Bool.not_true, Bool.or_self, Bool.false_eq_true, if_false]
  refine ⟨_, ?_, Dev.decisions_raise _ _ _ _⟩
  rw [Dev.decisions_foldl _ (fun e q => e.decisions_reslot q _ _), Dev.decisions_foldl _ (fun e x => e.decisions_endRcvs x f),
    Dev.decisions_foldl _ (fun e x => e.decisions_modCore _ _), Dev.decisions_foldl _ (fun e x => e.decisions_closeSlots x)]
  rfl
theorem degradedSwitch_effect {n : NetId} {st : StageId} {f : W32} {im : StageImg} {c : CoreId} {cs : List CoreId}
    (hat : (d.net n).switchAt.find? (fun e => e.1 == st) = some (st, f)) (him : d.stageImg n st = some im)
    (hcs : d.byLogical (d.coresOfStage n st) = c :: cs) (hframe : ∀ x ∈ c :: cs, (d.core x).atFrame = true) :
    ((degradedSwitch n st d).net n).degraded = (d.net n).degraded ++ [st] ∧
    ((degradedSwitch n st d).net n).switchAt = (d.net n).switchAt.filter (fun e => e.1 != st) ∧
    ((degradedSwitch n st d).part (partOfCore c)).degCnt = satInc (d.part (partOfCore c)).degCnt ∧
    (degradedSwitch n st d).psram = d.psram := by
  obtain ⟨e, he, hswitch⟩ := degradedSwitch_decisions d hat him hcs hframe
  have hnet : (degradedSwitch n st d).net n = (d.switched n st).net n := (net_of_decisions hswitch n).trans (net_of_decisions he n)
  rw [Dev.switched, Dev.net_modNet_same] at hnet
  refine ⟨?_, ?_, ?_, ?_⟩
  · rw [hnet]
  · rw [hnet]
  · rw [degCnt_of_decisions hswitch, Dev.part_modPart_same, degCnt_of_decisions he]
    rfl
  · rw [psram_of_decisions hswitch, Dev.modPart_psram, psram_of_decisions he]
    rfl

/-! ## The fence log (R300, R511) -/

theorem fenceCommit_oldest {s : State} {f : Fence} {l : List Fence} (hlog : s.dev.health.flog = f :: l)
    (hup : s.dev.health.fwDown = false) : fenceCommit s =
      { s with dev := s.dev.modHealth (fun h => { h with flog := l, fences := h.fences ++ [f] }),
               store := { s.store with hgen := s.store.hgen + 1#64 } } := by
  simp [fenceCommit, hlog, hup]

/-! ## Re-tests (R523) -/

theorem Dev.queues_freed (c : CoreId) : (d.freed c).queues = d.queues := by simp [Dev.freed, Dev.bumpMap]
theorem Dev.modHealth_modHealth (f g : Health → Health) : (d.modHealth f).modHealth g = d.modHealth (fun h => g (f h)) := rfl
theorem Dev.core_modHealth (c : CoreId) (f : Health → Health) : (d.modHealth f).core c = d.core c := rfl
theorem Dev.health_modHealth (f : Health → Health) : (d.modHealth f).health = f d.health := rfl
theorem Dev.health_freed (c : CoreId) : (d.freed c).health =
    { d.health with fences := d.health.fences.filter (fun f => f.phys != c), flog := d.health.flog.filter (fun f => f.phys != c),
                    passed := d.health.passed.filter (fun x => x != c), mapgen := d.health.mapgen + 1#32 } := by
  simp [Dev.freed, Dev.bumpMap, Dev.health_modHealth]
theorem Dev.core_freed_other {c y : CoreId} (hy : y ≠ c) : (d.freed c).core y = d.core y := by
  rw [Dev.freed, Dev.bumpMap, Dev.core_modHealth, Dev.core_modCore, if_neg (Ne.symm hy), Dev.core_modHealth]
theorem Dev.core_freed_same (c : CoreId) : ((d.freed c).core c).state = .uncast := by
  rw [Dev.freed, Dev.bumpMap, Dev.core_modHealth, Dev.core_modCore_same]
theorem mem_addPassed (c : CoreId) (l : List CoreId) : c ∈ if l.contains c then l else l ++ [c] := by
  split
  · next h => exact List.contains_iff_mem.1 h
  · exact List.mem_append_right _ List.mem_cons_self

/-- What the measurements at the end of RETEST change: segments' list and count, margins, and what is free. -/
def Measured (d e : Dev) : Prop :=
  e = { d with fresh := e.fresh, parts := e.parts,
               health := { d.health with badSegs := e.health.badSegs, rtSegs := e.health.rtSegs, retestAll := e.health.retestAll } }
theorem Measured.refl : Measured d d := rfl
theorem Measured.trans {a b c : Dev} (h1 : Measured a b) (h2 : Measured b c) : Measured a c := by
  unfold Measured at h1 h2
  rw [h1] at h2
  exact h2
theorem Measured.foldl {α : Type} (f : Dev → α → Dev) (h : ∀ d a, Measured d (f d a)) (l : List α) (d : Dev) :
    Measured d (l.foldl f d) :=
  foldl_preserves (Measured d) f (fun e a he => he.trans (h e a)) l d (.refl d)
theorem Measured.health {d e : Dev} (h : Measured d e) : e.health =
    { d.health with badSegs := e.health.badSegs, rtSegs := e.health.rtSegs, retestAll := e.health.retestAll } :=
  congrArg Dev.health h
theorem Measured.cores {d e : Dev} (h : Measured d e) : e.cores = d.cores := by
  unfold Measured at h
  rw [h]
theorem Measured.core {d e : Dev} (h : Measured d e) (c : CoreId) : e.core c = d.core c :=
  congrArg (fun t => tblGet ({} : Core) t c.toNat) h.cores
theorem Measured.queues {d e : Dev} (h : Measured d e) : e.queues = d.queues := by
  unfold Measured at h
  rw [h]
theorem Measured.psram {d e : Dev} (h : Measured d e) : e.psram = d.psram := by
  unfold Measured at h
  rw [h]
theorem measured_retestRest : Measured d d.retestRest := by
  dsimp only [Dev.retestRest]
  refine .trans (.foldl _ (fun e s => ?_) _ d) (.foldl _ (fun e p => ?_) _ _)
  · split <;> rfl
  · split
    · rfl
    · split <;> rfl

/-- A core has left the re-tests, with its result. -/
def Dev.retested (d : Dev) (c : CoreId) (passed : Bool) : Dev :=
  let d1 := d.modHealth (fun h => { h with retest := h.retest.erase c })
  if passed then
    let d2 := d1.modHealth (fun h => { h with rtPassed := satInc h.rtPassed })
    if (d.part (partOfCore c)).power == .on then d2.freed c
    else d2.modHealth (fun h => { h with passed := if h.passed.contains c then h.passed else h.passed ++ [c] })
  else d1.modHealth (fun h => { h with rtFailed := satInc h.rtFailed })
theorem Dev.retested_on {c : CoreId} (h : (d.part (partOfCore c)).power = .on) : d.retested c true =
    (d.modHealth (fun h => { h with retest := h.retest.erase c, rtPassed := satInc h.rtPassed })).freed c := by
  simp [Dev.retested, h, Dev.modHealth_modHealth]
theorem Dev.retested_off {c : CoreId} (h : (d.part (partOfCore c)).power ≠ .on) : d.retested c true =
    d.modHealth (fun h => { h with retest := h.retest.erase c, rtPassed := satInc h.rtPassed,
                                   passed := if h.passed.contains c then h.passed else h.passed ++ [c] }) := by
  simp only [Dev.retested, beq_iff_eq, h, if_true, if_false, Dev.modHealth_modHealth]
theorem measured_retestDone {c : CoreId} (h : c ∈ d.health.retest) (passed : Bool) :
    Measured (d.retested c passed) (retestDone c passed d) := by
  have hin : (!d.health.retest.contains c) = false := by simp [h]
  have hdone : retestDone c passed d = if (d.retested c passed).health.retest.isEmpty && (d.retested c passed).health.retestAll
      then ((d.retested c passed).modHealth (fun h => { h with retestAll := false })).retestRest else d.retested c passed := by
    unfold retestDone
    rw [hin]
    rfl
  rw [hdone]
  split
  · refine Measured.trans (b := (d.retested c passed).modHealth (fun h => { h with retestAll := false })) ?_ (measured_retestRest _)
    rfl
  · exact .refl _
end

/-- A core that passes its re-test (R523): what it leaves at once where its partition is on, and what waits for a casting elsewhere. -/
theorem Measured.passed {d e : Dev} {c : CoreId} (h : Measured (d.retested c true) e) :
    e.health.retest = d.health.retest.erase c ∧ e.health.rtPassed = satInc d.health.rtPassed ∧ e.queues = d.queues ∧
    (∀ y, y ≠ c → e.core y = d.core y) ∧
    ((d.part (partOfCore c)).power = .on →
      e.health.fences = d.health.fences.filter (fun f => f.phys != c) ∧ e.health.flog = d.health.flog.filter (fun f => f.phys != c) ∧
      e.health.mapgen = d.health.mapgen + 1#32 ∧ (e.core c).state = .uncast) ∧
    ((d.part (partOfCore c)).power ≠ .on → e.health.fences = d.health.fences ∧ c ∈ e.health.passed ∧
      e.health.mapgen = d.health.mapgen ∧ e.cores = d.cores) := by
  by_cases hon : (d.part (partOfCore c)).power = .on
  · rw [Dev.retested_on d hon] at h
    rw [h.health, h.queues, h.core c, Dev.queues_freed, Dev.modHealth_queues, Dev.health_freed, Dev.health_modHealth]
    refine ⟨rfl, rfl, rfl, fun y hy => ?_, fun _ => ⟨rfl, rfl, rfl, Dev.core_freed_same _ c⟩, fun hoff => absurd hon hoff⟩
    rw [h.core, Dev.core_freed_other _ hy, Dev.core_modHealth]
  · rw [Dev.retested_off d hon] at h
    rw [h.health, h.queues, h.cores, Dev.modHealth_queues, Dev.modHealth_cores, Dev.health_modHealth]
    exact ⟨rfl, rfl, rfl, fun y _ => h.core y, fun h => absurd h hon, fun _ => ⟨rfl, mem_addPassed c _, rfl, rfl⟩⟩
theorem Measured.failed {d e : Dev} {c : CoreId} (h : Measured (d.retested c false) e) :
    e.health.retest = d.health.retest.erase c ∧ e.health.fences = d.health.fences ∧ e.health.rtFailed = satInc d.health.rtFailed ∧
    e.cores = d.cores ∧ e.queues = d.queues ∧ e.psram = d.psram := by
  rw [h.health]
  exact ⟨rfl, rfl, rfl, h.cores, h.queues, h.psram⟩

/-- Settles O36: what the host answers and what a switch does is read off the networks, the map and the partitions' counts, which the
words that move in queues leave; the end of a re-test leaves all but measurements. -/
theorem degradedAndRetested : Obligations.DegradedAndRetested := by
  unfold Obligations.DegradedAndRetested
  refine ⟨fun s p st c hruns hdie hw hd => ?_, fun s p hruns hdie hno => ?_, fun s p hruns hdie => ?_,
    fun s n st f im c cs hat him hcs hframe => ?_, fun s f l hlog hfw => ?_, fun s c hc => ⟨?_, ?_⟩⟩
  · obtain ⟨hwait, ⟨f, hswitch⟩, hmap, hopen⟩ := s.dev.hostWrote.degradeWaiting_effect p st c
    refine ⟨_, f, congrArg Host.Outcome.next (hostWritePart_runs hruns hdie (faultDegrade p)), ?_⟩
    dsimp only
    rw [faultDegrade_degrades s.dev.hostWrote hw hd]
    exact ⟨hwait, hswitch, hmap, hopen⟩
  · refine ⟨_, congrArg Host.Outcome.next (hostWritePart_runs hruns hdie (faultDegrade p)), ?_⟩
    dsimp only
    rw [faultDegrade_rejected s.dev.hostWrote hno, Dev.rstReject_hostWrote]
    exact ⟨rfl, rfl, rfl, rfl, rfl⟩
  · refine ⟨_, congrArg Host.Outcome.next (hostWritePart_runs hruns hdie (faultKeep p)), ?_⟩
    dsimp only
    by_cases hw : (s.dev.part p).faultWait = none
    · rw [faultKeep_rejected s.dev.hostWrote hw, Dev.rstReject_hostWrote]
      exact ⟨⟨rfl, rfl, rfl⟩, fun h => absurd hw h, fun _ => ⟨rfl, rfl⟩⟩
    · obtain ⟨hkept, hpart, hpwr⟩ := faultKeep_effect s.dev.hostWrote hw
      exact ⟨coresQueuesKept_of_silicon hkept, fun _ => ⟨hpart, hpwr⟩, fun h => absurd h hw⟩
  · exact ⟨_, rfl, degradedSwitch_effect s.dev hat him hcs hframe⟩
  · exact ⟨_, congrArg Host.Outcome.next (fenceCommit_oldest hlog hfw), rfl, rfl⟩
  · exact ⟨_, rfl, (measured_retestDone s.dev hc true).passed⟩
  · exact ⟨_, rfl, (measured_retestDone s.dev hc false).failed⟩

end Sys2Proof.Machine
end

section
/-! SUPPORT. Route memory: which operations of the RTE block leave the cores, the queues and the memory, and what cancelled tiles and
lists that are computed again leave of the block itself (R348, R355, R359). -/
namespace Sys2Proof.Machine

open Sys2Proof

/-! ## Cores, queues and memory -/

section
variable (d : Dev)
@[simp] theorem Dev.silicon_modRoute (f : Route → Route) : (d.modRoute f).silicon = d.silicon := by rfl
@[simp] theorem Dev.silicon_modIng (f : Ingest → Ingest) : (d.modIng f).silicon = d.silicon := by rfl
@[simp] theorem Dev.silicon_free (n : Nat) : (d.free n).2.silicon = d.silicon := by rfl
@[simp] theorem Dev.silicon_cancelBursts (f : BurstReq → Bool) : (d.cancelBursts f).silicon = d.silicon := by rfl
@[simp] theorem Dev.silicon_foldl {α : Type} (f : Dev → α → Dev) (h : ∀ d a, (f d a).silicon = d.silicon) (l : List α) (d : Dev) :
    (l.foldl f d).silicon = d.silicon := foldl_keeps Dev.silicon f h l d
@[simp] theorem Dev.silicon_sendPacket (p : Packet) : (d.sendPacket p).silicon = d.silicon := by
  have hinject (e : Dev) (q : Packet) : (e.inject q).silicon = e.silicon := by
    unfold Dev.inject
    split <;> rfl
  dsimp only [Dev.sendPacket]
  rw [hinject]
  split <;> rfl
@[simp] theorem Dev.silicon_modRef (g : BitVec 2) (f : RefGroup → RefGroup) : (d.modRef g f).silicon = d.silicon := by rfl
@[simp] theorem Dev.silicon_setEntry (b : W32) (e : BitVec 128) : (d.setEntry b e).silicon = d.silicon := by rfl
@[simp] theorem Dev.silicon_cancelTiles (g : BitVec 2) (x : RefGroup) : (d.cancelTiles g x).silicon = d.silicon := by
  simp [Dev.cancelTiles]
@[simp] theorem Dev.silicon_cancelAll : d.cancelAll.silicon = d.silicon := by simp [Dev.cancelAll]
@[simp] theorem Dev.silicon_discardCand (c : Cand) : (d.discardCand c).silicon = d.silicon := by rfl
@[simp] theorem Dev.silicon_dropCands : d.dropCands.silicon = d.silicon := by simp [Dev.dropCands]
@[simp] theorem Dev.silicon_commitCand (c : Cand) : (d.commitCand c).silicon = d.silicon := by
  dsimp only [Dev.commitCand]
  split <;> rfl
@[simp] theorem Dev.silicon_ageBin (b : W32) : (d.ageBin b).silicon = d.silicon := by
  dsimp only [Dev.ageBin]
  split <;> rfl
@[simp] theorem Dev.silicon_binDue (b : W32) : (d.binDue b).silicon = d.silicon := by
  dsimp only [Dev.binDue]
  split
  · split <;> simp
  · split
    · split <;> simp
    · split <;> simp
end

/-! ## The RTE block apart from the lists -/

/-- The RTE block apart from the groups' lists and tiles, where the last list began, and what counts the cancelled tiles and the
uncertain records. -/
def Route.apart (r : Route) : Route :=
  { r with groups := [], xbin := 0#32, cancel := 0#32, uncover := 0#32, uncEvt := false }

/-- What does not read the lists is the same where the block apart from them is. -/
theorem Route.of_apart {β : Type} {r r' : Route} (f : Route → β) (h : r.apart = r'.apart) (hf : ∀ x : Route, f x.apart = f x := by intro x; rfl) :
    f r = f r' := by
  rw [← hf r, h, hf]

def Dev.rteApart (d : Dev) : Route := d.route.apart

section
variable (d : Dev)
theorem rteApart_of_plinth {d e : Dev} (h : e.plinth = d.plinth) : e.rteApart = d.rteApart := congrArg Route.apart (route_of_plinth h)
theorem Dev.rteApart_modRoute (f : Route → Route) (h : ∀ r, (f r).apart = r.apart) : (d.modRoute f).rteApart = d.rteApart :=
  h d.route
@[simp] theorem Dev.rteApart_modRef (g : BitVec 2) (f : RefGroup → RefGroup) : (d.modRef g f).rteApart = d.rteApart :=
  d.rteApart_modRoute _ (fun _ => rfl)
@[simp] theorem Dev.rteApart_foldl {α : Type} (f : Dev → α → Dev) (h : ∀ d a, (f d a).rteApart = d.rteApart) (l : List α) (d : Dev) :
    (l.foldl f d).rteApart = d.rteApart := foldl_keeps Dev.rteApart f h l d
@[simp] theorem Dev.rteApart_cancelTiles (g : BitVec 2) (x : RefGroup) : (d.cancelTiles g x).rteApart = d.rteApart := by
  have hbursts (f : BurstReq → Bool) : (d.cancelBursts f).rteApart = d.rteApart := rfl
  dsimp only [Dev.cancelTiles]
  refine (Dev.rteApart_modRoute _ _ (fun _ => ?_)).trans ?_
  · rfl
  · rw [Dev.rteApart_modRef, hbursts]
@[simp] theorem Dev.rteApart_cancelAll : d.cancelAll.rteApart = d.rteApart := by simp [Dev.cancelAll]
end

/-! ## Candidates that are discarded -/

theorem Dev.route_dropCands (d : Dev) : d.dropCands.route = { d.route with cands := [], candIn := [], past := [] } :=
  foldl_keeps (fun e : Dev => e.route) _ (fun e _ => route_of_plinth (e.plinth_raise0 _ _)) _ _

end Sys2Proof.Machine
end

section
/-! SUPPORT. Passes, the bins that fall due at their close, and the registers of the RTE block (R351, R355, R357 to R360). -/
namespace Sys2Proof.Machine

open Sys2Proof

/-! ## Bins that fall due -/

section
variable (d : Dev) (c : Cand) (b : W32)
theorem Dev.route_discardCand : (d.discardCand c).route = d.route := route_of_plinth (d.plinth_raise0 _ _)
theorem Dev.route_commitCand : ∃ i, (d.commitCand c).route = { d.route with index := i } := by
  dsimp only [Dev.commitCand]
  rw [route_of_plinth (Dev.plinth_raise0 _ _ _)]
  split <;> exact ⟨_, rfl⟩
theorem Dev.route_ageBin : ∃ i, (d.ageBin b).route = { d.route with index := i } := by
  dsimp only [Dev.ageBin]
  split <;> exact ⟨_, rfl⟩

/-- A bin that falls due leaves the bins of the pass and the open candidates; beside them at most the index, the pending list and
CAND_DROP change. -/
theorem Dev.route_binDue : ∃ i p n, (d.binDue b).route = { d.route with
    past := d.route.past.filter (fun x => x != b), cands := d.route.cands.filter (fun c => c.bin != b),
    index := i, pend := p, candDrop := n } := by
  dsimp only [Dev.binDue]
  split
  · split
    · obtain ⟨i, hi⟩ := Dev.route_ageBin _ b
      rw [hi]
      exact ⟨i, _, _, rfl⟩
    · exact ⟨_, _, _, rfl⟩
  · next c _ =>
    split
    · split
      · obtain ⟨i, hi⟩ := Dev.route_ageBin _ b
        rw [hi]
        exact ⟨i, _, _, rfl⟩
      · obtain ⟨i, hi⟩ := Dev.route_ageBin _ b
        rw [hi]
        exact ⟨i, _, _, rfl⟩
    · split
      · obtain ⟨i, hi⟩ := Dev.route_commitCand _ c
        rw [hi]
        exact ⟨i, _, _, rfl⟩
      · obtain ⟨i, hi⟩ := Dev.route_ageBin _ b
        rw [hi]
        exact ⟨i, _, _, rfl⟩
end

/-- When some bins have fallen due, none of them is left among the bins of the pass or the open candidates. -/
theorem Dev.route_foldl_binDue (bs : List W32) (d : Dev) : ∃ i p n, (bs.foldl (fun d b => d.binDue b) d).route = { d.route with
    past := d.route.past.filter (fun x => !bs.contains x), cands := d.route.cands.filter (fun c => !bs.contains c.bin),
    index := i, pend := p, candDrop := n } := by
  induction bs generalizing d with
  | nil => exact ⟨d.route.index, d.route.pend, d.route.candDrop, by simp⟩
  | cons b bs ih =>
    obtain ⟨i, p, n, hrest⟩ := ih (d.binDue b)
    obtain ⟨_, _, _, hdue⟩ := d.route_binDue b
    refine ⟨i, p, n, ?_⟩
    rw [List.foldl_cons, hrest, hdue]
    simp only [List.filter_filter, List.contains_cons, Bool.not_or, bne]
    simp only [Bool.and_comm]

/-! ## Passes (R351, R355, R359) -/

section
variable {d : Dev}
theorem passOpen_opens (h : d.route.passOpen = false) :
    passOpen d = d.modRoute (fun r => { r with passOpen := true, passno := satInc r.passno, uncEvt := false }) := by
  simp only [passOpen, h, Bool.false_eq_true, if_false]
/-- The close of a pass has every bin of it fall due. -/
theorem passClose_effect (h : d.route.passOpen = true) :
    (passClose d).route.passOpen = false ∧ (passClose d).route.cands = [] ∧ (passClose d).route.past = [] ∧
      (passClose d).route.free = d.route.free ∧ (passClose d).silicon = d.silicon := by
  simp only [passClose, h, Bool.not_true, Bool.false_eq_true, if_false]
  obtain ⟨_, _, _, hdue⟩ := Dev.route_foldl_binDue (d.route.cands.map (fun c => c.bin) ++ d.route.past)
    (d.modRoute (fun r => { r with passOpen := false }))
  rw [hdue]
  refine ⟨rfl, List.filter_eq_nil_iff.2 fun c hc => ?_, List.filter_eq_nil_iff.2 fun b hb => ?_, rfl, by simp⟩
  · have hmem : c.bin ∈ d.route.cands.map (fun c => c.bin) ++ d.route.past := List.mem_append_left _ (List.mem_map_of_mem hc)
    simp only [List.contains_iff_mem.2 hmem, Bool.not_true, Bool.false_eq_true, not_false_eq_true]
  · have hmem : b ∈ d.route.cands.map (fun c => c.bin) ++ d.route.past := List.mem_append_right _ hb
    simp only [List.contains_iff_mem.2 hmem, Bool.not_true, Bool.false_eq_true, not_false_eq_true]
theorem passAbort_effect (h : d.route.passOpen = true) :
    (passAbort d).route = { d.route with passOpen := false, cands := [], candIn := [], past := [] } ∧
      (passAbort d).silicon = d.silicon := by
  simp only [passAbort, h, if_true, Dev.route_dropCands]
  exact ⟨rfl, by simp⟩
end

/-! ## The free list and the retire token (R357, R358) -/

section
variable (d : Dev) (v : W32)
theorem freeWrite_taken (h : d.route.free.length < 256) :
    freeWrite v d = d.modRoute (fun r => { r with free := r.free ++ [v.extractLsb' 0 25] }) := by
  rw [freeWrite, if_neg (by omega)]
theorem freeWrite_full (h : 256 ≤ d.route.free.length) : freeWrite v d = d.rteReject := by
  rw [freeWrite, if_pos h]
@[simp] theorem Dev.silicon_rteReject : d.rteReject.silicon = d.silicon := by rfl
theorem silicon_freeWrite : (freeWrite v d).silicon = d.silicon := by
  unfold freeWrite
  split <;> simp
theorem retireWrite_route : (retireWrite v d).route =
    { d.route with retire := v.extractLsb' 0 16, retirePend := true, retireTiles := d.undelivered } := by rfl
theorem retireComplete_retires (hp : d.route.retirePend = true) (h : ∀ x ∈ d.undelivered, x ∉ d.route.retireTiles) :
    retireComplete d = d.modRoute (fun r => { r with retired := r.retire, retirePend := false, retireTiles := [] }) := by
  have hall : d.undelivered.all (fun t => !d.route.retireTiles.contains t) = true := by simpa using h
  simp only [retireComplete, hp, hall, Bool.and_self, if_true]
end

/-! ## RTE_CTRL and RTE_PRED (R342, R360) -/

/-- EN cleared (Table 9-6). -/
theorem Dev.rteOff_effect (d : Dev) :
    d.rteOff.rteApart = { d.route with cands := [], candIn := [], past := [], pstate := .idle }.apart ∧ d.rteOff.silicon = d.silicon := by
  have hdrop : d.cancelAll.dropCands.rteApart = { d.route with cands := [], candIn := [], past := [] }.apart := by
    rw [Dev.rteApart, Dev.route_dropCands]
    exact congrArg (fun r : Route => { r with cands := [], candIn := [], past := [] }) d.rteApart_cancelAll
  refine ⟨?_, by simp [Dev.rteOff]⟩
  exact congrArg (fun r : Route => { r with pstate := .idle }) hdrop

/-- What a write of RTE_CTRL makes of the block while EN stays or comes to 1. -/
def Route.ctrl (r : Route) (v : W32) : Route :=
  { r with
    en := v.getLsbD 0, laneEn := v.getLsbD 1, hostEn := v.getLsbD 2, commitlag := v.extractLsb' 20 8,
    poslane := if r.en then r.poslane else v.extractLsb' 3 5, binlen := if r.en then r.binlen else v.extractLsb' 8 6,
    horizon := if r.en then r.horizon else v.extractLsb' 14 6 }

/-- A write of RTE_CTRL is counted as rejected where it would change a gated field; EN cleared stops the predictor. -/
theorem rteCtrl_cases (v : W32) (d : Dev) : ∃ n, (d.route.en = false → n = d.route.rej) ∧ (rteCtrl v d).silicon = d.silicon ∧
    (rteCtrl v d).rteApart = if d.route.en && !v.getLsbD 0 then
      { d.route.ctrl v with rej := n, cands := [], candIn := [], past := [], pstate := .idle }.apart
    else { d.route.ctrl v with rej := n }.apart := by
  obtain ⟨e, n, he, hroute, hn, hs⟩ : ∃ (e : Dev) (n : W16), rteCtrl v d = (if d.route.en && !v.getLsbD 0 then e.rteOff else e) ∧
      e.route = { d.route.ctrl v with rej := n } ∧ (d.route.en = false → n = d.route.rej) ∧ e.silicon = d.silicon := by
    unfold rteCtrl
    dsimp only
    refine ⟨_, if d.route.en && (v.extractLsb' 3 5 != d.route.poslane || v.extractLsb' 8 6 != d.route.binlen ||
      v.extractLsb' 14 6 != d.route.horizon) then satInc d.route.rej else d.route.rej, rfl, ?_, fun h => by simp [h], ?_⟩
    · split <;> rfl
    · split <;> simp
  refine ⟨n, hn, ?_, ?_⟩
  · rw [he]
    split
    · exact e.rteOff_effect.2.trans hs
    · exact hs
  · rw [he]
    split
    · rw [e.rteOff_effect.1, hroute]
    · rw [Dev.rteApart, hroute]

theorem rtePred_route (v : W32) (d : Dev) : (rtePred v d).route = { d.route with
    corrTh := v.extractLsb' 0 16, posTo := if d.route.en then d.route.posTo else v.extractLsb' 16 16,
    rej := if d.route.en && v.extractLsb' 16 16 != d.route.posTo then satInc d.route.rej else d.route.rej } := by
  dsimp only [rtePred]
  split <;> rfl
theorem silicon_rtePred (v : W32) (d : Dev) : (rtePred v d).silicon = d.silicon := by
  dsimp only [rtePred]
  split <;> simp

/-! ## The rows -/

/-- A host write that leaves the cores, the queues and the memory. -/
theorem coresQueuesKept_hostWrote {s : State} {d : Dev} (h : d.silicon = s.dev.hostWrote.silicon) :
    coresQueuesKept s { s with dev := d } :=
  coresQueuesKept_of_silicon (h.trans s.dev.silicon_hostWrote)

theorem exec_rteFreeWrite {s : State} (hr : hostRuns s) (v : W32) : ∃ t, exec (.rteFreeWrite v) s = .next t ∧
    (s.dev.route.free.length < 256 → t.dev.route = { s.dev.route with free := s.dev.route.free ++ [v.extractLsb' 0 25] }) ∧
    (256 ≤ s.dev.route.free.length → t.dev.route = { s.dev.route with rej := satInc s.dev.route.rej }) ∧ coresQueuesKept s t := by
  refine ⟨_, congrArg Host.Outcome.next (hostWrite_runs hr (freeWrite v)), fun h => ?_, fun h => ?_,
    coresQueuesKept_hostWrote (silicon_freeWrite _ v)⟩
  · dsimp only
    rw [freeWrite_taken s.dev.hostWrote v h]
    rfl
  · dsimp only
    rw [freeWrite_full s.dev.hostWrote v h]
    rfl

theorem exec_rteCtrlWrite {s : State} (hr : hostRuns s) (v : W32) : ∃ t, exec (.rteCtrlWrite v) s = .next t ∧
    t.dev.route.en = v.getLsbD 0 ∧ t.dev.route.laneEn = v.getLsbD 1 ∧
    t.dev.route.hostEn = v.getLsbD 2 ∧ t.dev.route.commitlag = v.extractLsb' 20 8 ∧
    (s.dev.route.en = false → t.dev.route.poslane = v.extractLsb' 3 5 ∧ t.dev.route.binlen = v.extractLsb' 8 6 ∧
      t.dev.route.horizon = v.extractLsb' 14 6 ∧ t.dev.route.rej = s.dev.route.rej) ∧
    (s.dev.route.en = true → t.dev.route.poslane = s.dev.route.poslane ∧ t.dev.route.binlen = s.dev.route.binlen ∧
      t.dev.route.horizon = s.dev.route.horizon) ∧
    (s.dev.route.en = true → v.getLsbD 0 = false → t.dev.route.pstate = .idle ∧ t.dev.route.cands = []) ∧ coresQueuesKept s t := by
  obtain ⟨n, hn, hs, hroute⟩ := rteCtrl_cases v s.dev.hostWrote
  refine ⟨_, congrArg Host.Outcome.next (hostWrite_runs hr (rteCtrl v)), ?_⟩
  rw [Dev.hostWrote_route] at hroute hn
  have hkept := coresQueuesKept_hostWrote hs
  by_cases hoff : (s.dev.route.en && !v.getLsbD 0) = true
  · rw [if_pos hoff] at hroute
    obtain ⟨hen, hv⟩ : s.dev.route.en = true ∧ v.getLsbD 0 = false := by simpa using hoff
    refine ⟨Route.of_apart (·.en) hroute, Route.of_apart (·.laneEn) hroute, Route.of_apart (·.hostEn) hroute,
      Route.of_apart (·.commitlag) hroute, fun h => absurd (h.symm.trans hen) Bool.false_ne_true, fun _ => ⟨?_, ?_, ?_⟩,
      fun _ _ => ⟨Route.of_apart (·.pstate) hroute, Route.of_apart (·.cands) hroute⟩, hkept⟩
    · exact (Route.of_apart (·.poslane) hroute).trans (if_pos hen)
    · exact (Route.of_apart (·.binlen) hroute).trans (if_pos hen)
    · exact (Route.of_apart (·.horizon) hroute).trans (if_pos hen)
  · rw [if_neg hoff] at hroute
    have hlane := Route.of_apart (·.poslane) hroute
    have hlen := Route.of_apart (·.binlen) hroute
    have hhorizon := Route.of_apart (·.horizon) hroute
    refine ⟨Route.of_apart (·.en) hroute, Route.of_apart (·.laneEn) hroute, Route.of_apart (·.hostEn) hroute,
      Route.of_apart (·.commitlag) hroute, fun h => ⟨?_, ?_, ?_, ?_⟩, fun h => ⟨?_, ?_, ?_⟩,
      fun h hv => absurd (by rw [h, hv]; rfl) hoff, hkept⟩
    · exact hlane.trans (if_neg (by simp [h]))
    · exact hlen.trans (if_neg (by simp [h]))
    · exact hhorizon.trans (if_neg (by simp [h]))
    · exact (Route.of_apart (·.rej) hroute).trans (hn h)
    · exact hlane.trans (if_pos h)
    · exact hlen.trans (if_pos h)
    · exact hhorizon.trans (if_pos h)

theorem exec_rtePredWrite {s : State} (hr : hostRuns s) (v : W32) : ∃ t, exec (.rtePredWrite v) s = .next t ∧
    t.dev.route.corrTh = v.extractLsb' 0 16 ∧
    (s.dev.route.en = false → t.dev.route.posTo = v.extractLsb' 16 16 ∧ t.dev.route.rej = s.dev.route.rej) ∧
    (s.dev.route.en = true → t.dev.route.posTo = s.dev.route.posTo ∧
      (v.extractLsb' 16 16 ≠ s.dev.route.posTo → t.dev.route.rej = satInc s.dev.route.rej)) ∧ coresQueuesKept s t := by
  refine ⟨_, congrArg Host.Outcome.next (hostWrite_runs hr (rtePred v)), ?_⟩
  have hroute := rtePred_route v s.dev.hostWrote
  rw [Dev.hostWrote_route] at hroute
  dsimp only
  rw [hroute]
  exact ⟨rfl, fun h => by simp [h], fun h => ⟨by simp [h], fun hne => by simp [h, hne]⟩,
    coresQueuesKept_hostWrote (silicon_rtePred v _)⟩

/-- Settles O28: a pass that closes has every bin fall due, each of which leaves the open candidates; EN cleared drops them. -/
theorem passAndRouteRegisters : Obligations.PassAndRouteRegisters := by
  unfold Obligations.PassAndRouteRegisters
  refine ⟨fun s hr hp => ?_, fun s hr hp => ⟨?_, ?_⟩, fun s v hr => exec_rteFreeWrite hr v, fun s v hr => ?_, fun s hp hnone => ?_,
    fun s v hr => exec_rteCtrlWrite hr v, fun s v hr => exec_rtePredWrite hr v⟩
  · refine ⟨_, congrArg Host.Outcome.next (hostWrite_runs hr passOpen), ?_⟩
    dsimp only
    rw [passOpen_opens (d := s.dev.hostWrote) hp]
    exact ⟨rfl, rfl, rfl, rfl⟩
  · obtain ⟨hopen, hcands, hpast, hfree, hkept⟩ := passClose_effect (d := s.dev.hostWrote) hp
    exact ⟨_, congrArg Host.Outcome.next (hostWrite_runs hr passClose), hopen, hcands, hpast, hfree, coresQueuesKept_hostWrote hkept⟩
  · obtain ⟨hroute, hkept⟩ := passAbort_effect (d := s.dev.hostWrote) hp
    refine ⟨_, congrArg Host.Outcome.next (hostWrite_runs hr passAbort), ?_⟩
    dsimp only
    rw [hroute]
    exact ⟨rfl, rfl, rfl, rfl, coresQueuesKept_hostWrote hkept⟩
  · refine ⟨_, congrArg Host.Outcome.next (hostWrite_runs hr (retireWrite v)), ?_⟩
    dsimp only
    rw [retireWrite_route]
    exact ⟨rfl, rfl, rfl, coresQueuesKept_hostWrote (Dev.silicon_modRoute _ _)⟩
  · refine ⟨{ s with dev := retireComplete s.dev }, rfl, ?_⟩
    dsimp only
    rw [retireComplete_retires s.dev hp hnone]
    exact ⟨rfl, rfl, rfl⟩

end Sys2Proof.Machine
end

section
/-! SUPPORT. Position records at the predictor (R340 to R343, R348, R444). -/
namespace Sys2Proof.Machine

open Sys2Proof

/-! ## What a record's consequences leave -/

section
variable (d : Dev)
@[simp] theorem Dev.rteApart_free (n : Nat) : (d.free n).2.rteApart = d.rteApart := by rfl
@[simp] theorem Dev.rteApart_raise0 (code : W16) (args : List W32) : (d.raise0 code args).rteApart = d.rteApart :=
  rteApart_of_plinth (d.plinth_raise0 code args)
@[simp] theorem Dev.rteApart_raiseAux (code : W16) (aux : Byte) (args : List W32) : (d.raiseAux code aux args).rteApart = d.rteApart :=
  rteApart_of_plinth (d.plinth_raiseAux code aux args)
@[simp] theorem Dev.silicon_raiseAux (code : W16) (aux : Byte) (args : List W32) : (d.raiseAux code aux args).silicon = d.silicon := by rfl

theorem Dev.plinth_supersede (x : RefGroup) : (d.supersede x).plinth = d.plinth := by
  dsimp only [Dev.supersede]
  split <;> simp
@[simp] theorem Dev.rteApart_supersede (x : RefGroup) : (d.supersede x).rteApart = d.rteApart :=
  rteApart_of_plinth (d.plinth_supersede x)
@[simp] theorem Dev.silicon_supersede (x : RefGroup) : (d.supersede x).silicon = d.silicon := by
  dsimp only [Dev.supersede]
  split <;> simp
@[simp] theorem Dev.rteApart_replan (g : BitVec 2) : (d.replan g).rteApart = d.rteApart := by
  dsimp only [Dev.replan]
  split
  · rfl
  · refine (Dev.rteApart_modRoute _ _ (fun _ => ?_)).trans (Dev.rteApart_modRef _ g _)
    rfl
@[simp] theorem Dev.silicon_replan (g : BitVec 2) : (d.replan g).silicon = d.silicon := by
  dsimp only [Dev.replan]
  split <;> rfl
@[simp] theorem Dev.rteApart_eventRange : d.eventRange.2.rteApart = d.rteApart := by
  dsimp only [Dev.eventRange]
  split <;> rfl
@[simp] theorem Dev.silicon_eventRange : d.eventRange.2.silicon = d.silicon := by
  dsimp only [Dev.eventRange]
  split <;> rfl
theorem Dev.plinth_oldPrediction (x : PosRec) : (d.oldPrediction x).2.plinth = d.plinth := by
  dsimp only [Dev.oldPrediction]
  split <;> rfl
@[simp] theorem Dev.silicon_oldPrediction (x : PosRec) : (d.oldPrediction x).2.silicon = d.silicon := by
  dsimp only [Dev.oldPrediction]
  split <;> rfl
@[simp] theorem Dev.rteApart_uncover (u : W32) : (d.uncover u).rteApart = d.rteApart := by
  have hcount (f : Route → Route) (h : ∀ r, (f r).apart = r.apart) : (d.modRoute f).rteApart = d.rteApart := d.rteApart_modRoute f h
  dsimp only [Dev.uncover]
  split
  · rfl
  · split
    · exact hcount _ (fun _ => rfl)
    · rw [Dev.rteApart_raise0]
      exact hcount _ (fun _ => rfl)
@[simp] theorem Dev.silicon_uncover (u : W32) : (d.uncover u).silicon = d.silicon := by
  dsimp only [Dev.uncover]
  split
  · rfl
  · split <;> rfl
@[simp] theorem Dev.silicon_loseTrack (at_ : W32) : (d.loseTrack at_).silicon = d.silicon := by
  simp [Dev.loseTrack]
theorem Dev.rteApart_loseTrack (at_ : W32) : (d.loseTrack at_).rteApart = { d.route with pstate := .lost }.apart := by
  dsimp only [Dev.loseTrack]
  rw [Dev.rteApart_raise0]
  exact congrArg (fun r : Route => { r with pstate := .lost }) d.rteApart_cancelAll
end

/-! ## An accepted record (R341 to R343, R348) -/

/-- What an accepted record makes of the predictor: its position, its state and, by a correction, its generation. -/
def Route.accept (r : Route) (x : PosRec) : Route :=
  { r with
    last := x, haveRec := true,
    pstate := if x.nopos = false then .tracking else if r.pstate = .tracking then .lost else r.pstate,
    pgen := if r.correction x then r.pgen + 1#4 else r.pgen, corr := if r.correction x then satInc r.corr else r.corr }

/-- A record without a position corrects nothing. -/
theorem Route.nopos_of_correction {r : Route} {x : PosRec} (h : r.correction x = true) : x.nopos = false := by
  simp only [Route.correction, Bool.and_eq_true, Bool.not_eq_true'] at h
  exact h.1

section
variable (d : Dev) (x : PosRec)
theorem Dev.silicon_correct : (d.correct x).silicon = d.silicon := by
  simp [Dev.correct]
/-- A correction, step by step as R348 orders it: no step after the first touches more than the lists. -/
theorem Dev.rteApart_correct : (d.correct x).rteApart =
    { d.route with pgen := d.route.pgen + 1#4, corr := satInc d.route.corr, last := x, haveRec := true, pstate := .tracking }.apart := by
  have hold : (d.oldPrediction x).2.route = d.route := route_of_plinth (d.plinth_oldPrediction x)
  dsimp only [Dev.correct]
  simp only [Dev.rteApart_raiseAux, Dev.rteApart_eventRange, Dev.rteApart_foldl, Dev.rteApart_replan, Dev.rteApart_supersede,
    Dev.rteApart_cancelTiles, implies_true]
  exact congrArg (fun r : Route => Route.apart
    { r with pgen := r.pgen + 1#4, corr := satInc r.corr, last := x, haveRec := true, pstate := .tracking }) hold

theorem Dev.silicon_acceptRec : (d.acceptRec x).silicon = d.silicon := by
  dsimp only [Dev.acceptRec]
  split
  · rw [Dev.silicon_correct, Dev.silicon_uncover]
  · split <;> simp
theorem Dev.rteApart_acceptRec : (d.acceptRec x).rteApart = (d.route.accept x).apart := by
  have huncover : (d.uncover x.unc).route.apart = d.route.apart := d.rteApart_uncover x.unc
  dsimp only [Dev.acceptRec]
  by_cases hc : d.route.correction x = true
  · rw [if_pos hc, Dev.rteApart_correct]
    refine (congrArg (fun r : Route => { r with
      pgen := r.pgen + 1#4, corr := satInc r.corr, last := x, haveRec := true, pstate := .tracking }) huncover).trans ?_
    simp only [Route.accept, hc, if_true, Route.nopos_of_correction hc]
    rfl
  · rw [if_neg hc]
    have hnew (p : PredState) (hp : p = (d.route.accept x).pstate) :
        { (d.uncover x.unc).route with last := x, haveRec := true, pstate := p }.apart = (d.route.accept x).apart := by
      refine (congrArg (fun r : Route => { r with last := x, haveRec := true, pstate := p }) huncover).trans ?_
      rw [hp]
      simp only [Route.accept, if_neg hc]
      rfl
    have hstate : (d.uncover x.unc).route.pstate = d.route.pstate := Route.of_apart (·.pstate) huncover
    split
    · next hlost =>
      obtain ⟨hnopos, htracks⟩ : x.nopos = true ∧ d.route.pstate = .tracking := by simpa using hlost
      rw [Dev.rteApart_loseTrack]
      exact hnew .lost (by simp [Route.accept, hnopos, htracks])
    · next hkeeps =>
      refine hnew _ ?_
      rw [hstate]
      cases hnopos : x.nopos
      · simp [Route.accept, hnopos]
      · have htracks : d.route.pstate ≠ .tracking := by simpa [hnopos] using hkeeps
        simp [Route.accept, hnopos, htracks]
end

/-! ## Whether a record is accepted (R341) -/

section
variable (d : Dev) (on : Bool) (num : List Byte → Nat) (l : List Byte)
theorem Dev.posRecord_accepts {on : Bool} (hon : on = true) (hen : d.route.en = true) (hver : l.headD 0#8 = 1#8)
    (hnew : d.route.haveRec = true → d.route.last.time.toNat < (posOfBytes num l).time.toNat) :
    d.posRecord on num l = d.acceptRec (posOfBytes num l) := by
  have hlater : (d.route.haveRec && decide ((posOfBytes num l).time ≤ d.route.last.time)) = false := by
    cases hr : d.route.haveRec with
    | false => rfl
    | true => simpa [BitVec.le_def] using hnew hr
  have hver' : l.getD 0 0#8 = 1#8 := by cases l <;> exact hver
  simp only [Dev.posRecord, hon, hen, hver', hlater]
  rfl
theorem Dev.posRecord_drops (h : on = false ∨ d.route.en = false ∨ l.headD 0#8 ≠ 1#8 ∨
    (d.route.haveRec = true ∧ (posOfBytes num l).time.toNat ≤ d.route.last.time.toNat)) : d.posRecord on num l = d.posDrop := by
  have hver' : l.getD 0 0#8 = l.headD 0#8 := by cases l <;> rfl
  simp only [Dev.posRecord, hver']
  refine if_pos ?_
  obtain h | h | h | ⟨hr, ht⟩ := h
  · simp [h]
  · simp [h]
  · simp only [bne_iff_ne.2 h, Bool.or_true, Bool.true_or]
  · simp [hr, BitVec.le_def, ht]
end

/-! ## A datagram on the position lane (R444) -/

section
variable {d : Dev} {l : PartId} {p : W16} {b : List Byte}
theorem positionDatagram_taken (hup : d.laneUp l = true) (hl : l = d.route.poslane) (hp : p = d.ing.posport) (hp0 : p ≠ 0#16)
    (hb : b.length = 32) : positionDatagram l p b d = (d.lanePacket l).posRecord d.route.laneEn beNat b := by
  simp [positionDatagram, hup, ← hl, ← hp, hp0, hb]
theorem positionDatagram_length (hup : d.laneUp l = true) (hl : l = d.route.poslane) (hp : p = d.ing.posport)
    (hb : b.length ≠ 32) : positionDatagram l p b d = (d.lanePacket l).posDrop := by
  simp [positionDatagram, hup, ← hl, ← hp, hb]
end

/-! ## A record that the host writes (R340) -/

/-- The fields of a record lie in its first 28 bytes. -/
theorem posOfBytes_eq {num : List Byte → Nat} {l l' : List Byte} (h1 : l.getD 1 0#8 = l'.getD 1 0#8)
    (h : ∀ a k, a + k ≤ 28 → num ((l.drop a).take k) = num ((l'.drop a).take k)) : posOfBytes num l = posOfBytes num l' := by
  simp only [posOfBytes, h1, h 8 8 (by decide), h 16 4 (by decide), h 20 4 (by decide), h 24 4 (by decide)]

/-- Bytes that a field lacks read as 0. -/
theorem leNat_take_succ (l : List Byte) (k : Nat) : leNat (l.take (k + 1)) = (l.getD 0 0#8).toNat + 256 * leNat (l.tail.take k) := by
  cases l <;> simp [leNat]
theorem leNat_take_congr {l l' : List Byte} (k : Nat) (h : ∀ i, i < k → l.getD i 0#8 = l'.getD i 0#8) :
    leNat (l.take k) = leNat (l'.take k) := by
  induction k generalizing l l' with
  | zero => rfl
  | succ k ih =>
    have htail (m : List Byte) (i : Nat) : m.tail.getD i 0#8 = m.getD (i + 1) 0#8 := by cases m <;> simp
    rw [leNat_take_succ, leNat_take_succ, h 0 (by omega),
      ih (l := l.tail) (l' := l'.tail) (fun i hi => by rw [htail, htail, h (i + 1) (by omega)])]

theorem Route.getD_posin_setPosin (r : Route) {i j : Nat} (b : Byte) (hj : j < 32) (hij : j ≠ i) :
    (r.setPosin i b).posin.getD j 0#8 = r.posin.getD j 0#8 := by
  simp [Route.setPosin, hj, hij]
theorem posOfBytes_congr {l l' : List Byte} (h : ∀ j, j < 28 → l.getD j 0#8 = l'.getD j 0#8) :
    posOfBytes leNat l = posOfBytes leNat l' := by
  refine posOfBytes_eq (h 1 (by decide)) (fun a k hk => leNat_take_congr k (fun i hi => ?_))
  have hdrop (m : List Byte) : (m.drop a).getD i 0#8 = m.getD (a + i) 0#8 := by simp
  rw [hdrop, hdrop, h (a + i) (by omega)]

/-- The bytes of the last register of RTE_POSIN leave the fields of the record, which lie before it. -/
theorem Dev.route_foldl_setPosin (f : Nat → Byte) (ks : List Nat) (d : Dev) : ∃ p,
    (ks.foldl (fun d k => d.modRoute (fun r => r.setPosin (28 + k) (f k))) d).route = { d.route with posin := p } ∧
      ∀ j, j < 28 → p.getD j 0#8 = d.route.posin.getD j 0#8 := by
  induction ks generalizing d with
  | nil => exact ⟨d.route.posin, rfl, fun _ _ => rfl⟩
  | cons k ks ih =>
    obtain ⟨p, hp, hbytes⟩ := ih (d.modRoute (fun r => r.setPosin (28 + k) (f k)))
    refine ⟨p, hp, fun j hj => (hbytes j hj).trans ?_⟩
    exact Route.getD_posin_setPosin d.route (f k) (by omega) (by omega)

theorem rteApply_posinSubmit (v : W32) (d : Dev) : rteApply 0xA11C v d = posinSubmit (bitsOf v 24 8)
    ([0, 1, 2].foldl (fun d k => d.modRoute (fun r => r.setPosin (28 + k) (bitsOf v (8 * k) 8))) d) := by rfl
theorem posinSubmit_eq (b : Byte) (d : Dev) : posinSubmit b d =
    (d.modRoute (fun r => r.setPosin 31 b)).posRecord d.route.hostEn leNat (d.route.setPosin 31 b).posin := by rfl

/-- Byte 31 of RTE_POSIN applies its register with the bytes staged for it, and submits the record. -/
theorem exec_rtePosinSubmit_eq {s : State} (hr : hostRuns s) (hheld : s.dev.pwr.resetHeld = false)
    (hsupply : s.dev.pwr.supplyFail = false) (b : Byte) : ∃ (d : Dev) (p : List Byte), d.silicon = s.dev.silicon ∧
    d.route = { s.dev.route with posin := p } ∧ (∀ j, j < 28 → p.getD j 0#8 = s.dev.route.posin.getD j 0#8) ∧
    exec (.rtePosinSubmit b) s = .next { s with dev := d.posRecord s.dev.route.hostEn leNat p } := by
  obtain ⟨hbus, hf1⟩ := hr
  have hfw : s.dev.pwr.fwUp = true ∧ s.dev.pwr.state ≠ .deep := by simpa [Dev.f1] using hf1
  obtain ⟨v, d, hstage, hsilicon, hroute, hpwr⟩ : ∃ v d, s.dev.hostHere.stageByte (reg1 0xA11F#17) 3 b = (some v, d) ∧
      d.silicon = s.dev.silicon ∧ d.route = s.dev.route ∧ d.pwr = s.dev.pwr := ⟨_, _, rfl, rfl, rfl, rfl⟩
  have hanswers : d.regAnswers 0xA11C = true := by
    simp [Dev.regAnswers, hpwr, hheld, hsupply, hfw]
  have hpresent : d.regPresent 0xA11C = true := by simp [Dev.regPresent]
  have hbyte : byteWrite 0xA11F#17 b s.dev.hostHere = rteApply 0xA11C v d := by
    rw [byteWrite, show ((0xA11F#17 : BitVec 17).toNat % 4) = 3 from rfl, hstage]
    show regApply 0xA11C v d = _
    simp only [regApply, hanswers, hpresent, Bool.not_true, Bool.or_self]
    rfl
  obtain ⟨p, hp, hbytes⟩ := Dev.route_foldl_setPosin (fun k => bitsOf v (8 * k) 8) [0, 1, 2] d
  rw [hroute] at hp hbytes
  have hrun := (show exec (.rtePosinSubmit b) s = .next (hostWriteByte 0xA11F#17 b s) from rfl)
  rw [hostWriteByte, if_pos hbus, hbyte, rteApply_posinSubmit, posinSubmit_eq, hp] at hrun
  refine ⟨_, _, ?_, ?_, ?_, hrun⟩
  · rw [Dev.silicon_modRoute]
    simpa using hsilicon
  · exact congrArg (fun r : Route => r.setPosin 31 (bitsOf v 24 8)) hp
  · exact fun j hj => (Route.getD_posin_setPosin _ _ (by omega) (by omega)).trans (hbytes j hj)

/-! ## The rows -/

theorem exec_positionDatagram_accepted {s : State} {l : PartId} {p : W16} {b : List Byte} {x : PosRec} (hup : s.dev.laneUp l = true)
    (hl : l = s.dev.route.poslane) (hp : p = s.dev.ing.posport) (hp0 : p ≠ 0#16) (hb : b.length = 32)
    (hlane : s.dev.route.laneEn = true) (hen : s.dev.route.en = true) (hver : b.headD 0#8 = 1#8) (hx : x = posOfBytes beNat b)
    (hnew : s.dev.route.haveRec = true → s.dev.route.last.time.toNat < x.time.toNat) :
    ∃ t, exec (.positionDatagram l p b) s = .next t ∧ t.dev.rteApart = (s.dev.route.accept x).apart ∧ coresQueuesKept s t := by
  subst hx
  refine ⟨{ s with dev := (s.dev.lanePacket l).acceptRec (posOfBytes beNat b) }, ?_, (s.dev.lanePacket l).rteApart_acceptRec _,
    coresQueuesKept_of_silicon ((s.dev.lanePacket l).silicon_acceptRec _)⟩
  rw [show exec (.positionDatagram l p b) s = .next { s with dev := positionDatagram l p b s.dev } from rfl,
    positionDatagram_taken hup hl hp hp0 hb, Dev.posRecord_accepts (s.dev.lanePacket l) beNat b hlane hen hver hnew]

theorem exec_positionDatagram_dropped {s : State} {l : PartId} {p : W16} {b : List Byte} (hup : s.dev.laneUp l = true)
    (hl : l = s.dev.route.poslane) (hp : p = s.dev.ing.posport) (hp0 : p ≠ 0#16)
    (h : b.length ≠ 32 ∨ s.dev.route.laneEn = false ∨ s.dev.route.en = false ∨ b.headD 0#8 ≠ 1#8 ∨
      (s.dev.route.haveRec = true ∧ (posOfBytes beNat b).time.toNat ≤ s.dev.route.last.time.toNat)) :
    exec (.positionDatagram l p b) s = .next { s with dev := (s.dev.lanePacket l).posDrop } := by
  rw [show exec (.positionDatagram l p b) s = .next { s with dev := positionDatagram l p b s.dev } from rfl]
  by_cases hb : b.length = 32
  · rw [positionDatagram_taken hup hl hp hp0 hb, Dev.posRecord_drops (s.dev.lanePacket l) s.dev.route.laneEn beNat b (h.resolve_left (fun hne => hne hb))]
  · rw [positionDatagram_length hup hl hp hb]

theorem exec_rtePosinSubmit_accepted {s : State} {x : PosRec} (b : Byte) (hr : hostRuns s) (hheld : s.dev.pwr.resetHeld = false)
    (hsupply : s.dev.pwr.supplyFail = false) (hhost : s.dev.route.hostEn = true) (hen : s.dev.route.en = true)
    (hver : s.dev.route.posin.headD 0#8 = 1#8) (hx : x = posOfBytes leNat s.dev.route.posin)
    (hnew : s.dev.route.haveRec = true → s.dev.route.last.time.toNat < x.time.toNat) :
    ∃ t, exec (.rtePosinSubmit b) s = .next t ∧ t.dev.route.last = x ∧ t.dev.route.pstate = (s.dev.route.accept x).pstate ∧
      t.dev.route.posdisc = s.dev.route.posdisc ∧ coresQueuesKept s t := by
  obtain ⟨d, p, hsilicon, hroute, hbytes, hexec⟩ := exec_rtePosinSubmit_eq hr hheld hsupply b
  have hrec : posOfBytes leNat p = x := (posOfBytes_congr hbytes).trans hx.symm
  have hhead (m : List Byte) : m.headD 0#8 = m.getD 0 0#8 := by cases m <;> rfl
  have hver' : p.headD 0#8 = 1#8 := by rw [hhead, hbytes 0 (by decide), ← hhead, hver]
  have hen' : d.route.en = true := by rw [hroute]; exact hen
  have hnew' : d.route.haveRec = true → d.route.last.time.toNat < (posOfBytes leNat p).time.toNat := by
    rw [hroute, hrec]
    exact hnew
  rw [Dev.posRecord_accepts d leNat p hhost hen' hver' hnew', hrec] at hexec
  have hstate := d.rteApart_acceptRec x
  rw [hroute] at hstate
  exact ⟨_, hexec, Route.of_apart (·.last) hstate, (Route.of_apart (·.pstate) hstate).trans rfl,
    (Route.of_apart (·.posdisc) hstate).trans rfl,
    coresQueuesKept_of_silicon ((d.silicon_acceptRec x).trans hsilicon)⟩

/-- Settles O25: an accepted record makes of the block apart from the lists what R341 to R343 say; the lists are replanned beside it. -/
theorem positionRecords : Obligations.PositionRecords := by
  unfold Obligations.PositionRecords
  refine ⟨fun s l p b x hup hl hp hp0 hb hlane hen hver hx hnew => ?_, fun s l p b hup hl hp hp0 h => ?_,
    fun s b x hr hheld hsupply hhost hen hver hx hnew => exec_rtePosinSubmit_accepted b hr hheld hsupply hhost hen hver hx hnew,
    fun s hen htracks => ?_⟩
  · obtain ⟨t, hexec, hroute, hkept⟩ := exec_positionDatagram_accepted hup hl hp hp0 hb hlane hen hver hx hnew
    have hpgen := Route.of_apart (·.pgen) hroute
    have hcorr := Route.of_apart (·.corr) hroute
    refine ⟨t, hexec, Route.of_apart (·.last) hroute, Route.of_apart (·.haveRec) hroute, Route.of_apart (·.pstate) hroute,
      (Route.of_apart (·.posdisc) hroute).trans rfl, (Route.of_apart (·.index) hroute).trans rfl, fun hc => ⟨?_, ?_⟩, fun hc => ⟨?_, ?_⟩, hkept⟩
    · exact hpgen.trans (if_neg (by simp [hc]))
    · exact hcorr.trans (if_neg (by simp [hc]))
    · exact hpgen.trans (if_pos hc)
    · exact hcorr.trans (if_pos hc)
  · exact ⟨_, exec_positionDatagram_dropped hup hl hp hp0 h, rfl, rfl, rfl, rfl⟩
  · have hexec : exec .positionTimeout s = .next { s with dev := s.dev.loseTrack s.dev.route.last.rdist } := by
      rw [show exec .positionTimeout s = .next { s with dev := positionTimeout s.dev } from rfl, positionTimeout,
        if_pos (by simp [hen, htracks])]
    have hroute := s.dev.rteApart_loseTrack s.dev.route.last.rdist
    exact ⟨_, hexec, Route.of_apart (·.pstate) hroute, (Route.of_apart (·.last) hroute).trans rfl,
      (Route.of_apart (·.pgen) hroute).trans rfl, (Route.of_apart (·.index) hroute).trans rfl, coresQueuesKept_of_silicon (s.dev.silicon_loseTrack _)⟩

end Sys2Proof.Machine
end

section
/-! SUPPORT. The tile that the predictor issues, through the bursts that it starts (R338, R339, R344, R345, R351), and the notice that a
core takes (R349). -/
namespace Sys2Proof.Machine

open Sys2Proof

/-! ## Groups -/

theorem tblSet_mem {α : Type} [DecidableEq α] {d v : α} {t : Tbl α} {n : Nat} {e : Nat × α} (he : e ∈ tblSet d t n v) :
    e = (n, v) ∨ e ∈ t := by
  unfold tblSet at he
  split at he
  · exact .inr (List.mem_filter.1 he).1
  · exact tblPut_keys he

section
variable {d : Dev} {g : BitVec 2} {x : RefGroup}
theorem Dev.refGroup_modRef (h : d.refGroup g = some x) (f : RefGroup → RefGroup) : (d.modRef g f).refGroup g = some (f x) := by
  have hget : tblGet none d.route.groups g.toNat = some x := h
  simp [Dev.refGroup, Dev.modRef, Dev.modRoute, hget]
theorem Dev.refGroup_modRef_other {g' : BitVec 2} (h : g' ≠ g) (f : RefGroup → RefGroup) : (d.modRef g' f).refGroup g = d.refGroup g :=
  tblGet_mod_other none d.route.groups _ (fun hn => h (BitVec.eq_of_toNat_eq hn))
theorem Dev.mem_groups_of_refGroup (h : d.refGroup g = some x) : (g.toNat, some x) ∈ d.route.groups := by
  have hget : tblGet none d.route.groups g.toNat = some x := h
  exact hget ▸ mem_of_tblGet_ne none g.toNat d.route.groups (by rw [hget]; exact Option.some_ne_none x)
/-- An entry of the groups after a change of one is an entry as it was, or what the change made of the group. -/
theorem Dev.mem_groups_modRef {f : RefGroup → RefGroup} {e : Nat × Option RefGroup} {y : RefGroup} (he : e ∈ (d.modRef g f).route.groups)
    (hy : e.2 = some y) : e ∈ d.route.groups ∨ (e.1 = g.toNat ∧ ∃ x, d.refGroup g = some x ∧ y = f x) := by
  have hset : e = (g.toNat, (d.refGroup g).map f) ∨ e ∈ d.route.groups := tblSet_mem he
  obtain rfl | h := hset
  · obtain ⟨x, hx, hxy⟩ := Option.map_eq_some_iff.1 hy
    exact .inr ⟨rfl, x, hx, hxy.symm⟩
  · exact .inl h
end

/-! ## A tile that has been issued

The bursts of a queue's tiles change a tile where it stands by its frame and its place: how much of it is sent and delivered, and whether
it turned out to have no reference. -/

/-- A tile is `u` but for its progress, and for the reference that a fault takes from it (Table 11-7). -/
structure Tile.isOf (w u : Tile) : Prop where
  q : w.q = u.q
  upol : w.upol = u.upol
  pgen : w.pgen = u.pgen
  epoch : w.epoch = u.epoch
  lost : u.tstat = 2#2 ↔ w.tstat = 2#2

theorem Tile.isOf.refl (u : Tile) : u.isOf u := ⟨rfl, rfl, rfl, rfl, .rfl⟩

/-- The entries of a group's number have no tile at the frame and the place of `u` but `u`. -/
def Dev.onlyTile (d : Dev) (g : BitVec 2) (u : Tile) : Prop :=
  ∀ e ∈ d.route.groups, e.1 % 4 = g.toNat → ∀ y, e.2 = some y → ∀ w ∈ y.tiles, w.frame = u.frame → w.pos = u.pos → w.isOf u

/-- Group `g` holds tile `u`, alone at its frame and place, and the lists and the newest frame of `x`. -/
structure Dev.holdsTile (d : Dev) (g : BitVec 2) (x : RefGroup) (u : Tile) : Prop where
  only : d.onlyTile g u
  held : ∃ y, d.refGroup g = some y ∧ y.lists = x.lists ∧ y.lastFrame = x.lastFrame ∧ ∃ w ∈ y.tiles, w.frame = u.frame ∧ w.pos = u.pos

section
variable {d e : Dev} {g : BitVec 2} {x : RefGroup} {u : Tile}
theorem Dev.holdsTile.of_groups (h : d.holdsTile g x u) (hg : e.route.groups = d.route.groups) : e.holdsTile g x u := by
  obtain ⟨honly, hheld⟩ := h
  refine ⟨?_, ?_⟩
  · unfold Dev.onlyTile
    rw [hg]
    exact honly
  · unfold Dev.refGroup
    rw [hg]
    exact hheld
theorem Dev.holdsTile.of_plinth (h : d.holdsTile g x u) (hp : e.plinth = d.plinth) : e.holdsTile g x u :=
  h.of_groups (congrArg Route.groups (route_of_plinth hp))

/-- A tile of the group at the frame and place of the held one is the held one. -/
theorem Dev.holdsTile.isOf (h : d.holdsTile g x u) {y : RefGroup} (hy : d.refGroup g = some y) {w : Tile} (hw : w ∈ y.tiles)
    (hframe : w.frame = u.frame) (hpos : w.pos = u.pos) : w.isOf u :=
  h.only _ (Dev.mem_groups_of_refGroup hy) (Nat.mod_eq_of_lt g.isLt) y rfl w hw hframe hpos

/-- A change of a group at one tile, which keeps that the tile stands where it stands and, at the held one, what the held one is. -/
theorem Dev.holdsTile.modTile (h : d.holdsTile g x u) (g' : BitVec 2) (frame : W32) (pos : Nat) (f : Tile → Tile) (k : RefGroup → RefGroup)
    (htiles : ∀ y, (k y).tiles = y.tiles) (hlists : ∀ y, (k y).lists = y.lists) (hlast : ∀ y, (k y).lastFrame = y.lastFrame)
    (hframe : ∀ w, (f w).frame = w.frame) (hpos : ∀ w, (f w).pos = w.pos)
    (hf : g' = g → frame = u.frame → pos = u.pos → ∀ w, w.isOf u → (f w).isOf u) :
    (d.modRef g' (fun y => (k y).modTile frame pos f)).holdsTile g x u := by
  obtain ⟨y, hy, hylists, hylast, w, hw, hwframe, hwpos⟩ := h.held
  have hplace (w : Tile) : (if w.frame == frame && w.pos == pos then f w else w).frame = w.frame ∧
      (if w.frame == frame && w.pos == pos then f w else w).pos = w.pos := by
    split
    · exact ⟨hframe w, hpos w⟩
    · exact ⟨rfl, rfl⟩
  constructor
  · intro e he hmod z hz v hv hvframe hvpos
    obtain hold | ⟨hg, z', hz', rfl⟩ := Dev.mem_groups_modRef he hz
    · exact h.only e hold hmod z hz v hv hvframe hvpos
    · have hgg : g' = g := BitVec.eq_of_toNat_eq (by rw [← hmod, hg, Nat.mod_eq_of_lt g'.isLt])
      subst hgg
      obtain ⟨v', hv', rfl⟩ := List.mem_map.1 hv
      rw [htiles] at hv'
      rw [(hplace v').1] at hvframe
      rw [(hplace v').2] at hvpos
      have hof := h.isOf hz' hv' hvframe hvpos
      split
      · next hhit =>
        obtain ⟨h1, h2⟩ : v'.frame = frame ∧ v'.pos = pos := by simpa using hhit
        exact hf rfl (h1.symm.trans hvframe) (h2.symm.trans hvpos) v' hof
      · exact hof
  · by_cases hg : g' = g
    · subst hg
      refine ⟨_, Dev.refGroup_modRef hy _, (hlists y).trans hylists, (hlast y).trans hylast, _,
        List.mem_map_of_mem ((htiles y).symm ▸ hw), (hplace w).1.trans hwframe, (hplace w).2.trans hwpos⟩
    · exact ⟨y, (Dev.refGroup_modRef_other hg _).trans hy, hylists, hylast, w, hw, hwframe, hwpos⟩
end

/-! ## Words of a tile, and bursts for it -/

section
variable {d : Dev} {g : BitVec 2} {x : RefGroup} {u : Tile}
theorem Dev.holdsTile.tileWords (h : d.holdsTile g x u) (g' : BitVec 2) (t : Tile) (ws : List W64)
    (ht : g' = g → t.frame = u.frame → t.pos = u.pos → (u.tstat = 2#2 ↔ t.tstat = 2#2)) : (d.tileWords g' t ws).holdsTile g x u := by
  have hdelivered : ∀ l n at_, ((d.writeAll t.q 0#10 l).modRef g' (fun y =>
      { y with lastDel := if t.got == 0 then some t.frame else y.lastDel }.modTile t.frame t.pos (fun w =>
        { w with got := w.got + ws.length + n, at_ := if t.got == 0 then some at_ else w.at_, tstat := t.tstat }))).holdsTile g x u :=
    fun l n at_ => (h.of_plinth (d.plinth_writeAll t.q 0#10 l)).modTile g' t.frame t.pos _
      (fun y => { y with lastDel := if t.got == 0 then some t.frame else y.lastDel }) (fun _ => rfl) (fun _ => rfl) (fun _ => rfl)
      (fun _ => rfl) (fun _ => rfl) (fun hg hframe hpos w hw => ⟨hw.q, hw.upol, hw.pgen, hw.epoch, ht hg hframe hpos⟩)
  dsimp only [Dev.tileWords]
  split
  · exact (hdelivered _ _ _).of_groups rfl
  · exact hdelivered _ _ _

theorem Tile.tstat_tag (t : Tile) (g : BitVec 2) : (t.tag g).extractLsb' 56 2 = t.tstat := by
  simp [Tile.tag, BitVec.extractLsb'_append_eq_of_le, BitVec.extractLsb'_append_eq_of_add_le, -Nat.reduceAdd]

/-- The end of a burst for a stored tile: its words, or zeros without a reference. -/
theorem Dev.holdsTile.tileEnd (h : d.holdsTile g x u) (g' : BitVec 2) (b : BurstReq) (hb : b.tag.extractLsb' 56 2 = 0#2) :
    (d.tileEnd g' b).holdsTile g x u := by
  unfold Dev.tileEnd
  split
  · exact h
  · next y hy =>
    split
    · exact h
    · next t ht =>
      have htag : t.tag g' = b.tag := by
        have := List.find?_some ht
        simp only [Bool.and_eq_true, beq_iff_eq] at this
        exact this.1.1
      have hstored : t.tstat = 0#2 := by rw [← t.tstat_tag g', htag, hb]
      refine h.tileWords g' _ _ (fun hg hframe hpos => ?_)
      subst hg
      have hof := h.isOf hy (List.mem_of_find?_eq_some ht) (by rw [← hframe]; split <;> rfl) (by rw [← hpos]; split <;> rfl)
      rw [hof.lost, hstored]
      split <;> simp [hstored]

theorem Dev.checked_tag (d : Dev) (b : BurstReq) : (d.checked b).1.tag = b.tag := by
  unfold Dev.checked
  split
  · rfl
  · split <;> rfl
  · split <;> rfl

/-- A burst for a stored tile waits at its channel, or ends at once where its address reaches no storage. -/
theorem Dev.holdsTile.submit (h : d.holdsTile g x u) {g' : BitVec 2} {b : BurstReq} (hwho : b.who = .prefetch g')
    (hb : b.tag.extractLsb' 56 2 = 0#2) : (d.submit b).holdsTile g x u := by
  unfold Dev.submit
  split
  · exact h.of_plinth (d.plinth_toChannel b _)
  · dsimp only
    unfold Dev.burstEnd
    rw [d.checked_who b, hwho]
    have hchecked := h.of_plinth (d.plinth_checked b)
    split
    · exact hchecked
    · exact hchecked.tileEnd g' _ (by rw [d.checked_tag b, hb])

/-- A tile of which more is to be issued for a queue. -/
theorem Dev.mem_of_nextTile {id : QueueId} {g : BitVec 2} {x : RefGroup} {t : Tile} (h : d.nextTile id = some (g, x, t)) :
    ∃ e ∈ d.route.groups, e.2 = some x ∧ g = BitVec.ofNat 2 e.1 ∧ t ∈ x.tiles := by
  obtain ⟨e, he, hsome⟩ := List.exists_of_findSome?_eq_some h
  split at hsome
  · cases hsome
  · next y hy =>
    obtain ⟨t', hfind, ht'⟩ := Option.map_eq_some_iff.1 hsome
    injection ht' with hg hxt
    injection hxt with hx ht
    subst hx ht
    exact ⟨e, he, hy, hg.symm, List.mem_of_find?_eq_some hfind⟩

/-- The next burst of a queue's tiles. -/
theorem Dev.holdsTile.tileBurst (h : d.holdsTile g x u) (id : QueueId) : (d.tileBurst id).holdsTile g x u := by
  unfold Dev.tileBurst
  split
  · exact h
  · next g' y t hnext =>
    obtain ⟨e, he, hy, hg', ht⟩ := Dev.mem_of_nextTile hnext
    have hmod (hg : g' = g) : e.1 % 4 = g.toNat := by
      rw [← hg, hg', BitVec.toNat_ofNat]
    have hsent := h.modTile g' t.frame t.pos (fun w => { w with sent := w.sent + 64 }) (fun y => y) (fun _ => rfl) (fun _ => rfl) (fun _ => rfl)
      (fun _ => rfl) (fun _ => rfl) (fun _ _ _ w hw => ⟨hw.q, hw.upol, hw.pgen, hw.epoch, hw.lost⟩)
    dsimp only
    generalize (if t.sent == 0 then 65 else 64) = need
    split
    · exact h
    · split
      · exact hsent.tileWords g' t _ (fun hg hframe hpos => (h.only e he (hmod hg) y hy t ht hframe hpos).lost)
      · next hstored =>
        have hstat : t.tstat = 0#2 := by simpa using hstored
        exact hsent.submit rfl (by rw [t.tstat_tag g', hstat])
end

/-! ## What bursts for tiles leave standing -/

section
variable (d : Dev) (g : BitVec 2)
theorem Dev.standing_modRef (f : RefGroup → RefGroup) : (d.modRef g f).standing = d.standing := d.standing_modRoute _ (fun _ => rfl)
theorem Dev.standing_tileWords (t : Tile) (ws : List W64) : (d.tileWords g t ws).standing = d.standing := by
  dsimp only [Dev.tileWords]
  split
  · refine (Dev.standing_modRoute _ _ (fun _ => ?_)).trans ?_
    · rfl
    · rw [Dev.standing_modRef, Dev.standing_writeAll]
  · rw [Dev.standing_modRef, Dev.standing_writeAll]
theorem Dev.standing_tileEnd (b : BurstReq) : (d.tileEnd g b).standing = d.standing := by
  unfold Dev.tileEnd
  split
  · rfl
  · split
    · rfl
    · exact Dev.standing_tileWords _ _ _ _
theorem Dev.standing_submit_prefetch {b : BurstReq} (hwho : b.who = .prefetch g) : (d.submit b).standing = d.standing := by
  unfold Dev.submit
  split
  · exact d.standing_toChannel b _
  · dsimp only
    unfold Dev.burstEnd
    rw [d.checked_who b, hwho]
    split
    · exact d.standing_checked b
    · exact (Dev.standing_tileEnd _ g _).trans (d.standing_checked b)
theorem Dev.standing_tileBurst (id : QueueId) : (d.tileBurst id).standing = d.standing := by
  unfold Dev.tileBurst
  split
  · rfl
  · next t hnext =>
    dsimp only
    generalize (if t.sent == 0 then 65 else 64) = need
    split
    · rfl
    · split
      · rw [Dev.standing_tileWords, Dev.standing_modRef]
      · rw [Dev.standing_submit_prefetch _ _ rfl, Dev.standing_modRef]
end

/-! ## The tile of a place (R338, R339, R351) -/

/-- What the tile of a place of a list says, whatever its entry reads (R339, R351). -/
structure Tile.issuedFor (t : Tile) (d : Dev) (x : RefGroup) (l : RefList) (pos : Nat) : Prop where
  frame : t.frame = l.frame
  place : t.pos = pos
  q : t.q = x.dest pos
  pgen : t.pgen = d.route.pgen
  epoch : t.epoch = (d.net x.net).epoch
  lost : d.route.pstate = .lost → t.tstat = 2#2 ∧ t.upol = 0#2
  noPass : d.route.passOpen = false → t.upol = 0#2

/-- The lists of a group when the tile of a place has been issued. -/
def RefGroup.took (x : RefGroup) (l : RefList) (pos : Nat) (t : Tile) : RefGroup :=
  { x with tiles := x.tiles ++ [t], lists := x.lists.map (fun m => if m.frame == l.frame then { m with todo := m.todo.erase pos } else m) }

section
variable (d : Dev) (g : BitVec 2) (x : RefGroup) (l : RefList) (pos : Nat) (upset : Bool)
/-- The read of an entry leaves the groups. -/
theorem Dev.readEntry_frame (b : W32) : (d.readEntry b upset).2.route.groups = d.route.groups ∧
    (d.readEntry b upset).2.psram = d.psram := by
  unfold Dev.readEntry
  dsimp only
  split
  · exact ⟨rfl, rfl⟩
  · exact ⟨rfl, rfl⟩

theorem Dev.readIf_frame (here : Bool) (b : W32) :
    (if here then d.readEntry b upset else (0#128, d)).2.route.groups = d.route.groups ∧
      (if here then d.readEntry b upset else (0#128, d)).2.psram = d.psram := by
  cases here
  · exact ⟨rfl, rfl⟩
  · exact d.readEntry_frame upset b

theorem Dev.issueTile_eq : ∃ (d1 : Dev) (t : Tile) (f : Route → Route), d1.route.groups = d.route.groups ∧ d1.psram = d.psram ∧
    t.issuedFor d x l pos ∧ (∀ r, (f r).groups = r.groups) ∧
    d.issueTile g x l pos upset = ((d1.modRef g (fun y => y.took l pos t)).modRoute f).tileBurst (x.dest pos) := by
  unfold Dev.issueTile
  dsimp only
  generalize (if l.rev then l.first - ((pos / max x.img.tpb 1 : Nat) : Int) else l.first + ((pos / max x.img.tpb 1 : Nat) : Int)) = bin
  have hframe := d.readIf_frame upset (!d.route.pstate == .lost && decide (0 ≤ bin)) (BitVec.ofInt 32 bin)
  generalize (if !d.route.pstate == .lost && decide (0 ≤ bin) then d.readEntry (BitVec.ofInt 32 bin) upset else (0#128, d)) = p at hframe ⊢
  have hlost (b v : Bool) (h : d.route.pstate = .lost) : tagPolicy b (d.route.pstate == .lost) v p.1 = 0#2 := by simp [tagPolicy, h]
  have hclosed (l v : Bool) (h : d.route.passOpen = false) : tagPolicy d.route.passOpen l v p.1 = 0#2 := by simp [tagPolicy, h]
  split
  · exact ⟨p.2, _, _, hframe.1, hframe.2, ⟨rfl, rfl, rfl, rfl, rfl, fun h => ⟨by simp [h], hlost _ _ h⟩, hclosed _ _⟩,
      fun r => by split <;> rfl, rfl⟩
  · exact ⟨p.2, _, id, hframe.1, hframe.2, ⟨rfl, rfl, rfl, rfl, rfl, fun h => ⟨by simp [h], hlost _ _ h⟩, hclosed _ _⟩,
      fun _ => rfl, rfl⟩
end

end Sys2Proof.Machine
end

section
/-! SUPPORT. What TILE_ISSUE leaves of a due list and of a list that it starts (R338, R344, R345), and the notice (R349). -/
namespace Sys2Proof.Machine

open Sys2Proof

/-! ## The tile stands in its group -/

/-- No tile of a group's number stands at a frame and a place. -/
def Dev.placeFree (d : Dev) (g : BitVec 2) (frame : W32) (pos : Nat) : Prop :=
  ∀ e ∈ d.route.groups, e.1 % 4 = g.toNat → ∀ y, e.2 = some y → ∀ w ∈ y.tiles, w.frame = frame → w.pos ≠ pos

/-- Group `g` of `e` holds the tile of a place of a list, as it was issued in `d` for group `x`. -/
def Dev.issued (e d : Dev) (g : BitVec 2) (x : RefGroup) (l : RefList) (pos : Nat) : Prop :=
  ∃ y u, e.refGroup g = some y ∧ u ∈ y.tiles ∧ u.issuedFor d x l pos ∧ y.lastFrame = x.lastFrame ∧
    y.lists = x.lists.map (fun m => if m.frame == l.frame then { m with todo := m.todo.erase pos } else m)

theorem Tile.issuedFor.of_isOf {w u : Tile} {d : Dev} {x : RefGroup} {l : RefList} {pos : Nat} (h : u.issuedFor d x l pos)
    (hw : w.isOf u) (hframe : w.frame = u.frame) (hpos : w.pos = u.pos) : w.issuedFor d x l pos where
  frame := hframe.trans h.frame
  place := hpos.trans h.place
  q := hw.q.trans h.q
  pgen := hw.pgen.trans h.pgen
  epoch := hw.epoch.trans h.epoch
  lost hl := ⟨hw.lost.1 (h.lost hl).1, hw.upol.trans (h.lost hl).2⟩
  noPass hp := hw.upol.trans (h.noPass hp)

section
variable {d : Dev} {g : BitVec 2} {x : RefGroup} {l : RefList} {pos : Nat}
theorem Dev.holdsTile_took (hx : d.refGroup g = some x) {t : Tile} (hfree : d.placeFree g t.frame t.pos) :
    (d.modRef g (fun y => y.took l pos t)).holdsTile g (x.took l pos t) t := by
  constructor
  · intro e he hmod z hz w hw hframe hpos
    obtain hold | ⟨hg, y, hy, rfl⟩ := Dev.mem_groups_modRef he hz
    · exact absurd hpos (hfree e hold hmod z hz w hw hframe)
    · obtain hw | hw := List.mem_append.1 hw
      · exact absurd hpos (hfree _ (Dev.mem_groups_of_refGroup hy) (Nat.mod_eq_of_lt g.isLt) y rfl w hw hframe)
      · rw [List.mem_singleton.1 hw]
        exact .refl t
  · exact ⟨_, Dev.refGroup_modRef hx _, rfl, rfl, t, List.mem_append_right _ (List.mem_singleton_self t), rfl, rfl⟩

/-- A place that is free gets its tile, and leaves its list. -/
theorem Dev.issued_issueTile (hx : d.refGroup g = some x) (hfree : d.placeFree g l.frame pos) (upset : Bool) :
    (d.issueTile g x l pos upset).issued d g x l pos := by
  obtain ⟨d1, t, f, hgroups, -, ht, hf, hissue⟩ := d.issueTile_eq g x l pos upset
  have hx1 : d1.refGroup g = some x := by
    unfold Dev.refGroup
    rw [hgroups]
    exact hx
  have hfree1 : d1.placeFree g t.frame t.pos := by
    unfold Dev.placeFree
    rw [hgroups, ht.frame, ht.place]
    exact hfree
  have hholds := ((Dev.holdsTile_took (l := l) (pos := pos) hx1 hfree1).of_groups
    (e := (d1.modRef g (fun y => y.took l pos t)).modRoute f) (hf _)).tileBurst (x.dest pos)
  rw [← hissue] at hholds
  obtain ⟨y, hy, hlists, hlast, u, hu, hframe, hpos⟩ := hholds.held
  exact ⟨y, u, hy, hu, ht.of_isOf (hholds.isOf hy hu hframe hpos) hframe hpos, hlast, hlists⟩

theorem Dev.psram_issueTile (d : Dev) (g : BitVec 2) (x : RefGroup) (l : RefList) (pos : Nat) (upset : Bool) :
    (d.issueTile g x l pos upset).psram = d.psram := by
  obtain ⟨d1, t, f, -, hpsram, -, -, hissue⟩ := d.issueTile_eq g x l pos upset
  rw [hissue, psram_of_base (base_of_standing (Dev.standing_tileBurst _ _))]
  exact hpsram
end

/-! ## A list that is due, and the list of the next frame -/

/-- The group with the places that its queues take, its gone tiles and its whole lists forgotten. -/
def Dev.refreshed (d : Dev) (x : RefGroup) : RefGroup :=
  d.pruneRef { x with lists := x.lists.map (fun m => { m with todo := d.livePlaces x m.todo }) }

section
variable {d : Dev} {g : BitVec 2} {x : RefGroup}
theorem Dev.refreshed_tiles {w : Tile} (h : w ∈ (d.refreshed x).tiles) : w ∈ x.tiles := (List.mem_filter.1 h).1

/-- A group whose tiles are fewer leaves the places free that were. -/
theorem Dev.placeFree.modRef {z : RefGroup} {frame : W32} {pos : Nat} (h : d.placeFree g frame pos) (hx : d.refGroup g = some x)
    (hz : ∀ w ∈ z.tiles, w ∈ x.tiles) : (d.modRef g (fun _ => z)).placeFree g frame pos := by
  intro e he hmod y hy w hw
  obtain hold | ⟨-, y', -, rfl⟩ := Dev.mem_groups_modRef he hy
  · exact h e hold hmod y hy w hw
  · exact h _ (Dev.mem_groups_of_refGroup hx) (Nat.mod_eq_of_lt g.isLt) x rfl w (hz w hw)

theorem Dev.tileIssue_due (hen : d.route.en = true) (hidle : d.route.pstate ≠ .idle) (hx : d.refGroup g = some x) {l : RefList}
    {pos : Nat} {r : List Nat} (hfind : (d.refreshed x).lists.find? (fun m => !m.todo.isEmpty) = some l) (htodo : l.todo = pos :: r)
    (upset : Bool) : tileIssue g upset d = (d.modRef g (fun _ => d.refreshed x)).issueTile g (d.refreshed x) l pos upset := by
  have hany : (d.refreshed x).lists.any (fun m => !m.todo.isEmpty) = true :=
    List.any_eq_true.2 ⟨l, List.mem_of_find?_eq_some hfind, by simp [htodo]⟩
  have hrefresh : d.pruneRef { x with lists := x.lists.map (fun m => { m with todo := d.livePlaces x m.todo }) } = d.refreshed x := rfl
  simp [tileIssue, hx, hen, hidle, hrefresh, hany, Dev.refGroup_modRef hx, hfind, htodo]

theorem Dev.issued_tileIssue_due (hen : d.route.en = true) (hidle : d.route.pstate ≠ .idle) (hx : d.refGroup g = some x) {l : RefList}
    {pos : Nat} {r : List Nat} (hfind : (d.refreshed x).lists.find? (fun m => !m.todo.isEmpty) = some l) (htodo : l.todo = pos :: r)
    (hfree : d.placeFree g l.frame pos) (upset : Bool) :
    (tileIssue g upset d).issued d g (d.refreshed x) l pos ∧ (tileIssue g upset d).psram = d.psram := by
  rw [Dev.tileIssue_due hen hidle hx hfind htodo]
  obtain ⟨y, u, hy, hu, ht, hlast, hlists⟩ :=
    Dev.issued_issueTile (Dev.refGroup_modRef hx _) (hfree.modRef hx (fun _ => Dev.refreshed_tiles)) upset
  exact ⟨⟨y, u, hy, hu, ⟨ht.frame, ht.place, ht.q, ht.pgen, ht.epoch, ht.lost, ht.noPass⟩, hlast, hlists⟩, Dev.psram_issueTile ..⟩

/-- The group when a list has begun. -/
def RefGroup.begun (z : RefGroup) (l : RefList) : RefGroup :=
  { z with lists := z.lists ++ [l], lastFrame := some l.frame, lastFirst := l.first }

/-- The start of a list adds it to the group and leaves the rest that its tiles need. -/
theorem Dev.startList_eq {z : RefGroup} {f : W32} (hnext : d.nextListFrame z = some f) (hx : d.refGroup g = some x) :
    ∃ l : RefList, l.frame = f ∧ l.todo = d.livePlaces z (List.range (z.img.nbin * z.img.tpb)) ∧
      (d.startList g z).refGroup g = some (z.begun l) ∧
      (∀ e ∈ (d.startList g z).route.groups, ∀ y, e.2 = some y → e ∈ d.route.groups ∨ y.tiles = z.tiles) ∧
      (d.startList g z).route.pgen = d.route.pgen ∧ (d.startList g z).psram = d.psram := by
  have hroute : (d.startBin z f).2.route = d.route ∧ (d.startBin z f).2.psram = d.psram := by
    unfold Dev.startBin
    split
    · exact ⟨rfl, rfl⟩
    · exact ⟨rfl, rfl⟩
  have hx1 : (d.startBin z f).2.refGroup g = some x := by
    unfold Dev.refGroup
    rw [hroute.1]
    exact hx
  unfold Dev.startList
  rw [hnext]
  dsimp only
  have hbegun := Dev.refGroup_modRef hx1 (fun _ => z.begun ⟨f, (d.startBin z f).1, d.route.last.rev,
    d.livePlaces z (List.range (z.img.nbin * z.img.tpb))⟩)
  refine ⟨_, rfl, rfl, hbegun, fun e he y hy => ?_, (congrArg Route.pgen hroute.1 :), hroute.2⟩
  have hgroups : ∀ {h : RefGroup → RefGroup} {k : Route → Route}, (∀ r, (k r).groups = r.groups) →
      e ∈ (((d.startBin z f).2.modRef g h).modRoute k).route.groups → e ∈ ((d.startBin z f).2.modRef g h).route.groups :=
    fun hk he => hk _ ▸ he
  obtain hold | ⟨-, y', -, rfl⟩ := Dev.mem_groups_modRef (hgroups (fun _ => rfl) he) hy
  · exact .inl (hroute.1 ▸ hold)
  · exact .inr rfl

theorem Dev.tileIssue_next (hen : d.route.en = true) (hidle : d.route.pstate ≠ .idle) (hx : d.refGroup g = some x)
    (hwhole : (d.refreshed x).lists.any (fun m => !m.todo.isEmpty) = false) {l : RefList} {pos : Nat} {r : List Nat}
    (htodo : l.todo = pos :: r) (hbegun : (d.startList g (d.refreshed x)).refGroup g = some ((d.refreshed x).begun l)) (upset : Bool) :
    tileIssue g upset d = (d.startList g (d.refreshed x)).issueTile g ((d.refreshed x).begun l) l pos upset := by
  have hrefresh : d.pruneRef { x with lists := x.lists.map (fun m => { m with todo := d.livePlaces x m.todo }) } = d.refreshed x := rfl
  have hfind : ((d.refreshed x).begun l).lists.find? (fun m => !m.todo.isEmpty) = some l := by
    have hnone : (d.refreshed x).lists.find? (fun m => !m.todo.isEmpty) = none := by
      simpa using hwhole
    simp only [RefGroup.begun, List.find?_append, hnone]
    simp [htodo]
  simp [tileIssue, hx, hen, hidle, hrefresh, hwhole, hbegun, hfind, htodo]
end

/-! ## The four clauses -/

theorem tileIssue_dueClause (s : State) (g : BitVec 2) (upset : Bool) (x z : RefGroup) (l : RefList) (pos : Nat) (r : List Nat)
    (hen : s.dev.route.en = true) (hidle : s.dev.route.pstate ≠ .idle) (hx : s.dev.refGroup g = some x) (hz : z = s.dev.refreshed x)
    (hfind : z.lists.find? (fun m => !m.todo.isEmpty) = some l) (htodo : l.todo = pos :: r) (hfree : s.dev.placeFree g l.frame pos) :
    ∃ t y u, exec (.tileIssue g upset) s = .next t ∧ t.dev.refGroup g = some y ∧ u ∈ y.tiles ∧ u.frame = l.frame ∧ u.pos = pos ∧
      u.q = x.dest pos ∧ u.pgen = s.dev.route.pgen ∧ u.epoch = (s.dev.net x.net).epoch ∧
      (s.dev.route.pstate = .lost → u.tstat = 2#2 ∧ u.upol = 0#2) ∧ (s.dev.route.passOpen = false → u.upol = 0#2) ∧
      y.lists = z.lists.map (fun m => if m.frame == l.frame then { m with todo := m.todo.erase pos } else m) ∧
      t.dev.psram = s.dev.psram := by
  subst hz
  obtain ⟨⟨y, u, hy, hu, ht, -, hlists⟩, hpsram⟩ := Dev.issued_tileIssue_due hen hidle hx hfind htodo hfree upset
  exact ⟨_, y, u, rfl, hy, hu, ht.frame, ht.place, ht.q, ht.pgen, ht.epoch, ht.lost, ht.noPass, hlists, hpsram⟩

/-- A group with one due list, all of whose places are live, and no tiles has that list alone when it is refreshed. -/
theorem Dev.refreshed_lists_single {d : Dev} {x : RefGroup} {l : RefList} (hlists : x.lists = [l]) (hne : l.todo ≠ [])
    (hlive : ∀ k ∈ l.todo, d.queueLive (x.dest k) = true) : (d.refreshed x).lists = [l] := by
  have hall : d.livePlaces x l.todo = l.todo := List.filter_eq_self.2 hlive
  have htodo : l.todo.isEmpty = false := by simpa using hne
  simp [Dev.refreshed, Dev.pruneRef, hlists, hall, htodo]

theorem tileIssue_nextClause (s : State) (g : BitVec 2) (upset : Bool) (x z : RefGroup) (f : W32) (pos : Nat) (r : List Nat)
    (hen : s.dev.route.en = true) (hidle : s.dev.route.pstate ≠ .idle) (hx : s.dev.refGroup g = some x) (hz : z = s.dev.refreshed x)
    (hwhole : z.lists.any (fun m => !m.todo.isEmpty) = false) (hnext : s.dev.nextListFrame z = some f)
    (hplaces : s.dev.livePlaces z (List.range (x.img.nbin * x.img.tpb)) = pos :: r)
    (hfree : ∀ e ∈ s.dev.route.groups, e.1 % 4 = g.toNat → ∀ y, e.2 = some y → ∀ u ∈ y.tiles, u.frame ≠ f) :
    ∃ t y u, exec (.tileIssue g upset) s = .next t ∧ t.dev.refGroup g = some y ∧ y.lastFrame = some f ∧ u ∈ y.tiles ∧ u.frame = f ∧
      u.pos = pos ∧ u.q = x.dest pos ∧ u.pgen = s.dev.route.pgen ∧ t.dev.psram = s.dev.psram := by
  subst hz
  obtain ⟨l, hframe, htodo, hbegun, hgroups, hpgen, hpsram⟩ := Dev.startList_eq hnext hx
  have hfree1 : (s.dev.startList g (s.dev.refreshed x)).placeFree g l.frame pos := by
    intro e he hmod y hy w hw hwframe
    obtain hold | htiles := hgroups e he y hy
    · exact absurd (hwframe.trans hframe) (hfree e hold hmod y hy w hw)
    · rw [htiles] at hw
      exact absurd (hwframe.trans hframe) (hfree _ (Dev.mem_groups_of_refGroup hx) (Nat.mod_eq_of_lt g.isLt) x rfl w (Dev.refreshed_tiles hw))
  have hissue := Dev.tileIssue_next hen hidle hx hwhole (htodo.trans hplaces) hbegun upset
  have hpsram1 : (tileIssue g upset s.dev).psram = s.dev.psram := by rw [hissue, Dev.psram_issueTile, hpsram]
  obtain ⟨y, u, hy, hu, ht, hlast, -⟩ := Dev.issued_issueTile hbegun hfree1 upset
  rw [← hissue] at hy
  exact ⟨_, y, u, rfl, hy, hlast.trans (congrArg some hframe), hu, ht.frame.trans hframe, ht.place, ht.q, ht.pgen.trans hpgen, hpsram1⟩

theorem supersedeNotice_clause (s : State) (c : CoreId) (pgen : BitVec 4) (a b : W32) (hassigned : (s.dev.core c).assigned = true)
    (hkind : (s.dev.core c).kind = .comparison) (hframe : (s.dev.core c).inFrame = true)
    (hrange : pdist a (s.dev.core c).frame ≤ pdist a b)
    (hold : ∃ u ∈ (s.dev.core c).refs, u.frame = (s.dev.core c).frame ∧ pgenOlder u.pgen pgen = true) :
    ∃ t, exec (.supersedeNotice c pgen a b) s = .next t ∧ onlyCore c s t ∧
      t.dev.core c = { s.dev.core c with flags := (s.dev.core c).flags ||| 4#8 } := by
  have hany : (s.dev.core c).refs.any (fun u => u.frame == (s.dev.core c).frame && pgenOlder u.pgen pgen) = true := by
    simpa using hold
  have hmarked : supersedeNotice c pgen a b s.dev = s.dev.modCore c (fun k => { k with flags := k.flags ||| 4#8 }) := by
    simp [supersedeNotice, hassigned, hkind, hframe, hrange, hany]
  refine ⟨{ s with dev := supersedeNotice c pgen a b s.dev }, rfl, ?_⟩
  rw [hmarked]
  exact ⟨onlyCore_mod .., Dev.core_modCore_same ..⟩

/-- Settles O26: the bursts that an issued tile starts change a tile only where they find its frame and its place, so the new one stays
what it was issued as. -/
theorem tilesAndNotices : Obligations.TilesAndNotices := by
  unfold Obligations.TilesAndNotices
  refine ⟨fun s g upset x l pos r hen hidle hx hlists htodo hnone hlive => ?_,
    fun s g upset x z l pos r hen hidle hx hz hfind htodo hfree => ?_,
    fun s g upset x z f pos r => tileIssue_nextClause s g upset x z f pos r, supersedeNotice_clause⟩
  · have hsingle := Dev.refreshed_lists_single hlists (by simp [htodo]) hlive
    obtain ⟨t, y, u, hexec, hy, hu, hframe, hpos, hq, hpgen, hepoch, hlost, hpass, hdone, hpsram⟩ :=
      tileIssue_dueClause s g upset x _ l pos r hen hidle hx rfl (by simp [hsingle, htodo]) htodo
        (fun e he _ y hy w hw => by simp [hnone e he y hy] at hw)
    exact ⟨t, y, u, hexec, hy, hu, hframe, hpos, hq, hpgen, hepoch, hlost, hpass, by simp [hdone, hsingle, htodo], hpsram⟩
  · obtain ⟨t, y, u, hexec, hy, hu, hframe, hpos, hq, hpgen, hepoch, hlost, hpass, -, hpsram⟩ :=
      tileIssue_dueClause s g upset x z l pos r hen hidle hx hz hfind htodo hfree
    exact ⟨t, y, u, hexec, hy, hu, hframe, hpos, hq, hpgen, hepoch, hlost, hpass, hpsram⟩

end Sys2Proof.Machine
end

section
/-! SUPPORT. Entries of the position index and their fields (R331, R332), and what a bin that falls due makes of its entry (R355, R356,
R360). -/
namespace Sys2Proof.Machine

open Sys2Proof

/-! ## Fields of an entry -/

section
variable {n k : Nat} (e : BitVec 128) (v : BitVec n)
theorem getLsbD_entPut (lo i : Nat) (hi : i < 128) :
    (entPut e lo v).getLsbD i = if lo ≤ i ∧ i < lo + n then v.getLsbD (i - lo) else e.getLsbD i := by
  by_cases hlo : lo ≤ i
  · by_cases hn : i < lo + n
    · have h1 : i - lo < n := by omega
      have h2 : ¬ i < lo := by omega
      simp [entPut, hi, hlo, hn, h1, h2]
    · have h1 : ¬ i - lo < n := by omega
      simp [entPut, hi, hlo, hn, h1, BitVec.getLsbD_of_ge v (i - lo) (by omega)]
  · have h2 : i < lo := by omega
    simp [entPut, hi, hlo, h2]

/-- A field that has been put reads back. -/
theorem extractLsb'_entPut_same (lo : Nat) (h : lo + n ≤ 128) : (entPut e lo v).extractLsb' lo n = v := by
  refine BitVec.eq_of_getLsbD_eq fun i hi => ?_
  rw [BitVec.getLsbD_extractLsb', getLsbD_entPut e v lo (lo + i) (by omega)]
  simp [hi]

/-- A field that lies apart from the one put is as it was. -/
theorem extractLsb'_entPut_apart {lo at_ : Nat} (hk : at_ + k ≤ 128) (h : at_ + k ≤ lo ∨ lo + n ≤ at_) :
    (entPut e lo v).extractLsb' at_ k = e.extractLsb' at_ k := by
  refine BitVec.eq_of_getLsbD_eq fun i hi => ?_
  rw [BitVec.getLsbD_extractLsb', getLsbD_entPut e v lo (at_ + i) (by omega), BitVec.getLsbD_extractLsb', if_neg (by omega)]
end

theorem entAddr_age (e : BitVec 128) (v : Byte) : entAddr (entPut e 118 v) = entAddr e :=
  extractLsb'_entPut_apart e v (by omega) (by omega)
theorem entAge_age (e : BitVec 128) (v : Byte) : entAge (entPut e 118 v) = v := extractLsb'_entPut_same e v 118 (by omega)

/-- The entry that a commit writes over the counts of a bin's tiles. -/
def entCommitted (e : BitVec 128) (c : Cand) (pass : BitVec 6) : BitVec 128 :=
  entPut (entPut (entPut (entPut (entPut e 0 (c.bin.extractLsb' 17 15)) 15 1#2) 55 c.block) 112 pass) 118 0#8

/-- A committed entry is valid for the candidate's bin, names its block and is new. -/
theorem entCommitted_fields (e : BitVec 128) (c : Cand) (pass : BitVec 6) : entValid (entCommitted e c pass) c.bin = true ∧
    entAddr (entCommitted e c pass) = c.block ∧ entAge (entCommitted e c pass) = 0#8 := by
  have htag : (entCommitted e c pass).extractLsb' 0 15 = c.bin.extractLsb' 17 15 := by
    unfold entCommitted
    rw [extractLsb'_entPut_apart _ _ (by omega) (by omega), extractLsb'_entPut_apart _ _ (by omega) (by omega),
      extractLsb'_entPut_apart _ _ (by omega) (by omega), extractLsb'_entPut_apart _ _ (by omega) (by omega),
      extractLsb'_entPut_same _ _ 0 (by omega)]
  have hstate : entState (entCommitted e c pass) = 1#2 := by
    unfold entState entCommitted
    rw [extractLsb'_entPut_apart _ _ (by omega) (by omega), extractLsb'_entPut_apart _ _ (by omega) (by omega),
      extractLsb'_entPut_apart _ _ (by omega) (by omega), extractLsb'_entPut_same _ _ 15 (by omega)]
  have haddr : entAddr (entCommitted e c pass) = c.block := by
    unfold entAddr entCommitted
    rw [extractLsb'_entPut_apart _ _ (by omega) (by omega), extractLsb'_entPut_apart _ _ (by omega) (by omega),
      extractLsb'_entPut_same _ _ 55 (by omega)]
  exact ⟨by simp [entValid, htag, hstate], haddr, entAge_age _ _⟩

/-! ## Entries of the index -/

section
variable {d e : Dev} {b x : W32}
theorem Dev.entry_of_index (h : e.route.index = d.route.index) (b : W32) : e.entry b = d.entry b := by
  unfold Dev.entry
  rw [h]
theorem Dev.entry_setEntry (d : Dev) (b x : W32) (v : BitVec 128) :
    (d.setEntry b v).entry x = if slotOfBin b = slotOfBin x then v else d.entry x := tblGet_set 0#128 v d.route.index _ _

theorem Dev.entry_commitCand (d : Dev) (c : Cand) : ∃ v p, ∀ x, (d.commitCand c).entry x =
    if slotOfBin c.bin = slotOfBin x then entCommitted v c p else d.entry x := by
  have hset (d1 : Dev) (v : BitVec 128) (args : List W32) (x : W32) (h : d1.route = d.route) :
      ((d1.setEntry c.bin v).raise0 0x9005#16 args).entry x = if slotOfBin c.bin = slotOfBin x then v else d.entry x := by
    rw [Dev.entry_of_index (congrArg Route.index (route_of_plinth (Dev.plinth_raise0 _ _ _))), Dev.entry_setEntry,
      Dev.entry_of_index (congrArg Route.index h)]
  unfold Dev.commitCand
  dsimp only
  split
  · exact ⟨_, _, fun x => hset _ _ _ x rfl⟩
  · exact ⟨_, _, fun x => hset _ _ _ x rfl⟩

/-- A commit has the entry of the candidate's bin valid, new and with its block, and leaves the entries of the other slots. -/
theorem Dev.commitCand_entries (d : Dev) (c : Cand) :
    (entValid ((d.commitCand c).entry c.bin) c.bin = true ∧ entAddr ((d.commitCand c).entry c.bin) = c.block ∧
      entAge ((d.commitCand c).entry c.bin) = 0#8) ∧
    ∀ x, slotOfBin x ≠ slotOfBin c.bin → (d.commitCand c).entry x = d.entry x := by
  obtain ⟨v, p, h⟩ := d.entry_commitCand c
  rw [h c.bin, if_pos rfl]
  exact ⟨entCommitted_fields v c p, fun x hx => by rw [h x, if_neg (Ne.symm hx)]⟩

theorem Dev.entry_ageBin_other (h : slotOfBin x ≠ slotOfBin b) : (d.ageBin b).entry x = d.entry x := by
  unfold Dev.ageBin
  dsimp only
  split
  · rw [Dev.entry_setEntry, if_neg (Ne.symm h)]
  · rfl
theorem Dev.entAddr_ageBin (d : Dev) (b : W32) : entAddr ((d.ageBin b).entry b) = entAddr (d.entry b) := by
  unfold Dev.ageBin
  dsimp only
  split
  · rw [Dev.entry_setEntry, if_pos rfl, entAddr_age]
  · rfl
/-- A valid entry grows older by one, up to 255. -/
theorem Dev.entAge_ageBin (h : entValid (d.entry b) b = true) : entAge ((d.ageBin b).entry b) = satInc (entAge (d.entry b)) := by
  simp [Dev.ageBin, h, Dev.entry_setEntry, entAge_age]
end

/-! ## A bin falls due -/

/-- The bin leaves the bins of the pass and its candidate the open ones. -/
def Dev.dueTaken (d : Dev) (b : W32) : Dev :=
  d.modRoute (fun r => { r with past := r.past.filter (fun x => x != b), cands := r.cands.filter (fun c => c.bin != b) })

/-- What a bin that fell due without a commit leaves of its own entry and of the others. -/
structure Dev.agedOf (e d : Dev) (b : W32) : Prop where
  other : ∀ x, slotOfBin x ≠ slotOfBin b → e.entry x = d.entry x
  addr : entAddr (e.entry b) = entAddr (d.entry b)
  age : entValid (d.entry b) b = true → entAge (e.entry b) = satInc (entAge (d.entry b))

section
variable {d e : Dev} {b : W32} {c : Cand}
theorem Dev.agedOf_ageBin (h : e.route.index = d.route.index) : (e.ageBin b).agedOf d b where
  other _ hx := (Dev.entry_ageBin_other hx).trans (Dev.entry_of_index h _)
  addr := (e.entAddr_ageBin b).trans (congrArg entAddr (Dev.entry_of_index h b))
  age hv := by
    have hb := Dev.entry_of_index h b
    rw [← hb] at hv ⊢
    exact Dev.entAge_ageBin hv

theorem Dev.pend_ageBin (d : Dev) (b : W32) : (d.ageBin b).route.pend = d.route.pend ∧ (d.ageBin b).route.candDrop = d.route.candDrop := by
  obtain ⟨i, hi⟩ := d.route_ageBin b
  rw [hi]
  exact ⟨rfl, rfl⟩

/-- A bin without a candidate: that of the pass has its entry age. -/
theorem Dev.binDue_none (h : d.route.cands.find? (fun c => c.bin == b) = none) :
    d.binDue b = if d.route.past.contains b then (d.dueTaken b).ageBin b else d.dueTaken b := by
  simp only [Dev.binDue, h]
  rfl
/-- A candidate that the device commits. -/
theorem Dev.binDue_commit (h : d.route.cands.find? (fun c => c.bin == b) = some c) (hhost : d.candHost c = false)
    (hwhole : d.candWhole c = true) (htaint : c.tainted = false) : d.binDue b = (d.dueTaken b).commitCand c := by
  simp only [Dev.binDue, h, hhost, hwhole, htaint, Bool.false_eq_true, if_false, Bool.not_false, Bool.and_self, if_true]
  rfl
/-- A candidate that the device discards. -/
theorem Dev.binDue_discard (h : d.route.cands.find? (fun c => c.bin == b) = some c) (hhost : d.candHost c = false)
    (hbad : d.candWhole c = false ∨ c.tainted = true) : d.binDue b = ((d.dueTaken b).discardCand c).ageBin b := by
  have hgood : (d.candWhole c && !c.tainted) = false := by
    obtain h | h := hbad <;> simp [h]
  simp only [Dev.binDue, h, hhost, hgood, Bool.false_eq_true, if_false]
  rfl
/-- A candidate that waits for the host. -/
theorem Dev.binDue_pend (h : d.route.cands.find? (fun c => c.bin == b) = some c) (hhost : d.candHost c = true)
    (hroom : d.route.pend.length < 256) : d.binDue b = ((d.dueTaken b).modRoute (fun r => { r with pend := r.pend ++ [c] })).ageBin b := by
  simp only [Dev.binDue, h, hhost, hroom, if_true]
  rfl
/-- A candidate for the host that the pending list has no room for. -/
theorem Dev.binDue_full (h : d.route.cands.find? (fun c => c.bin == b) = some c) (hhost : d.candHost c = true)
    (hroom : 256 ≤ d.route.pend.length) : d.binDue b =
      (((d.dueTaken b).discardCand c).modRoute (fun r => { r with candDrop := satInc r.candDrop })).ageBin b := by
  simp only [Dev.binDue, h, hhost, Nat.not_lt.2 hroom, if_true, if_false]
  rfl

/-- Each end of a candidate that is not a commit leaves its bin's entry aged. -/
theorem Dev.agedOf_binDue_host (h : d.route.cands.find? (fun c => c.bin == b) = some c) (hhost : d.candHost c = true) :
    (d.binDue b).agedOf d b := by
  by_cases hroom : d.route.pend.length < 256
  · rw [Dev.binDue_pend h hhost hroom]
    exact Dev.agedOf_ageBin rfl
  · rw [Dev.binDue_full h hhost (Nat.not_lt.1 hroom)]
    exact Dev.agedOf_ageBin rfl
theorem Dev.agedOf_binDue_discard (h : d.route.cands.find? (fun c => c.bin == b) = some c) (hhost : d.candHost c = false)
    (hbad : d.candWhole c = false ∨ c.tainted = true) : (d.binDue b).agedOf d b := by
  rw [Dev.binDue_discard h hhost hbad]
  exact Dev.agedOf_ageBin rfl

theorem bin_of_find? {l : List Cand} (h : l.find? (fun c => c.bin == b) = some c) : c.bin = b := by
  simpa using List.find?_some h

/-- The entries of the other slots stay whatever becomes of a bin's candidate. -/
theorem Dev.entry_binDue_other (d : Dev) {x b : W32} (hx : slotOfBin x ≠ slotOfBin b) : (d.binDue b).entry x = d.entry x := by
  cases hfind : d.route.cands.find? (fun c => c.bin == b) with
  | none =>
    rw [Dev.binDue_none hfind]
    split
    · exact (Dev.agedOf_ageBin (d := d) (e := d.dueTaken b) rfl).other x hx
    · rfl
  | some c =>
    cases hhost : d.candHost c with
    | true => exact (Dev.agedOf_binDue_host hfind hhost).other x hx
    | false =>
      by_cases hgood : d.candWhole c = true ∧ c.tainted = false
      · rw [Dev.binDue_commit hfind hhost hgood.1 hgood.2]
        exact (Dev.commitCand_entries _ c).2 x (bin_of_find? hfind ▸ hx)
      · refine (Dev.agedOf_binDue_discard hfind hhost ?_).other x hx
        cases hw : d.candWhole c <;> cases ht : c.tainted <;> simp_all
end

theorem exec_candidateDue {s : State} {b : W32} (hen : s.dev.route.en = true) (hpassed : s.dev.binPassed b = true) :
    exec (.candidateDue b) s = .next { s with dev := s.dev.binDue b } := by
  have hdue : candidateDue b s.dev = s.dev.binDue b := by simp [candidateDue, hen, hpassed]
  rw [← hdue]
  rfl

theorem candidateDue_clause (s : State) (b : W32) (hen : s.dev.route.en = true) (hpassed : s.dev.binPassed b = true) :
    ∃ t, exec (.candidateDue b) s = .next t ∧ t.dev.route.cands = s.dev.route.cands.filter (fun x => x.bin != b) ∧
      t.dev.route.past = s.dev.route.past.filter (fun x => x != b) ∧ coresQueuesKept s t ∧
      (∀ x, slotOfBin x ≠ slotOfBin b → t.dev.entry x = s.dev.entry x) ∧
      (∀ c, s.dev.route.cands.find? (fun x => x.bin == b) = some c → s.dev.candHost c = false →
        (s.dev.candWhole c = true → c.tainted = false → entValid (t.dev.entry b) b = true ∧ entAddr (t.dev.entry b) = c.block ∧
          entAge (t.dev.entry b) = 0#8 ∧ t.dev.route.pend = s.dev.route.pend) ∧
        (s.dev.candWhole c = false ∨ c.tainted = true →
          entAddr (t.dev.entry b) = entAddr (s.dev.entry b) ∧ t.dev.route.pend = s.dev.route.pend)) ∧
      (∀ c, s.dev.route.cands.find? (fun x => x.bin == b) = some c → s.dev.candHost c = true →
        entAddr (t.dev.entry b) = entAddr (s.dev.entry b) ∧
        (s.dev.route.pend.length < 256 → t.dev.route.pend = s.dev.route.pend ++ [c]) ∧
        (256 ≤ s.dev.route.pend.length → t.dev.route.pend = s.dev.route.pend ∧
          t.dev.route.candDrop = satInc s.dev.route.candDrop)) ∧
      (s.dev.route.cands.find? (fun x => x.bin == b) = none → b ∈ s.dev.route.past → entValid (s.dev.entry b) b = true →
        entAge (t.dev.entry b) = satInc (entAge (s.dev.entry b))) := by
  obtain ⟨i, p, n, hroute⟩ := s.dev.route_binDue b
  refine ⟨_, exec_candidateDue hen hpassed, congrArg Route.cands hroute, congrArg Route.past hroute,
    coresQueuesKept_of_silicon (s.dev.silicon_binDue b), fun x hx => s.dev.entry_binDue_other hx,
    fun c hc hhost => ⟨fun hwhole htaint => ?_, fun hbad => ?_⟩,
    fun c hc hhost => ⟨(Dev.agedOf_binDue_host hc hhost).addr, fun hroom => ?_, fun hroom => ?_⟩, fun hnone hpast hvalid => ?_⟩
  · dsimp only
    obtain ⟨j, hj⟩ := (s.dev.dueTaken b).route_commitCand c
    have hentry := (Dev.commitCand_entries (s.dev.dueTaken b) c).1
    rw [bin_of_find? hc] at hentry
    rw [Dev.binDue_commit hc hhost hwhole htaint]
    exact ⟨hentry.1, hentry.2.1, hentry.2.2, (congrArg Route.pend hj).trans rfl⟩
  · refine ⟨(Dev.agedOf_binDue_discard hc hhost hbad).addr, ?_⟩
    dsimp only
    rw [Dev.binDue_discard hc hhost hbad]
    exact (Dev.pend_ageBin _ b).1
  · dsimp only
    rw [Dev.binDue_pend hc hhost hroom]
    exact (Dev.pend_ageBin _ b).1
  · dsimp only
    rw [Dev.binDue_full hc hhost hroom]
    exact Dev.pend_ageBin _ b
  · dsimp only
    rw [Dev.binDue_none hnone, if_pos (by simpa using hpast)]
    exact (Dev.agedOf_ageBin (d := s.dev) (e := s.dev.dueTaken b) rfl).age hvalid

/-! ## The host's decision (R360) -/

theorem Dev.rteDecide_cons {d : Dev} {c : Cand} {l : List Cand} (h : d.route.pend = c :: l) (hhost : d.candHost c = true)
    (f : Cand → Dev → Dev) : d.rteDecide f = f c (d.modRoute (fun r => { r with pend := l })) := by
  simp only [Dev.rteDecide, h, hhost, if_true]
theorem Dev.rteDecide_nil {d : Dev} (h : d.route.pend = []) (f : Cand → Dev → Dev) : d.rteDecide f = d.rteReject := by
  simp only [Dev.rteDecide, h]

/-- A write of the host keeps the decision with it: the host is heard, so its silence ends (R479). -/
theorem Dev.candHost_hostWrote {d : Dev} {c : Cand} (h : d.candHost c = true) : d.hostWrote.candHost c = true := by
  have hpart : d.hostWrote.candPart c = d.candPart c := rfl
  unfold Dev.candHost at h ⊢
  rw [hpart]
  split at h
  · next p _ =>
    have hmode : ((d.part p).mode.getLsbD 7 && !d.evt.fallen) = true := h
    exact Bool.and_eq_true_iff.2 ⟨(Bool.and_eq_true_iff.1 hmode).1, rfl⟩
  · exact absurd h Bool.false_ne_true

theorem rteDecide_clause (s : State) (c : Cand) (l : List Cand) (hr : hostRuns s) (hpend : s.dev.route.pend = c :: l)
    (hhost : s.dev.candHost c = true) :
    (∃ t, exec .rteDecideCommit s = .next t ∧ t.dev.route.pend = l ∧ entValid (t.dev.entry c.bin) c.bin = true ∧
      entAddr (t.dev.entry c.bin) = c.block ∧ (∀ b, slotOfBin b ≠ slotOfBin c.bin → t.dev.entry b = s.dev.entry b) ∧
      coresQueuesKept s t) ∧
    (∃ t, exec .rteDecideDiscard s = .next t ∧ t.dev.route = { s.dev.route with pend := l } ∧ coresQueuesKept s t) := by
  have hdecide := Dev.rteDecide_cons (d := s.dev.hostWrote) hpend (Dev.candHost_hostWrote hhost)
  constructor
  · refine ⟨_, congrArg Host.Outcome.next (hostWrite_runs hr _), ?_⟩
    dsimp only
    rw [hdecide]
    obtain ⟨i, hi⟩ := (s.dev.hostWrote.modRoute (fun r => { r with pend := l })).route_commitCand c
    obtain ⟨⟨hvalid, haddr, -⟩, hother⟩ := Dev.commitCand_entries (s.dev.hostWrote.modRoute (fun r => { r with pend := l })) c
    exact ⟨congrArg Route.pend hi, hvalid, haddr, hother, coresQueuesKept_hostWrote (by simp)⟩
  · refine ⟨_, congrArg Host.Outcome.next (hostWrite_runs hr _), ?_⟩
    dsimp only
    rw [hdecide, Dev.route_discardCand]
    exact ⟨rfl, coresQueuesKept_hostWrote (by simp)⟩

theorem rteDecide_nothingClause (s : State) (hr : hostRuns s) (hpend : s.dev.route.pend = []) (i : Instr)
    (hi : i = .rteDecideCommit ∨ i = .rteDecideDiscard) : ∃ t, exec i s = .next t ∧
      t.dev.route = { s.dev.route with rej := satInc s.dev.route.rej } ∧ coresQueuesKept s t := by
  have hreject := Dev.rteDecide_nil (d := s.dev.hostWrote) hpend
  have hkept := coresQueuesKept_hostWrote (s := s) (Dev.silicon_rteReject s.dev.hostWrote)
  obtain rfl | rfl := hi
  · refine ⟨_, congrArg Host.Outcome.next (hostWrite_runs hr _), ?_⟩
    dsimp only
    rw [hreject]
    exact ⟨rfl, hkept⟩
  · refine ⟨_, congrArg Host.Outcome.next (hostWrite_runs hr _), ?_⟩
    dsimp only
    rw [hreject]
    exact ⟨rfl, hkept⟩

end Sys2Proof.Machine
end

section
/-! SUPPORT. The candidate writer (R352 to R354): a burst of a candidate tile in the memory, and what the writer leaves of its edge. -/
namespace Sys2Proof.Machine

open Sys2Proof

/-! ## What a receiver finds, through a fault -/

theorem any_of_tblGet {α : Type} {P : α → Bool} {d : α} (hd : P d = false) {t : Tbl α} {n : Nat} (h : P (tblGet d t n) = true) :
    t.any (fun e => P e.2) = true := by
  have hne : tblGet d t n ≠ d := fun heq => by rw [heq, hd] at h; exact Bool.false_ne_true h
  exact List.any_eq_true.2 ⟨_, mem_of_tblGet_ne d n t hne, h⟩

/-- A value put in the place of one that a test does not tell from it leaves what the test finds in a table. -/
theorem any_tblPut {α : Type} {P : α → Bool} {d v : α} {n : Nat} (hd : P d = false) :
    ∀ {t : Tbl α}, P v = P (tblGet d t n) → (tblPut n v t).any (fun e => P e.2) = t.any (fun e => P e.2)
  | [], hv => by simp [tblPut, hv, tblGet, hd]
  | (k, w) :: t, hv => by
    unfold tblPut
    split
    · cases hp : P v with
      | false => simp [hp]
      | true =>
        have hfound := any_of_tblGet hd (hv.symm.trans hp)
        rw [List.any_cons, hfound, Bool.or_true]
    · split
      · next hk =>
        rw [tblGet, if_pos hk.symm] at hv
        simp [hv]
      · next hk =>
        rw [tblGet, if_neg (Ne.symm hk)] at hv
        simp [any_tblPut hd hv]

theorem satInc_ne_zero (x : W16) : satInc x ≠ 0#16 := by
  intro h
  have hx := satInc_toNat x
  rw [h] at hx
  simp only [BitVec.toNat_ofNat] at hx
  omega

section
variable (d : Dev) (who : Requester) (p : PartId) (a : Nat)
theorem Dev.parts_tfault :
    (d.tfault who p a).parts = tblPut p.toNat { d.part p with tfOther := satInc (d.part p).tfOther } d.parts := by
  have hne : ({ d.part p with tfOther := satInc (d.part p).tfOther } : Partition) ≠ {} :=
    fun h => satInc_ne_zero _ (congrArg Partition.tfOther h)
  exact if_neg hne
/-- A fault of the candidate writer leaves what a receiver finds. -/
theorem Dev.peek_tfault (q : QueueId) (r : BitVec 10) : (d.tfault who p a).peek q r = d.peek q r := by
  have hpart (x : PartId) : ((d.tfault who p a).part x).live = (d.part x).live ∧ ((d.tfault who p a).part x).frozen = (d.part x).frozen := by
    have hx : (d.tfault who p a).part x = (d.modPart p (fun y => { y with tfOther := satInc y.tfOther })).part x := rfl
    rw [hx, Dev.part_modPart]
    split
    · next h => subst h; exact ⟨rfl, rfl⟩
    · exact ⟨rfl, rfl⟩
  have hlane : (d.tfault who p a).laneForced q (some r) = d.laneForced q (some r) := by
    unfold Dev.laneForced
    rw [d.parts_tfault who p a]
    exact any_tblPut (P := fun x : Partition => x.segs.any (fun g => g.2.forced && g.2.q == some q && g.2.rcv == some r)) (d := {}) rfl rfl
  have hlive : (d.tfault who p a).queueLive q = d.queueLive q := by
    unfold Dev.queueLive
    rw [(hpart _).1]
    rfl
  have hdead : (d.tfault who p a).readsDead q r = d.readsDead q r := by
    unfold Dev.readsDead
    rw [hlive, (hpart _).2, hlane]
  unfold Dev.peek
  rw [hdead]
  rfl
end

theorem Dev.peek_modRoute (d : Dev) (f : Route → Route) (q : QueueId) (r : BitVec 10) : (d.modRoute f).peek q r = d.peek q r := by rfl

/-! ## A burst of a candidate tile -/

/-- A granule of 512 bytes of which the first is stored lies in one view. -/
theorem psramRange_of_granule {d : Dev} {a : Nat} (ha : a % 512 = 0) (h : (locate d.die1 a).isSome = true) : d.psramRange a 512 = true := by
  have hspan : spanEnd d.die1 % 512 = 0 := by cases d.die1 <;> rfl
  have hdie : dieViewEnd d.die1 % 512 = 0 := by cases d.die1 <;> rfl
  have hchan : chanViewEnd d.die1 % 512 = 0 := by cases d.die1 <;> rfl
  have hle := spanEnd_le d.die1
  simp only [Dev.psramRange, rangeOk, viewEnd, isIndexAddr, Bool.and_eq_true, decide_eq_true_eq] at h ⊢
  by_cases h1 : a < spanEnd d.die1
  · have h2 : ¬ 0x400000000 ≤ a := by omega
    simp only [h1, if_true, h2, decide_false, Bool.false_and, Bool.not_false, and_true]
    exact decide_eq_true (by omega)
  · by_cases h2 : 0x800000000 ≤ a ∧ a < dieViewEnd d.die1
    · have h3 : ¬ (0x400000000 ≤ a ∧ a < 0x400200000) := by omega
      simp only [h1, if_false, h2, h3]
      simp
      omega
    · by_cases h3 : 0xC00000000 ≤ a ∧ a < chanViewEnd d.die1
      · have h4 : ¬ (0x400000000 ≤ a ∧ a < 0x400200000) := by omega
        simp only [h1, h2, if_false, h3, h4]
        simp
        omega
      · simp [locate, h1, h2, h3] at h

theorem length_flatMap_bytes64 (ws : List W64) : (ws.flatMap bytes64).length = 8 * ws.length := by
  simp [List.length_flatMap, Nat.mul_comm]

section
variable {d : Dev} {q : QueueId} {b : W32} {a : Nat} {ws : List W64}
/-- A burst that nothing refuses reaches the memory. -/
theorem Dev.candBurst_written (hcause : d.causeFor .route (partOfQueue q) a true = none) (hstored : (locate d.die1 a).isSome = true) :
    ∃ die, d.candBurst q b a ws = (d.writeBytes a (ws.flatMap bytes64)).countBurst die 2#2 := by
  obtain ⟨pl, hpl⟩ := Option.isSome_iff_exists.1 hstored
  refine ⟨pl.1 / 96, ?_⟩
  simp only [Dev.candBurst, hcause, hpl]
/-- Any other faults, and taints the candidate. -/
theorem Dev.candBurst_cases (d : Dev) (q : QueueId) (b : W32) (a : Nat) (ws : List W64) :
    (∃ die, d.candBurst q b a ws = (d.writeBytes a (ws.flatMap bytes64)).countBurst die 2#2) ∨
      d.candBurst q b a ws = (d.tfault .route (partOfQueue q) a).modRoute (fun r => r.modCand b (fun c => { c with tainted := true })) := by
  unfold Dev.candBurst
  split
  · exact .inl ⟨_, rfl⟩
  · exact .inr rfl

/-- A burst leaves what the writer has in hand, the free list and what a receiver finds. -/
theorem Dev.candBurst_frame (d : Dev) (q : QueueId) (b : W32) (a : Nat) (ws : List W64) :
    (d.candBurst q b a ws).route.candIn = d.route.candIn ∧ (d.candBurst q b a ws).route.free = d.route.free ∧
      ∀ (q' : QueueId) (r : BitVec 10), (d.candBurst q b a ws).peek q' r = d.peek q' r := by
  obtain ⟨die, h⟩ | h := d.candBurst_cases q b a ws
  · rw [h, Dev.writeBytes_frame]
    exact ⟨rfl, rfl, fun _ _ => rfl⟩
  · have hroute := route_of_plinth (d.plinth_tfault .route (partOfQueue q) a)
    rw [h]
    exact ⟨(congrArg Route.candIn hroute :), (congrArg Route.free hroute :), fun q' r => d.peek_tfault .route (partOfQueue q) a q' r⟩

theorem Dev.readBytes_of_psram {e : Dev} (hpsram : e.psram = d.psram) (hdie : e.die1 = d.die1) (a n : Nat) :
    e.readBytes a n = d.readBytes a n := by
  induction n generalizing a with
  | zero => rfl
  | succ n ih => rw [Dev.readBytes, Dev.readBytes, ih, Dev.readByte, Dev.readByte, hpsram, hdie]

/-- The 64 words of a burst that reached the memory read back as its 512 bytes. -/
theorem Dev.readBytes_candBurst (hcause : d.causeFor .route (partOfQueue q) a true = none) (hstored : (locate d.die1 a).isSome = true)
    (ha : a % 512 = 0) (hlen : ws.length = 64) : (d.candBurst q b a ws).readBytes a 512 = ws.flatMap bytes64 := by
  obtain ⟨die, h⟩ := Dev.candBurst_written (b := b) (ws := ws) hcause hstored
  have hbytes : (ws.flatMap bytes64).length = 512 := by rw [length_flatMap_bytes64, hlen]
  have hrange : d.psramRange a (ws.flatMap bytes64).length = true := hbytes ▸ psramRange_of_granule ha hstored
  have hread := Dev.readBytes_memWrite hrange
  rw [Dev.memWrite_psramRange hrange, hbytes] at hread
  have hcount := Dev.readBytes_of_psram (d := d.writeBytes a (ws.flatMap bytes64)) (e := (d.writeBytes a (ws.flatMap bytes64)).countBurst die 2#2) rfl rfl a 512
  rw [h, hcount, hread]
end

/-! ## A data word of a slot -/

section
variable (d : Dev) (q : QueueId)
theorem Dev.candIn_modCandIn (f : CandIn → CandIn) : (d.modCandIn q f).candIn q = f (d.candIn q) := by
  simp [Dev.candIn, Dev.modCandIn, Dev.modRoute, tblMod]
/-- The last word of a slot enters its tile into the candidate. -/
def Dev.candTileDone (x : CandIn) : Dev :=
  if x.left == 1 then d.modRoute (fun r => r.modCand x.bin (fun k =>
    { k with tiles := if k.tiles.contains (x.group, x.tile) then k.tiles else k.tiles ++ [(x.group, x.tile)] })) else d

/-- What the writer has in hand when a data word has come to what it had. -/
def CandIn.took (x : CandIn) (w : W64) : CandIn → CandIn := fun c =>
  { c with left := c.left - 1, addr := c.addr.map (fun a => if x.held.length = 63 then a + 512 else a),
           held := if x.held.length = 63 then [] else x.held ++ [w] }

/-- A data word of a slot that is written: the burst that it fills, and the end of its tile. -/
theorem Dev.candData_eq {x : CandIn} (hx : d.candIn q = x) {a : Nat} (ha : x.addr = some a) (w : QWord) : d.candData q w =
    ((if x.held.length = 63 then d.candBurst q x.bin a (x.held ++ [w.payload]) else d).candTileDone x).modCandIn q (x.took w.payload) := by
  unfold Dev.candData Dev.candTileDone CandIn.took
  rw [hx]
  by_cases hlen : x.held.length = 63
  · simp [ha, hlen]
  · simp [ha, hlen]

theorem Dev.candTileDone_frame (x : CandIn) : (d.candTileDone x).route.candIn = d.route.candIn ∧
    (d.candTileDone x).route.free = d.route.free ∧ (d.candTileDone x).psram = d.psram ∧ (d.candTileDone x).die1 = d.die1 ∧
    (∀ (q' : QueueId) (r : BitVec 10), (d.candTileDone x).peek q' r = d.peek q' r) := by
  unfold Dev.candTileDone
  split
  · exact ⟨rfl, rfl, rfl, rfl, fun _ _ => rfl⟩
  · exact ⟨rfl, rfl, rfl, rfl, fun _ _ => rfl⟩

/-- Every open candidate of the bin holds the tile whose last word has come. -/
theorem Dev.cands_candTileDone {x : CandIn} (hleft : x.left = 1) {c : Cand} (hc : c ∈ (d.candTileDone x).route.cands)
    (hbin : c.bin = x.bin) : (x.group, x.tile) ∈ c.tiles := by
  have hcands : (d.candTileDone x).route.cands = d.route.cands.map (fun c => if c.bin == x.bin then
      { c with tiles := if c.tiles.contains (x.group, x.tile) then c.tiles else c.tiles ++ [(x.group, x.tile)] } else c) := by
    simp only [Dev.candTileDone, hleft]
    rfl
  rw [hcands] at hc
  obtain ⟨k, -, rfl⟩ := List.mem_map.1 hc
  by_cases hk : k.bin = x.bin
  · simp only [hk, beq_self_eq_true, if_true]
    split
    · next h => simpa using h
    · exact List.mem_append_right _ (List.mem_singleton_self _)
  · simp only [beq_iff_eq, hk, if_false] at hbin
end

/-! ## The writer's run -/

section
variable {d : Dev} {q : QueueId} {r : BitVec 10}
theorem Dev.candRun_empty (h : d.peek q r = .empty) (n : Nat) : d.candRun q r n = d := by
  cases n with
  | zero => rfl
  | succ n => simp only [Dev.candRun, h]

/-- A data word after which a slot ends or nothing has come is the last one that the writer takes. -/
theorem candidateTile_word (hcand : d.refGroups.any (fun e => e.2.img.cands.contains q) = true) {w : QWord} (h : d.peek q r = .word w)
    (hkind : w.kind = .data) (hstop : (((d.seqRead q r).candWord q w).candIn q).left = 0 ∨ ((d.seqRead q r).candWord q w).peek q r = .empty) :
    candidateTile q r d = (d.seqRead q r).candWord q w := by
  simp only [candidateTile, hcand, if_true, Dev.candRun, h]
  split
  · rfl
  · next hmore =>
    refine Dev.candRun_empty (hstop.resolve_left fun hzero => hmore ?_) _
    simp [hkind, hzero]

theorem Dev.candIn_of_plinth {e : Dev} (h : e.plinth = d.plinth) (q : QueueId) : e.candIn q = d.candIn q := by
  unfold Dev.candIn
  rw [route_of_plinth h]
theorem Dev.edgeGroup_of_plinth {e : Dev} (h : e.plinth = d.plinth) (q : QueueId) (g : BitVec 2) : e.edgeGroup q g = d.edgeGroup q g := by
  unfold Dev.edgeGroup Dev.refGroups
  rw [route_of_plinth h]
/-- A read of a queue changes no region, channel or ring: what refuses a burst stays. -/
theorem Dev.causeFor_seqRead (q : QueueId) (r : BitVec 10) (who : Requester) (p : PartId) (a : Nat) (write : Bool) :
    (d.seqRead q r).causeFor who p a write = d.causeFor who p a write := by
  have hs := d.standing_seqRead q r
  have hdie : (d.seqRead q r).die1 = d.die1 := die1_of_base (base_of_standing hs)
  have hregions : ((d.seqRead q r).part p).regions = (d.part p).regions := regions_of_ground (ground_of_standing hs) p
  unfold Dev.causeFor Dev.burstCause Dev.regionOk Dev.chan Dev.ring
  rw [hdie, hregions, d.chans_seqRead q r, d.rings_seqRead q r]
end

/-- A data word in a slot is one of its tile. -/
theorem Dev.candWord_data {d : Dev} {q : QueueId} {w : QWord} (hkind : w.kind = .data) :
    d.candWord q w = if (d.candIn q).left = 0 then d.candTag q w else d.candData q w := by
  simp [Dev.candWord, QWord.isStart, hkind]

theorem candidateTile_dataClause (s : State) (q : QueueId) (r : BitVec 10) (w : QWord) (x : CandIn) (a : Nat)
    (hcand : s.dev.refGroups.any (fun e => e.2.img.cands.contains q) = true) (hpeek : s.dev.peek q r = .word w) (hkind : w.kind = .data)
    (hx : x = s.dev.candIn q) (hleft : 0 < x.left) (haddr : x.addr = some a) (ha : a % 512 = 0) (hheld : x.held.length < 64)
    (hstop : x.left = 1 ∨ (s.dev.seqRead q r).peek q r = .empty) :
    ∃ t, exec (.candidateTileWrite q r) s = .next t ∧ (t.dev.candIn q).left = x.left - 1 ∧ t.dev.route.free = s.dev.route.free ∧
      (x.held.length < 63 → (t.dev.candIn q).held = x.held ++ [w.payload] ∧ t.dev.psram = s.dev.psram) ∧
      (x.held.length = 63 → s.dev.causeFor .route (partOfQueue q) a true = none → (locate s.dev.die1 a).isSome = true →
        (t.dev.candIn q).held = [] ∧ (t.dev.candIn q).addr = some (a + 512) ∧
        t.dev.readBytes a 512 = (x.held ++ [w.payload]).flatMap bytes64) ∧
      (x.left = 1 → ∀ c ∈ t.dev.route.cands, c.bin = x.bin → (x.group, x.tile) ∈ c.tiles) := by
  have hplinth := s.dev.plinth_seqRead q r
  have hroute := route_of_plinth hplinth
  have hin : (s.dev.seqRead q r).candIn q = x := (Dev.candIn_of_plinth hplinth q).trans hx.symm
  have hword : (s.dev.seqRead q r).candWord q w = (s.dev.seqRead q r).candData q w := by
    rw [Dev.candWord_data hkind, hin, if_neg (by omega)]
  have hdata := (s.dev.seqRead q r).candData_eq q hin haddr w
  generalize hburst : (if x.held.length = 63 then (s.dev.seqRead q r).candBurst q x.bin a (x.held ++ [w.payload])
    else s.dev.seqRead q r) = e at hdata
  have he : e.route.candIn = (s.dev.seqRead q r).route.candIn ∧ e.route.free = (s.dev.seqRead q r).route.free ∧
      ∀ (q' : QueueId) (r' : BitVec 10), e.peek q' r' = (s.dev.seqRead q r).peek q' r' := by
    rw [← hburst]
    split
    · exact Dev.candBurst_frame ..
    · exact ⟨rfl, rfl, fun _ _ => rfl⟩
  obtain ⟨hein, hefree, hepeek⟩ := he
  obtain ⟨hdin, hdfree, hdpsram, hddie, hdpeek⟩ := e.candTileDone_frame x
  have hnext : ((s.dev.seqRead q r).candData q w).candIn q = x.took w.payload x := by
    have hold : (e.candTileDone x).candIn q = x := by
      unfold Dev.candIn at hin ⊢
      rw [hdin, hein, hin]
    rw [hdata, Dev.candIn_modCandIn, hold]
  have hrun : candidateTile q r s.dev = (s.dev.seqRead q r).candData q w := by
    rw [← hword]
    refine candidateTile_word hcand hpeek hkind ?_
    rw [hword]
    obtain hone | hempty := hstop
    · exact .inl (by rw [hnext, CandIn.took, hone])
    · refine .inr ?_
      rw [hdata]
      exact (hdpeek q r).trans ((hepeek q r).trans hempty)
  refine ⟨{ s with dev := candidateTile q r s.dev }, rfl, ?_⟩
  dsimp only
  rw [hrun, hnext]
  refine ⟨rfl, ?_, fun hlen => ⟨if_neg (by omega), ?_⟩, fun hlen hcause hstored => ⟨if_pos hlen, by simp [CandIn.took, haddr, hlen], ?_⟩,
    fun hone => ?_⟩
  · rw [hdata]
    exact hdfree.trans (hefree.trans (congrArg Route.free hroute))
  · rw [hdata]
    rw [if_neg (by omega)] at hburst
    exact hdpsram.trans (hburst ▸ s.dev.psram_seqRead q r)
  · rw [if_pos hlen] at hburst
    have hdie : (s.dev.seqRead q r).die1 = s.dev.die1 := die1_of_base (base_of_standing (s.dev.standing_seqRead q r))
    have hwritten := Dev.readBytes_candBurst (b := x.bin) (ws := x.held ++ [w.payload])
      (Dev.causeFor_seqRead q r .route (partOfQueue q) a true ▸ hcause) (hdie ▸ hstored) ha (by simp [hlen])
    rw [hburst] at hwritten
    rw [hdata]
    have hdone := Dev.readBytes_of_psram (e := (e.candTileDone x).modCandIn q (x.took w.payload)) hdpsram hddie a 512
    rw [hdone, hwritten]
  · rw [hdata]
    exact fun c hc hbin => e.cands_candTileDone hone hc hbin

end Sys2Proof.Machine
end

section
/-! SUPPORT. The tag of a candidate tile: it opens its bin's candidate with a free block (R352, R353, R357). -/
namespace Sys2Proof.Machine

open Sys2Proof

/-- The bin that the tag of a candidate tile means for a group. -/
def tagBin (x : RefGroup) (w : QWord) : W32 := BitVec.ofInt 32 (fullBin x.lastFirst (w.payload.extractLsb' 32 14))

section
variable {d : Dev} {q : QueueId} {w : QWord} {g : BitVec 2} {x : RefGroup} {f : BitVec 25} {fs : List (BitVec 25)}
/-- A bin without a candidate takes the oldest free block. -/
theorem Dev.candBlock_opens (hcands : d.route.cands = []) (hfree : d.route.free = f :: fs) (b : W32) :
    d.candBlock b = (some f, d.modRoute (fun r => { r with free := fs, cands := r.cands ++ [{ bin := b, block := f }] })) := by
  simp [Dev.candBlock, hcands, hfree]

/-- The tag of a tile of an open pass opens its bin's candidate, and the writer goes on with the tile's words. -/
theorem Dev.candTag_opens (hkind : w.kind = .data) (hgroup : d.edgeGroup q (w.payload.extractLsb' 46 2) = some (g, x))
    (hstat : w.payload.extractLsb' 56 2 = 0#2) (hbin : 0 ≤ fullBin x.lastFirst (w.payload.extractLsb' 32 14))
    (htile : (w.payload.extractLsb' 48 8).toNat < x.img.tpb) (hen : d.route.en = true) (hopen : d.route.passOpen = true)
    (hcands : d.route.cands = []) (hfree : d.route.free = f :: fs) : ∃ (blend tainted : Bool) (a : Option Nat), d.candTag q w =
      ((d.modRoute (fun r => { r with free := fs, cands := r.cands ++ [{ bin := tagBin x w, block := f }] })).modRoute
        (fun r => r.modCand (tagBin x w) (fun c => { c with blend := c.blend || blend, tainted := c.tainted || tainted }))).modCandIn q
          (fun c => { c with left := 64 * x.img.tsize, addr := a, held := [], bin := tagBin x w, group := g,
                             tile := w.payload.extractLsb' 48 8 }) := by
  have hpass : (w.kind != .data || w.payload.extractLsb' 56 2 != 0#2 ||
      decide (fullBin x.lastFirst (w.payload.extractLsb' 32 14) < 0) || decide (x.img.tpb ≤ (w.payload.extractLsb' 48 8).toNat) ||
      !d.route.en || !d.route.passOpen) = false := by
    rw [decide_eq_false (Int.not_lt.2 hbin), decide_eq_false (Nat.not_le.2 htile), hkind, hstat, hen, hopen]
    rfl
  unfold Dev.candTag
  rw [hgroup]
  dsimp only
  rw [hpass, Dev.candBlock_opens hcands hfree]
  exact ⟨_, _, _, rfl⟩

theorem Dev.candTag_effect (hkind : w.kind = .data) (hgroup : d.edgeGroup q (w.payload.extractLsb' 46 2) = some (g, x))
    (hstat : w.payload.extractLsb' 56 2 = 0#2) (hbin : 0 ≤ fullBin x.lastFirst (w.payload.extractLsb' 32 14))
    (htile : (w.payload.extractLsb' 48 8).toNat < x.img.tpb) (hen : d.route.en = true) (hopen : d.route.passOpen = true)
    (hcands : d.route.cands = []) (hfree : d.route.free = f :: fs) :
    (∃ c, (d.candTag q w).route.cands = [c] ∧ c.block = f ∧ c.bin = tagBin x w ∧ c.tiles = []) ∧ (d.candTag q w).route.free = fs ∧
      ((d.candTag q w).candIn q).left = 64 * x.img.tsize ∧ ((d.candTag q w).candIn q).bin = tagBin x w ∧
      (d.candTag q w).psram = d.psram ∧ ∀ r, (d.candTag q w).peek q r = d.peek q r := by
  obtain ⟨blend, tainted, a, htag⟩ := Dev.candTag_opens hkind hgroup hstat hbin htile hen hopen hcands hfree
  rw [htag, Dev.candIn_modCandIn]
  refine ⟨⟨{ bin := tagBin x w, block := f, blend := false || blend, tainted := false || tainted }, ?_, rfl, rfl, rfl⟩,
    rfl, rfl, rfl, rfl, fun r => by rw [Dev.modCandIn, Dev.peek_modRoute, Dev.peek_modRoute, Dev.peek_modRoute]⟩
  simp [Dev.modCandIn, Dev.modRoute, Route.modCand, hcands]
end

theorem candidateTile_tagClause (s : State) (q : QueueId) (r : BitVec 10) (w : QWord) (g : BitVec 2) (x : RefGroup) (f : BitVec 25)
    (fs : List (BitVec 25)) (hcand : s.dev.refGroups.any (fun e => e.2.img.cands.contains q) = true) (hpeek : s.dev.peek q r = .word w)
    (hkind : w.kind = .data) (hleft : (s.dev.candIn q).left = 0)
    (hgroup : s.dev.edgeGroup q (w.payload.extractLsb' 46 2) = some (g, x)) (hstat : w.payload.extractLsb' 56 2 = 0#2)
    (hbin : 0 ≤ fullBin x.lastFirst (w.payload.extractLsb' 32 14)) (htile : (w.payload.extractLsb' 48 8).toNat < x.img.tpb)
    (hen : s.dev.route.en = true) (hopen : s.dev.route.passOpen = true) (hcands : s.dev.route.cands = [])
    (hfree : s.dev.route.free = f :: fs) (hempty : (s.dev.seqRead q r).peek q r = .empty) :
    ∃ t c, exec (.candidateTileWrite q r) s = .next t ∧ t.dev.route.cands = [c] ∧ t.dev.route.free = fs ∧ c.block = f ∧
      c.bin = tagBin x w ∧ c.tiles = [] ∧
      (t.dev.candIn q).left = 64 * x.img.tsize ∧ (t.dev.candIn q).bin = c.bin ∧ t.dev.psram = s.dev.psram := by
  have hplinth := s.dev.plinth_seqRead q r
  have hroute := route_of_plinth hplinth
  obtain ⟨⟨c, hone, hblock, hcbin, htiles⟩, hrest, hcount, hinbin, hpsram, hsame⟩ := Dev.candTag_effect (d := s.dev.seqRead q r) hkind
    ((Dev.edgeGroup_of_plinth hplinth q _).trans hgroup) hstat hbin htile (hroute ▸ hen) (hroute ▸ hopen) (hroute ▸ hcands) (hroute ▸ hfree)
  have hword : (s.dev.seqRead q r).candWord q w = (s.dev.seqRead q r).candTag q w := by
    rw [Dev.candWord_data hkind, Dev.candIn_of_plinth hplinth, if_pos hleft]
  have hrun : candidateTile q r s.dev = (s.dev.seqRead q r).candTag q w :=
    hword ▸ candidateTile_word hcand hpeek hkind (.inr (by rw [hword, hsame, hempty]))
  refine ⟨{ s with dev := candidateTile q r s.dev }, c, rfl, ?_⟩
  dsimp only
  rw [hrun]
  exact ⟨hone, hrest, hblock, hcbin, htiles, hcount, hinbin.trans hcbin.symm, hpsram.trans (s.dev.psram_seqRead q r)⟩

/-- Settles O27: an entry's fields lie apart, so a commit writes block and age and an older entry keeps its block; the writer stops
where its queue has no word, which neither a burst nor its fault changes. -/
theorem candidatesCommit : Obligations.CandidatesCommit := by
  unfold Obligations.CandidatesCommit
  exact ⟨fun s q r w g x f fs hcand hpeek hkind hleft hgroup hstat hbin htile _ hen hopen hcands hfree hempty =>
      candidateTile_tagClause s q r w g x f fs hcand hpeek hkind hleft hgroup hstat hbin htile hen hopen hcands hfree hempty,
    candidateTile_dataClause, candidateDue_clause, rteDecide_clause, rteDecide_nothingClause⟩

end Sys2Proof.Machine
end
